-- ==== Sys2Proof/Word.lean ====
section
/-!
DEFINITION. The word sizes of the Klodun (R4, R5): bytes, halves, words, doublewords and lane masks, with
their little-endian splitting. Bit 0 is the least significant bit everywhere.
-/

namespace Sys2Proof

/-- One byte. -/
abbrev Byte := BitVec 8

/-- A word of 32 bits (R5). -/
abbrev W32 := BitVec 32

/-- A doubleword of 64 bits (R5). -/
abbrev W64 := BitVec 64

/-- A lane mask: bit `i` belongs to lane `i` (R6). -/
abbrev Mask := BitVec 64

/-- Bit `i` of a lane mask. -/
abbrev Mask.has (m : Mask) (i : Nat) : Bool := m.getLsbD i

/-- The doubleword of a pair: the low word from the even register, the high word from the odd one (R5). -/
def pair64 (lo hi : W32) : W64 := hi ++ lo

/-- The low word of a doubleword. -/
def lo32 (x : W64) : W32 := x.extractLsb' 0 32

/-- The high word of a doubleword. -/
def hi32 (x : W64) : W32 := x.extractLsb' 32 32

/-- The `n` low bytes of a number, lowest address first (R5). -/
def toBytesLE : Nat → Nat → List Byte
  | 0, _ => []
  | n + 1, x => BitVec.ofNat 8 x :: toBytesLE n (x / 256)

/-- The number that bytes in ascending address order hold (R5). -/
def ofBytesLE : List Byte → Nat
  | [] => 0
  | b :: bs => b.toNat + 256 * ofBytesLE bs

/-- A bit field `[lo + w - 1 : lo]` of a number. -/
def bitsOf (x lo w : Nat) : Nat := (x >>> lo) % 2 ^ w

end Sys2Proof
end

