-- ==== Sys2Proof/Syntax.lean ====
section
/-!
DEFINITION. The instructions and events of the Klodun as syntax: register names (R35, R36), format tags (R13),
the fields of the forms L, I, M, B and P (R39 to R43, R50), the operands of the events of the outside world and of
the part's own units, and the ONE inductive `Instr` with a constructor for each row of the opcode table.
-/

namespace Sys2Proof

/-- The format tags and FMT codes of R13, in code order. -/
inductive Fmt where
  | b32 | s32 | n32 | f32 | f16x2 | bf16x2 | e4m3x4 | e5m2x4
  | s8x4 | n8x4 | s16x2 | n16x2 | s64 | n64 | f64 | q64
  deriving DecidableEq, Repr

/-- What a 10-bit register field names (R35, R36). `zero` is field 0x3FE (absent, or zero), `imm` is 0x3FF. -/
inductive Reg where
  | v (n : Fin 256)
  | s (n : Fin 64)
  | latch (n : Fin 4)
  | k (n : Fin 8)
  | qm (n : Fin 4)
  | qb (n : Fin 4)
  | ac (n : Fin 16)
  | t (n : Fin 8)
  | g (n : Fin 32)
  | zero
  | imm
  deriving DecidableEq, Repr

/-- The SPACE field of form M (R43); code 10 names nothing. -/
inductive Space where
  | generic | scratch | remote
  deriving DecidableEq, Repr

/-- The fields of form L, and of form I when `imm` holds the trailing word (R39). -/
structure LForm where
  sub  : BitVec 4
  pneg : Bool
  pred : Fin 8
  src2 : Reg
  src1 : Reg
  src0 : Reg
  dst  : Reg
  fmt  : Fmt
  nw   : Bool
  a    : Bool
  imm  : Option W32
  deriving DecidableEq, Repr

/-- The fields of form M; `off` is the signed offset word of the 12-byte form (R43). -/
structure MForm where
  off   : Option W32
  sub   : BitVec 4
  pneg  : Bool
  pred  : Fin 8
  space : Space
  brec  : BitVec 8
  index : Reg
  base  : Reg
  data  : Reg
  fmt   : Fmt
  nw    : Bool
  a     : Bool
  deriving DecidableEq, Repr

/-- The fields of form B; SUB is 0 in every row (R41, R58). -/
structure BForm where
  pneg   : Bool
  pred   : Fin 8
  offset : BitVec 24
  sig16  : BitVec 16
  u      : Bool
  deriving DecidableEq, Repr

/-- The fields of the repeat prefix P: COUNT (0 means 64), the STEP bits and STRIDE (R50). -/
structure RepPrefix where
  stride : BitVec 2
  step   : BitVec 4
  count  : BitVec 6
  deriving DecidableEq, Repr

/-- An issuing agent: warp `w` or the Leek thread of a resident group, by the group's name in the model. -/
inductive AgentId where
  | warp (group w : Nat)
  | leek (group : Nat)
  deriving DecidableEq, Repr

/-- A queue of a context: launch queue by priority, or edge queue (R298). -/
inductive QueueRef where
  | launch (p : Nat)
  | edge (e : Nat)
  deriving DecidableEq, Repr

/-- What the die scheduler considers: the head of a queue, or an offered gathered group (R300 to R302). -/
inductive PlaceSource where
  | queue (ctx : Nat) (q : QueueRef)
  | gathered (gather : Nat)
  deriving DecidableEq, Repr

/-- A barrier: group barrier gbN of a group, or span barrier sbN of a span (R198). -/
inductive BarId where
  | gb (group n : Nat)
  | sb (span n : Nat)
  deriving DecidableEq, Repr

/-- The operations of ATOM and VATOM (R63, R157). -/
inductive AtomOp where
  | add | min | max | and | or | xor | xchg | cas
  deriving DecidableEq, Repr

/-- What a remote request does at its owner (R157, R160, R406). A lane step carries its operand and, for CAS,
the swap value. -/
inductive RemoteOp where
  | load (fmt : Fmt) (apx : Bool)
  | touch (fmt : Fmt) (apx : Bool)
  | store (data : List Byte) (apx : Bool)
  | atom (op : AtomOp) (fmt : Fmt) (steps : List (W64 × W64)) (ovf : BitVec 2)
  | vatom (op : AtomOp) (fmt : Fmt) (steps : List (List W32)) (ovf : BitVec 2)
  deriving DecidableEq, Repr

/-- A remote request with its key (R160), watermark (R161) and epoch stamp (R407). `rsn` is absent on loads and
touches; `tag` is the requester's own name for the operation, returned by the answer. -/
structure RemoteRequest where
  requester : Byte
  ctx       : Nat
  gen       : BitVec 16
  rsn       : Option W32
  watermark : W32
  epoch     : W32
  ownerCtx  : Nat
  va        : W64
  op        : RemoteOp
  tag       : Nat
  deriving DecidableEq, Repr

/-- The completion statuses of R163. -/
inductive RemoteStatus where
  | ok | ownerFault | ownerRestarted | ownerFailed | remoteLost
  deriving DecidableEq, Repr

/-- An answer or a refusal from an owner module, with its partition's epoch (R407) and one value a lane step (R362). `bad`
is the source of an uncorrectable error in loaded data (R401). -/
structure RemoteAnswer where
  owner  : Byte
  ctx    : Nat
  gen    : BitVec 16
  tag    : Nat
  part   : Nat
  epoch  : W32
  status : RemoteStatus
  values : List W64
  bad    : Option Nat
  deriving DecidableEq, Repr

/-- A keepalive of a requester context with its watermark (R162). -/
structure KeepAlive where
  requester : Byte
  ctx       : Nat
  gen       : BitVec 16
  watermark : W32
  ownerCtx  : Nat
  deriving DecidableEq, Repr

/-- A keepalive acknowledgement (R161, R407). -/
structure KeepAliveAck where
  owner     : Byte
  ctx       : Nat
  gen       : BitVec 16
  part      : Nat
  epoch     : W32
  watermark : W32
  deriving DecidableEq, Repr

/-- How bring-up fails in stages 0 to 2 (R378). -/
structure BringUpFailure where
  stage  : BitVec 3
  code   : Byte
  detail : BitVec 16
  deriving DecidableEq, Repr

/-- This module's side of a power loan (R404). -/
inductive LoanSide where
  | lender | borrower
  deriving DecidableEq, Repr

/-- A tile, operand latch or accumulator slot of the matrix unit, which carry check bits (R224, R405). -/
inductive MatPlace where
  | tile (n : Fin 8)
  | latch (n : Fin 2)
  | slot (n : Fin 16)
  deriving DecidableEq, Repr

/-- A check granule of the matrix unit: 32 bits of a tile, an operand latch or a slot (R405). -/
structure MatGranule where
  place   : MatPlace
  granule : Nat
  deriving DecidableEq, Repr

/-- A write of FWGO: its value, and whether the host link delivers the image (R378, R381). -/
structure FwgoWrite where
  value    : W64
  readable : Bool
  deriving DecidableEq, Repr

/-- A place in one of the two windows through which the host reaches the module: its registers and the apertures of contexts
(R379, R380). -/
inductive HostAddr where
  | hwA (offset : Nat)
  | hwB (offset : Nat)
  deriving DecidableEq, Repr

/-- What becomes of a power loan: its name, and whether it is renewed (R404). -/
structure LoanTurn where
  loan    : Nat
  renewed : Bool
  deriving DecidableEq, Repr

/-- Where a soft error falls and what it does (R401, R402, R405). `corrected` changes only a counter. `sram`, `line`,
`cached` and `fifo` mark a check granule uncorrectable: of a precise SRAM bank, of a precise page's line by its address in a
context (source 3 to 5), of a cluster's copy of such a line (source 2), of a FIFO slot. `vreg`, `sreg`, `modulus`, `latch` and
`leek` mark registers, and `crossbar` the next operand that a lane reads. The others change a byte or a value undetected: of an
approximate SRAM bank, of an approximate page's line, of a register, mask bit or latch that the datapaths or the conversion stage
wrote, of an accumulator slot that the array wrote, of a sector inside the copy engine, and of memory, or of a speculating warp's
store buffer, that the last converting store, atomic or drain wrote. -/
inductive SoftError where
  | corrected (source : Nat)
  | sram (loc : Nat)
  | line (source ctx : Nat) (va : W64)
  | cached (cluster ctx : Nat) (va : W64)
  | fifo (group block slot granule : Nat)
  | vreg (group w n lane : Nat)
  | sreg (group w n : Nat)
  | modulus (group w n lane : Nat) (barrett high : Bool)
  | latch (group w n lane : Nat)
  | crossbar (group w lane : Nat)
  | leek (group : Nat) (granule : MatGranule)
  | bank (loc : Nat) (value : Byte)
  | apxLine (ctx : Nat) (va : W64) (value : Byte)
  | result (group w n lane : Nat) (value : W32)
  | uniform (group w n : Nat) (value : W32)
  | mask (group w n : Nat) (value : Mask)
  | modulusValue (group w n lane : Nat) (barrett : Bool) (value : W64)
  | latched (group w n lane : Nat) (value : W64)
  | general (group n : Nat) (value : W64)
  | predicate (group n : Nat) (value : Bool)
  | stored (place : Nat) (value : Byte)
  | buffered (group w entry byte : Nat) (value : Byte)
  | array (cluster slot byte : Nat) (value : Byte)
  | copyData (copy byte : Nat) (value : Byte)
  deriving DecidableEq, Repr

/-- The instructions and events of the part, one constructor for each row of spec/opcode_table.json. -/
inductive Instr where
  /-- NOP (R187). Long-form no-operation that has no effect and ignores its predicate. -/
  | nop (f : LForm)
  /-- NOP_SHORT (R187). Short-form no-operation word with every payload field zero. -/
  | nopShort
  /-- BRA (R179). Form-B relative branch that is taken, not taken or divergent from the predicate over live lanes, pushing a path entry when it diverges. -/
  | bra (f : BForm)
  /-- BRA_SHORT (R179). Short-form relative branch with an 18-bit word offset and SIG16 of zero. -/
  | braShort (off : BitVec 18) (pneg : Bool) (pred : Fin 8)
  /-- BRX (R180). Uniform indirect branch to the address held in a scalar pair or g register. -/
  | brx (f : LForm)
  /-- CALL (R180). Uniform relative call that writes the return address to the link pair or g31 and redirects fetch. -/
  | call (f : BForm)
  /-- CALLX (R180). Uniform indirect call through a scalar pair that writes the link. -/
  | callx (f : LForm)
  /-- RET (R180). Uniform return to the address held in s14:s15, or in g31 on the Leek core. -/
  | ret (f : BForm)
  /-- MARK (R182). Pushes a rejoin entry holding the target and the current EXEC onto the join stack. -/
  | mark (f : BForm)
  /-- MARK_SHORT (R182). Short-form MARK with an 18-bit word offset. -/
  | markShort (off : BitVec 18)
  /-- JOIN (R183). Pops the top join-stack entry, restores EXEC from it and moves the program counter to its address. -/
  | join (f : BForm)
  /-- JOIN_SHORT (R183). Short-form JOIN with every payload field zero. -/
  | joinShort
  /-- EXIT (R184). Ends the lanes of its condition, removes them from every join-stack mask, pops entries while no live lane remains, and ends the warp when the stack is empty. -/
  | exit (f : BForm)
  /-- EXIT_SHORT (R184). Short-form EXIT with a zero offset. -/
  | exitShort (pneg : Bool) (pred : Fin 8)
  /-- BLKEND (R187). Makes only the signature check of its SIG16. -/
  | blkend (f : BForm)
  /-- GETX (R188). Writes EXEC into a k register or a scalar pair. -/
  | getx (f : LForm)
  /-- SETX (R188). Sets EXEC from a k register, a scalar pair or zero. -/
  | setx (f : LForm)
  /-- BRK (R189). Halts the issuing warp after completion when a debugger is attached, and otherwise acts as NOP. -/
  | brk (f : LForm)
  /-- SPIN (R190). Gives the warp spinning status for 256 x c slice cycles. -/
  | spin (f : LForm)
  /-- SLEEP (R191). Makes the warp not ready for d cluster cycles. -/
  | sleep (f : LForm)
  /-- SHFL (R193). Moves each executing lane's value from a partner lane that the mode chooses. -/
  | shfl (f : LForm)
  /-- VOTE (R194). Computes ALL, ANY, UNI or BALLOT over a k register across the effective lanes. -/
  | vote (f : LForm)
  /-- REDLOG (R195). Reduces the present lanes in a fixed tree and writes the common value. -/
  | redlog (f : LForm)
  /-- SCANLOG (R195). Computes the inclusive prefix of each lane over the fixed tree. -/
  | scanlog (f : LForm)
  /-- MATCH (R196). Writes to each lane the mask of the effective lanes whose source bits equal its own. -/
  | matchLanes (f : LForm)
  /-- ADD (R93). Long-form or immediate-form integer add, with wrap-around or saturation. -/
  | add (f : LForm)
  /-- ADD_SHORT (R93). Short-form ADD.S32 with wrap-around of a vector register and a signed 6-bit immediate. -/
  | addShort (imm : BitVec 6) (a d : Fin 256)
  /-- SUB (R93). Integer subtract, with wrap-around or saturation. -/
  | sub (f : LForm)
  /-- ADDC (R94). Adds with carry in from a k register and writes the carry out back to it. -/
  | addc (f : LForm)
  /-- MUL (R95). Writes the low half of the exact product. -/
  | mul (f : LForm)
  /-- MULH (R95). Writes the high half of the exact product in the format's signedness. -/
  | mulh (f : LForm)
  /-- MAD (R95). Multiplies and adds modulo the element width. -/
  | mad (f : LForm)
  /-- MADW (R96). Multiplies two 32-bit operands and adds a 64-bit one. -/
  | madw (f : LForm)
  /-- MIN (R97). Returns the smaller integer element. -/
  | min (f : LForm)
  /-- MAX (R97). Returns the larger integer element. -/
  | max (f : LForm)
  /-- ABS (R97). Writes the integer absolute value, with wrap-around or saturation. -/
  | abs (f : LForm)
  /-- NEG (R97). Writes the integer negation, with wrap-around or saturation. -/
  | neg (f : LForm)
  /-- AND (R98). Bitwise AND. -/
  | and (f : LForm)
  /-- OR (R98). Bitwise OR. -/
  | or (f : LForm)
  /-- XOR (R98). Bitwise XOR. -/
  | xor (f : LForm)
  /-- NOT (R98). Bitwise complement. -/
  | not (f : LForm)
  /-- ANDN (R98). Computes a and not b. -/
  | andn (f : LForm)
  /-- SHL (R99). Shifts left with a per-element count, giving 0 at or beyond the width. -/
  | shl (f : LForm)
  /-- SHR (R99). Shifts right logically. -/
  | shr (f : LForm)
  /-- SAR (R99). Shifts right arithmetically. -/
  | sar (f : LForm)
  /-- ROT (R99). Rotates left by n mod w. -/
  | rot (f : LForm)
  /-- BFX (R100). Extracts a bit field, sign-extending it under a signed format. -/
  | bfx (f : LForm)
  /-- BFI (R100). Inserts a bit field into base. -/
  | bfi (f : LForm)
  /-- CLZ (R101). Counts the leading zero bits of each element. -/
  | clz (f : LForm)
  /-- FFS (R101). Writes the index of the lowest set bit of each element. -/
  | ffs (f : LForm)
  /-- POPC (R101). Counts the set bits of each element. -/
  | popc (f : LForm)
  /-- BREV (R101). Reverses the bits of each element. -/
  | brev (f : LForm)
  /-- BYTEP (R102). Builds each destination byte from a selected byte of a and b, optionally sign-replicated. -/
  | bytep (f : LForm)
  /-- CMP (R103). Integer compare that writes a mask bit per lane when the relation holds for every element. -/
  | cmp (f : LForm)
  /-- SEL (R104). Selects a or b per lane by a k register. -/
  | sel (f : LForm)
  /-- PLOG (R105). Computes each mask bit from two k registers through the truth table held in SUB. -/
  | plog (f : LForm)
  /-- MOV (R106). Long-form bit-for-bit copy that carries the source tag, with an approximate form. -/
  | mov (f : LForm)
  /-- MOV_SHORT (R106). Short-form copy of one 32-bit vector register. -/
  | movShort (a d : Fin 256)
  /-- MOVI (R107). Writes the trailing word, widened to FMT, and tags the destination FMT. -/
  | movi (f : LForm)
  /-- LEA (R108). Computes a 64-bit address as base plus an extended index shifted left by SUB. -/
  | lea (f : LForm)
  /-- MOVS (R109). Reads a special register, sampled at issue. -/
  | movs (f : LForm)
  /-- FADD (R114). Floating add with one rounding. -/
  | fadd (f : LForm)
  /-- FSUB (R114). Floating subtract with one rounding. -/
  | fsub (f : LForm)
  /-- FMUL (R114). Floating multiply with one rounding. -/
  | fmul (f : LForm)
  /-- FMA (R114). Fused multiply-add with a single rounding. -/
  | fma (f : LForm)
  /-- FMIN (R115). Returns the lesser floating element, giving canonical NaN on any NaN operand. -/
  | fmin (f : LForm)
  /-- FMAX (R115). Returns the greater floating element, giving canonical NaN on any NaN operand. -/
  | fmax (f : LForm)
  /-- FSGN (R116). Clears, inverts or copies the sign bit. -/
  | fsgn (f : LForm)
  /-- FCMP (R117). Floating compare that writes a mask bit per lane. -/
  | fcmp (f : LForm)
  /-- FCLASS (R118). Writes a one-hot class mask for each element. -/
  | fclass (f : LForm)
  /-- RCP (R119). Writes the correctly rounded reciprocal. -/
  | rcp (f : LForm)
  /-- RSQ (R119). Writes the correctly rounded reciprocal square root. -/
  | rsq (f : LForm)
  /-- SQRT (R119). Writes the square root rounded under rm. -/
  | sqrt (f : LForm)
  /-- EXP2 (R120). Writes 2 to the power a within the stated accuracy. -/
  | exp2 (f : LForm)
  /-- LOG2 (R120). Writes the base-2 logarithm within the stated accuracy. -/
  | log2 (f : LForm)
  /-- SIN (R119). Writes the sine of an argument in half-turns. -/
  | sin (f : LForm)
  /-- COS (R119). Writes the cosine of an argument in half-turns. -/
  | cos (f : LForm)
  /-- CVT (R121). Converts a stream of source elements into the destination format. -/
  | cvt (f : LForm)
  /-- QUANT (R123). Block-quantises lanes into FP8 with one power-of-two scale per block of G lanes. -/
  | quant (f : LForm)
  /-- SCALEB (R124). Computes a x 2^n with a single rounding. -/
  | scaleb (f : LForm)
  /-- FRND (R125). Rounds each element to an integral value in its own format. -/
  | frnd (f : LForm)
  /-- ENDORSE (R126). Copies an approximate or precise value bit for bit into a precise register. -/
  | endorse (f : LForm)
  /-- TAGSET (R127). Copies its source and gives the destination a uniform tag. -/
  | tagset (f : LForm)
  /-- TAGGET (R128). Writes a register's format tag. -/
  | tagget (f : LForm)
  /-- RAND (R129). Advances each lane's xorshift64* state once and delivers a value from the new state. -/
  | rand (f : LForm)
  /-- QSET (R136). Loads a modulus and its Barrett constant into qmN and qbN. -/
  | qset (f : LForm)
  /-- QMUL (R138). Modular multiply through Barrett reduction. -/
  | qmul (f : LForm)
  /-- QMAC (R138). Modular multiply-accumulate. -/
  | qmac (f : LForm)
  /-- QADD (R139). Modular add with one conditional correction. -/
  | qadd (f : LForm)
  /-- QSUB (R139). Modular subtract with one conditional correction. -/
  | qsub (f : LForm)
  /-- QNEG (R139). Modular negation. -/
  | qneg (f : LForm)
  /-- QRED (R140). Reduces an N64 value exactly modulo q into Q64. -/
  | qred (f : LForm)
  /-- QBFCT (R141). In-place Cooley-Tukey butterfly. -/
  | qbfct (f : LForm)
  /-- QBFGS (R141). In-place Gentleman-Sande butterfly. -/
  | qbfgs (f : LForm)
  /-- QSHOUP (R138). Shoup modular multiply using a precomputed companion. -/
  | qshoup (f : LForm)
  /-- NPERM (R143). Exchanges data between two registers across lanes at distance WARPW >> n. -/
  | nperm (f : LForm)
  /-- LBREV (R144). Reverses lane indices within spans of m lanes. -/
  | lbrev (f : LForm)
  /-- LD (R151). Per-lane load from generic, scratch or remote space, or a touch under NW. -/
  | ld (f : MForm)
  /-- ST (R151). Per-lane store, posted when remote. -/
  | st (f : MForm)
  /-- LDS (R151). Scratch load whose index is scaled by the access size. -/
  | lds (f : MForm)
  /-- STS (R151). Scratch store whose index is scaled by the access size. -/
  | sts (f : MForm)
  /-- LDB (R154). Buffer-record load through the conversion stage. -/
  | ldb (f : MForm)
  /-- STB (R154). Buffer-record store through the conversion stage. -/
  | stb (f : MForm)
  /-- LDU (R152). Uniform load into a scalar or g register. -/
  | ldu (f : MForm)
  /-- STU (R152). Uniform store from a scalar or g register. -/
  | stu (f : MForm)
  /-- ATOM (R157). Per-lane atomic step at the home slice or scratch bank, with same-address lanes merged. -/
  | atom (f : MForm)
  /-- VATOM (R159). Posted elementwise atomic on 32 aligned bytes per lane. -/
  | vatom (f : MForm)
  /-- ACOPY (R166). Checks, then starts an asynchronous DIRECT or SHADOW block copy. -/
  | acopy (f : MForm)
  /-- PUBLISH (R170). Waits for earlier SHADOW copies into the window, then swaps its two backings as one event. -/
  | publish (f : MForm)
  /-- WINSET (R169). Binds or unbinds a context publish window. -/
  | winset (f : MForm)
  /-- PREF (R171). Moves each lane's line towards the cluster cache. -/
  | pref (f : MForm)
  /-- OWN (R171). Asks the memory-side cache to keep a range private to the cluster. -/
  | own (f : MForm)
  /-- WAITR (R164). Waits for every remote operation of the warp, then writes and clears the completion status. -/
  | waitr (f : MForm)
  /-- BANKSET (R172). Sets the mode of the bank that a scratch block maps to, after draining the bank. -/
  | bankset (f : MForm)
  /-- FPUSH (R173). Pushes one or two 256-byte slots into a FIFO block, waiting for room. -/
  | fpush (f : MForm)
  /-- FPOP (R173). Pops the oldest FIFO slot into a register, waiting for data. -/
  | fpop (f : MForm)
  /-- ISYNC (R174). Discards the warp's fetched instruction bytes. -/
  | isync (f : MForm)
  /-- BARARR (R203). Arrives at the current phase of a barrier. -/
  | bararr (f : LForm)
  /-- BARWAIT (R203). Waits for the phase of the member's latest arrival, or speculates past it under .S. -/
  | barwait (f : LForm)
  /-- BARSYNC (R203). Arrives and then waits, optionally speculatively. -/
  | barsync (f : LForm)
  /-- BARWAITT (R204). Waits for a phase with a cycle limit and reports completed, timed out or debug-blocked. -/
  | barwaitt (f : LForm)
  /-- BAREXP (R205). Adds an expected byte count to the current phase of a group barrier. -/
  | barexp (f : LForm)
  /-- BARSTAT (R207). Writes a 64-bit snapshot of a barrier item. -/
  | barstat (f : LForm)
  /-- EMIT (R217). Checks pods and enqueues them into launch or edge queues, blocking or non-blocking. -/
  | emit (f : LForm)
  /-- JOINDEC (R218). Atomically decrements a join counter and releases its continuation when the count reaches zero. -/
  | joindec (f : LForm)
  /-- EVPOP (R219). Removes the group's oldest event record and writes it. -/
  | evpop (f : LForm)
  /-- EVWAIT (R219). Waits until the group holds at least m event records. -/
  | evwait (f : LForm)
  /-- CLOCK (R220). Writes the 64-bit cluster-cycle counter. -/
  | clock (f : LForm)
  /-- QSTAT (R220). Reads a queue's free-slot counter and capacity. -/
  | qstat (f : LForm)
  /-- TLD (R229). Queues a copy of 128 scratch columns into a tile register and sets its tag. -/
  | tld (f : LForm)
  /-- AGATH (R230). Gathers 128 indexed scratch rows into an A latch. -/
  | agath (f : LForm)
  /-- MMA (R232). Queues one K-step multiply-accumulate of an A latch and a tile into an accumulator. -/
  | mma (f : LForm)
  /-- MMAS (R233). Queues a block-scaled FP8 multiply-accumulate with row and tile scales. -/
  | mmas (f : LForm)
  /-- ACZ (R235). Allocates an accumulator slot if needed and zeroes it with type none. -/
  | acz (f : LForm)
  /-- ACDRN (R236). Writes an accumulator slot row by row into scratch. -/
  | acdrn (f : LForm)
  /-- ACREL (R237). Unbinds an accumulator name and frees its slot at completion. -/
  | acrel (f : LForm)
  /-- ACSTAT (R238). Samples an accumulator name and the cluster's slots into a status word. -/
  | acstat (f : LForm)
  /-- MMWAIT (R239). Waits until every matrix operation of the thread has completed. -/
  | mmwait (f : LForm)
  /-- LKEXIT (R240). Waits for matrix operations, then ends the Leek thread and releases its slots. -/
  | lkexit (f : LForm)
  /-- TRAP (R247). Raises a program fault of cause 0x10 when its effective mask is nonzero. -/
  | trap (f : LForm)
  /-- TRET (R248). Leaves trap mode and resumes at TPC, or at the recorded repeat iteration. -/
  | tret (f : LForm)
  /-- MOVSR (R251). Writes a writable special register. -/
  | movsr (f : LForm)
  /-- OVFLD (R252). Writes the context's overflow table in trap mode. -/
  | ovfld (f : LForm)
  /-- RAILSET (R253). Sets the group's requested low-rail level, waiting for the rail to settle when the level is lowered. -/
  | railset (f : LForm)
  /-- SIGSEED (R254). Sets the warp's signature seed and SIGW. -/
  | sigseed (f : LForm)
  /-- TLBINV (R255). Invalidates the context's translations across the partition. -/
  | tlbinv (f : LForm)
  /-- WDSET (R256). Sets the context's barrier-watchdog limit and, optionally, its diagnostic buffer. -/
  | wdset (f : LForm)
  /-- PERFRD (R257). Reads a 64-bit context performance counter. -/
  | perfrd (f : LForm)
  /-- HALT (R249). Terminates the context from trap mode with a record of kind 0x04. -/
  | halt (f : LForm)
  /-- REP (R52). Repeat prefix that runs the following instruction COUNT times with stepped register fields. -/
  | rep (p : RepPrefix)
  /-- COPY_SECTOR (R167). The copy engine reads one source sector and writes its destination sector, in ascending order. -/
  | copySector (copy : Nat)
  /-- COPY_COMPLETE (R168). After the last sector, the copy posts its event record and delivers its byte count to the barrier. -/
  | copyComplete (copy : Nat)
  /-- MATRIX_OP_START (R225). A queued matrix operation starts on the load path, array or slot once its dependencies and resource allow. -/
  | matrixOpStart (group : Nat)
  /-- MATRIX_OP_COMPLETE (R226). A matrix operation finishes its cycles and frees its resource and dependants. -/
  | matrixOpComplete (group op : Nat)
  /-- GATHER_TAKE (R300). The gatherer takes a thread pod into the open group of its key, offering the group when it is full. -/
  | gatherTake (ctx : Nat) (q : QueueRef)
  /-- GATHER_OFFER (R300). Four microseconds after its first pod, an open gathered group is offered for placement. -/
  | gatherOffer (gather : Nat)
  /-- GROUP_PLACE (R301). The die scheduler takes a head pod, checks it and its descriptor, and places its group with registers, slots and scratch. -/
  | groupPlace (src : PlaceSource)
  /-- SPAN_WAIT_LIMIT (R302). Once a span has waited 1 ms, no group of equal or lower priority is placed in its partition. -/
  | spanWaitLimit (pod : Nat)
  /-- GROUP_END (R306). After its warps and Leek thread end and its copies finish, a group frees its resources and applies its counter end event. -/
  | groupEnd (group : Nat)
  /-- CONTINUATION_ENQUEUE (R218). The counter's home slice enqueues the released continuation pod once its queue has room. -/
  | continuationEnqueue (held : Nat)
  /-- RESTART_GROUP (R308). A one-warp restart group is launched for a killed lane of a restartable kernel. -/
  | restartGroup (request : Nat)
  /-- LIMITER_ADMIT (R311). Each limiter interval admits one waiting cluster after a span-barrier completion. -/
  | limiterAdmit
  /-- SPIN_END (R190). A warp's spinning status lapses after 256 x c slice cycles. -/
  | spinEnd (group warp : Nat)
  /-- SLEEP_END (R191). A sleeping warp becomes ready after d cluster cycles. -/
  | sleepEnd (group warp : Nat)
  /-- BARWAITT_TIMEOUT (R204). The BARWAITT limit expires and the wait returns timed out. -/
  | barwaittTimeout (agent : AgentId)
  /-- BARTIMEOUT (R307). A barrier watchdog reaches its limit; the diagnostic record is written and the context is terminated. -/
  | bartimeout (bar : BarId)
  /-- REMOTE_REQUEST (R163). The owner receives a remote request and executes it in RSN order, answers it from the result cache, refuses it, or discards it by generation or epoch. -/
  | remoteRequest (r : RemoteRequest)
  /-- REMOTE_ANSWER (R161). The requester receives an answer, completes the operation, retires RSNs and learns the owner epoch. -/
  | remoteAnswer (a : RemoteAnswer)
  /-- REMOTE_REFUSAL (R161). The requester receives a refusal for a full result cache. -/
  | remoteRefusal (a : RemoteAnswer)
  /-- REFUSAL_RESEND (R161). Eight microseconds after a refusal, the refused try is resent. -/
  | refusalResend (op : Nat)
  /-- RETRANSMISSION (R161). An unanswered remote operation is retransmitted at the next doubling interval. -/
  | retransmission (op : Nat)
  /-- REMOTE_LOST (R161). An operation still unanswered 64 micros after its 16th try completes with REMOTE_LOST. -/
  | remoteLost (op : Nat)
  /-- OWNER_FAILED (R161). After 200 micros of owner silence, every outstanding operation to that owner completes with OWNER_FAILED. -/
  | ownerFailed (owner : Byte)
  /-- KEEPALIVE (R162). Every 10 micros the requester sends a keepalive carrying its watermark to an owner with unacknowledged RSNs. -/
  | keepalive (ctx : Nat) (owner : Byte)
  /-- KEEPALIVE_RECEIVE (R162). The owner takes a keepalive, discards entries below the watermark or of older generations, and acknowledges it. -/
  | keepaliveReceive (k : KeepAlive)
  /-- KEEPALIVE_ACK (R162). The requester receives a keepalive acknowledgement carrying the owner epoch. -/
  | keepaliveAck (a : KeepAliveAck)
  /-- RESULT_CACHE_EXPIRY (R162). The owner discards a requester context's entries after 1 ms with no request or keepalive from it. -/
  | resultCacheExpiry (requester : Byte) (ctx : Nat)
  /-- FUNDAMENTAL_RESET (R377). Power-on or fundamental reset runs calibration, training and zeroing, then awaits a firmware image. -/
  | fundamentalReset (failure : Option BringUpFailure)
  /-- FWGO (R377). The host's write starts image verification and configuration, ending in READY or a failure. -/
  | fwgo (value : FwgoWrite)
  /-- REGISTER_WRITE (R379). A host write to an HW-A register with no behaviour of its own, discarded when reserved. -/
  | registerWrite (offset : Nat) (value : W64)
  /-- DOORBELL (R387). A doorbell write advances a queue's TAIL and FREE as one event, or is discarded with a record. -/
  | doorbell (ctx offset : Nat) (tail : W64)
  /-- HOST_WRITE (R380). A host write through an HW-B aperture becomes sector events in the context, or is discarded with a record. -/
  | hostWrite (offset : Nat) (data : List Byte)
  /-- HOST_READ (R380). A host read through an HW-B aperture becomes sector read events, or returns all ones; one of an HW-A register
  is one event (R337, R400). -/
  | hostRead (offset : HostAddr) (size : Nat)
  /-- PTRADE_WRITE (R404). A write to PTRADE enables trading or, when EN is cleared, recalls and returns every loan. -/
  | ptradeWrite (value : W64)
  /-- PART_CREATE (R388). Creates a partition from free quarters with its shares and APXST. -/
  | partCreate
  /-- PART_RESIZE_PREPARE (R389). Stops placement on the leaving quarters until their groups have ended. -/
  | partResizePrepare
  /-- PREPARE_COMPLETE (R389). PREPARE completes OK when no group remains on the leaving quarters. -/
  | prepareComplete (part : Nat)
  /-- RESIZE_DEADLINE (R389). At the PREPARE deadline, contexts still on the leaving quarters are reset and the command completes with DEADLINE. -/
  | resizeDeadline (part : Nat)
  /-- PART_RESIZE_COMMIT (R389). Holds accesses, writes back, zeroes the leaving quarters, adds the joining ones and releases the accesses. -/
  | partResizeCommit
  /-- PART_RESET (R390). Resets every context, zeroes the partition's memory and starts a new owner epoch. -/
  | partReset
  /-- PART_DESTROY (R388). Resets the partition as PART_RESET does and frees its quarters. -/
  | partDestroy
  /-- PART_SETAPX (R388). Sets the partition's APXST while no group is resident. -/
  | partSetapx
  /-- CTX_CREATE (R391). Reads a context descriptor and starts the context with a new generation number. -/
  | ctxCreate
  /-- CTX_DRAIN (R394). Starts a drain of the context and its deadline timer. -/
  | ctxDrain
  /-- DRAIN_COMPLETE (R394). When the context is idle, the drain completes OK and the requester state is saved. -/
  | drainComplete (ctx : Nat)
  /-- DRAIN_DEADLINE (R394). At the drain deadline, the context is forcibly reset and the command completes with DEADLINE. -/
  | drainDeadline (ctx : Nat)
  /-- CTX_RESUME (R388). Ends a drain, reloads the requester state and resumes placement. -/
  | ctxResume
  /-- CTX_RESET (R388). Forcibly resets the context, advances its generation, empties its queues and leaves it running. -/
  | ctxReset
  /-- CTX_DESTROY (R388). Forcibly resets the context and frees its number. -/
  | ctxDestroy
  /-- CTX_TLBINV (R393). Invalidates translations across the partition, holding newly permitted stores until every cluster acknowledges. -/
  | ctxTlbinv
  /-- CTX_REPLAY (R388). Every agent waiting on the page fetches or accesses again. -/
  | ctxReplay
  /-- CTX_FAULTFAIL (R388). Every agent waiting on the page takes PERM at its stop. -/
  | ctxFaultfail
  /-- CTX_DEBUG_HALT (R395). Halts the named warp as BRK does. -/
  | ctxDebugHalt
  /-- CTX_DEBUG_RESUME (R395). Restarts a halted warp. -/
  | ctxDebugResume
  /-- CTX_DEBUG_READ (R395). Reads selected state of a halted warp or Leek thread into a buffer. -/
  | ctxDebugRead
  /-- CTX_DEBUG_WRITE (R395). Writes selected state of a halted warp from a buffer. -/
  | ctxDebugWrite
  /-- SLOT_RETIRE (R388). Retires an accumulator slot from service when it next becomes free. -/
  | slotRetire
  /-- ATTEST (R383). Writes a signed attestation report with the given nonce. -/
  | attest
  /-- LINK_CTL_FENCE (R399). Fences a fabric port at once. -/
  | linkCtlFence
  /-- LINK_CTL_RETRAIN (R399). Retrains a fabric port, completing OK when the link is UP. -/
  | linkCtlRetrain
  /-- RETRAIN_DEADLINE (R399). A retrain not passed within 10 ms completes with DEADLINE, and the port stays fenced. -/
  | retrainDeadline (port : Nat)
  /-- LINK_FENCE (R397). A fabric link with pending flits and none accepted for 1 micros is fenced. -/
  | linkFence (port : Nat)
  /-- DIE_FAILURE (R397). A die switch without progress for 10 micros is failed and routed around. -/
  | dieFailure (die : Nat)
  /-- IO_DIE_FAILURE (R397). An I/O die without progress for 10 micros ends the module. -/
  | ioDieFailure
  /-- POWER_GRANT (R403). A coordinator grant arrives and sets PGRANT and the effective cap. -/
  | powerGrant (tokens : BitVec 10)
  /-- SAFE_GRANT_FALLBACK (R403). After 500 ms with no coordinator message, PGRANT falls to SAFEGRANT. -/
  | safeGrantFallback
  /-- LOAN_OFFER (R404). A module whose draw stayed low for 10 ms lends tokens to a neighbour as one exchange. -/
  | loanOffer (side : LoanSide) (port tokens : Nat)
  /-- LOAN_LAPSE (R404). A loan is renewed, or lapses unrenewed after 100 ms. -/
  | loanLapse (loan : LoanTurn)
  /-- LOAN_RECALL (R404). The lender recalls a loan, and the borrower lowers its cap and confirms. -/
  | loanRecall (loan : Nat)
  /-- RECALL_CONFIRM (R404). The borrower's confirmation arrives and the lender's PLENT falls. -/
  | recallConfirm (loan : Nat)
  /-- RECALL_TIMEOUT (R404). Two milliseconds after an unconfirmed recall, or after the loan's port is fenced, the lender ends the loan. -/
  | recallTimeout (loan : Nat)
  /-- UNASSIGNED_OP (R56). A warp or Leek thread issues a word whose major opcode is unassigned, or row 0xF or 0x9A, and raises ILLEGAL. -/
  | unassignedOp (word : W32)
  /-- RAIL_SETTLE (R253). The cluster's VL rail settles at a new level, changing RAILEFF and releasing RAILSETs that wait for it. -/
  | railSettle (cluster : Nat) (level : BitVec 3)
  /-- SLICE_RATIO_CHANGE (R396). The power manager sets slice clock ratios to hold the draw within PCAP, the ramp rate and the current limits. -/
  | sliceRatioChange (cluster slice : Nat) (n : BitVec 4)
  /-- LINK_TRAINING_PASS (R399). A fabric port passes training and moves from TRAINING to UP, completing a retrain OK. -/
  | linkTrainingPass (port : Nat)
  /-- SOFT_ERROR (R401). A soft error corrupts a checked granule or approximate storage, and is corrected, marked uncorrectable or left undetected. -/
  | softError (e : SoftError)
  /-- BANK_DRAIN_COMPLETE (R317). A lent or reset bank finishes its drain of clean copies, after which it is zeroed and the waiting group starts or BANKSET completes. -/
  | bankDrainComplete (cluster bank : Nat)
  /-- POWER_LOSS (R377). The module's supplies go off and it holds no state at all. -/
  | powerLoss
  deriving DecidableEq, Repr

/-- The rows that are events of the part or of the outside world, not instructions an agent fetches. -/
def Instr.isEvent : Instr → Bool
  | .nop _ => false
  | .nopShort => false
  | .bra _ => false
  | .braShort _ _ _ => false
  | .brx _ => false
  | .call _ => false
  | .callx _ => false
  | .ret _ => false
  | .mark _ => false
  | .markShort _ => false
  | .join _ => false
  | .joinShort => false
  | .exit _ => false
  | .exitShort _ _ => false
  | .blkend _ => false
  | .getx _ => false
  | .setx _ => false
  | .brk _ => false
  | .spin _ => false
  | .sleep _ => false
  | .shfl _ => false
  | .vote _ => false
  | .redlog _ => false
  | .scanlog _ => false
  | .matchLanes _ => false
  | .add _ => false
  | .addShort _ _ _ => false
  | .sub _ => false
  | .addc _ => false
  | .mul _ => false
  | .mulh _ => false
  | .mad _ => false
  | .madw _ => false
  | .min _ => false
  | .max _ => false
  | .abs _ => false
  | .neg _ => false
  | .and _ => false
  | .or _ => false
  | .xor _ => false
  | .not _ => false
  | .andn _ => false
  | .shl _ => false
  | .shr _ => false
  | .sar _ => false
  | .rot _ => false
  | .bfx _ => false
  | .bfi _ => false
  | .clz _ => false
  | .ffs _ => false
  | .popc _ => false
  | .brev _ => false
  | .bytep _ => false
  | .cmp _ => false
  | .sel _ => false
  | .plog _ => false
  | .mov _ => false
  | .movShort _ _ => false
  | .movi _ => false
  | .lea _ => false
  | .movs _ => false
  | .fadd _ => false
  | .fsub _ => false
  | .fmul _ => false
  | .fma _ => false
  | .fmin _ => false
  | .fmax _ => false
  | .fsgn _ => false
  | .fcmp _ => false
  | .fclass _ => false
  | .rcp _ => false
  | .rsq _ => false
  | .sqrt _ => false
  | .exp2 _ => false
  | .log2 _ => false
  | .sin _ => false
  | .cos _ => false
  | .cvt _ => false
  | .quant _ => false
  | .scaleb _ => false
  | .frnd _ => false
  | .endorse _ => false
  | .tagset _ => false
  | .tagget _ => false
  | .rand _ => false
  | .qset _ => false
  | .qmul _ => false
  | .qmac _ => false
  | .qadd _ => false
  | .qsub _ => false
  | .qneg _ => false
  | .qred _ => false
  | .qbfct _ => false
  | .qbfgs _ => false
  | .qshoup _ => false
  | .nperm _ => false
  | .lbrev _ => false
  | .ld _ => false
  | .st _ => false
  | .lds _ => false
  | .sts _ => false
  | .ldb _ => false
  | .stb _ => false
  | .ldu _ => false
  | .stu _ => false
  | .atom _ => false
  | .vatom _ => false
  | .acopy _ => false
  | .publish _ => false
  | .winset _ => false
  | .pref _ => false
  | .own _ => false
  | .waitr _ => false
  | .bankset _ => false
  | .fpush _ => false
  | .fpop _ => false
  | .isync _ => false
  | .bararr _ => false
  | .barwait _ => false
  | .barsync _ => false
  | .barwaitt _ => false
  | .barexp _ => false
  | .barstat _ => false
  | .emit _ => false
  | .joindec _ => false
  | .evpop _ => false
  | .evwait _ => false
  | .clock _ => false
  | .qstat _ => false
  | .tld _ => false
  | .agath _ => false
  | .mma _ => false
  | .mmas _ => false
  | .acz _ => false
  | .acdrn _ => false
  | .acrel _ => false
  | .acstat _ => false
  | .mmwait _ => false
  | .lkexit _ => false
  | .trap _ => false
  | .tret _ => false
  | .movsr _ => false
  | .ovfld _ => false
  | .railset _ => false
  | .sigseed _ => false
  | .tlbinv _ => false
  | .wdset _ => false
  | .perfrd _ => false
  | .halt _ => false
  | .rep _ => false
  | .copySector _ => true
  | .copyComplete _ => true
  | .matrixOpStart _ => true
  | .matrixOpComplete _ _ => true
  | .gatherTake _ _ => true
  | .gatherOffer _ => true
  | .groupPlace _ => true
  | .spanWaitLimit _ => true
  | .groupEnd _ => true
  | .continuationEnqueue _ => true
  | .restartGroup _ => true
  | .limiterAdmit => true
  | .spinEnd _ _ => true
  | .sleepEnd _ _ => true
  | .barwaittTimeout _ => true
  | .bartimeout _ => true
  | .remoteRequest _ => true
  | .remoteAnswer _ => true
  | .remoteRefusal _ => true
  | .refusalResend _ => true
  | .retransmission _ => true
  | .remoteLost _ => true
  | .ownerFailed _ => true
  | .keepalive _ _ => true
  | .keepaliveReceive _ => true
  | .keepaliveAck _ => true
  | .resultCacheExpiry _ _ => true
  | .fundamentalReset _ => true
  | .fwgo _ => true
  | .registerWrite _ _ => true
  | .doorbell _ _ _ => true
  | .hostWrite _ _ => true
  | .hostRead _ _ => true
  | .ptradeWrite _ => true
  | .partCreate => true
  | .partResizePrepare => true
  | .prepareComplete _ => true
  | .resizeDeadline _ => true
  | .partResizeCommit => true
  | .partReset => true
  | .partDestroy => true
  | .partSetapx => true
  | .ctxCreate => true
  | .ctxDrain => true
  | .drainComplete _ => true
  | .drainDeadline _ => true
  | .ctxResume => true
  | .ctxReset => true
  | .ctxDestroy => true
  | .ctxTlbinv => true
  | .ctxReplay => true
  | .ctxFaultfail => true
  | .ctxDebugHalt => true
  | .ctxDebugResume => true
  | .ctxDebugRead => true
  | .ctxDebugWrite => true
  | .slotRetire => true
  | .attest => true
  | .linkCtlFence => true
  | .linkCtlRetrain => true
  | .retrainDeadline _ => true
  | .linkFence _ => true
  | .dieFailure _ => true
  | .ioDieFailure => true
  | .powerGrant _ => true
  | .safeGrantFallback => true
  | .loanOffer _ _ _ => true
  | .loanLapse _ => true
  | .loanRecall _ => true
  | .recallConfirm _ => true
  | .recallTimeout _ => true
  | .unassignedOp _ => false
  | .railSettle _ _ => true
  | .sliceRatioChange _ _ _ => true
  | .linkTrainingPass _ => true
  | .softError _ => true
  | .bankDrainComplete _ _ => true
  | .powerLoss => true

end Sys2Proof
end

