-- ==== Sys2Proof/Machine/Legal.lean ====
section
/-!
DEFINITION. The opcode map (R56 to R68) and the rules that make a word ILLEGAL by its encoding, its agent and
the kernel descriptor alone (R9, R10, R12, R35 to R44, R57): the opcodes by name, the FMT, SUB, SPACE, A and NW
values of each row, and the kinds of register that each operand field may name.
-/

namespace Sys2Proof

/-- The opcodes of forms L and I (R39, R44). -/
inductive LOp where
  | nop | brx | callx | getx | brk | spin | sleep | setx | shfl | vote | redlog | scanlog | matchLanes | add
  | sub | addc | mul | mulh | mad | madw | min | max | abs | neg | and | or | xor | not | andn | shl | shr
  | sar | rot | bfx | bfi | clz | ffs | popc | brev | bytep | cmp | sel | mov | movi | lea | plog | movs
  | fadd | fsub | fmul | fma | fmin | fmax | fsgn | fcmp | fclass | rcp | rsq | sqrt | exp2 | log2 | sin
  | cos | cvt | quant | scaleb | frnd | endorse | tagset | tagget | rand | qset | qmul | qmac | qadd | qsub
  | qneg | qred | qbfct | qbfgs | qshoup | nperm | lbrev | bararr | barwait | barsync | barwaitt | barexp
  | barstat | emit | joindec | evpop | evwait | clock | qstat | tld | agath | mma | mmas | acz | acdrn
  | acrel | acstat | mmwait | lkexit | trap | tret | movsr | ovfld | railset | sigseed | tlbinv | wdset
  | perfrd | halt
  deriving DecidableEq, Repr

/-- The major opcode in bits [9:2] (R56). -/
def LOp.code : LOp → BitVec 8
  | .nop => 0x00
  | .brx => 0x02
  | .callx => 0x04
  | .getx => 0x0A
  | .brk => 0x0B
  | .spin => 0x0C
  | .sleep => 0x0D
  | .setx => 0x0E
  | .shfl => 0x10
  | .vote => 0x11
  | .redlog => 0x12
  | .scanlog => 0x13
  | .matchLanes => 0x14
  | .add => 0x20
  | .sub => 0x21
  | .addc => 0x22
  | .mul => 0x23
  | .mulh => 0x24
  | .mad => 0x25
  | .madw => 0x26
  | .min => 0x27
  | .max => 0x28
  | .abs => 0x29
  | .neg => 0x2A
  | .and => 0x2B
  | .or => 0x2C
  | .xor => 0x2D
  | .not => 0x2E
  | .andn => 0x2F
  | .shl => 0x30
  | .shr => 0x31
  | .sar => 0x32
  | .rot => 0x33
  | .bfx => 0x34
  | .bfi => 0x35
  | .clz => 0x36
  | .ffs => 0x37
  | .popc => 0x38
  | .brev => 0x39
  | .bytep => 0x3A
  | .cmp => 0x3B
  | .sel => 0x3C
  | .mov => 0x3D
  | .movi => 0x3E
  | .lea => 0x3F
  | .plog => 0x41
  | .movs => 0x42
  | .fadd => 0x50
  | .fsub => 0x51
  | .fmul => 0x52
  | .fma => 0x53
  | .fmin => 0x54
  | .fmax => 0x55
  | .fsgn => 0x56
  | .fcmp => 0x57
  | .fclass => 0x58
  | .rcp => 0x59
  | .rsq => 0x5A
  | .sqrt => 0x5B
  | .exp2 => 0x5C
  | .log2 => 0x5D
  | .sin => 0x5E
  | .cos => 0x5F
  | .cvt => 0x60
  | .quant => 0x61
  | .scaleb => 0x62
  | .frnd => 0x63
  | .endorse => 0x64
  | .tagset => 0x65
  | .tagget => 0x66
  | .rand => 0x67
  | .qset => 0x80
  | .qmul => 0x81
  | .qmac => 0x82
  | .qadd => 0x83
  | .qsub => 0x84
  | .qneg => 0x85
  | .qred => 0x86
  | .qbfct => 0x87
  | .qbfgs => 0x88
  | .qshoup => 0x89
  | .nperm => 0x8A
  | .lbrev => 0x8B
  | .bararr => 0xC0
  | .barwait => 0xC1
  | .barsync => 0xC2
  | .barwaitt => 0xC3
  | .barexp => 0xC4
  | .barstat => 0xC5
  | .emit => 0xC6
  | .joindec => 0xC7
  | .evpop => 0xC8
  | .evwait => 0xC9
  | .clock => 0xCA
  | .qstat => 0xCB
  | .tld => 0xD0
  | .agath => 0xD1
  | .mma => 0xD2
  | .mmas => 0xD3
  | .acz => 0xD4
  | .acdrn => 0xD5
  | .acrel => 0xD6
  | .acstat => 0xD7
  | .mmwait => 0xD8
  | .lkexit => 0xD9
  | .trap => 0xE0
  | .tret => 0xE1
  | .movsr => 0xE2
  | .ovfld => 0xE3
  | .railset => 0xE4
  | .sigseed => 0xE5
  | .tlbinv => 0xE6
  | .wdset => 0xE7
  | .perfrd => 0xE8
  | .halt => 0xE9

/-- The opcode that a major opcode number names (R56). -/
def LOp.ofCode : Nat → Option LOp
  | 0x00 => some .nop
  | 0x02 => some .brx
  | 0x04 => some .callx
  | 0x0A => some .getx
  | 0x0B => some .brk
  | 0x0C => some .spin
  | 0x0D => some .sleep
  | 0x0E => some .setx
  | 0x10 => some .shfl
  | 0x11 => some .vote
  | 0x12 => some .redlog
  | 0x13 => some .scanlog
  | 0x14 => some .matchLanes
  | 0x20 => some .add
  | 0x21 => some .sub
  | 0x22 => some .addc
  | 0x23 => some .mul
  | 0x24 => some .mulh
  | 0x25 => some .mad
  | 0x26 => some .madw
  | 0x27 => some .min
  | 0x28 => some .max
  | 0x29 => some .abs
  | 0x2A => some .neg
  | 0x2B => some .and
  | 0x2C => some .or
  | 0x2D => some .xor
  | 0x2E => some .not
  | 0x2F => some .andn
  | 0x30 => some .shl
  | 0x31 => some .shr
  | 0x32 => some .sar
  | 0x33 => some .rot
  | 0x34 => some .bfx
  | 0x35 => some .bfi
  | 0x36 => some .clz
  | 0x37 => some .ffs
  | 0x38 => some .popc
  | 0x39 => some .brev
  | 0x3A => some .bytep
  | 0x3B => some .cmp
  | 0x3C => some .sel
  | 0x3D => some .mov
  | 0x3E => some .movi
  | 0x3F => some .lea
  | 0x41 => some .plog
  | 0x42 => some .movs
  | 0x50 => some .fadd
  | 0x51 => some .fsub
  | 0x52 => some .fmul
  | 0x53 => some .fma
  | 0x54 => some .fmin
  | 0x55 => some .fmax
  | 0x56 => some .fsgn
  | 0x57 => some .fcmp
  | 0x58 => some .fclass
  | 0x59 => some .rcp
  | 0x5A => some .rsq
  | 0x5B => some .sqrt
  | 0x5C => some .exp2
  | 0x5D => some .log2
  | 0x5E => some .sin
  | 0x5F => some .cos
  | 0x60 => some .cvt
  | 0x61 => some .quant
  | 0x62 => some .scaleb
  | 0x63 => some .frnd
  | 0x64 => some .endorse
  | 0x65 => some .tagset
  | 0x66 => some .tagget
  | 0x67 => some .rand
  | 0x80 => some .qset
  | 0x81 => some .qmul
  | 0x82 => some .qmac
  | 0x83 => some .qadd
  | 0x84 => some .qsub
  | 0x85 => some .qneg
  | 0x86 => some .qred
  | 0x87 => some .qbfct
  | 0x88 => some .qbfgs
  | 0x89 => some .qshoup
  | 0x8A => some .nperm
  | 0x8B => some .lbrev
  | 0xC0 => some .bararr
  | 0xC1 => some .barwait
  | 0xC2 => some .barsync
  | 0xC3 => some .barwaitt
  | 0xC4 => some .barexp
  | 0xC5 => some .barstat
  | 0xC6 => some .emit
  | 0xC7 => some .joindec
  | 0xC8 => some .evpop
  | 0xC9 => some .evwait
  | 0xCA => some .clock
  | 0xCB => some .qstat
  | 0xD0 => some .tld
  | 0xD1 => some .agath
  | 0xD2 => some .mma
  | 0xD3 => some .mmas
  | 0xD4 => some .acz
  | 0xD5 => some .acdrn
  | 0xD6 => some .acrel
  | 0xD7 => some .acstat
  | 0xD8 => some .mmwait
  | 0xD9 => some .lkexit
  | 0xE0 => some .trap
  | 0xE1 => some .tret
  | 0xE2 => some .movsr
  | 0xE3 => some .ovfld
  | 0xE4 => some .railset
  | 0xE5 => some .sigseed
  | 0xE6 => some .tlbinv
  | 0xE7 => some .wdset
  | 0xE8 => some .perfrd
  | 0xE9 => some .halt
  | _ => none

/-- The opcodes of form M (R43). -/
inductive MOp where
  | ld | st | lds | sts | ldb | stb | ldu | stu | atom | vatom | acopy | publish | winset | pref | own
  | waitr | bankset | fpush | fpop | isync
  deriving DecidableEq, Repr

/-- The major opcode in bits [9:2] (R56). -/
def MOp.code : MOp → BitVec 8
  | .ld => 0x90
  | .st => 0x91
  | .lds => 0x92
  | .sts => 0x93
  | .ldb => 0x94
  | .stb => 0x95
  | .ldu => 0x96
  | .stu => 0x97
  | .atom => 0x98
  | .vatom => 0x99
  | .acopy => 0x9B
  | .publish => 0x9C
  | .winset => 0x9D
  | .pref => 0x9E
  | .own => 0x9F
  | .waitr => 0xA0
  | .bankset => 0xA1
  | .fpush => 0xA2
  | .fpop => 0xA3
  | .isync => 0xA4

/-- The opcode that a major opcode number names (R56). -/
def MOp.ofCode : Nat → Option MOp
  | 0x90 => some .ld
  | 0x91 => some .st
  | 0x92 => some .lds
  | 0x93 => some .sts
  | 0x94 => some .ldb
  | 0x95 => some .stb
  | 0x96 => some .ldu
  | 0x97 => some .stu
  | 0x98 => some .atom
  | 0x99 => some .vatom
  | 0x9B => some .acopy
  | 0x9C => some .publish
  | 0x9D => some .winset
  | 0x9E => some .pref
  | 0x9F => some .own
  | 0xA0 => some .waitr
  | 0xA1 => some .bankset
  | 0xA2 => some .fpush
  | 0xA3 => some .fpop
  | 0xA4 => some .isync
  | _ => none

/-- The opcodes of form B (R41). -/
inductive BOp where
  | bra | call | ret | mark | join | exit | blkend
  deriving DecidableEq, Repr

/-- The major opcode in bits [9:2] (R56). -/
def BOp.code : BOp → BitVec 8
  | .bra => 0x01
  | .call => 0x03
  | .ret => 0x05
  | .mark => 0x06
  | .join => 0x07
  | .exit => 0x08
  | .blkend => 0x09

/-- The opcode that a major opcode number names (R56). -/
def BOp.ofCode : Nat → Option BOp
  | 0x01 => some .bra
  | 0x03 => some .call
  | 0x05 => some .ret
  | 0x06 => some .mark
  | 0x07 => some .join
  | 0x08 => some .exit
  | 0x09 => some .blkend
  | _ => none


/-- Opcodes with the short form S.B or S.R (R40). -/
inductive SbOp where
  | nop | bra | mark | join | exit
  deriving DecidableEq, Repr

/-- The opcodes of layout S.R (R40). -/
inductive SrOp where
  | add | mov
  deriving DecidableEq, Repr

/-- The encoded shape of an instruction (R33, R39 to R43, R50). -/
inductive Shape where
  | l (op : LOp) (f : LForm)
  | m (op : MOp) (f : MForm)
  | b (op : BOp) (f : BForm)
  | sb (op : SbOp) (off : BitVec 18) (pneg : Bool) (pred : Fin 8)
  | sr (op : SrOp) (imm : BitVec 6) (a d : Fin 256)
  | p (r : RepPrefix)
  | word (w : W32)
  deriving DecidableEq, Repr

/-- The encoded shape of an instruction; events have none. -/
def Instr.shape : Instr → Option Shape
  | .nop f => some (.l .nop f)
  | .nopShort => some (.sb .nop 0 false 0)
  | .bra f => some (.b .bra f)
  | .braShort o n p => some (.sb .bra o n p)
  | .brx f => some (.l .brx f)
  | .call f => some (.b .call f)
  | .callx f => some (.l .callx f)
  | .ret f => some (.b .ret f)
  | .mark f => some (.b .mark f)
  | .markShort o => some (.sb .mark o false 0)
  | .join f => some (.b .join f)
  | .joinShort => some (.sb .join 0 false 0)
  | .exit f => some (.b .exit f)
  | .exitShort n p => some (.sb .exit 0 n p)
  | .blkend f => some (.b .blkend f)
  | .getx f => some (.l .getx f)
  | .setx f => some (.l .setx f)
  | .brk f => some (.l .brk f)
  | .spin f => some (.l .spin f)
  | .sleep f => some (.l .sleep f)
  | .shfl f => some (.l .shfl f)
  | .vote f => some (.l .vote f)
  | .redlog f => some (.l .redlog f)
  | .scanlog f => some (.l .scanlog f)
  | .matchLanes f => some (.l .matchLanes f)
  | .add f => some (.l .add f)
  | .addShort i a d => some (.sr .add i a d)
  | .sub f => some (.l .sub f)
  | .addc f => some (.l .addc f)
  | .mul f => some (.l .mul f)
  | .mulh f => some (.l .mulh f)
  | .mad f => some (.l .mad f)
  | .madw f => some (.l .madw f)
  | .min f => some (.l .min f)
  | .max f => some (.l .max f)
  | .abs f => some (.l .abs f)
  | .neg f => some (.l .neg f)
  | .and f => some (.l .and f)
  | .or f => some (.l .or f)
  | .xor f => some (.l .xor f)
  | .not f => some (.l .not f)
  | .andn f => some (.l .andn f)
  | .shl f => some (.l .shl f)
  | .shr f => some (.l .shr f)
  | .sar f => some (.l .sar f)
  | .rot f => some (.l .rot f)
  | .bfx f => some (.l .bfx f)
  | .bfi f => some (.l .bfi f)
  | .clz f => some (.l .clz f)
  | .ffs f => some (.l .ffs f)
  | .popc f => some (.l .popc f)
  | .brev f => some (.l .brev f)
  | .bytep f => some (.l .bytep f)
  | .cmp f => some (.l .cmp f)
  | .sel f => some (.l .sel f)
  | .plog f => some (.l .plog f)
  | .mov f => some (.l .mov f)
  | .movShort a d => some (.sr .mov 0 a d)
  | .movi f => some (.l .movi f)
  | .lea f => some (.l .lea f)
  | .movs f => some (.l .movs f)
  | .fadd f => some (.l .fadd f)
  | .fsub f => some (.l .fsub f)
  | .fmul f => some (.l .fmul f)
  | .fma f => some (.l .fma f)
  | .fmin f => some (.l .fmin f)
  | .fmax f => some (.l .fmax f)
  | .fsgn f => some (.l .fsgn f)
  | .fcmp f => some (.l .fcmp f)
  | .fclass f => some (.l .fclass f)
  | .rcp f => some (.l .rcp f)
  | .rsq f => some (.l .rsq f)
  | .sqrt f => some (.l .sqrt f)
  | .exp2 f => some (.l .exp2 f)
  | .log2 f => some (.l .log2 f)
  | .sin f => some (.l .sin f)
  | .cos f => some (.l .cos f)
  | .cvt f => some (.l .cvt f)
  | .quant f => some (.l .quant f)
  | .scaleb f => some (.l .scaleb f)
  | .frnd f => some (.l .frnd f)
  | .endorse f => some (.l .endorse f)
  | .tagset f => some (.l .tagset f)
  | .tagget f => some (.l .tagget f)
  | .rand f => some (.l .rand f)
  | .qset f => some (.l .qset f)
  | .qmul f => some (.l .qmul f)
  | .qmac f => some (.l .qmac f)
  | .qadd f => some (.l .qadd f)
  | .qsub f => some (.l .qsub f)
  | .qneg f => some (.l .qneg f)
  | .qred f => some (.l .qred f)
  | .qbfct f => some (.l .qbfct f)
  | .qbfgs f => some (.l .qbfgs f)
  | .qshoup f => some (.l .qshoup f)
  | .nperm f => some (.l .nperm f)
  | .lbrev f => some (.l .lbrev f)
  | .ld f => some (.m .ld f)
  | .st f => some (.m .st f)
  | .lds f => some (.m .lds f)
  | .sts f => some (.m .sts f)
  | .ldb f => some (.m .ldb f)
  | .stb f => some (.m .stb f)
  | .ldu f => some (.m .ldu f)
  | .stu f => some (.m .stu f)
  | .atom f => some (.m .atom f)
  | .vatom f => some (.m .vatom f)
  | .acopy f => some (.m .acopy f)
  | .publish f => some (.m .publish f)
  | .winset f => some (.m .winset f)
  | .pref f => some (.m .pref f)
  | .own f => some (.m .own f)
  | .waitr f => some (.m .waitr f)
  | .bankset f => some (.m .bankset f)
  | .fpush f => some (.m .fpush f)
  | .fpop f => some (.m .fpop f)
  | .isync f => some (.m .isync f)
  | .bararr f => some (.l .bararr f)
  | .barwait f => some (.l .barwait f)
  | .barsync f => some (.l .barsync f)
  | .barwaitt f => some (.l .barwaitt f)
  | .barexp f => some (.l .barexp f)
  | .barstat f => some (.l .barstat f)
  | .emit f => some (.l .emit f)
  | .joindec f => some (.l .joindec f)
  | .evpop f => some (.l .evpop f)
  | .evwait f => some (.l .evwait f)
  | .clock f => some (.l .clock f)
  | .qstat f => some (.l .qstat f)
  | .tld f => some (.l .tld f)
  | .agath f => some (.l .agath f)
  | .mma f => some (.l .mma f)
  | .mmas f => some (.l .mmas f)
  | .acz f => some (.l .acz f)
  | .acdrn f => some (.l .acdrn f)
  | .acrel f => some (.l .acrel f)
  | .acstat f => some (.l .acstat f)
  | .mmwait f => some (.l .mmwait f)
  | .lkexit f => some (.l .lkexit f)
  | .trap f => some (.l .trap f)
  | .tret f => some (.l .tret f)
  | .movsr f => some (.l .movsr f)
  | .ovfld f => some (.l .ovfld f)
  | .railset f => some (.l .railset f)
  | .sigseed f => some (.l .sigseed f)
  | .tlbinv f => some (.l .tlbinv f)
  | .wdset f => some (.l .wdset f)
  | .perfrd f => some (.l .perfrd f)
  | .halt f => some (.l .halt f)
  | .rep p => some (.p p)
  | .copySector _ => none
  | .copyComplete _ => none
  | .matrixOpStart _ => none
  | .matrixOpComplete _ _ => none
  | .gatherTake _ _ => none
  | .gatherOffer _ => none
  | .groupPlace _ => none
  | .spanWaitLimit _ => none
  | .groupEnd _ => none
  | .continuationEnqueue _ => none
  | .restartGroup _ => none
  | .limiterAdmit => none
  | .spinEnd _ _ => none
  | .sleepEnd _ _ => none
  | .barwaittTimeout _ => none
  | .bartimeout _ => none
  | .remoteRequest _ => none
  | .remoteAnswer _ => none
  | .remoteRefusal _ => none
  | .refusalResend _ => none
  | .retransmission _ => none
  | .remoteLost _ => none
  | .ownerFailed _ => none
  | .keepalive _ _ => none
  | .keepaliveReceive _ => none
  | .keepaliveAck _ => none
  | .resultCacheExpiry _ _ => none
  | .fundamentalReset _ => none
  | .fwgo _ => none
  | .registerWrite _ _ => none
  | .doorbell _ _ _ => none
  | .hostWrite _ _ => none
  | .hostRead _ _ => none
  | .ptradeWrite _ => none
  | .partCreate => none
  | .partResizePrepare => none
  | .prepareComplete _ => none
  | .resizeDeadline _ => none
  | .partResizeCommit => none
  | .partReset => none
  | .partDestroy => none
  | .partSetapx => none
  | .ctxCreate => none
  | .ctxDrain => none
  | .drainComplete _ => none
  | .drainDeadline _ => none
  | .ctxResume => none
  | .ctxReset => none
  | .ctxDestroy => none
  | .ctxTlbinv => none
  | .ctxReplay => none
  | .ctxFaultfail => none
  | .ctxDebugHalt => none
  | .ctxDebugResume => none
  | .ctxDebugRead => none
  | .ctxDebugWrite => none
  | .slotRetire => none
  | .attest => none
  | .linkCtlFence => none
  | .linkCtlRetrain => none
  | .retrainDeadline _ => none
  | .linkFence _ => none
  | .dieFailure _ => none
  | .ioDieFailure => none
  | .powerGrant _ => none
  | .safeGrantFallback => none
  | .loanOffer _ _ _ => none
  | .loanLapse _ => none
  | .loanRecall _ => none
  | .recallConfirm _ => none
  | .recallTimeout _ => none
  | .unassignedOp w => some (.word w)
  | .railSettle _ _ => none
  | .sliceRatioChange _ _ _ => none
  | .linkTrainingPass _ => none
  | .softError _ => none
  | .bankDrainComplete _ _ => none
  | .powerLoss => none

/-! ### Formats -/

/-- The FMT code of a tag (R13). -/
def Fmt.code : Fmt → BitVec 4
  | .b32 => 0 | .s32 => 1 | .n32 => 2 | .f32 => 3 | .f16x2 => 4 | .bf16x2 => 5 | .e4m3x4 => 6 | .e5m2x4 => 7
  | .s8x4 => 8 | .n8x4 => 9 | .s16x2 => 10 | .n16x2 => 11 | .s64 => 12 | .n64 => 13 | .f64 => 14 | .q64 => 15

/-- The tag of an FMT code (R13). -/
def Fmt.ofCode (c : BitVec 4) : Fmt :=
  match c.toNat with
  | 0 => .b32 | 1 => .s32 | 2 => .n32 | 3 => .f32 | 4 => .f16x2 | 5 => .bf16x2 | 6 => .e4m3x4 | 7 => .e5m2x4
  | 8 => .s8x4 | 9 => .n8x4 | 10 => .s16x2 | 11 => .n16x2 | 12 => .s64 | 13 => .n64 | 14 => .f64 | _ => .q64

/-- Formats that live across a register pair: codes 12 to 15 (R10, R13). -/
def Fmt.wide : Fmt → Bool
  | .s64 | .n64 | .f64 | .q64 => true
  | _ => false

/-- The set INT of R57. -/
def Fmt.isInt : Fmt → Bool
  | .s32 | .n32 | .s8x4 | .n8x4 | .s16x2 | .n16x2 | .s64 | .n64 => true
  | _ => false

/-- The set SGN of R57. -/
def Fmt.isSigned : Fmt → Bool
  | .s32 | .s8x4 | .s16x2 | .s64 => true
  | _ => false

/-- The set FLT of R57. -/
def Fmt.isFlt : Fmt → Bool
  | .f32 | .f16x2 | .bf16x2 | .f64 => true
  | _ => false

/-- Formats with an approximate form: FMT 3, 4 and 5 (R68). -/
def Fmt.isApx : Fmt → Bool
  | .f32 | .f16x2 | .bf16x2 => true
  | _ => false

/-- B32 and the set INT. -/
def Fmt.isBits (f : Fmt) : Bool := f == .b32 || f.isInt

/-- B32, S32, N32, S64 and N64: what the Leek core's integer opcodes accept (R67) and R58's SUB 3 to 5 row. -/
def Fmt.isScalarInt : Fmt → Bool
  | .b32 | .s32 | .n32 | .s64 | .n64 => true
  | _ => false

/-- S32, N32, S64 and N64. -/
def Fmt.isPlainInt (f : Fmt) : Bool := f != .b32 && f.isScalarInt

/-! ### Special registers (R27) -/

/-- How MOVSR may write a special register (R27). -/
inductive SpecialWrite where
  | readOnly | anyMode | trapMode
  deriving DecidableEq, Repr

/-- A row of the special-register table: 64 bits wide or not, per lane or not, and its write access (R27). -/
structure SpecialRow where
  wide    : Bool
  perLane : Bool
  write   : SpecialWrite
  deriving DecidableEq, Repr

/-- The rows of R27; numbers absent from its table give none. -/
def specialRow (n : Nat) : Option SpecialRow :=
  match n with
  | 0x00 => some ⟨false, true, .readOnly⟩
  | 0x07 | 0x1A | 0x1B | 0x1C | 0x1D | 0x20 | 0x22 => some ⟨true, false, .readOnly⟩
  | 0x0E | 0x0F => some ⟨false, false, .anyMode⟩
  | 0x18 => some ⟨false, false, .trapMode⟩
  | 0x19 => some ⟨true, false, .trapMode⟩
  | 0x15 | 0x16 | 0x17 | 0x1F => none
  | n => if n ≤ 0x23 then some ⟨false, false, .readOnly⟩ else none

/-- The special registers that a Leek thread may read (R109). -/
def leekSpecial (n : Nat) : Bool :=
  n == 0x00 || n == 0x08 || n == 0x0A || n == 0x0B || n == 0x0C || n == 0x1E || n == 0x20 || n == 0x21 || n == 0x22

/-! ### FMT, SUB, A and NW of the rows -/

/-- The forms a row admits: L, and I (R58 to R66, R242). -/
def LOp.forms : LOp → Bool × Bool
  | .nop | .brx | .callx | .getx | .setx | .vote | .redlog | .scanlog | .matchLanes | .abs | .neg | .clz | .ffs
  | .popc | .brev | .mov | .plog | .fclass | .rcp | .rsq | .sqrt | .exp2 | .log2 | .sin | .cos | .endorse | .tagget
  | .rand | .qset | .qred | .qshoup | .nperm | .lbrev | .tret | .tlbinv => (true, false)
  | .movi | .movs | .quant | .movsr => (false, true)
  | _ => (true, true)

/-- Opcodes whose trailing word is an operand in its own right (R38, R198, R242). -/
def LOp.trailing : LOp → Bool
  | .brk | .spin | .movi | .movs | .bararr | .barwait | .barsync | .barwaitt | .barexp | .barstat | .trap | .movsr
  | .wdset | .halt => true
  | _ => false

/-- Whether FMT and SUB stand in the opcode's row (R58 to R66). -/
def LOp.fmtSubOk (op : LOp) (f : Fmt) (sub : BitVec 4) : Bool :=
  let n := sub.toNat
  match op with
  | .shfl => n ≤ 4
  | .vote => f == .b32 && n ≤ 3
  | .redlog | .scanlog =>
    if n ≤ 2 then f.isPlainInt else if n ≤ 5 then f.isScalarInt else 8 ≤ n && n ≤ 13 && f.isFlt
  | .matchLanes => n == 0 && (f == .b32 || f == .s32 || f == .n32 || f == .n64)
  | .add | .sub => f.isInt && n ≤ 1
  | .addc => (f == .s32 || f == .n32) && n == 0
  | .mul | .mad | .min | .max => f.isInt && n == 0
  | .mulh => f.isPlainInt && n == 0
  | .madw => (f == .s64 || f == .n64) && n == 0
  | .abs | .neg => f.isSigned && n ≤ 1
  | .and | .or | .xor | .not | .andn | .sel | .mov => n == 0
  | .shl | .shr | .rot | .clz | .ffs | .popc | .brev => f.isBits && n == 0
  | .sar => f.isSigned && n == 0
  | .bfx | .bfi => f.isScalarInt && n == 0
  | .cmp => f.isInt && n ≤ 5
  | .movi => f != .q64 && n == 0
  | .lea => f == .n64 && n ≤ 3
  | .plog => f == .b32
  | .movs | .movsr => (f == .b32 || f == .n64) && n == 0
  | .fadd | .fsub | .fmul | .fma | .sqrt | .scaleb | .frnd => f.isFlt && n ≤ 3
  | .fmin | .fmax | .fclass | .rcp | .rsq => f.isFlt && n == 0
  | .fsgn => f.isFlt && n ≤ 2
  | .fcmp => f.isFlt && n ≤ 7
  | .exp2 | .log2 | .sin | .cos | .endorse => f.isApx && n == 0
  | .cvt => f != .b32 && f != .q64 && n ≤ 4
  | .quant => (f == .e4m3x4 || f == .e5m2x4) && n ≤ 3
  | .tagget => f == .n32 && n == 0
  | .rand => (f == .n32 || f == .f32 || f == .n64) && n == 0
  | .qset | .qred => f == .n64 && n ≤ 3
  | .qmul | .qmac | .qadd | .qsub | .qneg | .qbfct | .qbfgs | .qshoup => f == .q64 && n ≤ 3
  | .nperm => 1 ≤ n && n ≤ 6
  | .lbrev => n == 0
  | .barwait | .barsync | .emit | .tlbinv | .agath => f == .b32 && n ≤ 1
  | .tld => (f.isApx || f == .e4m3x4 || f == .e5m2x4 || f == .s8x4 || f == .n8x4) && n == 0
  | .mma =>
    (f.isApx || f == .e4m3x4 || f == .e5m2x4 || f == .s8x4 || f == .n8x4) &&
      (n ≤ 1 || n ≤ 3 && (f == .e4m3x4 || f == .e5m2x4))
  | .mmas => (f == .e4m3x4 || f == .e5m2x4) && n ≤ 3
  | .acdrn => f.isApx && n == 0
  | _ => f == .b32 && n == 0

/-- Opcodes with an A = 1 form, with FMT 3, 4 or 5 only (R68). -/
def LOp.apxOk (op : LOp) (f : Fmt) (sub : BitVec 4) : Bool :=
  f.isApx && match op with
  | .fadd | .fsub | .fmul | .fma | .fmin | .fmax | .fsgn | .rcp | .rsq | .sqrt | .exp2 | .log2 | .sin | .cos
  | .cvt | .mov | .shfl => true
  | .redlog | .scanlog => 8 ≤ sub.toNat
  | _ => false

/-- Opcodes with a vector destination, on which NW is permitted (R39). -/
def LOp.nwOk : LOp → Bool
  | .nop | .brx | .callx | .getx | .brk | .spin | .sleep | .setx | .vote | .cmp | .plog | .fcmp | .qset
  | .bararr | .barwait | .barsync | .barwaitt | .barexp | .barstat | .emit | .joindec | .evpop | .evwait | .clock
  | .qstat | .tld | .agath | .mma | .mmas | .acz | .acdrn | .acrel | .acstat | .mmwait | .lkexit | .trap | .tret
  | .movsr | .ovfld | .railset | .sigseed | .tlbinv | .wdset | .perfrd | .halt => false
  | _ => true

/-- Opcodes that require PRED = 0 and PNEG = 0 (R188, R199, R242). -/
def LOp.predZero : LOp → Bool
  | .getx | .setx | .bararr | .barwait | .barsync | .barwaitt | .barexp | .barstat | .tret | .ovfld | .railset
  | .sigseed | .tlbinv | .wdset | .halt => true
  | _ => false

/-- Which agents may issue an opcode: a warp, and the Leek core with its format limits (R67). -/
def LOp.agentOk (op : LOp) (leek : Bool) (f : Fmt) (sub : BitVec 4) : Bool :=
  match op with
  | .tld | .agath | .mma | .mmas | .acz | .acdrn | .acrel | .acstat | .mmwait | .lkexit => leek
  | .nop | .brx | .callx | .movs | .bararr | .barwaitt | .barexp | .barstat | .evpop | .evwait | .clock => true
  | .barwait | .barsync => !leek || sub == 0
  | .add | .sub | .addc | .mul | .mulh | .mad | .madw | .min | .max | .abs | .neg | .and | .or | .xor | .not | .andn
  | .shl | .shr | .sar | .rot | .bfx | .bfi | .clz | .ffs | .popc | .brev | .bytep | .cmp | .sel | .mov | .movi
  | .lea => !leek || f.isScalarInt
  | _ => !leek

/-! ### Operand kinds -/

/-- What a register field of an opcode's entry may name. On the Leek core an operand in general registers is a g
register (R92). -/
inductive OperandKind where
  | unused      -- the field holds 0x3FE (R37)
  | any         -- a source: v, s, latch, zero or the immediate (R90, R111)
  | noImm       -- as `any`, in an opcode without form I
  | movSrc      -- as `noImm`, and qm or qb (R19, R106)
  | modSrc      -- as `any`, and qm or qb (R19, R36)
  | modNoImm    -- as `noImm`, and qm or qb (R19, R36)
  | vec         -- v or latch
  | vecOpt      -- v, latch or absent (R121)
  | vecZero     -- v, latch, s, zero or immediate moved by TAGSET (R127)
  | lane        -- v, latch, s or immediate (R193)
  | uniform     -- s or immediate
  | sreg        -- s
  | sregOpt     -- s or absent
  | uniformOpt  -- s, immediate or absent
  | kreg        -- k
  | maskSrc     -- k, s or zero (R188)
  | maskDst     -- k or s (R188, R194, R204)
  | sregZero    -- s or zero (R242)
  | immOpt      -- immediate or absent (R121)
  | imm         -- the immediate (R123)
  | vreg        -- v
  | vecOrS      -- v, or s when every source is s, zero or immediate (R91, R111)
  | vOrS        -- v or s
  | podSrc      -- v or s (R217)
  | kregOpt     -- k, for EMIT.NB
  | qmSub       -- qm[SUB] (R136)
  | acc         -- ac0 to ac15
  | tile        -- t0 to t7
  deriving DecidableEq, Repr

/-- Whether a field of a kind may hold a register, for a warp or for the Leek core. -/
def OperandKind.ok (kd : OperandKind) (leek : Bool) (sub : BitVec 4) (r : Reg) : Bool :=
  match kd, r with
  | .unused, .zero => true
  | .any, .zero | .any, .imm | .noImm, .zero | .movSrc, .zero | .modSrc, .zero | .modSrc, .imm | .modNoImm, .zero => true
  | .any, .v _ | .any, .s _ | .any, .latch _ | .noImm, .v _ | .noImm, .s _ | .noImm, .latch _ => !leek
  | .movSrc, .v _ | .movSrc, .s _ | .movSrc, .latch _ | .movSrc, .qm _ | .movSrc, .qb _ => !leek
  | .modSrc, .v _ | .modSrc, .s _ | .modSrc, .latch _ | .modSrc, .qm _ | .modSrc, .qb _ => !leek
  | .modNoImm, .v _ | .modNoImm, .s _ | .modNoImm, .latch _ | .modNoImm, .qm _ | .modNoImm, .qb _ => !leek
  | .any, .g _ | .noImm, .g _ | .movSrc, .g _ => leek
  | .vec, .v _ | .vec, .latch _ => !leek
  | .vecOpt, .v _ | .vecOpt, .latch _ => !leek
  | .vecOpt, .zero => true
  | .vecZero, .v _ | .vecZero, .latch _ | .vecZero, .s _ => !leek
  | .vecZero, .zero | .vecZero, .imm => true
  | .lane, .v _ | .lane, .latch _ | .lane, .s _ => !leek
  | .lane, .imm => true
  | .uniform, .s _ | .sreg, .s _ | .sregOpt, .s _ | .uniformOpt, .s _ => !leek
  | .uniform, .g _ | .sreg, .g _ | .sregOpt, .g _ | .uniformOpt, .g _ => leek
  | .uniform, .imm | .uniformOpt, .imm | .uniformOpt, .zero | .sregOpt, .zero => true
  | .kreg, .k _ => true
  | .maskSrc, .k _ | .maskSrc, .s _ | .maskSrc, .zero => !leek
  | .maskDst, .k _ => true
  | .maskDst, .s _ => !leek
  | .maskDst, .g _ => leek
  | .sregZero, .s _ | .sregZero, .zero => !leek
  | .immOpt, .imm | .immOpt, .zero => true
  | .imm, .imm => true
  | .vreg, .v _ => !leek
  | .vecOrS, .v _ | .vecOrS, .s _ | .vOrS, .v _ | .vOrS, .s _ | .podSrc, .v _ | .podSrc, .s _ => !leek
  | .vecOrS, .g _ | .vOrS, .g _ | .vreg, .g _ => leek
  | .kregOpt, .k _ => !leek
  | .qmSub, .qm n => !leek && n.val == sub.toNat
  | .acc, .ac _ => leek
  | .tile, .t _ => leek
  | _, _ => false

/-- The kinds of the four register fields of an opcode: DST, SRC0, SRC1, SRC2. `i` says that form I is used. -/
structure Kinds where
  d : OperandKind
  s0 : OperandKind
  s1 : OperandKind
  s2 : OperandKind

/-- The operand kinds that the opcode's entry gives its fields. -/
def LOp.kinds (op : LOp) (sub : BitVec 4) (formI : Bool) : Kinds :=
  match op with
  | .nop | .brk | .spin | .mmwait | .lkexit | .trap | .tret | .halt => ⟨.unused, .unused, .unused, .unused⟩
  | .brx | .callx => ⟨.unused, .sreg, .unused, .unused⟩
  | .getx => ⟨.maskDst, .unused, .unused, .unused⟩
  | .setx => ⟨.unused, .maskSrc, .unused, .unused⟩
  | .sleep => ⟨.unused, .uniform, .unused, .unused⟩
  | .shfl => ⟨.vreg, .vec, if sub == 1 || sub == 2 || sub == 4 then .uniform else .lane, .unused⟩
  | .vote => ⟨if sub == 3 then .sreg else .maskDst, .kreg, .unused, .unused⟩
  | .redlog => ⟨.vOrS, .vec, .unused, .unused⟩
  | .scanlog | .matchLanes | .endorse => ⟨.vreg, .vec, .unused, .unused⟩
  | .add | .sub | .mul | .mulh | .min | .max | .and | .or | .xor | .andn | .shl | .shr | .sar | .rot | .bfx
  | .fadd | .fsub | .fmul | .fmin | .fmax | .scaleb => ⟨.vecOrS, .any, .any, .unused⟩
  -- R108 names a vector pair, a scalar pair or g as LEA's base; the source kinds of R90 are taken too (notes/assumptions/15.md)
  | .lea => ⟨.vecOrS, .any, .any, .unused⟩
  | .mad | .madw | .bfi | .bytep | .fma => ⟨.vecOrS, .any, .any, .any⟩
  | .addc | .sel => ⟨.vreg, .any, .any, .kreg⟩
  | .abs | .neg | .clz | .ffs | .popc | .brev | .fclass | .rcp | .rsq | .sqrt | .exp2 | .log2 | .sin | .cos =>
    ⟨.vecOrS, .noImm, .unused, .unused⟩
  | .not | .frnd => ⟨.vecOrS, .any, .unused, .unused⟩
  | .cmp | .fcmp => ⟨.kreg, .any, .any, .unused⟩
  | .mov => ⟨.vecOrS, .movSrc, .unused, .unused⟩
  | .movi => ⟨.vecOrS, .unused, .unused, .unused⟩
  | .plog => ⟨.kreg, .kreg, .kreg, .unused⟩
  | .movs => ⟨.vOrS, .unused, .unused, .unused⟩
  | .fsgn => ⟨.vecOrS, .any, if sub == 2 then .any else .unused, .unused⟩
  | .cvt => ⟨.vreg, .vec, .vecOpt, .immOpt⟩
  | .quant => ⟨.vreg, .vec, .vecOpt, .imm⟩
  | .tagset => ⟨.vecOrS, .vecZero, .uniform, .unused⟩
  | .tagget => ⟨.vOrS, .vec, .unused, .unused⟩
  | .rand => ⟨.vreg, .unused, .unused, .unused⟩
  | .qset => ⟨.qmSub, .noImm, .noImm, .unused⟩
  | .qmul | .qadd | .qsub => ⟨.vreg, .modSrc, .modSrc, .unused⟩
  | .qmac => ⟨.vreg, .modSrc, .modSrc, .modSrc⟩
  | .qneg => ⟨.vreg, .modSrc, .unused, .unused⟩
  | .qred => ⟨.vreg, .modNoImm, .unused, .unused⟩
  | .qbfct | .qbfgs => ⟨.vreg, .vreg, .modSrc, .unused⟩
  | .qshoup => ⟨.vreg, .modNoImm, .modNoImm, .modNoImm⟩
  | .nperm => ⟨.vreg, .vreg, .unused, .unused⟩
  | .lbrev => ⟨.vreg, .vec, .sreg, .unused⟩
  | .bararr | .barwait | .barsync => ⟨.unused, if formI then .unused else .sreg, .unused, .unused⟩
  | .barwaitt => ⟨.maskDst, if formI then .unused else .sreg, .sregOpt, .unused⟩
  | .barexp => ⟨.unused, if formI then .unused else .sreg, .sreg, .unused⟩
  | .barstat => ⟨.sreg, if formI then .unused else .sreg, .unused, .unused⟩
  | .emit => ⟨if sub == 1 then .kregOpt else .unused, .podSrc, .uniform, .unused⟩
  | .joindec => ⟨.sregOpt, .sreg, .uniform, .unused⟩
  | .evpop | .clock => ⟨.sreg, .unused, .unused, .unused⟩
  | .evwait => ⟨.unused, .uniform, .unused, .unused⟩
  | .qstat => ⟨.sreg, .uniform, .unused, .unused⟩
  | .tld => ⟨.tile, .sreg, .uniformOpt, .unused⟩
  | .agath => ⟨.unused, .sreg, .sreg, .uniform⟩
  | .mma => ⟨.acc, .tile, .unused, .unused⟩
  | .mmas => ⟨.acc, .tile, .sreg, .uniform⟩
  | .acz | .acrel => ⟨.acc, .unused, .unused, .unused⟩
  | .acdrn => ⟨.unused, .acc, .sreg, .uniform⟩
  | .acstat => ⟨.sreg, .acc, .unused, .unused⟩
  | .movsr => ⟨.unused, .sregZero, .unused, .unused⟩
  | .ovfld | .railset | .sigseed => ⟨.unused, .uniform, .unused, .unused⟩
  | .tlbinv => ⟨.unused, if sub == 1 then .unused else .sreg, .unused, .unused⟩
  | .wdset => ⟨.unused, if formI then .unused else .sreg, if formI then .unused else .sregOpt, .unused⟩
  | .perfrd => ⟨.sreg, .uniform, .unused, .unused⟩

/-- Which fields of an opcode are 64-bit operands: an odd v or s register there is ILLEGAL (R10, R12, R37). The
fields of MADW (R96), LEA (R108), SHFL (R193), SCALEB (R124) and the one-word controls differ from FMT. A CVT or
QUANT source is as wide as its tag, which the encoding does not show (R121). -/
structure Widths where
  d : Bool
  s0 : Bool
  s1 : Bool
  s2 : Bool

/-- The widths of an opcode's fields under a format and SUB. -/
def LOp.widths (op : LOp) (f : Fmt) (sub : BitVec 4) : Widths :=
  let w := f.wide
  match op with
  | .madw => ⟨true, false, false, true⟩
  | .lea => ⟨true, true, false, false⟩
  | .shfl => ⟨w, w, false, false⟩
  | .scaleb => ⟨w, w, false, false⟩
  | .cvt => ⟨w, false, false, false⟩
  | .quant => ⟨true, false, false, false⟩
  | .matchLanes => ⟨true, w, false, false⟩
  | .vote => ⟨sub == 3, false, false, false⟩
  | .lbrev => ⟨w, w, false, false⟩
  | .sel => ⟨w, w, w, false⟩
  | .brx | .callx | .setx | .tlbinv => ⟨false, true, false, false⟩
  | .getx | .barstat | .clock | .qstat | .perfrd => ⟨true, false, false, false⟩
  | .wdset => ⟨false, true, true, false⟩
  | .joindec => ⟨false, true, false, false⟩
  | .movsr => ⟨false, w, false, false⟩
  | _ => ⟨w, w, w, w⟩

/-- A register number below the descriptor's count, and even in a 64-bit position (R10, R12, R37). -/
def Reg.inRange (r : Reg) (wide : Bool) (vcount scount : Nat) : Bool :=
  match r with
  | .v n => n.val < vcount && (!wide || n.val % 2 == 0)
  | .s n => n.val < scount && (!wide || n.val % 2 == 0)
  | _ => true

/-- A source that leaves the operation uniform: scalar, zero or immediate; g on the Leek core (R91). -/
def Reg.isUniform : Reg → Bool
  | .s _ | .zero | .imm | .g _ | .k _ => true
  | _ => false

/-- The layout of a queue selector (R216). -/
def qselOk (w : W32) : Bool := w.toNat / 512 == 0 && (w.toNat / 256 == 0 || w.toNat % 256 == 0)

/-- The layout of a barrier selector; ITEM is legal on BARSTAT only (R198). -/
def bselOk (w : W32) (item : Bool) : Bool :=
  w.toNat / 2048 == 0 && (item || w.toNat / 256 == 0) && w.toNat % 256 ≤ 0x17

/-- No reserved code in an overflow table (R29). -/
def ovftOk (w : W32) : Bool :=
  w.toNat / 4096 == 0 &&
    (w.toNat % 4 != 3 && w.toNat / 4 % 4 != 3 && w.toNat / 16 % 4 != 3 && w.toNat / 64 % 4 != 3
      && w.toNat / 256 % 4 != 3 && w.toNat / 1024 % 4 != 3)

/-- A power of two from 1 to 64 (R123, R144). -/
def isPow64 (n : Nat) : Bool := n == 1 || n == 2 || n == 4 || n == 8 || n == 16 || n == 32 || n == 64

/-- Conditions on a trailing word that the encoding alone decides (R59, R121, R123, R127, R190, R198, R216, R219,
R242, R252 to R254, R257). -/
def LOp.immOk (op : LOp) (f : LForm) (w : W32) : Bool :=
  match op with
  | .spin => 1 ≤ w.toNat && w.toNat ≤ 16
  | .movs | .movsr =>
    match specialRow w.toNat with
    | some r => r.wide == f.fmt.wide
    | none => false
  | .cvt => w.toNat ≤ 3
  | .quant => isPow64 w.toNat
  | .tagset =>
    -- the word is the tag only where SRC1 names it; a scalar tag's checks are on its value (R127)
    f.src1 != .imm || (w.toNat ≤ 15 && (w.toNat < 12 ||
      Reg.inRange f.dst true 256 64 && Reg.inRange f.src0 true 256 64))
  | .bararr | .barwait | .barsync | .barwaitt | .barexp => bselOk w false
  | .barstat => bselOk w true
  | .emit | .qstat => qselOk w
  | .evwait => 1 ≤ w.toNat && w.toNat ≤ 64
  | .ovfld => ovftOk w
  | .railset => w.toNat ≤ 7
  | .sigseed => w.toNat < 65536
  | .perfrd => w.toNat ≤ 7
  | _ => true

/-- Further operand rules of single entries that the encoding and the descriptor decide. -/
def LOp.extraOk (op : LOp) (f : LForm) (leek : Bool) (vcount scount : Nat) : Bool :=
  match op with
  | .nperm | .qbfct | .qbfgs => f.dst != f.src0
  | .mov =>
    match f.src0 with
    | .qm _ | .qb _ => f.fmt == .n64
    | _ => true
  | .lbrev =>
    -- a modular register is 64 bits wide (R19)
    match f.src0 with
    | .qm _ | .qb _ => f.fmt.wide
    | _ => true
  | .sel => leek || (match f.dst with | .s _ => false | _ => true)
  | .redlog =>
    match f.dst with
    | .s _ => f.fmt != .f64
    | _ => true
  | .movs =>
    match f.imm with
    | some w =>
      if leek then leekSpecial w.toNat
      else match f.dst, specialRow w.toNat with
        | .s _, some r => !r.perLane
        | _, _ => true
    | none => false
  | .movsr =>
    match f.imm with
    | some w =>
      match specialRow w.toNat with
      | some r => r.write != .readOnly
      | none => false
    | none => false
  | .emit =>
    match f.src0 with
    | .v n => n.val % 16 == 0 && n.val + 15 < vcount
    | .s n => n.val % 16 == 0 && n.val + 15 < scount
    | _ => false
  | .evpop =>
    match f.dst with
    | .s n => n.val % 4 == 0
    | .g n => n.val % 2 == 0
    | _ => true
  | .barexp | .barwait | .barsync =>
    -- BAREXP and the speculative forms name a group barrier (R205, R209)
    match f.imm with
    | some w => (op != .barexp && f.sub == 0) || w.toNat % 256 < 16
    | none => true
  | _ => true

/-- A scalar destination requires uniform sources (R91, R111). -/
def scalarDstOk (k : Kinds) (f : LForm) : Bool :=
  match k.d, f.dst with
  | .vecOrS, .s _ => f.src0.isUniform && f.src1.isUniform && f.src2.isUniform
  | _, _ => true

/-- Whether an instruction of form L or I is legal by its encoding, its agent and the descriptor (R57). -/
def legalL (op : LOp) (f : LForm) (leek : Bool) (vcount scount : Nat) : Bool :=
  let formI := f.imm.isSome
  let k := op.kinds f.sub formI
  let w := op.widths f.fmt f.sub
  let hasImm := f.src0 == .imm || f.src1 == .imm || f.src2 == .imm
  op.agentOk leek f.fmt f.sub
    && (if formI then op.forms.2 else op.forms.1)
    && op.fmtSubOk f.fmt f.sub
    && (!f.a || op.apxOk f.fmt f.sub)
    && (!f.nw || op.nwOk)
    && (!op.predZero || (f.pred.val == 0 && !f.pneg))
    && (formI || !hasImm) && (!formI || hasImm || op.trailing)
    && k.d.ok leek f.sub f.dst && k.s0.ok leek f.sub f.src0 && k.s1.ok leek f.sub f.src1 && k.s2.ok leek f.sub f.src2
    && f.dst.inRange w.d vcount scount && f.src0.inRange w.s0 vcount scount
    && f.src1.inRange w.s1 vcount scount && f.src2.inRange w.s2 vcount scount
    && scalarDstOk k f
    && (match f.imm with | some i => op.immOk f i | none => true)
    && op.extraOk f leek vcount scount

/-! ### Form M (R43, R63, R147 to R176) -/

/-- FMT and SUB of the rows of R63. -/
def MOp.fmtSubOk (op : MOp) (f : Fmt) (sub : BitVec 4) : Bool :=
  let n := sub.toNat
  match op with
  | .ld | .st | .lds | .sts | .ldb | .stb | .fpush | .fpop => n == 0
  | .ldu | .stu => (f == .b32 || f == .n64) && n == 0
  | .atom =>
    if n ≤ 2 then f.isPlainInt || f.isFlt
    else if n ≤ 5 then f.isScalarInt
    else if n == 6 then f != .q64
    else n == 7 && f.isScalarInt
  | .vatom =>
    if n ≤ 2 then
      f == .s32 || f == .n32 || f.isApx || f == .s8x4 || f == .n8x4 || f == .s16x2 || f == .n16x2
    else n ≤ 5 && f == .b32
  | .acopy => f == .b32 && n ≤ 1
  | .bankset => f == .b32 && n ≤ 2
  | _ => f == .b32 && n == 0

/-- SPACE of the rows of R63. -/
def MOp.spaceOk (op : MOp) (sp : Space) : Bool :=
  match op with
  | .ld | .st | .atom => true
  | .lds | .sts | .fpush | .fpop => sp == .scratch
  | .ldu | .stu | .acopy => sp != .remote
  | .vatom => sp != .scratch
  | _ => sp == .generic

/-- Opcodes of form M that the Leek core may issue (R67). -/
def MOp.agentOk (op : MOp) (leek : Bool) : Bool :=
  match op with
  | .ldu | .stu | .acopy | .fpush | .fpop => true
  | _ => !leek

/-- A base that is an s pair, or a v pair where `vec` (R43, R147); a g register on the Leek core. -/
def baseOk (r : Reg) (vec leek : Bool) (vcount scount : Nat) : Bool :=
  match r with
  | .s _ => !leek && r.inRange true vcount scount
  | .v _ => !leek && vec && r.inRange true vcount scount
  | .g _ => leek
  | _ => false

/-- A one-word s register, or g on the Leek core; `wide` for a pair. -/
def sregOk (r : Reg) (wide leek : Bool) (scount : Nat) : Bool :=
  match r with
  | .s _ => !leek && r.inRange wide 256 scount
  | .g _ => leek
  | _ => false

/-- An index: absent, s, or v where `vec` (R43, R147). -/
def indexOk (r : Reg) (vec leek : Bool) (vcount scount : Nat) : Bool :=
  match r with
  | .zero => true
  | .v n => !leek && vec && n.val < vcount
  | r => sregOk r false leek scount

/-- A vector data register, in range and even under a wide format. -/
def vdataOk (r : Reg) (wide : Bool) (vcount : Nat) : Bool :=
  match r with
  | .v _ => r.inRange wide vcount 64
  | _ => false

/-- The registers of a form M instruction, as its entry's table states them. -/
def MOp.regsOk (op : MOp) (f : MForm) (leek : Bool) (vcount scount : Nat) : Bool :=
  let w := f.fmt.wide
  match op with
  | .ld | .st | .ldb | .stb =>
    vdataOk f.data w vcount && baseOk f.base true leek vcount scount && indexOk f.index true leek vcount scount
  | .lds | .sts =>
    vdataOk f.data w vcount && baseOk f.base false leek vcount scount && indexOk f.index true leek vcount scount
  | .ldu | .stu =>
    sregOk f.data w leek scount && baseOk f.base false leek vcount scount && indexOk f.index false leek vcount scount
  | .atom =>
    vdataOk f.data w vcount && baseOk f.base true leek vcount scount && indexOk f.index true leek vcount scount
      && (match f.data with
          | .v n => f.sub != 7 || n.val % (if w then 4 else 2) == 0
          | _ => false)
  | .vatom =>
    vdataOk f.data w vcount && baseOk f.base true leek vcount scount && indexOk f.index true leek vcount scount
      && (match f.data with | .v n => n.val % 8 == 0 | _ => false)
  | .acopy =>
    sregOk f.data true leek scount && baseOk f.base false leek vcount scount && sregOk f.index true leek scount
  | .publish => f.data == .zero && baseOk f.base false leek vcount scount && sregOk f.index false leek scount
  | .winset =>
    sregOk f.data false leek scount && baseOk f.base false leek vcount scount && sregOk f.index false leek scount
  | .pref => f.data == .zero && baseOk f.base true leek vcount scount && indexOk f.index true leek vcount scount
  | .own => f.data == .zero && baseOk f.base false leek vcount scount && sregOk f.index false leek scount
  | .waitr => (f.data == .zero || sregOk f.data false leek scount) && f.base == .zero && f.index == .zero
  | .bankset => sregOk f.data false leek scount && f.base == .zero && f.index == .zero
  | .fpush | .fpop =>
    (if leek then sregOk f.data false leek scount else vdataOk f.data w vcount)
      && f.base == .zero && sregOk f.index false leek scount
  | .isync => f.data == .zero && f.base == .zero && f.index == .zero

/-- Whether an instruction of form M is legal by its encoding, its agent and the descriptor (R57, R43). -/
def legalM (op : MOp) (f : MForm) (leek : Bool) (vcount scount : Nat) : Bool :=
  op.agentOk leek && op.fmtSubOk f.fmt f.sub && op.spaceOk f.space
    && (!f.a || (f.fmt.isApx && (match op with
        | .ld | .st | .lds | .sts | .ldb | .stb => true
        | _ => false)))
    && (!f.nw || (match op with
        | .ld | .lds | .ldb | .ldu | .atom => true
        | _ => false))
    && (match op with
        | .ldb | .stb => f.brec != 0xFF
        | _ => f.brec == 0xFF)
    && op.regsOk f leek vcount scount

/-! ### Form B, the short forms and the prefix (R40, R41, R50) -/

/-- Whether an instruction of form B is legal (R41, R182 to R187). -/
def legalB (op : BOp) (f : BForm) (leek : Bool) : Bool :=
  match op with
  | .bra | .call => true
  | .ret => f.offset == 0
  | .mark => !leek && f.pred.val == 0 && !f.pneg && !f.u
  | .join | .blkend => !leek && f.offset == 0 && f.pred.val == 0 && !f.pneg && !f.u
  | .exit => !leek && f.offset == 0 && !f.u

/-- Whether a short form is legal (R40). -/
def legalSb (op : SbOp) (off : BitVec 18) (pneg : Bool) (pred : Fin 8) (leek : Bool) : Bool :=
  match op with
  | .nop => off == 0 && !pneg && pred.val == 0
  | .bra => true
  | .mark => !leek && !pneg && pred.val == 0
  | .join => !leek && off == 0 && !pneg && pred.val == 0
  | .exit => !leek && off == 0

/-- Whether an encoded shape is legal for an agent under a descriptor's counts (R57). A prefix by itself is legal
for a warp; what it governs is checked by its meaning (R51). -/
def Shape.legal (sh : Shape) (leek : Bool) (vcount scount : Nat) : Bool :=
  match sh with
  | .l op f => legalL op f leek vcount scount
  | .m op f => legalM op f leek vcount scount
  | .b op f => legalB op f leek
  | .sb op off neg pr => legalSb op off neg pr leek
  | .sr op i src dst => !leek && src.val < vcount && dst.val < vcount && (op != .mov || i == 0)
  | .p r => !leek && r.step != 0
  | .word _ => false

/-! ### What an encoding says of its issue -/

/-- The predicate fields of an instruction. Those of an unassigned opcode, of which only the first word is kept, count as 0: the spec
does not say what SPNEG and SPRED are then (R245; DESIGN CHOICE, notes/assumptions/15.md). -/
def Shape.predicate : Shape → Bool × Fin 8
  | .l _ f => (f.pneg, f.pred)
  | .m _ f => (f.pneg, f.pred)
  | .b _ f => (f.pneg, f.pred)
  | .sb _ _ n pr => (n, pr)
  | _ => (false, 0)

/-- The check value of an instruction (R55). -/
def Shape.sig16 : Shape → BitVec 16
  | .b _ f => f.sig16
  | _ => 0

/-- The modes of the system opcodes (R242): trap mode, normal mode or a system context. -/
def Shape.modeOk (sh : Shape) (trap system : Bool) : Bool :=
  match sh with
  | .l .tret _ | .l .ovfld _ | .l .halt _ => trap
  | .l .sigseed _ => !trap
  | .l .tlbinv _ => system
  | .l .movsr f =>
    match f.imm with
    | some n => match specialRow n.toNat with
      | some r => r.write != .trapMode || trap
      | none => true
    | none => true
  | _ => true

/-- The opcodes that stall at issue while the warp speculates (R211). -/
def Shape.stalls : Shape → Bool
  | .m .atom _ | .m .vatom _ | .m .acopy _ | .m .publish _ | .m .winset _ | .m .bankset _ | .m .fpush _ | .m .fpop _
  | .m .waitr _ => true
  | .m _ f => f.space == .remote
  | .l .emit _ | .l .joindec _ | .l .evpop _ | .l .evwait _ | .l .rand _ | .l .qset _ | .l .brk _ | .l .bararr _
  | .l .barwait _ | .l .barsync _ | .l .barwaitt _ | .l .barexp _ | .l .barstat _ => true
  | .l op _ => 0xE0 ≤ op.code.toNat
  | _ => false

/-- The opcodes before which a Leek thread's matrix operations complete (R227). -/
def Shape.drains : Shape → Bool
  | .m .ldu _ | .m .stu _ | .m .acopy _ | .m .fpush _ | .m .fpop _ => true
  | .l .bararr _ | .l .barwait _ | .l .barsync _ | .l .barwaitt _ | .l .barexp _ | .l .evpop _ | .l .evwait _
  | .l .lkexit _ => true
  | _ => false

end Sys2Proof
end

