-- ==== Sys2Proof/WellFormed.lean ====
section
/-!
DEFINITION. Well-formed instructions: those that some agent may issue under the largest kernel descriptor (VCOUNT 256,
SCOUNT 64), and events whose arguments name things the part has. What the descriptor of a group narrows further is
checked when the instruction issues (R10, R12, R57).
-/

namespace Sys2Proof

/-- A word whose major opcode is unassigned (R56). -/
def unassignedWord (w : W32) : Bool :=
  let op := (w.extractLsb' 2 8).toNat
  let len := (w.extractLsb' 0 2).toNat
  len != 3 && (LOp.ofCode op).isNone && (MOp.ofCode op).isNone && (BOp.ofCode op).isNone

/-- A queue of a context: 8 launch queues and at most 256 edge queues (R298). -/
def QueueRef.wf : QueueRef → Bool
  | .launch p => p < 8
  | .edge e => e < 256

/-- A barrier number of R198. -/
def BarId.wf : BarId → Bool
  | .gb _ n => n < 16
  | .sb _ n => n < 8

/-- Well-formedness of an instruction or event. -/
def Instr.wf (i : Instr) : Bool :=
  match i.shape with
  | some (.word w) => unassignedWord w
  | some sh => sh.legal false 256 64 || sh.legal true 256 64
  | none =>
    match i with
    | .gatherTake c q => c < 2048 && q.wf
    | .groupPlace (.queue c q) => c < 2048 && q.wf
    | .bartimeout b => b.wf
    | .keepalive c _ => c < 2048
    | .resultCacheExpiry _ c => c < 2048
    | .registerWrite off _ => off < 2 ^ 24 && off % 8 == 0
    | .doorbell c off _ => c < 2048 && off < 4096 && off % 8 == 0
    | .hostWrite off d => off + d.length ≤ 2 ^ 36
    | .hostRead (.hwA off) n => off < 2 ^ 24 && off % 8 == 0 && n == 8
    | .hostRead (.hwB off) n => off + n ≤ 2 ^ 36
    | .prepareComplete p => p < 32
    | .resizeDeadline p => p < 32
    | .drainComplete c => c < 2048
    | .drainDeadline c => c < 2048
    | .retrainDeadline p => p < 8
    | .linkFence p => p < 8
    | .linkTrainingPass p => p < 8
    | .dieFailure d => d < 8
    | .loanOffer _ p _ => p < 8
    | .railSettle c _ => c < 256
    | .sliceRatioChange c k n => c < 256 && k < 6 && 1 ≤ n.toNat && n.toNat ≤ 8
    | .bankDrainComplete c b => c < 256 && b < 32
    | _ => true

end Sys2Proof
end

