-- ==== Sys2Proof/Decode.lean ====
section
/-!
DEFINITION. Decoding (R33 to R44, R50, R56): total on any bytes, rejecting by name, and the encoder written from the
same layouts. A word that decodes to nothing legal raises ILLEGAL when an agent issues it (R57).
-/

namespace Sys2Proof

/-- The instruction of an opcode of form L or I. -/
def LOp.toInstr : LOp → LForm → Instr
  | .nop, f => .nop f
  | .brx, f => .brx f
  | .callx, f => .callx f
  | .getx, f => .getx f
  | .brk, f => .brk f
  | .spin, f => .spin f
  | .sleep, f => .sleep f
  | .setx, f => .setx f
  | .shfl, f => .shfl f
  | .vote, f => .vote f
  | .redlog, f => .redlog f
  | .scanlog, f => .scanlog f
  | .matchLanes, f => .matchLanes f
  | .add, f => .add f
  | .sub, f => .sub f
  | .addc, f => .addc f
  | .mul, f => .mul f
  | .mulh, f => .mulh f
  | .mad, f => .mad f
  | .madw, f => .madw f
  | .min, f => .min f
  | .max, f => .max f
  | .abs, f => .abs f
  | .neg, f => .neg f
  | .and, f => .and f
  | .or, f => .or f
  | .xor, f => .xor f
  | .not, f => .not f
  | .andn, f => .andn f
  | .shl, f => .shl f
  | .shr, f => .shr f
  | .sar, f => .sar f
  | .rot, f => .rot f
  | .bfx, f => .bfx f
  | .bfi, f => .bfi f
  | .clz, f => .clz f
  | .ffs, f => .ffs f
  | .popc, f => .popc f
  | .brev, f => .brev f
  | .bytep, f => .bytep f
  | .cmp, f => .cmp f
  | .sel, f => .sel f
  | .mov, f => .mov f
  | .movi, f => .movi f
  | .lea, f => .lea f
  | .plog, f => .plog f
  | .movs, f => .movs f
  | .fadd, f => .fadd f
  | .fsub, f => .fsub f
  | .fmul, f => .fmul f
  | .fma, f => .fma f
  | .fmin, f => .fmin f
  | .fmax, f => .fmax f
  | .fsgn, f => .fsgn f
  | .fcmp, f => .fcmp f
  | .fclass, f => .fclass f
  | .rcp, f => .rcp f
  | .rsq, f => .rsq f
  | .sqrt, f => .sqrt f
  | .exp2, f => .exp2 f
  | .log2, f => .log2 f
  | .sin, f => .sin f
  | .cos, f => .cos f
  | .cvt, f => .cvt f
  | .quant, f => .quant f
  | .scaleb, f => .scaleb f
  | .frnd, f => .frnd f
  | .endorse, f => .endorse f
  | .tagset, f => .tagset f
  | .tagget, f => .tagget f
  | .rand, f => .rand f
  | .qset, f => .qset f
  | .qmul, f => .qmul f
  | .qmac, f => .qmac f
  | .qadd, f => .qadd f
  | .qsub, f => .qsub f
  | .qneg, f => .qneg f
  | .qred, f => .qred f
  | .qbfct, f => .qbfct f
  | .qbfgs, f => .qbfgs f
  | .qshoup, f => .qshoup f
  | .nperm, f => .nperm f
  | .lbrev, f => .lbrev f
  | .bararr, f => .bararr f
  | .barwait, f => .barwait f
  | .barsync, f => .barsync f
  | .barwaitt, f => .barwaitt f
  | .barexp, f => .barexp f
  | .barstat, f => .barstat f
  | .emit, f => .emit f
  | .joindec, f => .joindec f
  | .evpop, f => .evpop f
  | .evwait, f => .evwait f
  | .clock, f => .clock f
  | .qstat, f => .qstat f
  | .tld, f => .tld f
  | .agath, f => .agath f
  | .mma, f => .mma f
  | .mmas, f => .mmas f
  | .acz, f => .acz f
  | .acdrn, f => .acdrn f
  | .acrel, f => .acrel f
  | .acstat, f => .acstat f
  | .mmwait, f => .mmwait f
  | .lkexit, f => .lkexit f
  | .trap, f => .trap f
  | .tret, f => .tret f
  | .movsr, f => .movsr f
  | .ovfld, f => .ovfld f
  | .railset, f => .railset f
  | .sigseed, f => .sigseed f
  | .tlbinv, f => .tlbinv f
  | .wdset, f => .wdset f
  | .perfrd, f => .perfrd f
  | .halt, f => .halt f

/-- The instruction of an opcode of form M. -/
def MOp.toInstr : MOp → MForm → Instr
  | .ld, f => .ld f
  | .st, f => .st f
  | .lds, f => .lds f
  | .sts, f => .sts f
  | .ldb, f => .ldb f
  | .stb, f => .stb f
  | .ldu, f => .ldu f
  | .stu, f => .stu f
  | .atom, f => .atom f
  | .vatom, f => .vatom f
  | .acopy, f => .acopy f
  | .publish, f => .publish f
  | .winset, f => .winset f
  | .pref, f => .pref f
  | .own, f => .own f
  | .waitr, f => .waitr f
  | .bankset, f => .bankset f
  | .fpush, f => .fpush f
  | .fpop, f => .fpop f
  | .isync, f => .isync f

/-- The instruction of an opcode of form B. -/
def BOp.toInstr : BOp → BForm → Instr
  | .bra, f => .bra f
  | .call, f => .call f
  | .ret, f => .ret f
  | .mark, f => .mark f
  | .join, f => .join f
  | .exit, f => .exit f
  | .blkend, f => .blkend f

/-- Why bytes are no instruction. Every one of these is ILLEGAL when issued (R57), but `truncated`, which says that
the bytes given end before the instruction does. -/
inductive Reject where
  | truncated        -- fewer bytes than the length class says (R33)
  | reservedRegister -- a register field with a code of no name (R35, R36)
  | reservedSpace    -- SPACE 10 (R43)
  | shortForm        -- an opcode without a short form under LEN 00 (R40)
  | lengthClass      -- a length class the opcode's form does not have (R41, R44)
  | branchFields     -- nonzero bits [15:11] or SUB in form B (R41, R58)
  | prefixFields     -- nonzero bits [31:14] or STEP 0 in the prefix (R50)
  | trailingWord     -- 0x3FF in form M (R43)
  | row              -- a field value absent from the opcode's row or entry (R57)
  deriving DecidableEq, Repr

/-- The register that a 10-bit field names (R35, R36). -/
def decodeReg (f : BitVec 10) : Option Reg :=
  let n := f.toNat
  if h : n < 256 then some (.v ⟨n, h⟩)
  else if n < 512 then (if h : n - 256 < 64 then some (.s ⟨n - 256, h⟩) else none)
  else if n < 768 then (if h : n - 512 < 4 then some (.latch ⟨n - 512, h⟩) else none)
  else
    let c := n - 768
    if h : c < 8 then some (.k ⟨c, h⟩)
    else if h : 0x10 ≤ c ∧ c - 0x10 < 4 then some (.qm ⟨c - 0x10, h.2⟩)
    else if h : 0x14 ≤ c ∧ c - 0x14 < 4 then some (.qb ⟨c - 0x14, h.2⟩)
    else if h : 0x20 ≤ c ∧ c - 0x20 < 16 then some (.ac ⟨c - 0x20, h.2⟩)
    else if h : 0x30 ≤ c ∧ c - 0x30 < 8 then some (.t ⟨c - 0x30, h.2⟩)
    else if h : 0x40 ≤ c ∧ c - 0x40 < 32 then some (.g ⟨c - 0x40, h.2⟩)
    else if c = 0xFE then some .zero
    else if c = 0xFF then some .imm
    else none

/-- The 10-bit field of a register name (R35, R36). -/
def encodeReg : Reg → BitVec 10
  | .v n => .ofNat 10 n.val
  | .s n => .ofNat 10 (256 + n.val)
  | .latch n => .ofNat 10 (512 + n.val)
  | .k n => .ofNat 10 (768 + n.val)
  | .qm n => .ofNat 10 (768 + 0x10 + n.val)
  | .qb n => .ofNat 10 (768 + 0x14 + n.val)
  | .ac n => .ofNat 10 (768 + 0x20 + n.val)
  | .t n => .ofNat 10 (768 + 0x30 + n.val)
  | .g n => .ofNat 10 (768 + 0x40 + n.val)
  | .zero => 0x3FE
  | .imm => 0x3FF

/-- The space of a SPACE code (R43). -/
def decodeSpace (c : BitVec 2) : Option Space :=
  match c.toNat with
  | 0 => some .generic
  | 1 => some .scratch
  | 3 => some .remote
  | _ => none

/-- The SPACE code. -/
def encodeSpace : Space → BitVec 2
  | .generic => 0
  | .scratch => 1
  | .remote => 3

/-- A bit as a Bool. -/
def bit (b : BitVec 1) : Bool := b == 1

/-- A predicate register number. -/
def decodePred (b : BitVec 3) : Fin 8 := ⟨b.toNat, b.isLt⟩

/-- The fields of form L in a doubleword, with the trailing word of form I (R39). -/
def decodeLForm (d : W64) (imm : Option W32) : Option LForm := do
  let src2 ← decodeReg (d.extractLsb' 46 10)
  let src1 ← decodeReg (d.extractLsb' 36 10)
  let src0 ← decodeReg (d.extractLsb' 26 10)
  let dst ← decodeReg (d.extractLsb' 16 10)
  return { sub := d.extractLsb' 60 4, pneg := bit (d.extractLsb' 59 1), pred := decodePred (d.extractLsb' 56 3)
           src2, src1, src0, dst, fmt := Fmt.ofCode (d.extractLsb' 12 4)
           nw := bit (d.extractLsb' 11 1), a := bit (d.extractLsb' 10 1), imm }

/-- The doubleword of form L (R39). -/
def encodeLForm (op : BitVec 8) (len : BitVec 2) (f : LForm) : W64 :=
  f.sub ++ BitVec.ofBool f.pneg ++ BitVec.ofNat 3 f.pred.val ++ encodeReg f.src2 ++ encodeReg f.src1
    ++ encodeReg f.src0 ++ encodeReg f.dst ++ f.fmt.code ++ BitVec.ofBool f.nw ++ BitVec.ofBool f.a ++ op ++ len

/-- The registers of form M in a doubleword (R43). -/
def decodeMForm (d : W64) (off : Option W32) : Except Reject MForm :=
  match decodeReg (d.extractLsb' 36 10), decodeReg (d.extractLsb' 26 10), decodeReg (d.extractLsb' 16 10),
      decodeSpace (d.extractLsb' 54 2) with
  | some index, some base, some data, some space =>
    if index == .imm || base == .imm || data == .imm then .error .trailingWord
    else .ok { off, sub := d.extractLsb' 60 4, pneg := bit (d.extractLsb' 59 1)
               pred := decodePred (d.extractLsb' 56 3), space, brec := d.extractLsb' 46 8, index, base, data
               fmt := Fmt.ofCode (d.extractLsb' 12 4), nw := bit (d.extractLsb' 11 1), a := bit (d.extractLsb' 10 1) }
  | _, _, _, none => .error .reservedSpace
  | _, _, _, _ => .error .reservedRegister

/-- The doubleword of form M (R43). -/
def encodeMForm (op : BitVec 8) (len : BitVec 2) (f : MForm) : W64 :=
  f.sub ++ BitVec.ofBool f.pneg ++ BitVec.ofNat 3 f.pred.val ++ encodeSpace f.space ++ f.brec ++ encodeReg f.index
    ++ encodeReg f.base ++ encodeReg f.data ++ f.fmt.code ++ BitVec.ofBool f.nw ++ BitVec.ofBool f.a ++ op ++ len

/-- The fields of form B (R41). -/
def decodeBForm (d : W64) : Option BForm :=
  if d.extractLsb' 11 5 == 0 && d.extractLsb' 60 4 == 0 then
    some { pneg := bit (d.extractLsb' 59 1), pred := decodePred (d.extractLsb' 56 3), offset := d.extractLsb' 32 24
           sig16 := d.extractLsb' 16 16, u := bit (d.extractLsb' 10 1) }
  else none

/-- The doubleword of form B (R41). -/
def encodeBForm (op : BitVec 8) (f : BForm) : W64 :=
  (0 : BitVec 4) ++ BitVec.ofBool f.pneg ++ BitVec.ofNat 3 f.pred.val ++ f.offset ++ f.sig16 ++ (0 : BitVec 5)
    ++ BitVec.ofBool f.u ++ op ++ (1 : BitVec 2)

/-- A word of layout S.B (R40). -/
def encodeSb (op : BitVec 8) (off : BitVec 18) (pneg : Bool) (pred : Fin 8) : W32 :=
  off ++ BitVec.ofBool pneg ++ BitVec.ofNat 3 pred.val ++ op ++ (0 : BitVec 2)

/-- A word of layout S.R (R40). -/
def encodeSr (op : BitVec 8) (imm : BitVec 6) (a d : Fin 256) : W32 :=
  imm ++ BitVec.ofNat 8 a.val ++ BitVec.ofNat 8 d.val ++ op ++ (0 : BitVec 2)

/-- The prefix word (R50). -/
def encodeRep (p : RepPrefix) : W32 :=
  (0 : BitVec 18) ++ p.stride ++ p.step ++ p.count ++ (3 : BitVec 2)

/-- The bytes that the first word's length class makes up (R33). -/
def lengthOf (w : W32) : Nat :=
  match (w.extractLsb' 0 2).toNat with
  | 1 => 8
  | 2 => 12
  | _ => 4

/-- A short form (R40). -/
def decodeShort (w : W32) : Except Reject Instr :=
  let off := w.extractLsb' 14 18
  let pneg := bit (w.extractLsb' 13 1)
  let pred := decodePred (w.extractLsb' 10 3)
  let a : Fin 256 := ⟨(w.extractLsb' 18 8).toNat, (w.extractLsb' 18 8).isLt⟩
  let d : Fin 256 := ⟨(w.extractLsb' 10 8).toNat, (w.extractLsb' 10 8).isLt⟩
  let clean (op : SbOp) (i : Instr) : Except Reject Instr :=
    if legalSb op off pneg pred false then .ok i else .error .row
  match (w.extractLsb' 2 8).toNat with
  | 0x00 => clean .nop .nopShort
  | 0x01 => .ok (.braShort off pneg pred)
  | 0x06 => clean .mark (.markShort off)
  | 0x07 => clean .join .joinShort
  | 0x08 => clean .exit (.exitShort pneg pred)
  | 0x20 => .ok (.addShort (w.extractLsb' 26 6) a d)
  | 0x3D => if w.extractLsb' 26 6 == 0 then .ok (.movShort a d) else .error .row
  | _ => .error .shortForm

/-- A repeat prefix (R50). -/
def decodeRep (w : W32) : Except Reject Instr :=
  let p : RepPrefix := { stride := w.extractLsb' 12 2, step := w.extractLsb' 8 4, count := w.extractLsb' 2 6 }
  if w.extractLsb' 14 18 == 0 && p.step != 0 then .ok (.rep p) else .error .prefixFields

/-- An instruction of 8 bytes, or of 12 with its trailing word (R39, R41, R43). -/
def decodeLong (d : W64) (imm : Option W32) : Except Reject Instr :=
  let op := (d.extractLsb' 2 8).toNat
  match BOp.ofCode op, MOp.ofCode op, LOp.ofCode op with
  | some b, _, _ =>
    if imm.isSome then .error .lengthClass
    else match decodeBForm d with
      | some f => .ok (b.toInstr f)
      | none => .error .branchFields
  | none, some m, _ => (decodeMForm d imm).map m.toInstr
  | none, none, some l =>
    match decodeLForm d imm with
    | some f => .ok (l.toInstr f)
    | none => .error .reservedRegister
  | none, none, none => .error .row

/-- The instruction in a first word, a second and a third, without the check of its row. A word of length class 11 is a repeat
prefix also where its bits [9:2], which are COUNT and half of STEP, equal an opcode of form B: R41 makes class 11 of such an opcode
ILLEGAL, but R33 and R50 give the class to the prefix, which has no opcode (DEDUCED, notes/assumptions/16.md). -/
def decodeRaw (w0 w1 w2 : W32) : Except Reject Instr :=
  if unassignedWord w0 then .ok (.unassignedOp w0)
  else match (w0.extractLsb' 0 2).toNat with
    | 0 => decodeShort w0
    | 1 => decodeLong (w1 ++ w0) none
    | 2 => decodeLong (w1 ++ w0) (some w2)
    | _ => decodeRep w0

/-- The instruction in three words: decoded, and legal in its row for some agent (R57). -/
def decodeWords (w0 w1 w2 : W32) : Except Reject Instr :=
  match decodeRaw w0 w1 w2 with
  | .ok i => if i.wf then .ok i else .error .row
  | .error e => .error e

/-- Bytes in ascending address order as a word (R5). -/
def wordOfBytes (b : List Byte) : W32 := BitVec.ofNat 32 (ofBytesLE (b.take 4))

/-- Decoding of a byte string: the instruction and the bytes after it. -/
def decode (bytes : List Byte) : Except Reject (Instr × List Byte) :=
  if bytes.length < 4 then .error .truncated
  else
    let w0 := wordOfBytes bytes
    let n := lengthOf w0
    if bytes.length < n then .error .truncated
    else match decodeWords w0 (wordOfBytes (bytes.drop 4)) (wordOfBytes (bytes.drop 8)) with
      | .ok i => .ok (i, bytes.drop n)
      | .error e => .error e

/-- The bytes of a word, lowest address first. -/
def bytesOfWord (w : W32) : List Byte := toBytesLE 4 w.toNat

/-- The bytes of a doubleword, lowest address first. -/
def bytesOfDword (w : W64) : List Byte := toBytesLE 8 w.toNat

/-- The words that encode a shape (R39 to R43, R50). -/
def Shape.encode : Shape → List W32
  | .l op f =>
    match f.imm with
    | none => let d := encodeLForm op.code 1 f; [lo32 d, hi32 d]
    | some i => let d := encodeLForm op.code 2 f; [lo32 d, hi32 d, i]
  | .m op f =>
    match f.off with
    | none => let d := encodeMForm op.code 1 f; [lo32 d, hi32 d]
    | some i => let d := encodeMForm op.code 2 f; [lo32 d, hi32 d, i]
  | .b op f => let d := encodeBForm op.code f; [lo32 d, hi32 d]
  | .sb .nop off n pr => [encodeSb 0x00 off n pr]
  | .sb .bra off n pr => [encodeSb 0x01 off n pr]
  | .sb .mark off n pr => [encodeSb 0x06 off n pr]
  | .sb .join off n pr => [encodeSb 0x07 off n pr]
  | .sb .exit off n pr => [encodeSb 0x08 off n pr]
  | .sr .add i src dst => [encodeSr 0x20 i src dst]
  | .sr .mov i src dst => [encodeSr 0x3D i src dst]
  | .p r => [encodeRep r]
  | .word w => [w]

/-- The words of an instruction; an event has none. -/
def encode (i : Instr) : List W32 :=
  match i.shape with
  | some sh => sh.encode
  | none => []

/-- The bytes of an instruction as they stand in memory (R5). -/
def encodeBytes (i : Instr) : List Byte := (encode i).flatMap bytesOfWord

/-- The instruction that the decoder reads from an instruction whose bits are `w`, bit 0 being the least significant bit
of the first word; bits above `nbits` are zero. -/
def decodeTableWord (nbits w : Nat) : Option Instr :=
  match decode (toBytesLE 12 (w % 2 ^ nbits)) with
  | .ok (i, _) => some i
  | .error _ => none

end Sys2Proof
end

