-- ==== Sys2Proof/Config.lean ====
section
/-!
DEFINITION. What the manual leaves to the device and the free values: constants with no body, so that a claim holds
whatever they are (notes/assumptions/2.md, 6.md and 7.md).
-/

namespace Sys2Proof.Config

/-- Free values for what the manual leaves open, drawn one after another by the counter `fresh` of the state: low bits
of approximate results and reads (R328, R340, R341), results of EXP2, LOG2, SIN and COS under A = 1 (R341), and the
choice of an already fetched line (R174). -/
opaque freeBits : Nat → BitVec 64

/-- The device's own result of EXP2, LOG2, SIN or COS for a function number, a format code and an operand code; it is
used only where it meets the accuracy rule, and is the same at every issue (R120). -/
opaque transcendental : Nat → Nat → Nat → Nat

/-- The module's own number on the fabric (R148). -/
opaque moduleId : BitVec 8

/-- SHA-384 (R381, R383). -/
opaque sha384 : List (BitVec 8) → BitVec 384

/-- The acceptable key digests of the mask ROM (R381), for RSA (0) and SLH-DSA (1). -/
opaque keyDigestOk : Nat → BitVec 384 → Bool

/-- Verification of an RSASSA-PSS (0) or SLH-DSA (1) signature: key and signature bytes from the image, the header
(R381). -/
opaque signatureOk : Nat → List (BitVec 8) → List (BitVec 8) → Bool

/-- Where an image carries its public keys is not stated: the two keys that an image carries (R381). -/
opaque imageKey : Nat → List (BitVec 8) → List (BitVec 8)

/-- The private half of a device identity key pair, RSA (0) or SLH-DSA (1), that the part derives from its unclonable function
(R383). -/
opaque identityPrivate : Nat → List (BitVec 8)

/-- The public key of a private one, and the signature bytes of a message under a private key, for RSA (0) and SLH-DSA (1)
(R381, R383). -/
opaque publicKey : Nat → List (BitVec 8) → List (BitVec 8)
opaque sign : Nat → List (BitVec 8) → List (BitVec 8) → List (BitVec 8)

/-- A device identity public key (R383). -/
def identityKey (k : Nat) : List (BitVec 8) := publicKey k (identityPrivate k)

/-- IDDIGEST: the digest of the two public keys (R383). -/
def identityDigest : BitVec 384 := sha384 (identityKey 0 ++ identityKey 1)

/-- The signature of an attestation report by an identity key (R383). -/
def attestSignature (k : Nat) (report : List (BitVec 8)) : List (BitVec 8) := sign k (identityPrivate k) report

/-- Whether a verifier accepts a report's signature, in the manner of an image's (R381, R383). -/
def attestVerifies (k : Nat) (report sig : List (BitVec 8)) : Bool := signatureOk k (identityKey k ++ sig) report

/-- The draw in W that the module's load asks for, averaged over 1 ms, by the cluster-cycle count (R379). -/
opaque draw : Nat → Nat

/-- The driver's own partition (R391). -/
opaque driverPart : Nat

/-- Where the scratch window of a group lies, by the group's name (R27); its low 15 bits are not used
(notes/assumptions/3.md). -/
opaque scratchBase : Nat → BitVec 64

/-- How tier-one lines spread over the 16 channels of their quarter, and the hash that homes a tier-two line at a cache
slice of its partition (R320), by the line's number. -/
opaque tierOneHome : Nat → Nat
opaque tierTwoHome : Nat → Nat

end Sys2Proof.Config
end

