-- ==== Sys2Proof/Machine/State.lean ====
section
/-!
DEFINITION. The state of one TN-KL8210 module as plain data, its faults and refusals, and the state after reset.
Every record cites the rule that names its contents. What other modules and the host hold is outside; what they send
stands in the schedule, what the module sends stands in the logs at the end of `State`.
-/

namespace Sys2Proof.Machine

/-- Memory in canonical form: addresses strictly rising and no entry equal to zero, what an unlisted byte reads as
(R377: stage 2 writes zero to all memory; notes/assumptions/4.md). -/
abbrev Memory := List Host.Cell

/-- One value a lane. -/
abbrev Lanes (α : Type) := Vector α 64

/-- A vector register: 32 bits a lane and one format tag (R13, R14). -/
structure VReg where
  lanes : Lanes W32
  tag   : Fmt
  deriving DecidableEq, Repr

/-- The contents of a valid bypass latch (R20, R47). -/
structure Latch where
  lanes : Lanes W64
  tag   : Fmt
  wide  : Bool
  apx   : Bool
  deriving DecidableEq, Repr

/-- A join-stack entry (R21). -/
inductive JoinEntry where
  | rejoin (addr : W64) (mask : Mask)
  | path (addr : W64) (mask : Mask)
  deriving DecidableEq, Repr

/-- Where a repeat unit stands: the next iteration, and EXEC and the predicate mask as read at its first one; absent
until that iteration reads them (R52, R53). -/
structure RepState where
  iter  : Nat
  masks : Option (Mask × Mask)
  deriving DecidableEq, Repr

/-- Why an agent does not issue. The instruction at its program counter issues again when the wait is over. -/
inductive Wait where
  | ready
  | phase (bar : BarId) (n : Nat)              -- BARWAIT, BARSYNC: until phase n completes (R203)
  | rearrive (bar : BarId) (n : Nat)           -- a second BARARR in phase n (R203)
  | timed (bar : BarId) (n deadline : Nat)     -- BARWAITT (R204)
  | expired (bar : BarId) (n deadline : Nat) (blocked : Bool)   -- BARWAITT at its limit (R204)
  | sleep (until' : Nat)                       -- SLEEP (R191)
  -- 4 KiB page n is not present (R243), with the access as in R392 and what a PERM would put into TADDR and TLANES
  | page (n : W64) (access : Nat) (addr : W64) (lanes : Mask)
  | refused (n : W64) (access : Nat) (addr : W64) (lanes : Mask)   -- CTX_FAULTFAIL of that page (R388)
  | remote (tags : List Nat)                   -- a remote LD or ATOM that waits for its answers (R153, R160)
  | remoteAll                                  -- WAITR (R164)
  | window (owner : Byte) (k : Nat)            -- fewer than k free RSNs toward an owner (R161)
  | speculation                                -- R211
  | rail (level : Nat)                         -- RAILSET (R253)
  | records (m : Nat)                          -- EVWAIT (R219)
  | fifoRoom (block n : Nat)                   -- FPUSH (R173)
  | fifoData (block n : Nat)                   -- FPOP (R173)
  | drain (bank : Nat)                         -- BANKSET (R172)
  | quiet (block : Nat)                        -- BANKSET of a spilled block: accesses issued before it (R318)
  | queues (need : List (QueueRef × Nat))      -- EMIT.BLOCK (R217)
  | counter (addr : W64)                       -- EMIT, JOINDEC: events of the counter that wait for a page (R408)
  | shadows (lo hi before : Nat)               -- WINSET, PUBLISH: SHADOW copies into a range (R169, R170)
  | matrix                                     -- MMWAIT, LKEXIT and R227
  | matrixQueue                                -- a full queue of 8 (R225)
  | gather (op : Nat)                          -- AGATH until its index cycle ends (R226)
  | gathered                                   -- its index cycle has ended
  | events                                     -- memory events of its instruction that are still to come (R158, R332)
  | slot                                       -- no free accumulator slot (R234)
  deriving DecidableEq, Repr

/-- A check granule of a register that holds an uncorrectable error, of which a modulus has two in a lane, or the next operand that
a lane reads over the crossbar (R18, R401 sources 1 and 6). -/
inductive BadReg where
  | v (n lane : Nat)
  | s (n : Nat)
  | qm (n lane : Nat) (high : Bool)
  | qb (n lane : Nat) (high : Bool)
  | latch (n lane : Nat)
  | crossbar (lane : Nat)
  deriving DecidableEq, Repr

/-- The speculation of a warp past a group barrier: its checkpoint, shadows, store buffer and read set (R210). Stores
are in program order, each with its location and bytes, and `converted` are the numbers of those that an STB made; the read set
holds sectors. `marks` are the uncorrectable errors of the saved scalar and shadowed registers. -/
structure Spec where
  bar     : Nat
  phase   : Nat
  pc      : W64
  sregs   : Vector W32 64
  ks      : Vector Mask 8
  exec    : Mask
  join    : List JoinEntry
  sigw    : BitVec 16
  flags   : Byte
  shadows : List (Nat × VReg)
  marks   : List BadReg
  stores  : List (Nat × List Byte)
  converted : List Nat
  reads   : List Nat
  deriving DecidableEq, Repr

/-- One event of an atomic whose elements are separate events: element `el` of lane `lane`'s step at `place`, with its operand
element (R158). -/
structure AtomEvent where
  lane  : Nat
  el    : Nat
  place : Nat
  v     : Nat
  deriving DecidableEq, Repr

/-- A converted element of an LDB: its lane and number, its code and flags, and its index where it is a NaN that became 0
(R79). -/
structure Converted where
  lane  : Fin 64
  e     : Nat
  code  : Nat
  flags : Byte
  nan   : Option Nat
  deriving DecidableEq, Repr

/-- The table of a block that an LDB reads: its lanes and the places of its bytes (R326). -/
structure TableRead where
  block  : Nat
  lanes  : Mask
  places : List (Nat × Bool)
  deriving DecidableEq, Repr

/-- An element that an LDB reads: its lane, its number, its index, and the places of its bytes, each with whether it is
approximate storage (R155, R324). -/
structure ElemRead where
  lane   : Fin 64
  e      : Nat
  index  : Nat
  places : List (Nat × Bool)
  deriving DecidableEq, Repr

/-- Where an LDB stands: its record, its tables with the bytes of them read so far by place, the elements to come and those
read (R154, R326). -/
structure RecLoad where
  record : List Byte
  tables : List TableRead
  bytes  : List (Nat × Byte)
  todo   : List ElemRead
  got    : List Converted
  deriving DecidableEq, Repr

/-- What is left of an instruction whose events are not consecutive: the events of an atomic, with the old elements read, by
lane and number (R158); the bytes of a buffer record to be read, each with its address, place and APX attribute, and those read
(R154); an LDB's reads (R326); an STB's stores by element, with its flags; and the appends that end either (R81). -/
inductive Stage where
  | atoms (todo : List AtomEvent) (got : List (Nat × Nat × Nat))
  | record (todo : List (W64 × Nat × Bool)) (got : List Byte)
  | load (x : RecLoad)
  | stores (todo : List (List (Nat × List Byte))) (flags : Byte) (nans : List Nat) (hdr : W64)
  | appends (vals : Lanes (W64 × Byte)) (nans : List Nat) (hdr : W64)
  deriving DecidableEq, Repr

/-- An instruction whose events are not consecutive, between two of them (R158, R332): the lanes that its operands killed with
their source, the errors that it has read, each with its lanes, source and address, the overflow table at its issue (R31,
R252), and what is left. -/
structure Progress where
  kills : Mask × Nat
  errs  : List (Mask × Nat × W64)
  ovft  : BitVec 16
  stage : Stage
  deriving DecidableEq, Repr

/-- A warp (R9 to R32). `join` has its top first. `ended` holds the address of the EXIT that ended it (R307); `noSpec` the
address of a wait that a roll-back left, which issues again without speculation (R213). -/
structure Warp where
  id        : Nat
  slice     : Nat
  pc        : W64
  v         : Vector VReg 256
  s         : Vector W32 64
  k         : Vector Mask 8
  exec      : Mask
  dead      : Mask
  qm        : Vector (Lanes W64) 4
  qb        : Vector (Lanes W64) 4
  latches   : Vector (Option Latch) 4
  join      : List JoinEntry
  sigw      : BitVec 16
  seed      : BitVec 16
  rng       : Lanes W64
  flags     : Byte
  round     : BitVec 2
  tsw       : W32
  tpc       : W64
  taddr     : W64
  tfirst    : W64
  tlanes    : W64
  rep       : Option RepState
  wait      : Wait
  spinUntil : Nat
  yield     : Bool
  halted    : Bool
  lastIssue : Nat
  spec      : Option Spec
  noSpec    : Option W64
  remote    : BitVec 5
  fetched   : List (Nat × List Byte)
  bad       : List BadReg
  progress  : Option Progress
  ended     : Option W64
  deriving DecidableEq, Repr

/-- The tracked type of an accumulator slot (R231). -/
inductive SlotType where
  | none' | f32 | s32
  deriving DecidableEq, Repr

/-- A matrix operation with the values it issued with (R225, R229 to R237). Addresses are scratch offsets, `la`, `t` and
`slot` the latch, tile and slot. -/
inductive MatKind where
  | tld (t : Fin 8) (a pitch : Nat)
  | agath (la : Fin 2) (index base pitch : Nat)
  | mma (fmt afmt : Fmt) (la : Fin 2) (t : Fin 8) (slot : Nat)
  | mmas (fmt afmt : Fmt) (la : Fin 2) (t : Fin 8) (slot scales : Nat) (tile : W32)
  | acz (slot : Nat)
  | acdrn (fmt : Fmt) (type : SlotType) (slot a pitch : Nat)
  | acrel (slot : Nat)
  deriving DecidableEq, Repr

/-- A queued or running matrix operation. `name` is the accumulator name it was issued with (R238), `events` how many of its
memory events have taken place and `held` what they read (R227), `ovft` the overflow table at its issue (R252) and `pc` its
instruction's address. -/
structure MatOp where
  id      : Nat
  kind    : MatKind
  name    : Option (Fin 16)
  started : Bool
  events  : Nat
  held    : List Byte
  ovft    : BitVec 16
  pc      : W64
  deriving DecidableEq, Repr

/-- A tile or operand latch: up to 8 KiB, with its tag (R25). -/
structure Tile where
  data : Memory
  tag  : Fmt
  deriving DecidableEq, Repr

/-- A Leek thread (R24, R25, R222). Bit 0 of `k` is never written. -/
structure Leek where
  index   : Nat
  pc      : W64
  g       : Vector W64 32
  k       : Byte
  tiles   : Vector Tile 8
  la      : Vector Tile 2
  queue   : List MatOp
  wait    : Wait
  halted  : Bool
  fetched : List (Nat × List Byte)
  bad     : List MatGranule
  ended   : Option W64
  deriving DecidableEq, Repr

/-- The state of a barrier (R200) with its watchdog (R208). `latest` holds each member's latest arrival, `doneAt` the time
of the latest completion. -/
structure Barrier where
  phase   : Nat
  arrived : List AgentId
  bytes   : Int
  stopped : Bool
  count   : Nat
  latest  : List (AgentId × Nat)
  doneAt  : Nat
  deriving DecidableEq, Repr

/-- A block-map entry (R315). -/
structure BlockEntry where
  slot  : BitVec 16
  valid : Bool
  spill : Bool
  apx   : Bool
  fifo  : Bool
  bank  : BitVec 5
  deriving DecidableEq, Repr

/-- A slot of a FIFO: its 256 bytes, and the numbers of its 8-byte granules that hold an uncorrectable error (R319,
R405). -/
structure FifoSlot where
  bytes : List Byte
  bad   : List Nat
  deriving DecidableEq, Repr

/-- A check granule that holds an uncorrectable error, by its first place and its source of R401 (R405); of a line's copy in the
cache of a cluster, which only that cluster reads, with the cluster (R313, R320). -/
structure BadGranule where
  at'     : Nat
  source  : Nat
  cluster : Option Nat
  deriving DecidableEq, Repr

/-- The kernel descriptor as read at placement (R281, R283). -/
structure KDesc where
  vcount   : Nat
  scount   : Nat
  apxFrom  : Nat
  gwarps   : Nat
  spec     : Bool
  restart  : Bool
  leek     : Bool
  nbrec    : Nat
  scrSize  : Nat
  gbMask   : BitVec 16
  sbMask   : BitVec 8
  leekBar  : BitVec 16
  lkEntry  : W64
  brecBase : W64
  watch    : W32
  watchBuf : W64
  deriving DecidableEq, Repr

/-- A resident group (R8, R301, R306). `draining` lists its local banks that are not drained yet (R317), `lost` its lanes
lost without restart, each as 64 x WARPID + LANEID (R297, R308). A restart group holds in `restart` the counter that its
end decrements. A group that has `ended` holds nothing and stands for its departed members until its span is gone. -/
structure Group where
  uid      : Nat
  ctx      : Nat
  cluster  : Nat
  pod      : Nat
  podAddr  : W64
  groupId  : Nat
  groups   : Nat
  spanId   : Nat
  span     : Nat
  prio     : Nat
  age      : Nat
  desc     : KDesc
  scrBase  : W64
  level    : BitVec 3
  blocks   : Vector BlockEntry 32
  fifos    : List (Nat × List FifoSlot)
  bars     : Vector Barrier 16
  names    : Vector (Option Nat) 16
  warps    : List Warp
  leek     : Option Leek
  draining : List Nat
  fault    : Bool
  lost     : List Nat
  restart  : Option W64
  ended    : Bool
  deriving DecidableEq, Repr

/-- A span whose groups are placed (R8, R306). -/
structure Span where
  uid    : Nat
  ctx    : Nat
  pod    : Nat
  groups : List Nat
  bars   : Vector Barrier 8
  deriving DecidableEq, Repr

/-- A pod as 64 bytes give it (R292). -/
structure Pod where
  entry : W64
  frame : W64
  join  : W64
  shape : W64
  args  : Vector W32 8
  deriving DecidableEq, Repr

/-- A pod that has been taken and whose work has not ended (R293, R297, R309): the next span to place, the spans placed and
not yet ended, and what its end event carries. `since` is when its next span began to wait, `order` the age of its pod and
`limit` whether that span has waited 1 ms (R302). `joins` is used for a gathered group, whose thread pods each have a
counter. -/
structure PodWork where
  uid       : Nat
  ctx       : Nat
  queue     : QueueRef
  addr      : W64
  pod       : Pod
  next      : Nat
  open'     : Nat
  fault     : Bool
  lost      : List Nat
  since     : Nat
  order     : Nat
  limit     : Bool
  gathered  : Bool
  joins     : List (Nat × W64)
  deriving DecidableEq, Repr

/-- An open or offered gathered group (R300). `count` lanes are filled. `since` is when its first pod was taken, and from
its offer on when it began to wait. -/
structure Gather where
  uid     : Nat
  ctx     : Nat
  queue   : QueueRef
  pod     : Pod
  warps   : Nat
  base    : W64
  count   : Nat
  joins   : List (Nat × W64)
  since   : Nat
  offered : Bool
  order   : Nat
  limit   : Bool
  deriving DecidableEq, Repr

/-- Publish window n of a context (R169). -/
structure Window where
  n    : Nat
  base : W64
  size : Nat
  deriving DecidableEq, Repr

/-- Run state of a context (R309, R310, R394). `saved` says that its drain completed and wrote its requester state. -/
inductive CtxRun where
  | running
  | draining (deadline : Nat)
  | drained (saved : Bool)
  | terminated
  deriving DecidableEq, Repr

/-- Toward one owner module: next RSN, the watermark (the highest retired RSN), the last acknowledged watermark, completions
ahead of the watermark, and when the last keepalive went out (R161, R162, R361). -/
structure Peer where
  owner     : Byte
  next      : W32
  watermark : W32
  acked     : W32
  early     : List W32
  kept      : Nat
  deriving DecidableEq, Repr

/-- A context (R391, R251 to R257). `hidden` is the invisible backing of its publish windows by virtual address, `hiddenBad`
the uncorrectable granules in it (R169, R170, R405); `diagGroup` the group in whose scratch window the diagnostic buffer lies
(R256). -/
structure Context where
  id         : Nat
  gen        : BitVec 16
  run        : CtxRun
  ptRoot     : W64
  trapBase   : W64
  eqBase     : W64
  lqBase     : W64
  edgeBase   : W64
  nEdge      : Nat
  spillBase  : W64
  spillSlots : Nat
  spillUsed  : List Nat
  gathBase   : W64
  gathSize   : W64
  gathUsed   : List (Nat × Nat)
  remMap     : W64
  deadline   : Nat
  vector     : Byte
  debug      : Bool
  system     : Bool
  qbadEsc    : Bool
  ovft       : BitVec 16
  wdCap      : W64
  wdLimit    : Nat
  diag       : W64
  diagGroup  : Option Nat
  saveArea   : W64
  perf       : Vector W64 8
  windows    : List Window
  hidden     : Memory
  hiddenBad  : List BadGranule
  stopped    : List QueueRef
  peers      : List Peer
  deriving DecidableEq, Repr

/-- A partition (R386, R388, R398, R400, R407). -/
structure Partition where
  id       : Nat
  quarters : BitVec 32
  leaving  : BitVec 32
  prepared : Bool
  t2Base   : Nat
  t2Units  : Nat
  credits  : Nat
  apxst    : BitVec 3
  ring     : W64
  failed   : Bool
  deriving DecidableEq, Repr

/-- The telemetry counters of one partition (R400). -/
structure PartCount where
  lanes : Nat
  warps : Nat
  leeks : Nat
  terms : Nat
  deriving DecidableEq, Repr

/-- A record of the cluster's event queue and the group it belongs to (R168, R219). -/
structure EventRec where
  group  : Nat
  record : BitVec 128
  deriving DecidableEq, Repr

/-- A held accumulator slot: its number, group, contents by byte, type, and a release pending (R234, R237). -/
structure AccSlot where
  n       : Nat
  group   : Nat
  data    : Memory
  type    : SlotType
  release : Bool
  deriving DecidableEq, Repr

/-- A slice: its clock ratio n and its slice cycles in eighths (R27, R303). -/
structure Slice where
  ratio   : BitVec 4
  eighths : Nat
  deriving DecidableEq, Repr

/-- A cluster (R168, R223, R225, R234, R253, R317). -/
structure Cluster where
  id       : Nat
  events   : List EventRec
  slots    : List AccSlot
  slotWait : List Nat
  retired  : List Nat
  retiring : List Nat
  waiters  : List AgentId
  level    : BitVec 3
  lastLeek : Nat
  slices   : Vector Slice 6
  drains   : List Nat
  loadPath : Option (Nat × Nat)
  array    : Option (Nat × Nat)
  deriving DecidableEq, Repr

/-- A copy, or a PUBLISH whose report is not delivered yet (R166 to R170). `scratch` says that the source is a scratch
offset, `held` is a sector that has been read and not yet written. STATUS codes are those of R168. -/
structure Copy where
  uid     : Nat
  ctx     : Nat
  group   : Nat
  cluster : Nat
  agent   : AgentId
  shadow  : Bool
  publish : Bool
  scratch : Bool
  src     : W64
  dst     : W64
  count   : Nat
  done    : Nat
  written : Nat
  ctl     : W32
  status  : Byte
  held    : Option (List Byte)
  deriving DecidableEq, Repr

/-- An outstanding remote operation at the requester (R160, R161). `lanes` names, for each lane step of the request, its
lane; `sentAt` is the time of its latest transmission and `refusedAt` that of a refusal not yet answered by a resend. -/
structure Outstanding where
  tag       : Nat
  agent     : AgentId
  owner     : Byte
  part      : Option Nat
  request   : RemoteRequest
  lanes     : List Nat
  posted    : Bool
  tries     : Nat
  sentAt    : Nat
  refusedAt : Option Nat
  done      : Option (RemoteStatus × List W64 × Option Nat)
  deriving DecidableEq, Repr

/-- An entry of the owner's result cache (R161, R362). -/
structure CacheEntry where
  slice     : Nat
  requester : Byte
  ctx       : Nat
  gen       : BitVec 16
  rsn       : W32
  status    : RemoteStatus
  values    : List W64
  deriving DecidableEq, Repr

/-- What the owner knows of a requester context: its newest generation, its watermark, the next RSN to apply, later RSNs that
were answered without being applied, and when a request or keepalive last arrived (R161 to R163). -/
structure Requester where
  requester : Byte
  ctx       : Nat
  gen       : BitVec 16
  watermark : W32
  next      : W32
  skipped   : List W32
  last      : Nat
  deriving DecidableEq, Repr

/-- A command-ring entry with the time of its acceptance (R384, R394). -/
structure Command where
  index : Nat
  w     : Vector W64 7
  time  : Nat
  deriving DecidableEq, Repr

/-- A command that runs on (drain, resize, slot retirement, retrain) with its deadline in cluster cycles. -/
structure Running where
  cmd      : Command
  deadline : Nat
  deriving DecidableEq, Repr

/-- The module's draw from one cluster cycle to another, in 1 / 1,400,000 of a watt (R379, R396). -/
structure DrawSpan where
  start : Nat
  stop  : Nat
  draw  : Nat
  deriving DecidableEq, Repr

/-- A power loan (R404). Times are cluster cycles. -/
structure Loan where
  uid      : Nat
  side     : LoanSide
  port     : Nat
  tokens   : Nat
  since    : Nat
  recalled : Option Nat
  fenced   : Option Nat
  deriving DecidableEq, Repr

/-- A page-table entry in force, for every agent of its context and every address that it covers, until an invalidation (R255,
R393; notes/assumptions/5.md): the first 4 KiB page that it covers, the entry, and the base-2 logarithm of the bytes it covers, 39, 30,
21 and 12 for levels 1 to 4 and 16 for the entries of a 64 KiB page. -/
structure TlbEntry where
  ctx     : Nat
  page    : Nat
  entry   : W64
  size    : Nat
  deriving DecidableEq, Repr

/-- Whether an entry in force covers an address. -/
def TlbEntry.covers (t : TlbEntry) (va : Nat) : Bool := t.page * 4096 / 2 ^ t.size == va / 2 ^ t.size

/-- Whether an entry in force is a leaf: S is set, or it is one of level 4 (R393). -/
def TlbEntry.isLeaf (t : TlbEntry) : Bool := t.entry.getLsbD 8 || t.size ≤ 16

/-- A counter event or continuation that its home slice still holds (R218, R408). `late` is a decrement held since before its
context was terminated or reset, which releases nothing (R309). -/
inductive Held where
  | dec (ctx : Nat) (counter : W64) (fault lost : Nat) (pod : W64)
  | late (ctx : Nat) (counter : W64) (fault lost : Nat) (pod : W64)
  | inc (ctx : Nat) (counter : W64) (pod : W64)
  | kill (ctx : Nat) (counter : W64) (pod : W64)
  | cont (ctx : Nat) (counter : W64)
  | enqueue (ctx : Nat) (q : QueueRef) (pod : List Byte)
  deriving DecidableEq, Repr

/-- A held item with its name. The first item of a counter's sequence has met an absent page, whose address is `page`; the
others wait behind it and have none (R408). -/
structure HeldItem where
  uid  : Nat
  item : Held
  page : Option W64
  deriving DecidableEq, Repr

/-- A step that the part still has to take for a context, in order: a counter event of a termination, a record of the error
queue, or a piece of a diagnostic buffer at its place (R307, R309, R373). -/
inductive Todo where
  | count (h : Held)
  | record (ctx : Nat) (entries : List (List W64))
  | piece (ctx place : Nat) (bs : List Byte)
  deriving DecidableEq, Repr

/-- A request that the host port has accepted: the sectors that are still to come, each with its offset in HW-B, a write's with
their bytes and a read's with their lengths, and the bytes that a read has got; a doorbell write; or a write or a read of an HW-A
register (R337, R379, R380, R387, R400). -/
inductive PortRequest where
  | write (todo : List (Nat × List Byte))
  | read (offset : Nat) (todo : List (Nat × Nat)) (got : List Byte)
  | doorbell (ctx offset : Nat) (value : W64)
  | register (offset : Nat) (value : W64)
  | fwgo (x : FwgoWrite)
  | trade (value : W64)
  | look (offset : Nat)
  deriving DecidableEq, Repr

/-- A remote request that the owner is carrying out, event by event: what is to come, and the old elements read, by step and
number (R157, R158, R363). -/
structure Serving where
  request : RemoteRequest
  todo    : List AtomEvent
  got     : List (Nat × Nat × Nat)
  deriving DecidableEq, Repr

/-- A restart group to launch (R308): the group, warp, slice and lane that were lost, as they were then, the pod of the
group, and the lane's counter. -/
structure Restart where
  uid   : Nat
  orig  : Group
  pod   : Pod
  join  : W64
  warp  : Nat
  slice : Nat
  lane  : Nat
  deriving DecidableEq, Repr

/-- The HW-A registers with storage of their own (R379, R400). -/
structure HwA where
  stage      : BitVec 3
  ready      : Bool
  failCode   : Byte
  failDetail : BitVec 16
  fwAddr     : W64
  fwSize     : W32
  cmdBase    : W64
  cmdCap     : BitVec 16
  cmdTail    : W64
  cmdHead    : W64
  pFloor     : BitVec 14
  pRamp      : BitVec 17
  aper       : Vector (W64 × W64) 64
  fenced     : Byte
  up         : Byte
  training   : Byte
  dieFailed  : Byte
  pGrant     : BitVec 10
  pTrade     : BitVec 11
  pLent      : BitVec 10
  pBorrow    : BitVec 10
  telVec     : BitVec 9
  secErr     : List (Nat × Nat)
  seUnc      : List (Nat × Nat)
  safeGrant  : BitVec 10
  secVersion : W32
  fwDigest   : BitVec 384
  warpWidth  : BitVec 16
  cls        : Byte
  deriving DecidableEq, Repr

/-- A packet that the module sent on the fabric (R160 to R163, R404). -/
inductive Packet where
  | request (owner : Byte) (r : RemoteRequest)
  | answer (requester : Byte) (a : RemoteAnswer)
  | refusal (requester : Byte) (a : RemoteAnswer)
  | keepalive (owner : Byte) (k : KeepAlive)
  | keepaliveAck (requester : Byte) (a : KeepAliveAck)
  | loan (port : Nat) (tokens : Int)
  deriving DecidableEq, Repr

/-- What moves next: a slice or a Leek core issues, a warp whose instruction has events to come makes the next, the matrix
operations of a group make their next memory event, the part takes its next step for a context, the host port makes its next
event, the owner the next event of a request, `n` cluster cycles pass, or an event comes (notes/assumptions/1.md and
10.md). -/
inductive Move where
  | slice (cluster k : Nat)
  | leekCore (cluster : Nat)
  | warp (group w : Nat)
  | matrix (group : Nat)
  | part (ctx : Nat)
  | port
  | owner (requester : Byte) (ctx : Nat)
  | tick (n : Nat)
  | event (i : Instr)
  deriving DecidableEq, Repr

/-- The state of the module. `arrivals` gives, for pods in queues, the context, the queue, the index and the age (R302). `watts`
is the module's draw, in 1 / 1,400,000 of a watt (R396), and `draws` what it was over the last 11 ms, which PDRAW averages (R379, R404).
`datapath` are the places and lengths that the last converting store, atomic or drain of an accumulator slot wrote (R402). -/
structure State where
  -- the model's own bookkeeping
  schedule  : List Move
  cur       : Option AgentId
  fresh     : Nat
  nextUid   : Nat
  -- the module
  clock     : Nat
  power     : Bool
  alive     : Bool
  hw        : HwA
  mem       : Memory
  poison    : List BadGranule
  tlb       : List TlbEntry
  gens      : List (Nat × BitVec 16)
  partEpoch : List (Nat × W32)
  parts     : List Partition
  counts    : List (Nat × PartCount)
  ctxs      : List Context
  arrivals  : List (Nat × QueueRef × Nat × Nat)
  pods      : List PodWork
  gathers   : List Gather
  spans     : List Span
  groups    : List Group
  clusters  : List Cluster
  copies    : List Copy
  held      : List HeldItem
  todo      : List Todo
  restarts  : List Restart
  faultWait : List (Nat × Nat)
  accepted  : List Command
  running   : List Running
  outRemote : List Outstanding
  lastPkt   : List (Byte × Nat)
  peerEpochs : List ((Byte × Nat) × W32)
  cache     : List CacheEntry
  requesters : List Requester
  heldReqs  : List RemoteRequest
  serving   : List Serving
  loans     : List Loan
  lastGrant : Nat
  admitDie  : Nat
  admitPos  : List (Nat × Nat)
  admitNext : Nat
  watts     : Nat
  draws     : List DrawSpan
  datapath  : List (Nat × Nat)
  -- the outside
  port      : List PortRequest
  hostMem   : Memory
  fabricOut : List Packet
  msi       : List Byte
  hostReads : List (HostAddr × List Byte)
  deriving DecidableEq, Repr

/-- The model's faults. -/
inductive Fault where
  /-- Raised by the meaning of an instruction when no resident agent is issuing. The step never executes an instruction
  so; the part itself has no such situation. Safe: nothing is claimed of it. -/
  | noAgent
  deriving DecidableEq, Repr

/-- The model's refusals. -/
inductive Refusal where
  /-- Answered only by an arm of `exec` whose instruction has no meaning yet. Safe: nothing is claimed of it. -/
  | notModelled (mnemonic : String)
  deriving DecidableEq, Repr

/-- The registers of HW-A after reset (R379, R400). PGRANT, SAFEGRANT, the digest and the version are set at STAGE 4 and 5;
until then they hold zero (notes/assumptions/3.md). -/
def HwA.reset : HwA :=
  { stage := 0, ready := false, failCode := 0, failDetail := 0, fwAddr := 0, fwSize := 0, cmdBase := 0, cmdCap := 0
    cmdTail := 0, cmdHead := 0, pFloor := 0, pRamp := 0, aper := Vector.replicate 64 (0, 0), fenced := 0
    up := 0, training := 0, dieFailed := 0, pGrant := 0, pTrade := 0, pLent := 0, pBorrow := 0, telVec := 0
    secErr := [], seUnc := [], safeGrant := 0, secVersion := 0, fwDigest := 0, warpWidth := 0, cls := 0 }

/-- The module right after reset: supplies on, every register at its reset value, memory zero, nothing created. The
bring-up of R377 runs with the event FUNDAMENTAL_RESET. -/
def State.reset : State :=
  { schedule := [], cur := none, fresh := 0, nextUid := 0, clock := 0, power := true, alive := true, hw := HwA.reset
    mem := [], poison := [], tlb := [], gens := [], partEpoch := [], parts := [], counts := [], ctxs := [], arrivals := [], pods := []
    gathers := [], spans := [], groups := [], clusters := [], copies := [], held := [], todo := [], restarts := [], faultWait := []
    accepted := [], running := [], outRemote := [], lastPkt := [], peerEpochs := [], cache := [], requesters := [], heldReqs := [], serving := []
    loans := [], lastGrant := 0, admitDie := 7, admitPos := [], admitNext := 0, watts := 0, draws := []
    datapath := [], port := [], hostMem := []
    fabricOut := [], msi := [], hostReads := [] }

end Sys2Proof.Machine
end

