-- ==== Sys2Proof/Machine/Memory.lean ====
section
/-!
DEFINITION. Memory as bytes: the canonical form and its operations, the physical places of the module (R2, R313, R386),
the check granules (R405), and the little numeric helpers over lanes and masks that the other files share.
-/

namespace Sys2Proof.Machine

/-! ### Lanes and masks -/

/-- One value a lane, from a function of the lane number. -/
def mkLanes {α : Type} (f : Fin 64 → α) : Lanes α := ⟨⟨(List.finRange 64).map f⟩, by simp⟩

/-- A vector with one element updated; an index outside it changes nothing. -/
def vmod {α : Type} {n : Nat} (v : Vector α n) (i : Nat) (f : α → α) : Vector α n :=
  if h : i < n then v.set i (f v[i]) else v

/-- The first `n` bits that a predicate holds at. -/
def maskBits (p : Nat → Bool) : (n : Nat) → BitVec n
  | 0 => 0#0
  | n + 1 => BitVec.cons (p n) (maskBits p n)

/-- The mask of the lanes where a predicate holds. -/
def maskOf (p : Nat → Bool) : Mask := maskBits p 64

/-- The lanes of a mask in ascending order. -/
def Mask.lanes (m : Mask) : List (Fin 64) := (List.finRange 64).filter fun l => m.getLsbD l.val

/-- Zero-extension to a doubleword. -/
def zx64 {n : Nat} (x : BitVec n) : W64 := x.setWidth 64

/-! ### Canonical memory -/

/-- The canonical form: addresses strictly rising from `lo`, and no zero entry. -/
def Memory.wfFrom : Nat → Memory → Bool
  | _, [] => true
  | lo, (a, b) :: m => decide (lo ≤ a) && b != 0 && Memory.wfFrom (a + 1) m

/-- The canonical form of memory. -/
def Memory.wf (m : Memory) : Bool := Memory.wfFrom 0 m

/-- The byte at an address; an unlisted byte reads as zero (notes/assumptions/4.md). -/
def Memory.get : Memory → Nat → Byte
  | [], _ => 0
  | (k, v) :: m, a => if a = k then v else if a < k then 0 else Memory.get m a

/-- Memory with one byte written; a zero removes the entry. -/
def Memory.set : Memory → Nat → Byte → Memory
  | [], a, b => if b = 0 then [] else [(a, b)]
  | (k, v) :: m, a, b =>
    if a < k then (if b = 0 then (k, v) :: m else (a, b) :: (k, v) :: m)
    else if a = k then (if b = 0 then m else (a, b) :: m)
    else (k, v) :: Memory.set m a b

/-- `n` bytes from an address up. -/
def Memory.read (m : Memory) (a : Nat) : Nat → List Byte
  | 0 => []
  | n + 1 => m.get a :: Memory.read m (a + 1) n

/-- Memory with bytes written from an address up. -/
def Memory.write (m : Memory) (a : Nat) : List Byte → Memory
  | [] => m
  | b :: bs => Memory.write (m.set a b) (a + 1) bs

/-- Memory with `[lo, hi)` zero. -/
def Memory.clear (m : Memory) (lo hi : Nat) : Memory := m.filter fun c => c.1 < lo || hi ≤ c.1

/-- The entries of `[lo, hi)`. -/
def Memory.slice (m : Memory) (lo hi : Nat) : Memory := m.filter fun c => lo ≤ c.1 && c.1 < hi

/-- A doubleword of memory (R5). -/
def Memory.read64 (m : Memory) (a : Nat) : W64 := BitVec.ofNat 64 (ofBytesLE (m.read a 8))

/-! ### Places

A place is a location of the module's memory by number: tier one at its physical address (R386), tier two and the
cluster SRAM behind it. A sector is 32 bytes. -/

/-- Where tier-two offsets begin among places. -/
def tierTwoAt : Nat := 2 ^ 41

/-- Where cluster SRAM begins among places. -/
def sramAt : Nat := 2 ^ 43

/-- A byte of a bank of a cluster's SRAM (R313). -/
def sramPlace (cluster bank off : Nat) : Nat := sramAt + cluster * 2 ^ 20 + bank * 2 ^ 15 + off

/-- The bytes of a bank of a cluster. -/
def bankRange (cluster bank : Nat) : Nat × Nat := (sramPlace cluster bank 0, sramPlace cluster (bank + 1) 0)

/-- The size of a check granule by its source: 8 bytes in cluster SRAM and in the memory-side cache, a sector in the DRAM
tiers (R405). -/
def granuleSize (source : Nat) : Nat := if source = 2 || source = 3 then 8 else 32

/-- The check granule of a source that holds a place (R405). -/
def granuleOf (source place : Nat) : BadGranule :=
  { at' := place - place % granuleSize source, source := source, cluster := none }

/-- The check granule of a cluster's copy of the line at a place (R313, R405). -/
def copyGranule (cluster place : Nat) : BadGranule := { granuleOf 2 place with cluster := some cluster }

/-- Whether a granule holds one of `n` bytes from an address up. -/
def BadGranule.meets (g : BadGranule) (a n : Nat) : Bool := g.at' < a + n && a < g.at' + granuleSize g.source

/-- Whether `n` bytes from an address up cover a granule whole. -/
def BadGranule.covered (g : BadGranule) (a n : Nat) : Bool := a ≤ g.at' && g.at' + granuleSize g.source ≤ a + n

/-- The sector of a place (R167, R210). -/
def sectorOf (place : Nat) : Nat := place / 32

/-- The source of an uncorrectable error that a read of `n` bytes by way of a cluster's cache consumes, or of none, at the
line's home (R308, R320, R405). -/
def State.errorBy (s : State) (cluster : Option Nat) (place n : Nat) : Option Nat :=
  (s.poison.find? fun g => (g.cluster.isNone || g.cluster == cluster) && g.meets place n).map BadGranule.source

/-- The source of an uncorrectable error that a read of `n` bytes at their home consumes (R308, R405). -/
def State.errorAt (s : State) (place n : Nat) : Option Nat := s.errorBy none place n

/-- Whether a read of `n` bytes at their home meets an uncorrectable granule (R405). -/
def State.poisoned (s : State) (place n : Nat) : Bool := (s.errorAt place n).isSome

/-- Whether an uncorrectable granule, be it of a cluster's copy, meets `n` bytes. -/
def State.marked (s : State) (place n : Nat) : Bool := s.poison.any fun g => g.meets place n

/-- The source of an error that a read at home consumes; approximate storage detects none (R328, R402). -/
def State.errorIn (s : State) (place n : Nat) (apx : Bool) : Option Nat := if apx then none else s.errorAt place n

/-- Granules that a write of `n` bytes covers whole become clean (R405). -/
def cleanGranules (poison : List BadGranule) (place n : Nat) : List BadGranule := poison.filter fun g => !g.covered place n

end Sys2Proof.Machine
end

