-- ==== Sys2Proof/Machine/Find.lean ====
section
/-!
DEFINITION. Finding and updating the records of the state: groups, warps, contexts, partitions, clusters. A cluster that
no list entry describes is idle.
-/

namespace Sys2Proof.Machine

/-- The group with a name. -/
def State.group? (s : State) (uid : Nat) : Option Group := s.groups.find? fun g => g.uid == uid

/-- Update one group. -/
def State.mapGroup (s : State) (uid : Nat) (f : Group → Group) : State :=
  { s with groups := s.groups.map fun g => if g.uid == uid then f g else g }

/-- The warp of a group with a WARPID. -/
def Group.warp? (g : Group) (w : Nat) : Option Warp := g.warps.find? fun x => x.id == w

/-- Update one warp of a group. -/
def Group.mapWarp (g : Group) (w : Nat) (f : Warp → Warp) : Group :=
  { g with warps := g.warps.map fun x => if x.id == w then f x else x }

/-- Update one warp. -/
def State.mapWarp (s : State) (uid w : Nat) (f : Warp → Warp) : State := s.mapGroup uid fun g => g.mapWarp w f

/-- Update the Leek thread of a group. -/
def State.mapLeek (s : State) (uid : Nat) (f : Leek → Leek) : State :=
  s.mapGroup uid fun g => { g with leek := g.leek.map f }

/-- The context with a number. -/
def State.ctx? (s : State) (id : Nat) : Option Context := s.ctxs.find? fun c => c.id == id

/-- Update one context. -/
def State.mapCtx (s : State) (id : Nat) (f : Context → Context) : State :=
  { s with ctxs := s.ctxs.map fun c => if c.id == id then f c else c }

/-- Global context G belongs to partition floor(G / 64) (R385). -/
def partOf (ctx : Nat) : Nat := ctx / 64

/-- The partition with a number. -/
def State.part? (s : State) (id : Nat) : Option Partition := s.parts.find? fun p => p.id == id

/-- Update one partition. -/
def State.mapPart (s : State) (id : Nat) (f : Partition → Partition) : State :=
  { s with parts := s.parts.map fun p => if p.id == id then f p else p }

/-- A span by its name. -/
def State.span? (s : State) (uid : Nat) : Option Span := s.spans.find? fun x => x.uid == uid

/-- Update one span. -/
def State.mapSpan (s : State) (uid : Nat) (f : Span → Span) : State :=
  { s with spans := s.spans.map fun x => if x.uid == uid then f x else x }

/-- Update the work of one pod. -/
def State.mapPod (s : State) (uid : Nat) (f : PodWork → PodWork) : State :=
  { s with pods := s.pods.map fun x => if x.uid == uid then f x else x }

/-- An idle cluster: no records, slots free, its rail and its slices at rest (notes/assumptions/3.md). -/
def Cluster.idle (c : Nat) : Cluster :=
  { id := c, events := [], slots := [], slotWait := [], retired := [], retiring := [], waiters := [], level := 0, lastLeek := 3
    slices := Vector.replicate 6 { ratio := 8, eighths := 0 }, drains := [], loadPath := none, array := none }

/-- An invalid block-map entry (R315). -/
def BlockEntry.none' : BlockEntry := { slot := 0, valid := false, spill := false, apx := false, fifo := false, bank := 0 }

/-- The entry of block `n` where no bank and no slot serves it: APX says its class (R315). -/
def BlockEntry.unmapped (n : Nat) : BlockEntry := { BlockEntry.none' with apx := decide (24 ≤ n) }

/-- A block map whose first blocks have the given entries (R315). -/
def blockMap (bs : List BlockEntry) : Vector BlockEntry 32 :=
  ⟨⟨(List.range 32).map fun n => bs.getD n (BlockEntry.unmapped n)⟩, by simp⟩

/-- The cluster with a number. -/
def State.cluster (s : State) (c : Nat) : Cluster := (s.clusters.find? fun x => x.id == c).getD (Cluster.idle c)

/-- Update one cluster. -/
def State.mapCluster (s : State) (c : Nat) (f : Cluster → Cluster) : State :=
  if s.clusters.any fun x => x.id == c then
    { s with clusters := s.clusters.map fun x => if x.id == c then f x else x }
  else { s with clusters := f (Cluster.idle c) :: s.clusters }

/-- The die of a cluster (R27). -/
def dieOf (cluster : Nat) : Nat := cluster / 32

/-- The quarter of a cluster (R386). -/
def quarterOf (cluster : Nat) : Nat := cluster / 8

/-- A free value for what the manual leaves open, and the counter after it (notes/assumptions/2.md). -/
def State.draw (s : State) : W64 × State := (Config.freeBits s.fresh, { s with fresh := s.fresh + 1 })

/-- A name that no record has. -/
def State.newUid (s : State) : Nat × State := (s.nextUid, { s with nextUid := s.nextUid + 1 })

/-- Add to a context performance counter (R257). -/
def State.perfAdd (s : State) (ctx : Nat) (n : Fin 8) (k : Nat) : State :=
  if k = 0 then s else s.mapCtx ctx fun c => { c with perf := c.perf.set n (c.perf[n] + BitVec.ofNat 64 k) }

/-- Update a partition's telemetry counters (R400). -/
def State.mapCount (s : State) (p : Nat) (f : PartCount → PartCount) : State :=
  if s.counts.any fun x => x.1 == p then { s with counts := s.counts.map fun x => if x.1 == p then (p, f x.2) else x }
  else { s with counts := (p, f ⟨0, 0, 0, 0⟩) :: s.counts }

/-- A partition's telemetry counters (R400). -/
def State.count (s : State) (p : Nat) : PartCount := ((s.counts.find? fun x => x.1 == p).map Prod.snd).getD ⟨0, 0, 0, 0⟩

/-- Add one to a counter of a numbered list. -/
def bump (l : List (Nat × Nat)) (k : Nat) : List (Nat × Nat) :=
  if l.any fun x => x.1 == k then l.map fun x => if x.1 == k then (k, x.2 + 1) else x else (k, 1) :: l

/-- The generation number of a context (R162); 0 after module reset. -/
def State.gen (s : State) (ctx : Nat) : BitVec 16 := ((s.gens.find? fun x => x.1 == ctx).map Prod.snd).getD 0

/-- Advance a context's generation number (R162). -/
def State.nextGen (s : State) (ctx : Nat) : State :=
  let g := s.gen ctx + 1
  let s := { s with gens := (ctx, g) :: s.gens.filter fun x => x.1 != ctx }
  s.mapCtx ctx fun c => { c with gen := g }

/-- The owner epoch of a partition (R407); the value after a module reset is the model's (notes/assumptions/3.md). -/
def State.epochOf (s : State) (p : Nat) : W32 := ((s.partEpoch.find? fun x => x.1 == p).map Prod.snd).getD 1

/-- A new epoch of a partition: modulo 2^32, passing over 0 (R407). -/
def State.newEpoch (s : State) (p : Nat) : State :=
  let e := s.epochOf p + 1
  let e := if e = 0 then 1 else e
  { s with partEpoch := (p, e) :: s.partEpoch.filter fun x => x.1 != p }

end Sys2Proof.Machine
end

