-- ==== Sys2Proof/Machine/Translate.lean ====
section
/-!
DEFINITION. Translation and the checks on one address: page tables (R393), page attributes (R312), the scratch window and
the block map (R148, R314 to R319), and the order of the address faults (R150).
-/

namespace Sys2Proof.Machine

/-- What an access needs of its page (R312), with the codes of R392. -/
inductive Access where
  | read | write | fetch | atomic
  deriving DecidableEq, Repr

/-- The access code of a fault-ring entry (R392). -/
def Access.code : Access → Nat
  | .read => 0
  | .write => 1
  | .fetch => 2
  | .atomic => 3

/-- Whether a leaf entry's attributes allow an access: [2] R, [3] W, [4] X (R312, R393). -/
def Access.allowed (a : Access) (leaf : W64) : Bool :=
  match a with
  | .read => leaf.getLsbD 2
  | .write => leaf.getLsbD 3
  | .fetch => leaf.getLsbD 4
  | .atomic => leaf.getLsbD 2 && leaf.getLsbD 3

/-- The APX attribute of a leaf entry. -/
def leafApx (leaf : W64) : Bool := leaf.getLsbD 5

/-- The WIN attribute of a leaf entry. -/
def leafWin (leaf : W64) : Bool := leaf.getLsbD 7

/-- The place that an entry's ADDR field names, in tier two when TIER2 is set (R393). -/
def entryPlace (e : W64) : Nat :=
  let a := bitsOf e.toNat 12 44 * 4096
  if e.getLsbD 6 then tierTwoAt + a else a

/-- Whether `[place, place + n)` is memory of a partition (R386). -/
def Partition.owns (p : Partition) (place n : Nat) : Bool :=
  if tierTwoAt ≤ place then
    tierTwoAt + p.t2Base ≤ place && place + n ≤ tierTwoAt + p.t2Base + p.t2Units * 2 ^ 34
  else
    place + n ≤ 2 ^ 39 && p.quarters.getLsbD (place / 2 ^ 34) && p.quarters.getLsbD ((place + n - 1) / 2 ^ 34)

/-- Whether the frame or table of an entry is memory of a partition: without TIER2 a place of tier one (R386, R393). -/
def Partition.ownsEntry (p : Partition) (e : W64) (n : Nat) : Bool :=
  (e.getLsbD 6 || entryPlace e < tierTwoAt) && p.owns (entryPlace e) n

/-- The place that a leaf gives an address. -/
def leafPlace (leaf : W64) (size va : Nat) : Nat := entryPlace leaf + va % 2 ^ size

/-- A translation: the place, the leaf entry, and the entries it puts in force; else PERM, or an absent page. -/
inductive Xlat where
  | ok (place : Nat) (leaf : W64) (fill : List TlbEntry)
  | perm
  | absent
  deriving DecidableEq, Repr

/-- The record of an entry that a walk for an address read, which covers `2 ^ size` bytes. -/
def entryRead (ctx va size : Nat) (e : W64) : TlbEntry :=
  { ctx := ctx, page := va / 2 ^ size * 2 ^ size / 4096, entry := e, size := size }

/-- A leaf whose frame lies aligned in the partition's memory; else PERM (R393). `read` are the entries the walk read before it. -/
def checkLeaf (p : Partition) (ctx va : Nat) (read : List TlbEntry) (e : W64) (size : Nat) : Xlat :=
  if entryPlace e % 2 ^ size = 0 && p.ownsEntry e (2 ^ size) then .ok (leafPlace e size va) e (entryRead ctx va size e :: read)
  else .perm

/-- The leaf in force for an address of a context, that of the smallest page first. -/
def State.leafInForce (s : State) (ctx va : Nat) : Option TlbEntry :=
  [12, 16, 21, 30].findSome? fun size => s.tlb.find? fun t => t.ctx == ctx && t.size == size && t.isLeaf && t.covers va

/-- The table entry in force for an address of a context at a level. -/
def State.tableInForce (s : State) (ctx va size : Nat) : Option W64 :=
  (s.tlb.find? fun t => t.ctx == ctx && t.size == size && !t.isLeaf && t.covers va).map TlbEntry.entry

/-- The walk from a table down the levels, each with its number and the position of its index (R393). An entry in force stands
before the one in memory, which may have changed since; `read` are the entries read so far (notes/assumptions/5.md). -/
def State.walk (s : State) (p : Partition) (ctx va : Nat) : List (Nat × Nat) → Nat → List TlbEntry → Xlat
  | [], _, _ => .perm
  | (level, shift) :: rest, table, read =>
    let at' := table + 8 * bitsOf va shift 9
    match s.tableInForce ctx va shift with
    | some e => s.walk p ctx va rest (entryPlace e) read
    | none =>
      let e := s.mem.read64 at'
      if !e.getLsbD 0 then .absent
      else if bitsOf e.toNat 56 8 ≠ 0 || bitsOf e.toNat 10 2 ≠ 0 || e.getLsbD 1 then .perm
      else if e.getLsbD 8 then (if level = 2 || level = 3 then checkLeaf p ctx va read e shift else .perm)
      else if level = 4 then
        if e.getLsbD 9 then
          let first := at' - at' % 128
          if (List.range 16).all fun i => s.mem.read64 (first + 8 * i) == e then checkLeaf p ctx va read e 16 else .perm
        else checkLeaf p ctx va read e 12
      else if p.ownsEntry e 4096 then s.walk p ctx va rest (entryPlace e) (entryRead ctx va shift e :: read)
      else .perm

/-- Translate an address in a context's space, for any of its agents: by the leaf in force for it, else by a walk (R255, R393;
notes/assumptions/5.md). -/
def State.translate (s : State) (c : Context) (va : Nat) : Xlat :=
  if 2 ^ 48 ≤ va then .perm
  else
    match s.leafInForce c.id va with
    | some t => .ok (leafPlace t.entry t.size va) t.entry []
    | none =>
      match s.part? (partOf c.id) with
      | none => .perm
      | some p =>
        if tierTwoAt ≤ c.ptRoot.toNat || !p.owns c.ptRoot.toNat 4096 then .perm
        else s.walk p c.id va [(1, 39), (2, 30), (3, 21), (4, 12)] c.ptRoot.toNat []

/-- Put entries in force, each once. -/
def State.fillTlb (s : State) (fill : List TlbEntry) : State :=
  { s with tlb := fill.foldl (fun tlb t => if tlb.contains t then tlb else t :: tlb) s.tlb }

/-- The address faults in the order of R150; an absent page is replayable. -/
inductive AddrFault where
  | misalign | window | bounds | perm | apxflow | absent
  deriving DecidableEq, Repr

/-- The rank of R150; the lowest is reported. -/
def AddrFault.rank : AddrFault → Nat
  | .misalign => 0
  | .window => 1
  | .bounds => 2
  | .perm => 3
  | .apxflow => 4
  | .absent => 5

/-- A checked address: its place, whether it is approximate storage, the cache entries it fills; or its fault, with
the address of the page for an absent one. -/
inductive Resolved where
  | ok (place : Nat) (apx : Bool) (fill : List TlbEntry)
  | bad (f : AddrFault) (va : Nat)
  deriving DecidableEq, Repr

/-- The agent whose access is checked: its context and group. -/
structure Viewer where
  ctx : Context
  grp : Group

/-- The flow rules on one access (R344): an A = 0 access touches no approximate storage, and an A = 1 store no precise
storage. -/
def flowOk (acc : Access) (a apx : Bool) : Bool :=
  if a then (apx || acc != .write) else !apx

/-- Check a global address (R312, R344). -/
def State.resolveGlobal (s : State) (v : Viewer) (va : Nat) (acc : Access) (a : Bool) : Resolved :=
  match s.translate v.ctx va with
  | .perm => .bad .perm va
  | .absent => .bad .absent va
  | .ok place leaf fill =>
    if !acc.allowed leaf then .bad .perm va
    else if !flowOk acc a (leafApx leaf) then .bad .apxflow va
    else .ok place (leafApx leaf) fill

/-- The block-map entry of a block. -/
def Group.block (g : Group) (n : Nat) : BlockEntry := g.blocks.toArray.toList.getD n BlockEntry.none'

/-- The address of a spilled block's slot (R316). -/
def spillAddr (c : Context) (slot : BitVec 16) : Nat := c.spillBase.toNat + 2 ^ 15 * slot.toNat

/-- Check a scratch offset (R148, R314 to R318). A block in FIFO mode gives BOUNDS to a copy too, as to the accesses that R318
lists: the spec has no rule for copies (DESIGN CHOICE, notes/assumptions/24.md). -/
def State.resolveScratch (s : State) (v : Viewer) (off : Nat) (acc : Access) (a : Bool) : Resolved :=
  if v.grp.desc.scrSize ≤ off then .bad .bounds off
  else
    let b := v.grp.block (off / 2 ^ 15)
    if !b.valid || b.fifo then .bad .bounds off
    else if b.spill then
      -- in the order of R150: the slot's page first, then the flow rules, then a page that is absent
      match s.translate v.ctx (spillAddr v.ctx b.slot + off % 2 ^ 15) with
      | .perm => .bad .perm off
      | .absent => if flowOk acc a b.apx then .bad .absent (spillAddr v.ctx b.slot + off % 2 ^ 15) else .bad .apxflow off
      | .ok place leaf fill =>
        if !acc.allowed leaf then .bad .perm off else if !flowOk acc a b.apx then .bad .apxflow off else .ok place b.apx fill
    else if !flowOk acc a b.apx then .bad .apxflow off
    else .ok (sramPlace v.grp.cluster b.bank.toNat (off % 2 ^ 15)) b.apx []

/-- Whether an address lies in a group's scratch window (R148). -/
def Group.inWindow (g : Group) (va : Nat) : Bool :=
  g.scrBase.toNat ≤ va && va < g.scrBase.toNat + g.desc.scrSize

/-- Check one access of `n` bytes aligned to `align` in a space (R148 to R150). -/
def State.resolve (s : State) (v : Viewer) (sp : Space) (ea n align : Nat) (acc : Access) (a : Bool) : Resolved :=
  if ea % align ≠ 0 then .bad .misalign ea
  else match sp with
    | .scratch => s.resolveScratch v ea acc a
    | _ =>
      if v.grp.inWindow ea then
        if v.grp.inWindow (ea + n - 1) then s.resolveScratch v (ea - v.grp.scrBase.toNat) acc a else .bad .window ea
      else s.resolveGlobal v ea acc a

/-- Check a range of bytes, 32-byte piece by piece: the first failing piece's address with its fault, or the places of
the pieces (R166, R256). -/
def State.resolveRange (s : State) (v : Viewer) (sp : Space) (acc : Access) (a : Bool) : Nat → Nat → Except (AddrFault × Nat × Nat) (List Nat × List TlbEntry)
  | _, 0 => .ok ([], [])
  | ea, n + 1 =>
    match s.resolve v sp ea 32 32 acc a with
    | .bad f page => .error (f, ea, page)
    | .ok place _ fill =>
      match s.resolveRange v sp acc a (ea + 32) n with
      | .error e => .error e
      | .ok (ps, fs) => .ok (place :: ps, fill ++ fs)

end Sys2Proof.Machine
end

