-- ==== Sys2Proof/Machine/Stores.lean ====
section
/-!
DEFINITION. The memory events: the ONE store event with its check granules (R405) and conflicts (R212), the roll-back of
a speculating warp (R213) and its commit (R214), and loads as an agent sees them (R210).
-/

namespace Sys2Proof.Machine

/-- The issuing agent of a warp of a group. -/
def Group.agent (g : Group) (w : Warp) : AgentId := .warp g.uid w.id

/-- A warp's vector registers with shadowed ones restored (R213). -/
def restoreShadows (v : Vector VReg 256) : List (Nat × VReg) → Vector VReg 256
  | [] => v
  | (n, r) :: rest => if h : n < 256 then restoreShadows (v.set n r) rest else restoreShadows v rest

/-- The error marks of a warp that rolls back: those of what is put back, as it was saved, and those of what no shadow and no
checkpoint holds (R213, R405). -/
def Spec.restoreMarks (p : Spec) (bad : List BadReg) : List BadReg :=
  p.marks ++ bad.filter fun b => match b with
    | .s _ | .latch _ _ => false
    | .v n _ => !p.shadows.any fun x => x.1 == n
    | _ => true

/-- What a warp that rolls back waits for: the end of its sleep, since nothing wakes it earlier (R191); else nothing. -/
def Wait.afterRollback : Wait → Wait
  | .sleep t => .sleep t
  | _ => .ready

/-- Roll a warp back to its speculative wait (R213). The wait issues again without speculation. -/
def Warp.rollback (w : Warp) : Warp :=
  match w.spec with
  | none => w
  | some p =>
    { w with
      v := restoreShadows w.v p.shadows, s := p.sregs, k := p.ks, exec := p.exec, join := p.join, sigw := p.sigw
      flags := p.flags, pc := p.pc, spec := none, noSpec := some p.pc, latches := Vector.replicate 4 none, rep := none
      wait := w.wait.afterRollback, progress := none, bad := p.restoreMarks w.bad }

/-- Whether a warp's read set meets any of the sectors. -/
def Warp.reads (w : Warp) (sectors : List Nat) : Bool :=
  match w.spec with
  | none => false
  | some p => sectors.any fun x => p.reads.contains x

/-- Whether an agent other than `who` that reads the sectors speculates: the warps that conflict (R212). -/
def Group.conflicts (g : Group) (w : Warp) (who : Option AgentId) (sectors : List Nat) : Bool :=
  w.reads sectors && who != some (g.agent w)

/-- Roll back one group's warps that a store by `who` into the sectors conflicts with. -/
def Group.rollbackFor (g : Group) (who : Option AgentId) (sectors : List Nat) : Group :=
  { g with warps := g.warps.map fun w => if g.conflicts w who sectors then w.rollback else w }

/-- How many warps of a context conflict. -/
def conflictCount (gs : List Group) (ctx : Nat) (who : Option AgentId) (sectors : List Nat) : Nat :=
  (gs.map fun g => if g.ctx == ctx then (g.warps.filter fun w => g.conflicts w who sectors).length else 0).sum

/-- The effect of store events by `who` into sectors on speculating warps: each whose read set they meet rolls back at
once, and its context's roll-back counter counts it (R212, R213). -/
def State.conflict (s : State) (who : Option AgentId) (sectors : List Nat) : State :=
  if s.groups.any fun g => g.warps.any fun w => g.conflicts w who sectors then
    { s with
      groups := s.groups.map fun g => g.rollbackFor who sectors
      ctxs := s.ctxs.map fun c =>
        { c with perf := c.perf.set 1 (c.perf[1] + BitVec.ofNat 64 (conflictCount s.groups c.id who sectors)) } }
  else s

/-- The sectors that `n` bytes at a place touch. -/
def sectorsOf (place n : Nat) : List Nat :=
  if n = 0 then [] else (List.range (sectorOf (place + n - 1) - sectorOf place + 1)).map fun i => sectorOf place + i

/-- One store event: the bytes written, whole granules clean (R405), conflicting warps rolled back (R212). -/
def State.store (s : State) (who : Option AgentId) (place : Nat) (bs : List Byte) : State :=
  State.conflict { s with mem := s.mem.write place bs, poison := cleanGranules s.poison place bs.length } who
    (sectorsOf place bs.length)

/-- Zero a range of places, with valid check bits (R316, R377, R389, R390). No event of an agent. -/
def State.zero (s : State) (lo hi : Nat) : State :=
  { s with mem := s.mem.clear lo hi, poison := s.poison.filter fun g => g.at' < lo || hi ≤ g.at' }

/-- Bytes at a place as a store buffer overlays them: later stores win (R210). -/
def overlay (place : Nat) (stores : List (Nat × List Byte)) (i : Nat) (b : Byte) : Byte :=
  stores.foldl (fun b e => if e.1 ≤ place + i && place + i < e.1 + e.2.length then e.2.getD (place + i - e.1) b else b) b

/-- The bytes that a warp loads: from its own buffer where it holds them, else from memory (R210). -/
def State.loadBytes (s : State) (w : Warp) (place n : Nat) : List Byte :=
  match w.spec with
  | none => s.mem.read place n
  | some p => (s.mem.read place n).zipIdx.map fun x => overlay place p.stores x.2 x.1

/-- Whether a warp's own store buffer holds the byte at a place (R210). -/
def Warp.buffers (w : Warp) (place : Nat) : Bool :=
  w.spec.any fun p => p.stores.any fun e => e.1 ≤ place && place < e.1 + e.2.length

/-- The source of an error that a load of a cluster's agent consumes, by way of the cluster's cache (R320, R328, R402). -/
def State.errorFor (s : State) (cluster place n : Nat) (apx : Bool) : Option Nat :=
  if apx then none else s.errorBy (some cluster) place n

/-- The source of an error that a warp's load consumes: one of a byte that its own store buffer does not supply (R210,
R405). -/
def State.loadError (s : State) (cluster : Nat) (w : Warp) (place n : Nat) (apx : Bool) : Option Nat :=
  if w.spec.isNone then s.errorFor cluster place n apx
  else (List.range n).findSome? fun i => if w.buffers (place + i) then none else s.errorFor cluster (place + i) 1 apx

/-- The sectors that a warp's store buffer holds. -/
def Spec.bufferSectors (p : Spec) : List Nat := (p.stores.flatMap fun e => sectorsOf e.1 e.2.length).eraseDups

/-- A warp after tracking loads; none when the read set of 256 sectors has no room (R210). -/
def Warp.track (w : Warp) (sectors : List Nat) : Option Warp :=
  match w.spec with
  | none => some w
  | some p =>
    let r := (p.reads ++ sectors).eraseDups
    if r.length ≤ 256 then some { w with spec := some { p with reads := r } } else none

/-- The buffered stores with one byte of an entry that an STB converted changed; other entries are not of the datapaths
(R402). -/
def Spec.setByte (p : Spec) (entry byte : Nat) (value : Byte) : Spec :=
  if entry ∈ p.converted then
    { p with stores := p.stores.modify entry fun x => (x.1, x.2.set byte value) }
  else p

/-- A warp after buffering stores, which an STB has converted or not; none when the buffer of 128 sectors has no room (R210). -/
def Warp.buffer (w : Warp) (stores : List (Nat × List Byte)) (conv : Bool) : Option Warp :=
  match w.spec with
  | none => some w
  | some p =>
    let new := if conv then (List.range stores.length).map fun i => p.stores.length + i else []
    let p' := { p with stores := p.stores ++ stores, converted := p.converted ++ new }
    if p'.bufferSectors.length ≤ 128 then some { w with spec := some p' } else none

/-- Stores of one agent as consecutive events, in order. -/
def State.storeAll (s : State) (who : Option AgentId) : List (Nat × List Byte) → State
  | [] => s
  | (place, bs) :: rest => State.storeAll (s.store who place bs) who rest

/-- A warp that leaves its speculation with its state as computed (R214): an instruction that stalled for it issues again, and
any other wait goes on. -/
def Warp.commit (w : Warp) : Warp := { w with spec := none, wait := if w.wait = .speculation then .ready else w.wait }

/-- Commit the speculating warps of a group past a barrier, in ascending WARPID (R214). A warp that an earlier commit
rolled back commits nothing. -/
def State.commitAll (s : State) (uid bar : Nat) : List Nat → State
  | [] => s
  | w :: rest =>
    match (s.group? uid).bind fun g => (g.warp? w).bind fun x => x.spec.map fun p => (g, p) with
    | some (g, p) =>
      if p.bar = bar then
        let s := s.mapWarp uid w Warp.commit
        let s := s.storeAll (some (.warp uid w)) p.stores
        State.commitAll (s.perfAdd g.ctx 2 1) uid bar rest
      else State.commitAll s uid bar rest
    | none => State.commitAll s uid bar rest

end Sys2Proof.Machine
end

