-- ==== Sys2Proof/Machine/Records.lean ====
section
/-!
DEFINITION. What the part itself reads and writes in a context's address space (notes/assumptions/8.md), the error queue
and the fault ring (R392), the layout of error records (R250), and the completion of commands (R384, R385).
-/

namespace Sys2Proof.Machine

/-- A doubleword read by the part in a context's space; none where the page refuses it (R408). -/
def State.ctxRead (s : State) (c : Context) (va : Nat) : Option W64 :=
  match s.translate c va with
  | .ok place leaf _ => if Access.read.allowed leaf then some (s.mem.read64 place) else none
  | _ => none

/-- Bytes written by the part in a context's space as one event; none where the page refuses it. -/
def State.ctxWrite (s : State) (c : Context) (va : Nat) (bs : List Byte) : Option State :=
  match s.translate c va with
  | .ok place leaf fill => if Access.write.allowed leaf then some ((s.fillTlb fill).store none place bs) else none
  | _ => none

/-- Put in force the translations of addresses that the part has read from in a context's space (R393; notes/assumptions/5.md). -/
def State.touch (s : State) (c : Context) (vas : List Nat) : State :=
  vas.foldl (fun s va => match s.translate c va with
    | .ok _ _ fill => s.fillTlb fill
    | _ => s) s

/-- The bytes of a list of doublewords. -/
def bytesOf (ws : List W64) : List Byte := ws.flatMap fun w => toBytesLE 8 w.toNat

/-- Entries written one after another into a ring of `size`-byte slots, from index `n`. -/
def State.putEntries (s : State) (c : Context) (base cap size : Nat) : Nat → List (List W64) → State
  | _, [] => s
  | n, e :: rest =>
    State.putEntries ((s.ctxWrite c (base + 64 + size * (n % cap)) (bytesOf e)).getD s) c base cap size (n + 1) rest

/-- The header of a context's error queue: capacity, WRITTEN, READ and DROPPED (R392). -/
structure QueueHeader where
  cap     : Nat
  written : W64
  read    : W64
  dropped : W64

/-- Read the header of an error queue; none where its page refuses the access (notes/assumptions/8.md). -/
def State.errorHeader (s : State) (c : Context) : Option QueueHeader :=
  let b := c.eqBase.toNat
  match s.ctxRead c b, s.ctxRead c (b + 8), s.ctxRead c (b + 16), s.ctxRead c (b + 24) with
  | some cap, some written, some read, some dropped =>
    some { cap := cap.toNat, written := written, read := read, dropped := dropped }
  | _, _, _, _ => none

/-- Whether a queue has room for a record of `n` entries (R392). -/
def QueueHeader.room (h : QueueHeader) (n : Nat) : Bool := (h.written - h.read).toNat + n ≤ h.cap

/-- WRITTEN moved past a record that has been written, and the context's vector raised (R392). -/
def State.closeRecord (s : State) (c : Context) (h : QueueHeader) (n : Nat) : State :=
  let s := (s.ctxWrite c (c.eqBase.toNat + 8) (bytesOf [h.written + BitVec.ofNat 64 n])).getD s
  { s with msi := s.msi ++ [c.vector] }

/-- DROPPED counts a record that finds no room (R392). -/
def State.dropRecord (s : State) (c : Context) (h : QueueHeader) : State :=
  (s.ctxWrite c (c.eqBase.toNat + 24) (bytesOf [h.dropped + 1])).getD s

/-- Write a record of one or more 64-byte entries to a context's error queue and advance WRITTEN past them, as consecutive events,
or count it as dropped (R392). A header whose page refuses the access takes nothing (notes/assumptions/8.md). -/
def State.recordNow (s : State) (ctx : Nat) (entries : List (List W64)) : State :=
  match s.ctx? ctx with
  | none => s
  | some c =>
    match s.errorHeader c with
    | some h =>
      if h.room entries.length then
        (s.putEntries c c.eqBase.toNat h.cap 64 h.written.toNat entries).closeRecord c h entries.length
      else s.dropRecord c h
    | none => s

/-- Whether a step concerns a context. -/
def Todo.ctx : Todo → Nat
  | .count (.dec c _ _ _ _) => c
  | .count (.late c _ _ _ _) => c
  | .count (.inc c _ _) => c
  | .count (.kill c _ _) => c
  | .count (.cont c _) => c
  | .count (.enqueue c _ _) => c
  | .record c _ => c
  | .piece c _ _ => c

/-- A record for a context's error queue: behind a record that the part has still to write there, else at once; a failed
partition gets none, because its error queue may lie on the failed die (R392, R398). -/
def State.record (s : State) (ctx : Nat) (entries : List (List W64)) : State :=
  if (s.part? (partOf ctx)).any fun p => p.failed then s
  else if s.todo.any fun t => match t with
      | .record c _ => c == ctx
      | _ => false
  then { s with todo := s.todo ++ [.record ctx entries] }
  else s.recordNow ctx entries

/-- The fields of a record in the layout of R250. -/
structure Rec where
  kind    : Nat
  cause   : Nat := 0
  cluster : Nat := 0
  agent   : Nat := 0
  lthread : Nat := 0
  warp    : Nat := 0
  pc      : W64 := 0
  addr    : W64 := 0
  lanes   : W64 := 0
  pod     : W64 := 0
  word5   : W64 := 0

/-- The eight words of a record (R250). -/
def Rec.words (r : Rec) : List W64 :=
  [BitVec.ofNat 64 (r.kind * 2 ^ 56 + r.cause * 2 ^ 48 + r.cluster * 2 ^ 40 + r.agent * 2 ^ 36 + r.lthread * 2 ^ 34
      + r.warp * 2 ^ 24),
    r.pc, r.addr, r.lanes, r.pod, r.word5, 0, 0]

/-- Write one record of R250's layout. -/
def State.putRec (s : State) (ctx : Nat) (r : Rec) : State := s.record ctx [r.words]

/-- Write an entry to a partition's fault ring, unless the page already has one not yet answered (R392). The ring lies
at a physical address (notes/assumptions/8.md). -/
def State.faultRing (s : State) (ctx va : Nat) (acc : Access) (cluster : Nat) : State :=
  if s.faultWait.contains (ctx, va / 4096) then s
  else match s.part? (partOf ctx) with
    | none => s
    | some p =>
      let b := p.ring.toNat
      let cap := (s.mem.read64 b).toNat
      let written := s.mem.read64 (b + 8)
      let read := s.mem.read64 (b + 16)
      if (written - read).toNat + 1 ≤ cap then
        let e := [BitVec.ofNat 64 va, BitVec.ofNat 64 (ctx % 2048 + acc.code * 2 ^ 12 + cluster * 2 ^ 16), BitVec.ofNat 64 s.clock, 0]
        let s := s.store none (b + 64 + 32 * (written.toNat % cap)) (bytesOf e)
        let s := s.store none (b + 8) (bytesOf [written + 1])
        { s with faultWait := (ctx, va / 4096) :: s.faultWait }
      else s.store none (b + 24) (bytesOf [s.mem.read64 (b + 24) + 1])

/-- The status codes of R385. -/
inductive CmdStatus where
  | ok | badArg | busy | deadline | reset | noSpace
  deriving DecidableEq, Repr

/-- The code of a status (R385). -/
def CmdStatus.code : CmdStatus → Nat
  | .ok => 0
  | .badArg => 1
  | .busy => 2
  | .deadline => 3
  | .reset => 4
  | .noSpace => 5

/-- Where entry `i` of the command ring lies in host memory (R384). -/
def State.ringEntry (s : State) (i : Nat) : Nat := s.hw.cmdBase.toNat + 64 * (i % s.hw.cmdCap.toNat)

/-- Complete a command: STAT written, VECTOR raised (R385); a module that has ended writes nothing to the host (R397). -/
def State.complete (s : State) (c : Command) (st : CmdStatus) (result : Nat := 0) : State :=
  if !(s.alive && s.power) then s
  else { s with
    hostMem := s.hostMem.write (s.ringEntry c.index + 56) (toBytesLE 8 (st.code + result * 256))
    msi := s.msi ++ [BitVec.ofNat 8 (bitsOf c.w[0].toNat 32 8)] }

/-- Complete the running commands that a test selects, and drop them from the running ones. -/
def State.finishRunning (s : State) (p : Command → Bool) (st : CmdStatus) : State :=
  let s' := (s.running.filter fun r => p r.cmd).foldl (fun s r => s.complete r.cmd st) s
  { s' with running := s'.running.filter fun r => !p r.cmd }

end Sys2Proof.Machine
end

