-- ==== Sys2Proof/Machine/Work.lean ====
section
/-!
DEFINITION. Pods, queues and join counters as the part handles them: the pod record (R292), queue descriptors (R298), the
counter events and the release of a continuation (R218, R296, R297, R408).
-/

namespace Sys2Proof.Machine

/-! ### Pods (R292) -/

/-- A pod from its 64 bytes. -/
def Pod.ofBytes (bs : List Byte) : Pod :=
  let w (i : Nat) : W64 := BitVec.ofNat 64 (ofBytesLE ((bs.drop (8 * i)).take 8))
  let a (i : Nat) : W32 := BitVec.ofNat 32 (ofBytesLE ((bs.drop (32 + 4 * i)).take 4))
  { entry := w 0, frame := w 1, join := w 2, shape := w 3, args := #v[a 0, a 1, a 2, a 3, a 4, a 5, a 6, a 7] }

/-- The fields of the shape word (R292). -/
def Pod.kind (p : Pod) : Nat := bitsOf p.shape.toNat 51 2
def Pod.prio (p : Pod) : Nat := bitsOf p.shape.toNat 48 3
def Pod.spans (p : Pod) : Nat := bitsOf p.shape.toNat 32 16
def Pod.groups (p : Pod) : Nat := bitsOf p.shape.toNat 16 16
def Pod.warps (p : Pod) : Nat := bitsOf p.shape.toNat 0 16

/-- The byte offset of the first pod word that breaks a check which needs no descriptor, in ascending order (R292,
R295). -/
def Pod.refusal (p : Pod) : Option Nat :=
  if p.entry.toNat % 4 ≠ 0 then some 0
  else if p.join.toNat % 8 ≠ 0 then some 16
  else if bitsOf p.shape.toNat 53 11 ≠ 0 || 2 ≤ p.kind || p.spans = 0 || p.groups = 0
      || (p.kind = 1 && (1 < p.spans || 1 < p.groups)) then some 24
  else none

/-! ### Queues (R298) -/

/-- A queue descriptor as read. -/
structure QDesc where
  base : Nat
  cap  : Nat
  head : Nat
  tail : Nat
  free : Nat
  ok   : Bool

/-- The address of a queue's descriptor (R391). -/
def Context.queueAddr (c : Context) : QueueRef → Nat
  | .launch p => c.lqBase.toNat + 64 * p
  | .edge e => c.edgeBase.toNat + 64 * e

/-- Read a queue descriptor and make the checks that stop a queue (R298). -/
def State.queue? (s : State) (c : Context) (q : QueueRef) : Option QDesc :=
  let a := c.queueAddr q
  match s.ctxRead c a, s.ctxRead c (a + 8), s.ctxRead c (a + 16), s.ctxRead c (a + 24), s.ctxRead c (a + 32),
      s.ctxRead c (a + 40), s.ctxRead c (a + 48), s.ctxRead c (a + 56) with
  | some w0, some w1, some w2, some w3, some w4, some w5, some w6, some w7 =>
    let cap := w1.toNat % 2 ^ 32
    some
      { base := w0.toNat, cap := cap, head := w2.toNat, tail := w3.toNat, free := w4.toNat % 2 ^ 32
        ok := w0.toNat % 64 == 0 && w1.toNat / 2 ^ 32 == 0 && 1 ≤ cap && cap ≤ 2 ^ 24 && w4.toNat / 2 ^ 32 == 0
          && w4.toNat % 2 ^ 32 ≤ cap && w5 == 0 && w6 == 0 && w7 == 0 }
  | _, _, _, _, _, _, _, _ => none

/-- Stop a queue with a record of kind 0x1B (R298). -/
def State.stopQueue (s : State) (c : Context) (q : QueueRef) : State :=
  if c.stopped.contains q then s
  else (s.mapCtx c.id fun c => { c with stopped := q :: c.stopped }).putRec c.id
    { kind := 0x1B, addr := BitVec.ofNat 64 (c.queueAddr q) }

/-- Slots of a queue free for an enqueue: none while it is stopped or its descriptor is not readable. -/
def State.roomIn (s : State) (c : Context) (q : QueueRef) : Nat :=
  if c.stopped.contains q then 0
  else match s.queue? c q with
    | some d => if d.ok then d.free else 0
    | none => 0

/-- Write HEAD, TAIL or FREE of a queue, by its word number (R298). A descriptor whose page can be read and not written keeps its
words, while the pod is taken or enqueued all the same: the spec is silent (DESIGN CHOICE, notes/assumptions/22.md). -/
def State.setQueueWord (s : State) (c : Context) (q : QueueRef) (word : Nat) (x : Nat) : State :=
  (s.ctxWrite c (c.queueAddr q + 8 * word) (toBytesLE 8 x)).getD s

/-- The slot of index `i` (R298). -/
def QDesc.slot (d : QDesc) (i : Nat) : Nat := d.base + 64 * (i % d.cap)

/-- Note the ages of pods that have come into a queue at some indexes, each later than the one before it (R302). -/
def State.noteArrivals (s : State) (ctx : Nat) (q : QueueRef) (is : List Nat) : State :=
  { s with
    arrivals := s.arrivals ++ is.zipIdx.map fun i => (ctx, q, i.1, s.nextUid + i.2)
    nextUid := s.nextUid + is.length }

/-- One enqueue: the pod written at TAIL, TAIL one more, FREE one less (R298). A broken descriptor stops the queue. A slot whose page
refuses the write keeps its bytes, and TAIL and FREE move all the same: the spec is silent (DESIGN CHOICE,
notes/assumptions/22.md). -/
def State.enqueue (s : State) (c : Context) (q : QueueRef) (pod : List Byte) : State :=
  match s.queue? c q with
  | none => s
  | some d =>
    if !d.ok then s.stopQueue c q
    else
      let s := (s.ctxWrite c (d.slot d.tail) pod).getD s
      let s := s.setQueueWord c q 3 ((d.tail + 1) % 2 ^ 64)
      (s.setQueueWord c q 4 (d.free - 1)).noteArrivals c.id q [d.tail]

/-- The queue that a selector names for a pod (R216, R217). -/
def qselQueue (qsel : W32) (prio : Nat) : QueueRef :=
  if bitsOf qsel.toNat 8 1 = 1 then .launch prio else .edge (bitsOf qsel.toNat 0 8)

/-- Whether a selector has the layout of R216 in a context. -/
def qselValid (qsel : W32) (nEdge : Nat) : Bool :=
  qselOk qsel && (bitsOf qsel.toNat 8 1 == 1 || bitsOf qsel.toNat 0 8 < nEdge)

/-! ### Counter events (R296, R297, R408) -/

/-- The counter or continuation address of a held item, its pod and the access it makes (R408). -/
def Held.addr : Held → W64
  | .dec _ a _ _ _ => a
  | .late _ a _ _ _ => a
  | .inc _ a _ => a
  | .kill _ a _ => a
  | .cont _ a => a
  | .enqueue _ _ _ => 0

/-- The context of a held item. -/
def Held.ctx : Held → Nat
  | .dec c _ _ _ _ => c
  | .late c _ _ _ _ => c
  | .inc c _ _ => c
  | .kill c _ _ => c
  | .cont c _ => c
  | .enqueue c _ _ => c

/-- The pod concerned, for a record (R408). -/
def Held.pod : Held → W64
  | .dec _ _ _ _ p => p
  | .late _ _ _ _ p => p
  | .inc _ _ p => p
  | .kill _ _ p => p
  | .cont _ _ => 0
  | .enqueue _ _ _ => 0

/-- The new counter word of an event, and whether the count became 0 with KILLED clear (R217, R297, R309). -/
def Held.apply (h : Held) (x : W64) : W64 × Bool :=
  let n := x.toNat
  let count := bitsOf n 0 32
  let faulted := bitsOf n 32 16
  let lost := bitsOf n 48 15
  let killed := bitsOf n 63 1
  let put (count faulted lost killed : Nat) : W64 :=
    BitVec.ofNat 64 (killed * 2 ^ 63 + lost * 2 ^ 48 + faulted * 2 ^ 32 + count)
  match h with
  | .dec _ _ f l _ =>
    let c' := count - 1
    (put c' (min (faulted + f) 0xFFFF) (min (lost + l) 0x7FFF) killed, count == 1 && killed == 0)
  | .late _ _ f l _ => (put (count - 1) (min (faulted + f) 0xFFFF) (min (lost + l) 0x7FFF) killed, false)
  | .inc _ _ _ => (put ((count + 1) % 2 ^ 32) faulted lost killed, false)
  | .kill _ _ _ => (put (count - 1) faulted lost 1, false)
  | _ => (x, false)

/-- Hold an item, where a page is absent with an entry in the fault ring (R408). -/
def State.hold (s : State) (h : Held) (page : Option Nat) (acc : Access) : State :=
  let (u, s) := s.newUid
  let s := { s with held := s.held ++ [{ uid := u, item := h, page := page.map (BitVec.ofNat 64) }] }
  match page with
  | some va => s.faultRing h.ctx va acc 0
  | none => s

/-- The end of an attempt that its page refuses: the event is skipped or the continuation dropped, with a record of kind
0x1D that names the counter, or the address of the continuation's read (R408). -/
def State.dropHeld (s : State) (h : Held) (addr : W64) : State := s.putRec h.ctx { kind := 0x1D, addr := addr, pod := h.pod }

/-- The result of an access that the home slice makes for a counter, with the translations that it puts in force (R393, R408). -/
inductive SliceAccess where
  | ok (place : Nat) (fill : List TlbEntry)
  | refused
  | absent
  deriving DecidableEq, Repr

/-- Translate for the home slice (R408). -/
def State.sliceAccess (s : State) (c : Context) (va : Nat) (acc : Access) : SliceAccess :=
  match s.translate c va with
  | .ok place leaf fill => if acc.allowed leaf then .ok place fill else .refused
  | .perm => .refused
  | .absent => .absent

/-- Read the words of a released counter and its continuation pod, and hold the pod for its enqueue (R218, R296). A context
that was terminated releases nothing (R309). Of the record of a dropped continuation R296 gives KIND and ADDR; its CAUSE is 1, and its
PC and POD are 0 (DESIGN CHOICE, notes/assumptions/22.md). A refused read of the words at c + 8 and c + 16 reports that word's
address, and the record of a dropped continuation names no pod: R408 does not settle either (DESIGN CHOICE,
notes/assumptions/22.md). -/
def State.releaseRead (s : State) (ctx : Nat) (counter : W64) : State :=
  match s.ctx? ctx with
  | none => s
  | some c =>
    if c.run == .terminated then s else
    let h := Held.cont ctx counter
    let a := counter.toNat
    match s.sliceAccess c (a + 8) .read, s.sliceAccess c (a + 16) .read with
    | .refused, _ => s.dropHeld h (counter + 8)
    | .absent, _ => s.hold h (some (a + 8)) .read
    | _, .refused => s.dropHeld h (counter + 16)
    | _, .absent => s.hold h (some (a + 16)) .read
    | .ok p8 f8, .ok p16 f16 =>
      let s := (s.fillTlb f8).fillTlb f16
      let cont := s.mem.read64 p8
      let qsel := s.mem.read64 p16
      if cont.toNat % 64 ≠ 0 then s.putRec ctx { kind := 0x19, cause := 1, addr := counter + 8 }
      else if qsel.toNat / 2 ^ 32 ≠ 0 || !qselValid (lo32 qsel) c.nEdge then
        s.putRec ctx { kind := 0x19, cause := 1, addr := counter + 16 }
      else match s.sliceAccess c cont.toNat .read with
        | .refused => s.dropHeld h cont
        | .absent => s.hold h (some cont.toNat) .read
        | .ok p fill =>
          let s := s.fillTlb fill
          let bs := s.mem.read p 64
          s.hold (.enqueue ctx (qselQueue (lo32 qsel) (Pod.ofBytes bs).prio) bs) none .read

/-- Make a counter event now (R297), and the release that follows it. -/
def State.counterNow (s : State) (h : Held) : State :=
  match h with
  | .enqueue _ _ _ => s
  | .cont ctx counter => s.releaseRead ctx counter
  | _ =>
    match s.ctx? h.ctx with
    | none => s
    | some c =>
      match s.sliceAccess c h.addr.toNat .atomic with
      | .refused => s.dropHeld h h.addr
      | .absent => s.hold h (some h.addr.toNat) .atomic
      | .ok place fill =>
        let (x, free) := h.apply (s.mem.read64 place)
        let s := (s.fillTlb fill).store none place (toBytesLE 8 x.toNat)
        if free then s.releaseRead h.ctx h.addr else s

/-- Whether a held item is of a counter's sequence: an event or a release of it that waits for a page, or that waits behind
one that does (R408). -/
def HeldItem.of (x : HeldItem) (ctx : Nat) (counter : W64) : Bool :=
  match x.item with
  | .enqueue _ _ _ => false
  | h => h.ctx == ctx && h.addr == counter

/-- Whether events or releases of a counter wait for a page (R408). -/
def State.counterHeld (s : State) (ctx : Nat) (counter : W64) : Bool := s.held.any fun x => x.of ctx counter

/-- A counter event or release: behind what waits in the sequence of its counter, else at once (R408). -/
def State.counterEvent (s : State) (h : Held) : State :=
  if s.counterHeld h.ctx h.addr then s.hold h none .atomic else s.counterNow h

/-- Attempt again, in order, the counter events of a context that no page holds any more, since what they waited behind is gone
(R309, R408). -/
def State.retryHeld (s : State) (ctx : Nat) : State :=
  let free (h : HeldItem) : Bool :=
    h.of ctx h.item.addr && !(s.held.any fun x => x.of ctx h.item.addr && x.page.isSome)
  (s.held.filter free).foldl (fun s h => s.counterEvent h.item) { s with held := s.held.filter fun h => !free h }

/-- A counter event for a join field, which 0 leaves out (R292). -/
def State.joinEvent (s : State) (join : W64) (h : Held) : State := if join = 0 then s else s.counterEvent h

/-! ### Steps that the part still has to take (R307, R309, R373) -/

/-- The part takes its next step for a context. -/
def State.partStep (s : State) (ctx : Nat) : State :=
  match s.todo.find? fun t => t.ctx == ctx with
  | none => s
  | some t =>
    let s := { s with todo := s.todo.erase t }
    match t with
    | .count h => s.counterEvent h
    | .piece _ place bs => s.store none place bs
    | .record c es => s.recordNow c es

/-- The part takes every step that it still has to take for a context. -/
def State.partSteps (s : State) (ctx : Nat) : State :=
  (List.range s.todo.length).foldl (fun s _ => s.partStep ctx) s

end Sys2Proof.Machine
end

