-- ==== Sys2Proof/Machine/Barriers.lean ====
section
/-!
DEFINITION. Barriers (R198 to R208): members, arrival, completion with the commits of R214, OVERDELIVERY (R205, R206) and
departure (R306).
-/

namespace Sys2Proof.Machine

/-- A barrier as it is when its group or span launches (R200). -/
def Barrier.init : Barrier := { phase := 0, arrived := [], bytes := 0, stopped := false, count := 0, latest := [], doneAt := 0 }

/-- The state of a barrier. -/
def State.bar? (s : State) : BarId → Option Barrier
  | .gb uid n => (s.group? uid).map fun g => g.bars.toArray.toList.getD n Barrier.init
  | .sb uid n => (s.span? uid).map fun x => x.bars.toArray.toList.getD n Barrier.init

/-- Update one barrier. -/
def State.mapBar (s : State) (b : BarId) (f : Barrier → Barrier) : State :=
  match b with
  | .gb uid n => s.mapGroup uid fun g => { g with bars := vmod g.bars n f }
  | .sb uid n => s.mapSpan uid fun x => { x with bars := vmod x.bars n f }

/-- A member of a barrier: its group, agent, and what the barrier sees of it. -/
structure Member where
  agent    : AgentId
  group    : Nat
  warp     : Option Nat
  departed : Bool
  halted   : Bool
  wait     : Wait
  specBar  : Option Nat

/-- The warps of a group as members (R306). -/
def Group.warpMembers (g : Group) : List Member :=
  g.warps.map fun w =>
    { agent := .warp g.uid w.id, group := g.uid, warp := some w.id, departed := w.ended.isSome, halted := w.halted
      wait := w.wait, specBar := w.spec.map fun p => p.bar }

/-- The Leek thread of a group as a member of gbN when bit N of LEEKBAR is set (R222, R306). -/
def Group.leekMember (g : Group) (n : Nat) : List Member :=
  match g.leek with
  | some l =>
    if g.desc.leekBar.getLsbD n then
      [{ agent := .leek g.uid, group := g.uid, warp := none, departed := l.ended.isSome, halted := l.halted, wait := l.wait
         specBar := none }]
    else []
  | none => []

/-- The members of a barrier, fixed at placement (R306). -/
def State.members (s : State) : BarId → List Member
  | .gb uid n => match s.group? uid with
    | some g => g.warpMembers ++ g.leekMember n
    | none => []
  | .sb uid _ => match s.span? uid with
    | some x => x.groups.flatMap fun u => ((s.group? u).map Group.warpMembers).getD []
    | none => []

/-- Whether a member is debug-blocked: halted and not arrived (R207). -/
def Member.blocked (m : Member) (b : Barrier) : Bool := m.halted && !m.departed && !b.arrived.contains m.agent

/-- Whether a member waits on the current phase of a barrier or speculates past it (R208). -/
def Member.waitsOn (m : Member) (id : BarId) (b : Barrier) : Bool :=
  !m.departed && (match m.wait with
    | .phase x n => x == id && n == b.phase
    | .rearrive x n => x == id && n == b.phase
    | .timed x n _ => x == id && n == b.phase
    | _ => false) ||
  (match id with
    | .gb uid n => m.group == uid && m.specBar == some n
    | .sb _ _ => false)

/-- The clusters of a span barrier whose warps wait, in ascending order. -/
def State.waitingClusters (s : State) (id : BarId) (b : Barrier) : List (Nat × AgentId) :=
  (s.members id).filterMap fun m =>
    if m.waitsOn id b then (s.group? m.group).map fun g => (g.cluster, m.agent) else none

/-- The limiter interval in cluster cycles: ceil(40,000 / PRAMP) microseconds (R396) of 1,400 cycles (R2). -/
def limiterInterval (pRamp : BitVec 17) : Nat := (40000 + pRamp.toNat - 1) / pRamp.toNat * 1400

/-- A completed span-barrier phase under the ramp limiter leaves its waiting warps to LIMITER_ADMIT, cluster by cluster
(R311, R396). -/
def State.limit (s : State) (id : BarId) (b : Barrier) : State :=
  if s.hw.pRamp = 0 then s
  else
    let first := s.clusters.all fun k => k.waiters.isEmpty
    let s := if first then { s with admitNext := s.clock + limiterInterval s.hw.pRamp } else s
    (s.waitingClusters id b).foldl (fun s x => s.mapCluster x.1 fun c => { c with waiters := x.2 :: c.waiters }) s

/-- The barrier after a completion (R201). -/
def Barrier.next (now : Nat) (b : Barrier) : Barrier :=
  { b with phase := b.phase + 1, arrived := [], bytes := 0, count := 0, doneAt := now }

/-- Roll back the warps of a group that speculate past a stopped phase, counting each (R206). -/
def State.rollbackBar (s : State) (uid n : Nat) : State :=
  match s.group? uid with
  | none => s
  | some g =>
    let hit (w : Warp) : Bool := w.spec.any fun p => p.bar == n
    let k := (g.warps.filter hit).length
    (s.mapGroup uid fun g => { g with warps := g.warps.map fun w => if hit w then w.rollback else w }).perfAdd g.ctx 1 k

/-- A phase stops with OVERDELIVERY (R206). -/
def State.stopBar (s : State) (id : BarId) : State :=
  let s := s.mapBar id fun b => { b with stopped := true }
  match id with
  | .gb uid n => s.rollbackBar uid n
  | .sb _ _ => s

/-- Complete the phase, or stop it, when its condition holds (R201, R205, R206). The speculating warps commit right after
the completion (R214). -/
def State.settle (s : State) (id : BarId) : State :=
  match s.bar? id with
  | none => s
  | some b =>
    let ms := s.members id
    if b.stopped || ms.isEmpty || !(ms.all fun m => b.arrived.contains m.agent) then s
    else if b.bytes = 0 then
      let t := s.mapBar id (Barrier.next s.clock)
      match id with
      | .gb uid n => t.commitAll uid n (((s.group? uid).map fun g => g.warps.map Warp.id).getD [])
      | .sb _ _ => t.limit id b
    else if b.bytes < 0 then s.stopBar id
    else s

/-- An arrival at the current phase (R203). -/
def State.arrive (s : State) (id : BarId) (a : AgentId) : State :=
  (s.mapBar id fun b =>
    { b with arrived := a :: b.arrived, latest := (a, b.phase) :: b.latest.filter fun x => x.1 != a }).settle id

/-- The phase of an agent's latest arrival at a barrier, if any (R200). -/
def Barrier.latestOf (b : Barrier) (a : AgentId) : Option Nat := (b.latest.find? fun x => x.1 == a).map Prod.snd

/-- Add to the expected byte count; outside the signed 64-bit range it is OVERDELIVERY (R205). A stopped phase keeps its count,
and the amount that would leave the range is left out: the spec does not say what the count then is (DESIGN CHOICE,
notes/assumptions/20.md). -/
def State.addBytes (s : State) (id : BarId) (n : Int) : State :=
  match s.bar? id with
  | none => s
  | some b =>
    if b.stopped then s
    else if b.bytes + n < -2 ^ 63 || 2 ^ 63 ≤ b.bytes + n then s.stopBar id
    else (s.mapBar id fun b => { b with bytes := b.bytes + n }).settle id

/-- A barrier without an agent's arrival in the current phase. -/
def Barrier.withdraw (b : Barrier) (a : AgentId) : Barrier := { b with arrived := b.arrived.filter fun x => x != a }

/-- A member that ends is departed: its arrivals in current phases are withdrawn (R306). -/
def State.depart (s : State) (g : Group) (a : AgentId) : State :=
  (s.mapGroup g.uid fun g => { g with bars := ⟨⟨g.bars.toArray.toList.map fun b => b.withdraw a⟩, by simp⟩ }).mapSpan g.span
    fun x => { x with bars := ⟨⟨x.bars.toArray.toList.map fun b => b.withdraw a⟩, by simp⟩ }

end Sys2Proof.Machine
end

