-- ==== Sys2Proof/Machine/Ops.lean ====
section
/-!
DEFINITION. The shared operations of an issuing agent: taking an exception and the return from one (R243 to R248),
context termination (R309), machine events (R18, R55, R224, R308), and how an instruction retires (R49, R54, R55) or waits.
-/

namespace Sys2Proof.Machine

/-! ### Ending agents and contexts -/

/-- Slots that become free: a pending SLOT_RETIRE takes them out of service and completes (R234, R388). -/
def State.freeSlots (s : State) (cluster : Nat) (gone : AccSlot → Bool) : State :=
  let k := s.cluster cluster
  let freed := (k.slots.filter gone).map AccSlot.n
  let out := freed.filter fun n => k.retiring.contains n
  let s := s.mapCluster cluster fun k =>
    { k with
      slots := k.slots.filter fun x => !gone x
      retired := out ++ k.retired
      retiring := k.retiring.filter fun n => !out.contains n }
  if out.isEmpty then s
  else s.finishRunning (fun c => bitsOf c.w[0].toNat 0 8 == 0x20 && bitsOf c.w[1].toNat 0 8 == cluster
    && out.contains (bitsOf c.w[1].toNat 8 4)) .ok

/-- What leaves a group's names unbound and its slots free (R26, R224, R240, R306). -/
def State.releaseNames (s : State) (g : Group) : State :=
  (s.freeSlots g.cluster fun x => x.group == g.uid).mapGroup g.uid fun g => { g with names := Vector.replicate 16 none }

/-- End a warp: departed, its speculation discarded, its arrivals withdrawn (R185, R209, R306). -/
def State.endWarp (s : State) (g : Group) (wid : Nat) (at' : W64) : State :=
  (s.mapWarp g.uid wid fun w => { w with ended := some at', spec := none, rep := none, wait := .ready, progress := none }).depart g
    (.warp g.uid wid)

/-- End a Leek thread: departed, its queue discarded, its group's slots free (R224, R240). -/
def State.endLeek (s : State) (g : Group) (at' : W64) : State :=
  let s := (s.mapLeek g.uid fun l => { l with ended := some at', queue := [], wait := .ready }).depart g (.leek g.uid)
  let s := s.mapCluster g.cluster fun k => { k with
    loadPath := k.loadPath.bind fun x => if x.1 == g.uid then none else some x
    array := k.array.bind fun x => if x.1 == g.uid then none else some x }
  s.releaseNames g

/-- The counters of the pods of a context whose work has begun and has not ended, with each pod's address (R309). A restart group
whose pod has ended is none of them: R309 names no event for the count that the restart added (R308; DESIGN CHOICE,
notes/assumptions/39.md). -/
def State.openJoins (s : State) (ctx : Nat) : List (W64 × W64) :=
  (s.pods.filter fun p => p.ctx == ctx).flatMap (fun p =>
    if p.gathered then p.joins.map fun j => (j.2, p.addr + BitVec.ofNat 64 (64 * j.1)) else [(p.pod.join, p.addr)])
  ++ (s.gathers.filter fun g => g.ctx == ctx).flatMap fun g =>
    g.joins.map fun j => (j.2, g.base + BitVec.ofNat 64 (64 * j.1))

/-- What is left of a held item when its context is terminated or reset: a counter event, which releases nothing (R309). -/
def Held.outlives : Held → Option Held
  | .dec c a f l p => some (.late c a f l p)
  | .cont _ _ | .enqueue _ _ _ => none
  | h => some h

/-- Remove everything resident or in flight of a context. Counter events that waited behind a continuation dropped here are
made. -/
def State.clearCtx (s : State) (ctx : Nat) : State :=
  let mine := (s.groups.filter fun g => g.ctx == ctx).map Group.uid
  let s := (s.groups.filter fun g => g.ctx == ctx).foldl (fun s g => s.freeSlots g.cluster fun x => x.group == g.uid) s
  State.retryHeld (ctx := ctx) { s with
    groups := s.groups.filter fun g => g.ctx != ctx
    spans := s.spans.filter fun x => x.ctx != ctx
    pods := s.pods.filter fun p => p.ctx != ctx
    gathers := s.gathers.filter fun g => g.ctx != ctx
    copies := s.copies.filter fun c => c.ctx != ctx
    restarts := s.restarts.filter fun r => r.orig.ctx != ctx
    arrivals := s.arrivals.filter fun x => x.1 != ctx
    outRemote := s.outRemote.filter fun o => o.request.ctx != ctx
    held := s.held.filterMap fun h => if h.item.ctx != ctx then some h else h.item.outlives.map fun x => { h with item := x }
    faultWait := s.faultWait.filter fun f => f.1 != ctx
    clusters := s.clusters.map fun k =>
      { k with
        events := k.events.filter fun e => !mine.contains e.group
        waiters := k.waiters.filter fun a => match a with
          | .warp g _ => !mine.contains g
          | .leek g => !mine.contains g
        loadPath := k.loadPath.bind fun x => if mine.contains x.1 then none else some x
        array := k.array.bind fun x => if mine.contains x.1 then none else some x } }

/-- The end of everything that a context has resident or in flight: groups end at once, queued pods and outstanding remote
operations are abandoned, and the generation advances (R161, R162, R309). The bound windows and their invisible backings stay, of
which the spec says nothing (R170; DESIGN CHOICE, notes/assumptions/23.md). -/
def State.endCtx (s : State) (ctx : Nat) (run : CtxRun) : State :=
  ((s.clearCtx ctx).nextGen ctx).mapCtx ctx fun c =>
    { c with run := run, stopped := [], peers := [], spillUsed := [], gathUsed := [] }

/-- A forced reset: what the part still has to do for the context is done, everything ends, and each open pod's counter is
killed with no release (R309). -/
def State.forceReset (s : State) (ctx : Nat) (run : CtxRun) : State :=
  let s := s.partSteps ctx
  (s.openJoins ctx).foldl (fun s j => s.joinEvent j.1 (.kill ctx j.1 j.2)) (s.endCtx ctx run)

/-- Terminate a context (R243, R309), counted in TERM (R400). `before` is what the part writes first; the kills of the open
pods' counters follow it. Other agents' events may fall between these steps (R373). -/
def State.terminate (s : State) (ctx : Nat) (before : List Todo := []) : State :=
  let kills := ((s.openJoins ctx).filter fun j => j.1 != 0).map fun j => Todo.count (.kill ctx j.1 j.2)
  let s := s.endCtx ctx .terminated
  ({ s with todo := s.todo ++ before ++ kills }).mapCount (partOf ctx) fun n => { n with terms := n.terms + 1 }

/-! ### The issuing agent -/

/-- The agent whose instruction runs, with its context and group. -/
inductive Issuer where
  | warp (c : Context) (g : Group) (w : Warp)
  | leek (c : Context) (g : Group) (l : Leek)

/-- The agent that issues, where it is resident and has not ended. -/
def State.issuer (s : State) : Option Issuer :=
  match s.cur with
  | none => none
  | some (.warp uid wid) =>
    match s.group? uid with
    | none => none
    | some g =>
      match s.ctx? g.ctx, g.warp? wid with
      | some c, some w => if w.ended.isNone then some (.warp c g w) else none
      | _, _ => none
  | some (.leek uid) =>
    match s.group? uid with
    | none => none
    | some g =>
      match s.ctx? g.ctx, g.leek with
      | some c, some l => if l.ended.isNone then some (.leek c g l) else none
      | _, _ => none

/-- The causes of R245. -/
inductive Cause where
  | illegal | tag | apxflow | latch | bounds | window | misalign | perm | joinovf | accfull | overdelivery | qbad | trap
  deriving DecidableEq, Repr

/-- The cause codes of R245. -/
def Cause.code : Cause → Nat
  | .illegal => 0x01
  | .tag => 0x02
  | .apxflow => 0x03
  | .latch => 0x04
  | .bounds => 0x05
  | .window => 0x06
  | .misalign => 0x07
  | .perm => 0x08
  | .joinovf => 0x09
  | .accfull => 0x0A
  | .overdelivery => 0x0B
  | .qbad => 0x0D
  | .trap => 0x10

/-- The cause of an address fault; an absent page is PERM only after CTX_FAULTFAIL (R388). -/
def AddrFault.cause : AddrFault → Cause
  | .misalign => .misalign
  | .window => .window
  | .bounds => .bounds
  | .perm => .perm
  | .apxflow => .apxflow
  | .absent => .perm

/-- What a program fault reports (R245, R246): its words, and the address TPC takes. -/
structure Stop where
  cause : Cause
  addr  : W64
  lanes : Mask
  pneg  : Bool
  pred  : Nat
  iter  : Nat
  tpc   : W64

/-- TSW as a fault produces it, with TM as given (R245). -/
def Stop.tsw (p : Stop) (tm : Bool) : W32 :=
  BitVec.ofNat 32 ((if tm then 2 ^ 31 else 0) + (if p.pneg then 2 ^ 23 else 0) + p.pred % 8 * 2 ^ 20 + p.iter % 64 * 2 ^ 14
    + p.cause.code)

/-- Whether a warp is in trap mode (R245). -/
def Warp.trapMode (w : Warp) : Bool := w.tsw.getLsbD 31

/-- A warp with its latches invalid (R49). -/
def Warp.dropLatches (w : Warp) : Warp := { w with latches := Vector.replicate 4 none }

/-- TRAP ENTRY (R244 to R246): the frame is written, the warp enters trap mode and fetch goes to TRAPBASE; the latches
become invalid. Everything else stays. -/
def Warp.trapEntry (w : Warp) (base : W64) (p : Stop) : Warp :=
  { w.dropLatches with
    tsw := p.tsw true, tpc := p.tpc, taddr := p.addr, tfirst := w.pc, tlanes := p.lanes, pc := base, rep := none
    wait := .ready, progress := none }

/-- The record of a warp in the layout of R250. -/
def Warp.record (g : Group) (w : Warp) (kind cause : Nat) (addr : W64) (lanes : Mask) (word5 : W64) : Rec :=
  { kind := kind, cause := cause, cluster := g.cluster, agent := w.slice, warp := w.id, pc := w.pc, addr := addr
    lanes := lanes, pod := g.podAddr, word5 := word5 }

/-- TAKING AN EXCEPTION. A program fault of a warp (R243): trap entry in normal mode where the context has a handler;
else the context is terminated with a record of kind 0x01, or 0x05 in trap mode. -/
def State.takeFault (s : State) (c : Context) (g : Group) (w : Warp) (p : Stop) : State :=
  if w.trapMode then
    (s.putRec c.id (w.record g 0x05 p.cause.code p.addr p.lanes (pair64 0 (p.tsw true)))).terminate c.id
  else if c.trapBase = 0 then
    (s.putRec c.id (w.record g 0x01 p.cause.code p.addr p.lanes (pair64 0 (p.tsw false)))).terminate c.id
  else (s.mapWarp g.uid w.id fun x => x.trapEntry c.trapBase p).perfAdd c.id 7 1

/-- THE RETURN FROM AN EXCEPTION: a warp leaves trap mode and resumes at TPC, inside a repeat unit at the iteration that
TSW holds (R248). -/
def Warp.trapReturn (w : Warp) : Warp :=
  let iter := bitsOf w.tsw.toNat 14 6
  { w.dropLatches with
    tsw := w.tsw &&& 0x7FFFFFFF, pc := w.tpc, rep := if iter = 0 then none else some { iter := iter, masks := none }
    wait := .ready }

/-- A program fault of a Leek thread terminates the context with a record of kind 0x03 (R224, R243). -/
def State.leekFault (s : State) (c : Context) (g : Group) (l : Leek) (cause : Cause) (addr : W64) : State :=
  (s.putRec c.id
    { kind := 0x03, cause := cause.code, cluster := g.cluster, agent := 0xF, lthread := l.index, pc := l.pc, addr := addr
      lanes := 1, pod := g.podAddr }).terminate c.id

/-! ### Machine events -/

/-- The counter of a lane: its thread pod's in a gathered group, else the group's pod's (R297, R308). -/
def State.laneJoin (s : State) (g : Group) (wid lane : Nat) : W64 :=
  match s.pods.find? fun p => p.uid == g.pod with
  | none => 0
  | some p =>
    if p.gathered then ((p.joins.find? fun j => j.1 == 64 * wid + lane).map Prod.snd).getD 0 else p.pod.join

/-- Ask for a restart group for a lane: its counter counts one more child (R308). -/
def State.requestRestart (s : State) (c : Context) (g : Group) (w : Warp) (lane : Nat) : State :=
  let j := s.laneJoin g w.id lane
  match s.pods.find? fun p => p.uid == g.pod with
  | none => s
  | some p =>
    let r : Restart := { uid := s.nextUid, orig := { g with warps := [] }, pod := p.pod, join := j, warp := w.id
                         slice := w.slice, lane := lane }
    let s := { s with nextUid := s.nextUid + 1, restarts := s.restarts ++ [r] }
    s.joinEvent j (.inc c.id j g.podAddr)

/-- Lanes killed: DEAD set, counters, one record of kind 0x10; a restartable kernel gets a restart group for each, another
kernel counts each as lost (R18, R308). Word 5 of the record holds SOURCE and RESTARTED alone, and no TSW beside them: the spec
leaves its other bits open (R250, R308; DESIGN CHOICE, notes/assumptions/13.md). -/
def State.killLanes (s : State) (c : Context) (g : Group) (w : Warp) (lanes : Mask) (source : Nat) (addr : W64) : State :=
  let new := lanes &&& ~~~w.dead
  let n := (Mask.lanes new).length
  if n = 0 then s
  else
    let again := g.desc.restart && g.restart.isNone
    let r := w.record g 0x10 0 addr new (BitVec.ofNat 64 (source * 2 ^ 56 + (if again then 1 else 0)))
    let s := s.mapWarp g.uid w.id fun x => { x with dead := x.dead ||| new }
    let s := (s.perfAdd c.id 5 n).mapCount (partOf c.id) fun k => { k with lanes := k.lanes + n }
    let s := s.putRec c.id r
    if again then
      (Mask.lanes new).foldl (fun s l => s.requestRestart c g w l.val) s
    else s.mapGroup g.uid fun g => { g with lost := g.lost ++ (Mask.lanes new).map fun l => 64 * w.id + l.val }

/-- A record of kind 0x10 that kills no lane, for a posted atomic step, with word 5 as `State.killLanes` has it (R157, R308). -/
def State.postedError (s : State) (c : Context) (g : Group) (w : Warp) (source : Nat) (addr : W64) : State :=
  s.putRec c.id (w.record g 0x10 0 addr 0 (BitVec.ofNat 64 (source * 2 ^ 56)))

/-- A Leek thread ended by an uncorrectable error (R224). -/
def State.killLeek (s : State) (c : Context) (g : Group) (l : Leek) (source : Nat) (addr : W64) : State :=
  let s := s.putRec c.id
    { kind := 0x10, cluster := g.cluster, agent := 0xF, lthread := l.index, pc := l.pc, addr := addr, lanes := 1
      pod := g.podAddr, word5 := BitVec.ofNat 64 (source * 2 ^ 56) }
  let s := s.mapCount (partOf c.id) fun k => { k with leeks := k.leeks + 1 }
  (s.mapGroup g.uid fun g => { g with fault := true }).endLeek g l.pc

/-! ### Signatures (R54, R55) -/

/-- One byte hashed into SIGW (R54). -/
def crcByte (c : BitVec 16) (b : Byte) : BitVec 16 :=
  (List.range 8).foldl (fun c _ => if c.getLsbD 15 then (c <<< 1) ^^^ 0x1021 else c <<< 1) (c ^^^ (b.setWidth 16 <<< 8))

/-- Bytes hashed in order. -/
def crcBytes (c : BitVec 16) (bs : List Byte) : BitVec 16 := bs.foldl crcByte c

/-- An instruction's words hashed, each as its bytes in ascending order (R54). -/
def crcWords (c : BitVec 16) (ws : List W32) : BitVec 16 := crcBytes c (ws.flatMap fun w => toBytesLE 4 w.toNat)

/-! ### Retiring -/

/-- What an instruction does when its turn comes. -/
inductive Effect where
  /-- a program fault: its cause, TADDR and TLANES -/
  | fault (c : Cause) (addr : W64) (lanes : Mask)
  /-- a page that is not present: its address, the access, and TADDR and TLANES should the driver refuse it -/
  | absent (va : Nat) (acc : Access) (addr : W64) (lanes : Mask)
  /-- the agent waits, with what the instruction did before it waits -/
  | wait (s : State) (w : Wait)
  /-- the instruction completes and the next one follows -/
  | done (s : State)
  /-- the instruction completes, and its agent is not ready until a wait is over -/
  | rest (s : State) (w : Wait)
  /-- a control instruction completes: the next address, and the stack bytes of R54 -/
  | flow (s : State) (pc : W64) (marks : List Byte)
  /-- an EXIT that ends its warp -/
  | exits (s : State) (marks : List Byte)
  /-- the instruction ends its agent or context; nothing retires -/
  | gone (s : State)

/-- How an instruction retires: the words hashed at its completion, its check value, the address that follows it, its
predicate fields and its repeat iteration; and whether it was fetched, so that it counts as issued (R257). -/
structure Issue where
  words : List W32
  sig16 : BitVec 16
  next  : W64
  pneg  : Bool
  pred  : Nat
  iter  : Nat
  rep   : Option RepState
  fetched : Bool := true

/-- SIGW at a completion: the words where there is no check value, else the seed; then the stack bytes (R54, R55). -/
def Warp.hash (w : Warp) (i : Issue) (marks : List Byte) : BitVec 16 :=
  if w.trapMode then w.sigw
  else if i.sig16 = 0 then crcBytes (crcWords w.sigw i.words) marks
  else crcBytes w.seed marks

/-- Whether a completion's check value kills the warp (R55). -/
def Warp.sigBad (w : Warp) (i : Issue) : Bool := !w.trapMode && i.sig16 != 0 && w.sigw != i.sig16

/-- A warp after a completion, at its next instruction. -/
def Warp.retire (w : Warp) (i : Issue) (pc : W64) (marks : List Byte) : Warp :=
  { w with sigw := w.hash i marks, pc := pc, rep := i.rep, wait := .ready, progress := none }

/-- A warp killed by its signature: a record of kind 0x02, PWARPS, the fault of its end event (R55, R297). Its LANES are EXEC and
not DEAD: the spec gives TLANES to faults and TRAP alone (DESIGN CHOICE, notes/assumptions/34.md). -/
def State.killWarp (s : State) (c : Context) (g : Group) (w : Warp) (sig16 : BitVec 16) : State :=
  let s := s.putRec c.id (w.record g 0x02 0 0 (w.exec &&& ~~~w.dead)
    (pair64 (BitVec.ofNat 32 (sig16.toNat * 2 ^ 16 + w.sigw.toNat)) w.tsw))
  let s := s.mapCount (partOf c.id) fun k => { k with warps := k.warps + 1 }
  (s.mapGroup g.uid fun g => { g with fault := true }).endWarp g w.id w.pc

/-- Whether a warp that issued while speculating has rolled back since: what its own instruction had the part write met its
read set (R212, R213). -/
def State.rolledBack (s : State) (g : Group) (w : Warp) : Bool :=
  w.spec.isSome && ((s.group? g.uid).bind fun g => g.warp? w.id).any fun x => x.spec.isNone

/-- An instruction of a warp completes in state `s`, with the next address and stack bytes: the check of R55 against SIGW
as it stood, then the hash; the instruction is counted (R257). A warp that has rolled back stands at its wait (R213). -/
def State.retire (s : State) (c : Context) (g : Group) (w : Warp) (i : Issue) (pc : W64) (marks : List Byte) : State :=
  let s := s.perfAdd c.id 0 1
  if s.rolledBack g w then s
  else if w.sigBad i then s.killWarp c g w i.sig16
  else s.mapWarp g.uid w.id fun x => x.retire i pc marks

/-- Set why an agent waits. -/
def State.setWait (s : State) (a : AgentId) (wt : Wait) : State :=
  match a with
  | .warp uid wid => s.mapWarp uid wid fun w => { w with wait := wt }
  | .leek uid => s.mapLeek uid fun l => { l with wait := wt }

/-- The outcome of a warp's instruction. A speculating warp that would fault stalls instead (R211). An instruction that takes
effect or faults has issued and is counted once, however long it waited (R257; notes/assumptions/11.md). One that waits for a page
of its own is fetched and issues again (R243). -/
def State.finishWarp (s : State) (c : Context) (g : Group) (w : Warp) (i : Issue) (e : Effect) : State :=
  let me := AgentId.warp g.uid w.id
  let stop (cause : Cause) (addr : W64) (lanes : Mask) : State :=
    if w.spec.isSome then s.setWait me .speculation
    else (s.perfAdd c.id 0 (if i.fetched then 1 else 0)).takeFault c g w
      { cause := cause, addr := addr, lanes := lanes, pneg := i.pneg, pred := i.pred, iter := i.iter
        tpc := if cause = .trap then i.next else w.pc }
  match e with
  | .fault cause addr lanes => stop cause addr lanes
  | .absent va acc addr lanes =>
    if w.spec.isSome then s.setWait me .speculation
    else (s.faultRing c.id va acc g.cluster).mapWarp g.uid w.id fun x =>
      { x with wait := .page (BitVec.ofNat 64 (va / 4096)) acc.code addr lanes, progress := none }
  | .wait t wt => t.setWait me wt
  | .done t => t.retire c g w i i.next []
  | .rest t wt => if t.rolledBack g w then t.retire c g w i i.next [] else (t.retire c g w i i.next []).setWait me wt
  | .flow t pc marks =>
    let t := if pc = i.next then t else t.mapWarp g.uid w.id Warp.dropLatches
    t.retire c g w i pc marks
  | .exits t marks =>
    let r := t.retire c g w i i.next marks
    if w.sigBad i || t.rolledBack g w then r else r.endWarp g w.id w.pc
  | .gone t => t

/-- A Leek thread after a completion. -/
def State.retireLeek (s : State) (g : Group) (pc : W64) : State :=
  s.mapLeek g.uid fun l => { l with pc := pc, wait := .ready }

/-- The outcome of a Leek thread's instruction (R224). A Leek thread has no SIGW: a check value on its BRA, CALL or RET checks
nothing (R54, R55; notes/assumptions/25.md). -/
def State.finishLeek (s : State) (c : Context) (g : Group) (l : Leek) (next : W64) (e : Effect) : State :=
  let me := AgentId.leek g.uid
  match e with
  | .fault cause addr _ => s.leekFault c g l cause addr
  | .absent va acc addr lanes =>
    (s.faultRing c.id va acc g.cluster).setWait me (.page (BitVec.ofNat 64 (va / 4096)) acc.code addr lanes)
  | .wait t wt => t.setWait me wt
  | .done t => t.retireLeek g next
  | .rest t wt => (t.retireLeek g next).setWait me wt
  | .flow t pc _ => t.retireLeek g pc
  | .exits t _ => t.endLeek g l.pc
  | .gone t => t

end Sys2Proof.Machine
end

