-- ==== Sys2Proof/Machine/Flags.lean ====
section
/-!
DEFINITION. The sticky flags (R28, R82, R83) and how a warp's FLAGS receives them.
-/

namespace Sys2Proof.Machine

/-- The FLAGS bits of R28. -/
def flagINV : Byte := 0x01
def flagDZ : Byte := 0x02
def flagOVF : Byte := 0x04
def flagUNF : Byte := 0x08
def flagINX : Byte := 0x10
def flagNANZ : Byte := 0x20
def flagSHDEAD : Byte := 0x40
def flagQBAD : Byte := 0x80

/-- The OR of the conditions that the lanes of a mask raise (R83). -/
def orFlags (m : Mask) (f : Lanes (W64 × Byte)) : Byte := (Mask.lanes m).foldl (fun a l => a ||| (f[l]).2) 0

/-- FLAGS after an instruction: bits are only set (R28, R82). -/
def Warp.setFlags (w : Warp) (fl : Byte) : Warp := { w with flags := w.flags ||| fl }

end Sys2Proof.Machine
end

