-- ==== Sys2Proof/Machine/Operands.lean ====
section
/-!
DEFINITION. Operands and destinations: the effective mask (R16, R45), every source form with its checks (R12, R14, R35 to
R38, R48, R344), and the write of a vector, scalar or mask destination with the latches (R14, R18, R46, R47) and the
shadows of a speculating warp (R210).
-/

namespace Sys2Proof.Machine

/-! ### Masks -/

/-- A k register; k0 reads as all ones (R16). -/
def Warp.kmask (w : Warp) (n : Fin 8) : Mask := if n = 0 then BitVec.allOnes 64 else w.k[n]

/-- The predicate mask (R16). -/
def Warp.predMask (w : Warp) (pneg : Bool) (pred : Fin 8) : Mask := if pneg then ~~~(w.kmask pred) else w.kmask pred

/-- The lanes that EXEC and the predicate select, dead ones included; a repeat unit uses what its first iteration read
(R18, R52). -/
def Warp.selected (w : Warp) (pneg : Bool) (pred : Fin 8) : Mask :=
  match w.rep.bind RepState.masks with
  | some (e, p) => e &&& p
  | none => w.exec &&& w.predMask pneg pred

/-- A one-bit k register of a Leek thread (R24). -/
def Leek.kbit (l : Leek) (n : Fin 8) : Bool := n = 0 || l.k.getLsbD n

/-- Whether a Leek instruction takes effect (R45). -/
def Leek.takes (l : Leek) (pneg : Bool) (pred : Fin 8) : Bool := l.kbit pred != pneg

/-- Write bits of a k register; a write to k0 is discarded (R16, R45). -/
def Warp.writeK (w : Warp) (n : Fin 8) (m bits : Mask) : Warp :=
  if n = 0 then w else { w with k := w.k.set n ((w.k[n] &&& ~~~m) ||| (bits &&& m)) }

/-- Write a one-bit k register of a Leek thread. -/
def Leek.writeK (l : Leek) (n : Fin 8) (b : Bool) : Leek :=
  if n = 0 then l
  else { l with k := if b then l.k ||| BitVec.ofNat 8 (2 ^ n.val) else l.k &&& ~~~(BitVec.ofNat 8 (2 ^ n.val)) }

/-! ### Sources -/

/-- An operand as an instruction reads it: its field, the format an immediate is widened to, whether it is 64 bits wide,
and the tag it must carry, if any (R14). -/
structure Opnd where
  reg  : Reg
  fmt  : Fmt
  wide : Bool
  tag  : Option Fmt

/-- An operand in a format, tag-checked. -/
def Opnd.of (r : Reg) (f : Fmt) : Opnd := { reg := r, fmt := f, wide := f.wide, tag := some f }

/-- An operand in a format that accepts any tag (R14). -/
def Opnd.any (r : Reg) (f : Fmt) : Opnd := { reg := r, fmt := f, wide := f.wide, tag := none }

/-- An F32 code widened exactly to F64 (R38). A NaN keeps its sign and payload bits, for MOVI too: R72 makes results of
arithmetic canonical, and widening an immediate is none (DEDUCED, notes/assumptions/15.md). -/
def widenF32 (x : W32) : W64 :=
  let n := x.toNat
  let s := bitsOf n 31 1
  let e := bitsOf n 23 8
  let m := bitsOf n 0 23
  if e = 255 then BitVec.ofNat 64 (s * 2 ^ 63 + 2047 * 2 ^ 52 + m * 2 ^ 29)
  else if e ≠ 0 then BitVec.ofNat 64 (s * 2 ^ 63 + (e + 896) * 2 ^ 52 + m * 2 ^ 29)
  else if m = 0 then BitVec.ofNat 64 (s * 2 ^ 63)
  else
    let p := Nat.log2 m
    BitVec.ofNat 64 (s * 2 ^ 63 + (p + 874) * 2 ^ 52 + (m - 2 ^ p) * 2 ^ (52 - p))

/-- The trailing word widened to a format (R38). -/
def widenImm (f : Fmt) (x : W32) : W64 :=
  match f with
  | .s64 => x.signExtend 64
  | .f64 => widenF32 x
  | _ => zx64 x

/-- A vector register by number. -/
def Warp.vreg (w : Warp) (n : Nat) : VReg := if h : n < 256 then w.v[n] else { lanes := mkLanes fun _ => 0, tag := .b32 }

/-- A scalar register by number. -/
def Warp.sreg (w : Warp) (n : Nat) : W32 := if h : n < 64 then w.s[n] else 0

/-- A scalar pair (R5, R12). -/
def Warp.spair (w : Warp) (n : Nat) : W64 := pair64 (w.sreg n) (w.sreg (n + 1))

/-- The value of a vector register or pair in a lane. -/
def Warp.vlane (w : Warp) (n : Nat) (wide : Bool) (l : Fin 64) : W64 :=
  if wide then pair64 ((w.vreg n).lanes[l]) ((w.vreg (n + 1)).lanes[l]) else zx64 ((w.vreg n).lanes[l])

/-- The value of an operand in a lane (R12, R38, R48). -/
def Warp.src (w : Warp) (o : Opnd) (imm : Option W32) (l : Fin 64) : W64 :=
  match o.reg with
  | .v n => w.vlane n.val o.wide l
  | .s n => if o.wide then w.spair n.val else zx64 w.s[n]
  | .latch n => match w.latches[n] with
    | some x => x.lanes[l]
    | none => 0
  | .qm n => (w.qm[n])[l]
  | .qb n => (w.qb[n])[l]
  | .imm => widenImm o.fmt (imm.getD 0)
  | _ => 0

/-- The value of a uniform operand: s, zero or immediate. -/
def Warp.uni (w : Warp) (r : Reg) (imm : Option W32) (f : Fmt) : W64 := w.src (Opnd.any r f) imm 0

/-- Whether an operand's tag, or the width of its latch, is wrong (R14, R48). -/
def Warp.tagBad (w : Warp) (o : Opnd) : Bool :=
  match o.reg with
  | .v n =>
    match o.tag with
    | some t => (w.vreg n.val).tag != t || (o.wide && (w.vreg (n.val + 1)).tag != t)
    | none => false
  | .latch n => match w.latches[n] with
    | some x => x.wide != o.wide || o.tag.any fun t => x.tag != t
    | none => false
  | _ => false

/-- Whether a field names an approximate register or latch (R11, R20). -/
def Warp.isApx (w : Warp) (apxFrom : Nat) : Reg → Bool
  | .v n => apxFrom ≤ n.val
  | .latch n => match w.latches[n] with
    | some x => x.apx
    | none => false
  | _ => false

/-- Whether a field names an invalid latch (R48). -/
def Warp.latchBad (w : Warp) : Reg → Bool
  | .latch n => w.latches[n].isNone
  | _ => false

/-- A destination that an A = 1 instruction may not write: a scalar or a precise register (R344). -/
def preciseDst (apxFrom : Nat) : Reg → Bool
  | .v n => n.val < apxFrom
  | .s _ => true
  | _ => false

/-- The operand faults of R57 items 3 to 5, in their order: TAG; APXFLOW, of any source under A = 0 and of those that are
never approximate or a precise destination under A = 1; LATCH. -/
def Warp.operandFault (w : Warp) (apxFrom : Nat) (a : Bool) (os : List Opnd) (never : List Reg) (dsts : List Reg) :
    Option Cause :=
  if os.any w.tagBad then some .tag
  else if (!a && os.any fun o => w.isApx apxFrom o.reg) || never.any (w.isApx apxFrom) || (a && dsts.any (preciseDst apxFrom)) then
    some .apxflow
  else if os.any fun o => w.latchBad o.reg then some .latch
  else none

/-- The tag of a source that a move carries; none for an untagged source (R14, R106). Of a pair it is the even register's: where
the two differ, the spec says nothing (DESIGN CHOICE, notes/assumptions/15.md). -/
def Warp.tagOf (w : Warp) : Reg → Option Fmt
  | .v n => some w.v[n].tag
  | .latch n => w.latches[n].map Latch.tag
  | _ => none

/-! ### Uncorrectable errors in operands (R18) -/

/-- Whether a source field reads a register, which reaches the lanes over the operand crossbar. -/
def Opnd.isRegister (o : Opnd) : Bool :=
  match o.reg with
  | .zero | .imm => false
  | _ => true

/-- The lanes whose next operand the crossbar delivers with a parity error (R401 source 6). -/
def Warp.crossed (w : Warp) : Mask := maskOf fun l => w.bad.contains (.crossbar l)

/-- The lanes that an operand's error kills: a lane's own register or latch element, or every lane for a scalar (R18); and a
lane that reads the operand with a crossbar error. -/
def Warp.badIn (w : Warp) (o : Opnd) : Mask :=
  if w.bad.isEmpty then 0
  else (if o.isRegister then w.crossed else 0) ||| match o.reg with
    | .v n => maskOf fun l => w.bad.any fun b => match b with
        | .v m k => k == l && (m == n.val || (o.wide && m == n.val + 1))
        | _ => false
    | .s n => if w.bad.any fun b => match b with
        | .s m => m == n.val || (o.wide && m == n.val + 1)
        | _ => false
      then BitVec.allOnes 64 else 0
    | .qm n => maskOf fun l => w.bad.any fun b => b == .qm n.val l false || b == .qm n.val l true
    | .qb n => maskOf fun l => w.bad.any fun b => b == .qb n.val l false || b == .qb n.val l true
    | .latch n => maskOf fun l => w.bad.any fun b => b == .latch n.val l
    | _ => 0

/-- The lanes of a mask that an instruction's operands kill, and the source of R308: 6 for a latch or the crossbar, else
1. -/
def Warp.operandKills (w : Warp) (os : List Opnd) (eff : Mask) : Mask × Nat :=
  (os.foldl (fun m o => m ||| w.badIn o) 0 &&& eff,
    if os.any fun o => (match o.reg with
        | .latch _ => (w.badIn o &&& eff) != 0
        | _ => o.isRegister && !w.bad.isEmpty && (w.crossed &&& eff) != 0) then 6 else 1)

/-! ### Destinations -/

/-- Save a register, with its error marks, in a shadow before its first write while speculating; none when none of the 32 is free (R210). -/
def Warp.shadow (w : Warp) (n : Nat) : Option Warp :=
  match w.spec with
  | none => some w
  | some p =>
    if p.shadows.any fun x => x.1 == n then some w
    else if p.shadows.length < 32 then
      let marks := w.bad.filter fun b => match b with
        | .v m _ => m == n
        | _ => false
      some { w with spec := some { p with shadows := (n, w.vreg n) :: p.shadows, marks := marks ++ p.marks } }
    else none

/-- A register after a write: results in the lanes written, zero in the selected dead lanes, a new tag when some live lane
is written (R14, R18). -/
def VReg.put (r : VReg) (wr zero : Mask) (retag : Bool) (tag : Fmt) (vals : Fin 64 → W32) : VReg :=
  { lanes := mkLanes fun l => if wr.getLsbD l then vals l else if zero.getLsbD l then 0 else r.lanes[l]
    tag := if retag then tag else r.tag }

/-- Errors that a write of a register's lanes clears (R405). -/
def clearBad (bad : List BadReg) (n : Nat) (m : Mask) : List BadReg :=
  if bad.isEmpty then bad
  else bad.filter fun b => match b with
    | .v k l => !(k == n && m.getLsbD l)
    | _ => true

/-- Write one vector register. -/
def Warp.putV (w : Warp) (n : Nat) (r : VReg) (m : Mask) : Warp :=
  if h : n < 256 then { w with v := w.v.set n r, bad := clearBad w.bad n m } else w

/-- Write a scalar register. -/
def Warp.putS (w : Warp) (n : Nat) (x : W32) : Warp :=
  if h : n < 64 then { w with s := w.s.set n x, bad := if w.bad.isEmpty then w.bad else w.bad.filter fun b => b != .s n } else w

/-- Write a scalar register or pair. -/
def Warp.writeS (w : Warp) (n : Nat) (wide : Bool) (x : W64) : Warp :=
  if wide then (w.putS n (lo32 x)).putS (n + 1) (hi32 x) else w.putS n (lo32 x)

/-- Shift a new result into the latches (R47). -/
def Warp.pushLatch (w : Warp) (x : Latch) : Warp :=
  { w with
    latches := #v[some x, w.latches[0], w.latches[1], w.latches[2]]
    bad := if w.bad.isEmpty then w.bad else w.bad.filterMap fun b => match b with
      | .latch n l => if n < 3 then some (.latch (n + 1) l) else none
      | b => some b }

/-- What a vector destination receives: the executing lanes, the lanes selected, the lanes of the mask killed at the end
of the instruction, the values, the result's width and tag, and the A and NW bits. -/
structure VecWrite where
  eff  : Mask
  sel  : Mask
  kill : Mask
  vals : Fin 64 → W64
  wide : Bool
  tag  : Fmt
  a    : Bool
  nw   : Bool

/-- The low, or only, register of a destination after a write. -/
def VecWrite.low (x : VecWrite) (w : Warp) (n : Nat) : VReg :=
  (w.vreg n).put (x.eff &&& ~~~x.kill) (x.sel &&& (w.dead ||| x.kill)) (x.eff != 0) x.tag fun l => lo32 (x.vals l)

/-- The high register of a destination pair after a write. -/
def VecWrite.high (x : VecWrite) (w : Warp) (n : Nat) : VReg :=
  (w.vreg (n + 1)).put (x.eff &&& ~~~x.kill) (x.sel &&& (w.dead ||| x.kill)) (x.eff != 0) x.tag fun l => hi32 (x.vals l)

/-- The latch that a write fills: what the destination holds after it or, under NW, would hold (R47). Where no lane executes and
the two registers of a 64-bit destination hold different tags, the latch takes the even register's: R47 speaks of one tag (DESIGN
CHOICE, notes/assumptions/15.md). -/
def VecWrite.latch (x : VecWrite) (w : Warp) (n : Nat) : Latch :=
  let lo := x.low w n
  let hi := x.high w n
  { lanes := mkLanes fun l => if x.wide then pair64 (lo.lanes[l]) (hi.lanes[l]) else zx64 (lo.lanes[l])
    tag := lo.tag, wide := x.wide, apx := x.a }

/-- Write a vector destination without shifting the latches; none when a shadow is missing (R210). -/
def Warp.writeVec (w : Warp) (n : Nat) (x : VecWrite) : Option Warp :=
  if x.nw then some w
  else do
    let w1 ← w.shadow n
    let w2 ← if x.wide then w1.shadow (n + 1) else some w1
    let m := (x.eff &&& ~~~x.kill) ||| (x.sel &&& (w.dead ||| x.kill))
    let w3 := w2.putV n (x.low w n) m
    return if x.wide then w3.putV (n + 1) (x.high w n) m else w3

/-- Write a vector destination and shift the latches (R46, R47). -/
def Warp.commitVec (w : Warp) (n : Nat) (x : VecWrite) : Option Warp :=
  (w.writeVec n x).map fun w' => w'.pushLatch (x.latch w n)

end Sys2Proof.Machine
end

