-- ==== Sys2Proof/Machine/Issue.lean ====
section
/-!
DEFINITION. Issue: the checks that precede a meaning (R57, R211, R227, R242), the environment that a meaning reads, and
the one path by which an instruction with a vector, scalar or mask destination checks, writes and completes.
-/

namespace Sys2Proof.Machine

/-- What a meaning of a warp instruction reads: the machine, its context, group and warp, and the masks of R16 and R18. -/
structure Env where
  s   : State
  c   : Context
  g   : Group
  w   : Warp
  eff : Mask
  sel : Mask

/-- What a meaning of a Leek instruction reads. -/
structure LeekEnv where
  s : State
  c : Context
  g : Group
  l : Leek

/-- The agent of an environment. -/
def Env.me (e : Env) : AgentId := .warp e.g.uid e.w.id
def LeekEnv.me (e : LeekEnv) : AgentId := .leek e.g.uid

/-- EXEC and not DEAD: the TLANES of R57 items 1 to 5. -/
def Env.live (e : Env) : Mask := e.w.exec &&& ~~~e.w.dead

/-- The executing lanes that no error in some operands kills: those whose values an instruction tests (R133;
notes/assumptions/17.md). -/
def Env.sound (e : Env) (os : List Opnd) : Mask := e.eff &&& ~~~(e.w.operandKills os e.eff).1

/-- A fault of R57 items 2 to 5, with EXEC and not DEAD as its TLANES (R246). For TAG, APXFLOW and LATCH of a predicated instruction
R14 and R48 speak of the executing lanes, which are those of the effective mask; the model follows R246 (DEDUCED,
notes/assumptions/34.md). -/
def Env.early (e : Env) (c : Cause) : Effect := .fault c 0 e.live

/-- The state with the issuing warp replaced. -/
def Env.put (e : Env) (w : Warp) : State := e.s.mapWarp e.g.uid e.w.id fun _ => w

/-- The state with the issuing Leek thread replaced. -/
def LeekEnv.put (e : LeekEnv) (l : Leek) : State := e.s.mapLeek e.g.uid fun _ => l

/-- The environment of an issuing warp under a predicate. -/
def Env.mk' (s : State) (c : Context) (g : Group) (w : Warp) (pneg : Bool) (pred : Fin 8) : Env :=
  { s := s, c := c, g := g, w := w, eff := w.selected pneg pred &&& ~~~w.dead, sel := w.selected pneg pred }

/-- How an instruction outside a repeat unit retires. -/
def issueOf (sh : Shape) (w : Warp) : Issue :=
  { words := sh.encode, sig16 := sh.sig16, next := w.pc + BitVec.ofNat 64 (4 * sh.encode.length), pneg := sh.predicate.1
    pred := sh.predicate.2.val, iter := 0, rep := none }

/-- A warp instruction before its meaning: the stalls of R211, then ILLEGAL by encoding, agent, descriptor or mode. -/
def warpEffect (sh : Shape) (e : Env) (body : Env → Effect) : Effect :=
  if e.w.spec.isSome && sh.stalls then .wait e.s .speculation
  else if !sh.legal false e.g.desc.vcount e.g.desc.scount || !sh.modeOk e.w.trapMode e.c.system then e.early .illegal
  else body e

/-- A Leek instruction before its meaning: ILLEGAL, then the wait of R227. -/
def leekEffect (sh : Shape) (e : LeekEnv) (body : LeekEnv → Effect) : Effect :=
  if !sh.legal true e.g.desc.vcount e.g.desc.scount then .fault .illegal 0 1
  else if sh.drains && !e.l.queue.isEmpty then .wait e.s .matrix
  else body e

/-- Issue an instruction by the current agent. -/
def issue (sh : Shape) (s : State) (wb : Env → Effect) (lb : LeekEnv → Effect) : Host.Outcome State Fault Refusal :=
  match s.issuer with
  | none => .fault .noAgent
  | some (.warp c g w) =>
    let e := Env.mk' s c g w sh.predicate.1 sh.predicate.2
    .next (s.finishWarp c g w (issueOf sh w) (warpEffect sh e wb))
  | some (.leek c g l) =>
    let e : LeekEnv := { s := s, c := c, g := g, l := l }
    .next (s.finishLeek c g l (l.pc + BitVec.ofNat 64 (4 * sh.encode.length)) (leekEffect sh e lb))

/-- The Leek side of an opcode that only a warp may issue: `leekEffect` has already raised ILLEGAL (R67). -/
def noLeek (_ : LeekEnv) : Effect := .fault .illegal 0 1

/-- The warp side of an opcode that only the Leek core may issue (R67). -/
def noWarp (e : Env) : Effect := e.early .illegal

/-! ### Instructions that write registers -/

/-- What an instruction with one destination does after its encoding checks: its sources, those never approximate, its
result width and tag, its faults of R57 item 6, its result and flags a lane, and how many free values it draws. -/
structure RegIns where
  dst    : Reg
  nw     : Bool
  a      : Bool
  os     : List Opnd
  never  : List Reg := []
  wide   : Bool
  tag    : Fmt
  faults : Option (Cause × Mask) := none
  vals   : Lanes (W64 × Byte)
  draws  : Nat := 0

/-- A form L instruction's result in its own format. -/
def RegIns.of (f : LForm) (os : List Opnd) (vals : Lanes (W64 × Byte)) : RegIns :=
  { dst := f.dst, nw := f.nw, a := f.a, os := os, wide := f.fmt.wide, tag := f.fmt, vals := vals }

/-- The free values drawn by an instruction (notes/assumptions/2.md). -/
def State.drawn (s : State) (n : Nat) : State := if n = 0 then s else { s with fresh := s.fresh + n }

/-- The mask whose lanes raise flags: one lane for a scalar destination (R83, R91). -/
def flagMask (dst : Reg) (m : Mask) : Mask :=
  match dst with
  | .s _ => if m = 0 then 0 else 1
  | _ => m

/-- The warp after its destination is written; none when a shadow is missing. A scalar destination takes zero when every
executing lane is killed (R18); a reduction that some lanes survive delivers their result (notes/assumptions/12.md). -/
def RegIns.write (x : RegIns) (w : Warp) (eff sel kill : Mask) : Option Warp :=
  match x.dst with
  | .v n => w.commitVec n.val
      { eff := eff, sel := sel, kill := kill, vals := fun l => (x.vals[l]).1, wide := x.wide, tag := x.tag, a := x.a, nw := x.nw }
  | .s n => some (if eff = 0 || x.nw then w else w.writeS n.val x.wide (if eff &&& ~~~kill = 0 then 0 else (x.vals[(0 : Fin 64)]).1))
  | .k n => some (w.writeK n eff (maskOf fun l => if h : l < 64 then (x.vals[l]).1.getLsbD 0 && !kill.getLsbD l else false))
  | _ => some w

/-- Run an instruction with one destination, with the lanes its operands' errors kill and their source (R14, R18, R45 to
R48, R57, R83). A lane that the instruction itself kills raises none of its flags (DESIGN CHOICE, notes/assumptions/17.md). -/
def Env.runKill (e : Env) (x : RegIns) (kills : Mask × Nat) : Effect :=
  match e.w.operandFault e.g.desc.apxFrom x.a x.os x.never [x.dst] with
  | some c => e.early c
  | none =>
    match (if e.eff = 0 then none else x.faults) with
    | some (c, m) => .fault c 0 m
    | none =>
      match x.write e.w e.eff e.sel kills.1 with
      | none => .wait e.s .speculation
      | some w =>
        let w := w.setFlags (orFlags (flagMask x.dst (e.eff &&& ~~~kills.1)) x.vals)
        .done (((e.put w).drawn x.draws).killLanes e.c e.g e.w kills.1 kills.2 0)

/-- Run an instruction whose lanes each read their own elements. -/
def Env.run (e : Env) (x : RegIns) : Effect := e.runKill x (e.w.operandKills x.os e.eff)

/-- The lanes of a mask where a value test holds, as a fault when there is one (R57 item 6). -/
def laneFault (c : Cause) (m : Mask) (p : Fin 64 → Bool) : Option (Cause × Mask) :=
  let bad := maskOf fun l => if h : l < 64 then m.getLsbD l && p ⟨l, h⟩ else false
  if bad = 0 then none else some (c, bad)

/-! ### Leek registers -/

/-- A g register by number. -/
def Leek.greg (l : Leek) (n : Fin 32) : W64 := l.g[n]

/-- A Leek source: a 32-bit format reads bits [31:0] (R92). -/
def Leek.src (l : Leek) (f : Fmt) (r : Reg) (imm : Option W32) : W64 :=
  match r with
  | .g n => if f.wide then l.g[n] else zx64 (lo32 l.g[n])
  | .imm => widenImm f (imm.getD 0)
  | .k n => if l.kbit n then 1 else 0
  | _ => 0

/-- A Leek result as it stands in a g register: sign-extended under S32, else zero-extended (R92). -/
def leekResult (f : Fmt) (x : W64) : W64 :=
  if f.wide then x else match f with
    | .s32 => (lo32 x).signExtend 64
    | _ => zx64 (lo32 x)

/-- Write a g register. -/
def Leek.writeG (l : Leek) (r : Reg) (x : W64) : Leek :=
  match r with
  | .g n => { l with g := l.g.set n x }
  | _ => l

/-- A Leek instruction that writes one g register when it takes effect (R45, R92). -/
def LeekEnv.run (e : LeekEnv) (f : LForm) (x : W64) : Effect :=
  .done (if e.l.takes f.pneg f.pred && !f.nw then e.put (e.l.writeG f.dst (leekResult f.fmt x)) else e.s)

end Sys2Proof.Machine
end

