-- ==== Sys2Proof/Machine/Fetch.lean ====
section
/-!
DEFINITION. Instruction fetch (R34, R174): 64-byte lines through the page tables with the X attribute, and the lines an
agent has fetched already, which it may execute again until ISYNC.
-/

namespace Sys2Proof.Machine

/-- What a fetch of one line finds: its bytes, with the line to remember, the cache entries it fills and the free values
it draws; or its fault. -/
inductive LineFetch where
  | ok (bs : List Byte) (fill : List TlbEntry) (draws : Nat)
  | perm
  | absent

/-- A line read fresh. -/
def State.freshLine (s : State) (c : Context) (line : Nat) : LineFetch :=
  match s.translate c line with
  | .perm => .perm
  | .absent => .absent
  | .ok place leaf fill => if Access.fetch.allowed leaf then .ok (s.mem.read place 64) fill 0 else .perm

/-- Whether a waiting agent issues again the instruction that it has fetched already (R203); one that waits for its
instruction's own page has not. -/
def Wait.holds : Wait → Bool
  | .ready | .sleep _ | .page _ 2 _ _ | .refused _ 2 _ _ => false
  | _ => true

/-- Whether a warp issues again bytes that it holds: while it waits, and within a repeat unit that goes on (R52). -/
def Warp.holds (w : Warp) : Bool := w.wait.holds || (w.rep.bind RepState.masks).isSome

/-- A line as an agent fetches it, or holds it while it waits. Where it holds the line already and the line reads otherwise
now, whether the old bytes are executed is left open (R174): a free value decides (notes/assumptions/2.md). -/
def State.fetchLine (s : State) (c : Context) (old : List (Nat × List Byte)) (hold : Bool) (line : Nat) : LineFetch :=
  let fresh := s.freshLine c line
  match old.find? fun x => x.1 == line with
  | none => fresh
  | some (_, bs) =>
    let same := match fresh with
      | .ok b _ _ => b == bs
      | _ => false
    if hold then .ok bs [] 0
    else if same then fresh
    else if (Config.freeBits s.fresh).getLsbD 0 then .ok bs [] 1
    else match fresh with
      | .ok b f _ => .ok b f 1
      | x => x

/-- The outcome of fetching an instruction: its bytes and the state, with what was fetched; or the address that could not
be fetched. -/
inductive Fetched where
  | ok (bs : List Byte) (s : State) (lines : List (Nat × List Byte))
  | perm (va : Nat)
  | absent (va : Nat)

/-- The lines of an agent with one more. -/
def remember (lines : List (Nat × List Byte)) (line : Nat) (bs : List Byte) : List (Nat × List Byte) :=
  (line, bs) :: lines.filter fun x => x.1 != line

/-- Fetch a whole instruction: the line of its first word, whose length class says how many bytes it has, and the next line
where it reaches into it (R33, R34). Each line is fetched once. -/
def State.fetchInstr (s : State) (c : Context) (lines : List (Nat × List Byte)) (hold : Bool) (va : Nat) : Fetched :=
  let line := va - va % 64
  match s.fetchLine c lines hold line with
  | .perm => .perm va
  | .absent => .absent va
  | .ok bs fill d =>
    let s := (s.fillTlb fill).drawn d
    let lines := remember lines line bs
    let have' := bs.drop (va % 64)
    let n := lengthOf (wordOfBytes have')
    if n ≤ have'.length then .ok (have'.take n) s lines
    else match s.fetchLine c lines hold (line + 64) with
      | .perm => .perm (line + 64)
      | .absent => .absent (line + 64)
      | .ok bs2 fill2 d2 =>
        .ok ((have' ++ bs2).take n) ((s.fillTlb fill2).drawn d2) (remember lines (line + 64) bs2)

/-- What an agent's turn gives: an instruction to execute, or the state after a fetch fault or an ILLEGAL word. -/
inductive Turn where
  | run (i : Instr) (s : State)
  | stop (s : State)

/-- PNEG and PRED as they stand in bytes that are no instruction: at [59:56] of an 8-byte or 12-byte form (R39, R41, R43), at
[13:10] of layout S.B (R40). -/
def rawPredicate (bs : List Byte) : Bool × Nat :=
  let w := wordOfBytes bs
  let at' (x : W32) (n : Nat) : Bool × Nat := (x.getLsbD (n + 3), bitsOf x.toNat n 3)
  if unassignedWord w then (false, 0)
  else if lengthOf w ≠ 4 then at' (wordOfBytes (bs.drop 4)) 24
  else if w.extractLsb' 0 2 = 0 && [0x00, 0x01, 0x06, 0x07, 0x08].contains (bitsOf w.toNat 2 8) then at' w 10
  else (false, 0)

/-- Whether bytes begin with a repeat prefix, well formed or not (R33, R50). -/
def prefixWord (bs : List Byte) : Bool := (wordOfBytes bs).extractLsb' 0 2 == 3

/-- The rest of an issue unit: what follows a prefix, well formed or not, is fetched before the prefix raises ILLEGAL or TRET's
iteration is checked, since the two form one unit and a fetch fault is reported in place of a decode fault (R34, R248;
notes/assumptions/16.md). -/
def State.fetchUnit (s : State) (c : Context) (lines : List (Nat × List Byte)) (hold : Bool) (bs : List Byte) (va : W64) :
    Fetched :=
  if prefixWord bs then s.fetchInstr c lines hold (va + 4).toNat else .ok bs s lines

/-- The COUNT of a prefix; 0 means 64 (R50). -/
def repTimes (p : RepPrefix) : Nat := if p.count = 0 then 64 else p.count.toNat

/-- Whether a warp that TRET resumed inside a repeat unit finds no such iteration at TPC (R248). -/
def Warp.resumeBad (w : Warp) (i : Option Instr) : Bool :=
  match w.rep with
  | some x => x.masks.isNone && (match i with
    | some (.rep p) => repTimes p ≤ x.iter
    | _ => true)
  | none => false

/-- A TRET whose frame is refused ends the context with a record of kind 0x06 (R248). -/
def State.endsFrame (s : State) (c : Context) (g : Group) (w : Warp) : State :=
  (s.putRec c.id (w.record g 0x06 0 0 (w.exec &&& ~~~w.dead) (pair64 0 w.tsw))).terminate c.id

/-- The instruction at a warp's program counter: fetched and decoded, or its fetch fault (R34), or ILLEGAL (R57). A
warp that TRET resumed meets here the check of its unit that an absent page put off, once the whole unit is fetched (R248;
notes/assumptions/34.md). SPNEG and SPRED of a fetch fault are 0, its instruction being unread: the spec is silent (R245; DESIGN CHOICE, notes/assumptions/34.md). -/
def State.turnWarp (s : State) (c : Context) (g : Group) (w : Warp) : Turn :=
  let i : Issue :=
    { words := [], sig16 := 0, next := w.pc, pneg := false, pred := 0, iter := (w.rep.map RepState.iter).getD 0, rep := none }
  let live := w.exec &&& ~~~w.dead
  let refused (s : State) (va : Nat) : Turn :=
    .stop (s.finishWarp c g w { i with fetched := false } (.fault .perm (BitVec.ofNat 64 va) live))
  let away (s : State) (va : Nat) : Turn :=
    .stop (s.finishWarp c g w { i with fetched := false } (.absent va .fetch (BitVec.ofNat 64 va) live))
  match s.fetchInstr c w.fetched w.holds w.pc.toNat with
  | .perm va => refused s va
  | .absent va => away s va
  | .ok bs t lines =>
    let t := t.mapWarp g.uid w.id fun x => { x with fetched := lines }
    match decode bs with
    | .ok (j, _) =>
      if w.resumeBad (some j) then
        match t.fetchUnit c lines w.holds bs w.pc with
        | .perm va => refused t va
        | .absent va => away t va
        | .ok _ t _ => .stop (t.endsFrame c g w)
      else .run j t
    | .error _ =>
      match t.fetchUnit c lines w.holds bs w.pc with
      | .perm va => refused t va
      | .absent va => away t va
      | .ok bs t lines =>
        if w.resumeBad none then .stop (t.endsFrame c g w)
        else
          let p := rawPredicate bs
          let t := t.mapWarp g.uid w.id fun x => { x with fetched := lines }
          .stop (t.finishWarp c g { w with fetched := lines } { i with pneg := p.1, pred := p.2 } (.fault .illegal 0 live))

/-- The instruction at a Leek thread's program counter. -/
def State.turnLeek (s : State) (c : Context) (g : Group) (l : Leek) : Turn :=
  match s.fetchInstr c l.fetched l.wait.holds l.pc.toNat with
  | .perm va => .stop (s.finishLeek c g l l.pc (.fault .perm (BitVec.ofNat 64 va) 1))
  | .absent va => .stop (s.finishLeek c g l l.pc (.absent va .fetch (BitVec.ofNat 64 va) 1))
  | .ok bs t lines =>
    let t := t.mapLeek g.uid fun x => { x with fetched := lines }
    match decode bs with
    | .ok (i, _) => .run i t
    | .error _ => .stop (t.finishLeek c g l l.pc (.fault .illegal 0 1))

/-- The bytes that hold PNEG and PRED of the instruction that a warp has fetched and waits in: those behind a prefix, of a repeat
unit (R50, R245). -/
def State.heldBytes (s : State) (c : Context) (w : Warp) : List Byte :=
  let at' (a : W64) : List Byte := match s.fetchInstr c w.fetched true a.toNat with
    | .ok bs _ _ => bs
    | _ => []
  if prefixWord (at' w.pc) then at' (w.pc + 4) else at' w.pc

/-- A warp whose page CTX_FAULTFAIL has refused takes PERM at its stop, with no access made again (R388). -/
def State.refuseWarp (s : State) (c : Context) (g : Group) (w : Warp) (acc : Nat) (addr : W64) (lanes : Mask) : State :=
  let ran := acc != Access.fetch.code
  let p := if ran then rawPredicate (s.heldBytes c w) else (false, 0)
  s.finishWarp c g w
    { words := [], sig16 := 0, next := w.pc, pneg := p.1, pred := p.2, iter := (w.rep.map RepState.iter).getD 0, rep := none
      fetched := ran } (.fault .perm addr lanes)

/-- The turn of an agent, which becomes the issuing one. -/
def State.turn (s : State) (a : AgentId) : Turn :=
  let s := { s with cur := some a }
  match s.issuer with
  | some (.warp c g w) => match w.wait with
    | .refused _ acc addr lanes => .stop (s.refuseWarp c g w acc addr lanes)
    | _ => s.turnWarp c g w
  | some (.leek c g l) => match l.wait with
    | .refused _ _ addr _ => .stop (s.leekFault c g l .perm addr)
    | _ => s.turnLeek c g l
  | none => .stop s

end Sys2Proof.Machine
end

