-- ==== Sys2Proof/Machine/Schedule.lean ====
section
/-!
DEFINITION. Which agent issues next (R203, R223, R303) and what a wait waits for, and the passing of time (R30, R208; see
notes/assumptions/1.md).
-/

namespace Sys2Proof.Machine

/-- The slice cycles a slice has run. -/
def State.sliceCycles (s : State) (cluster k : Nat) : Nat :=
  ((s.cluster cluster).slices.toArray.toList.getD k { ratio := 8, eighths := 0 }).eighths / 8

/-- Whether a barrier's phase n has completed or stopped. -/
def State.phaseOver (s : State) (b : BarId) (n : Nat) : Bool :=
  match s.bar? b with
  | some x => n < x.phase || x.stopped
  | none => true

/-- Event records of a group (R219). -/
def State.recordsOf (s : State) (g : Group) : List EventRec := (s.cluster g.cluster).events.filter fun e => e.group == g.uid

/-- The slots that a FIFO block holds (R173). -/
def Group.fifo (g : Group) (b : Nat) : List FifoSlot := ((g.fifos.find? fun x => x.1 == b).map Prod.snd).getD []

/-- Accumulator slots in service and free (R234). -/
def State.freeSlotList (s : State) (cluster : Nat) : List Nat :=
  let k := s.cluster cluster
  (List.range 16).filter fun n => !k.retired.contains n && !(k.slots.any fun x => x.n == n)

/-- Whether every slot in service is held by a group with no release pending (R234). -/
def State.accFull (s : State) (g : Group) : Bool :=
  let k := s.cluster g.cluster
  ((List.range 16).filter fun n => !k.retired.contains n).all fun n =>
    k.slots.any fun x => x.n == n && x.group == g.uid && !x.release

/-- Whether a group's Leek thread is the first of those that wait for a slot of its cluster (R234). -/
def State.slotTurn (s : State) (g : Group) : Bool :=
  let waits (u : Nat) : Bool := ((s.group? u).bind Group.leek).any fun l => l.ended.isNone && l.wait == .slot
  match (s.cluster g.cluster).slotWait.find? fun u => u == g.uid || waits u with
  | some u => u == g.uid
  | none => true

/-- Operations of a Leek thread that are queued and have not started (R225). -/
def Leek.pending (l : Leek) : Nat := (l.queue.filter fun o => !o.started).length

/-- SHADOW copies of a context into a range, of those issued before a name was given (R169, R170). -/
def State.shadowInto (s : State) (ctx lo hi before : Nat) : Bool :=
  s.copies.any fun c => c.ctx == ctx && c.uid < before && c.shadow && !c.publish && c.dst.toNat < hi && lo < c.dst.toNat + c.count

/-! ### Accesses in flight on a block (R318) -/

/-- Whether a block is a FIFO. A push or pop that waits is not over at a BANKSET: it issues again and meets the mode of then
(R173, R318; notes/assumptions/24.md). -/
def Group.inFifo (g : Group) (n : Nat) : Bool := (g.block n).valid && (g.block n).fifo

/-- The offsets of the 32-byte pieces of rows. -/
def pieces (a pitch rows bytes : Nat) : List Nat :=
  (List.range rows).flatMap fun i => (List.range (bytes / 32)).map fun k => a + i * pitch + 32 * k

/-- The bytes of a row under ACDRN (R236). -/
def acdrnRow (f : Fmt) : Nat := if f == .f32 then 512 else 256

/-- Whether an operation has scratch accesses to make in a range of offsets; of a gather, wherever its rows may lie. -/
def MatOp.touches (o : MatOp) (lo hi : Nat) : Bool :=
  match o.kind with
  | .tld _ a pitch => (pieces a pitch 128 64).any fun x => lo ≤ x && x < hi
  | .agath _ _ _ _ => true
  | .mmas _ _ _ _ _ scales _ => (pieces scales 0 1 512).any fun x => lo ≤ x && x < hi
  | .acdrn f _ _ a pitch => (pieces a pitch 128 (acdrnRow f)).any fun x => lo ≤ x && x < hi
  | _ => false

/-- Whether a copy still has sectors to move from or to a range of a group's scratch. -/
def Copy.touches (c : Copy) (g : Group) (lo hi : Nat) : Bool :=
  let meets (a base : Nat) : Bool := a + c.done < base + hi && base + lo < a + c.count
  c.done < c.count && c.status != 1 && c.status != 3
    && (meets c.src.toNat (if c.scratch then 0 else g.scrBase.toNat) || meets c.dst.toNat g.scrBase.toNat)

/-- Whether accesses to a block that agents of its group have issued are still to take place: of copies, of matrix operations,
and of warps whose instruction has events to come (R318; notes/assumptions/24.md). -/
def State.blockBusy (s : State) (g : Group) (n : Nat) : Bool :=
  let lo := 2 ^ 15 * n
  (s.copies.any fun c => c.group == g.uid && c.touches g lo (lo + 2 ^ 15))
    || g.leek.any (fun l => l.queue.any fun o => o.touches lo (lo + 2 ^ 15))
    || g.warps.any fun w => w.progress.isSome && w.ended.isNone

/-- Whether a wait is over, so that the agent may issue again. -/
def State.waitOver (s : State) (c : Context) (g : Group) (a : AgentId) (spec : Bool) (queue : Nat) : Wait → Bool
  | .ready => true
  | .phase b n => s.phaseOver b n && !(s.cluster g.cluster).waiters.contains a
  | .rearrive b n => s.phaseOver b n && !(s.cluster g.cluster).waiters.contains a
  | .timed b n _ => s.phaseOver b n && !(s.cluster g.cluster).waiters.contains a
  | .expired b n d _ => (s.phaseOver b n && !(s.cluster g.cluster).waiters.contains a) || decide (d < s.clock)
  | .sleep t => t ≤ s.clock
  | .page _ _ _ _ => false
  | .refused _ _ _ _ => true
  | .remote tags => tags.all fun t => s.outRemote.all fun o => o.tag != t || o.done.isSome
  | .remoteAll => s.outRemote.all fun o => o.agent != a || o.done.isSome
  | .window owner k => match c.peers.find? fun p => p.owner == owner with
    | some p => (p.next - p.watermark).toNat + k ≤ 4096
    | none => true
  | .speculation => !spec
  | .rail l => (s.cluster g.cluster).level.toNat ≤ l
  | .records m => m ≤ (s.recordsOf g).length
  | .fifoRoom b n => !g.inFifo b || decide ((g.fifo b).length + n ≤ 128)
  | .fifoData b n => !g.inFifo b || decide (n ≤ (g.fifo b).length)
  | .drain b => !(s.cluster g.cluster).drains.contains b
  | .quiet n => !s.blockBusy g n
  | .queues need => need.all fun x => x.2 ≤ s.roomIn c x.1
  | .counter a => !s.counterHeld c.id a
  | .shadows lo hi b => !s.shadowInto c.id lo hi b
  | .matrix => queue == 0
  | .matrixQueue => true
  | .gather _ => false
  | .gathered => true
  | .slot => s.accFull g || (!(s.freeSlotList g.cluster).isEmpty && s.slotTurn g)
  | .events => false

/-- Whether a group's agents run: it has started (R317) and its context has not stopped issuing. -/
def Group.runs (g : Group) : Bool := g.draining.isEmpty && !g.ended

/-- Whether the contexts of a partition issue: the module is on, and the partition has not failed (R397, R398). -/
def State.partRuns (s : State) (p : Nat) : Bool := s.alive && s.power && (s.part? p).any fun p => !p.failed

/-- Whether a warp is ready (R303). -/
def State.readyWarp (s : State) (g : Group) (w : Warp) : Bool :=
  match s.ctx? g.ctx with
  | none => false
  | some c =>
    s.partRuns (partOf g.ctx) && g.runs && w.ended.isNone && !w.halted
      && s.waitOver c g (g.agent w) w.spec.isSome 0 w.wait

/-- Whether a Leek thread is ready (R223). -/
def State.readyLeek (s : State) (g : Group) (l : Leek) : Bool :=
  match s.ctx? g.ctx with
  | none => false
  | some c =>
    s.partRuns (partOf g.ctx) && g.runs && l.ended.isNone && !l.halted && decide (l.pending < 8)
      && s.waitOver c g (.leek g.uid) false l.queue.length l.wait

/-- The ready warps of a slice. -/
def State.readyOn (s : State) (cluster k : Nat) : List (Group × Warp) :=
  (s.groups.filter fun g => g.cluster == cluster).flatMap fun g =>
    (g.warps.filter fun w => w.slice == k && s.readyWarp g w).map fun w => (g, w)

/-- Whether a warp comes before another by priority, placement and WARPID (R303). -/
def before (x y : Group × Warp) : Bool :=
  if x.1.prio ≠ y.1.prio then decide (y.1.prio < x.1.prio)
  else if x.1.age ≠ y.1.age then decide (x.1.age < y.1.age)
  else decide (x.2.id < y.2.id)

/-- The first of a list by an order. -/
def firstBy {α : Type} (lt : α → α → Bool) : List α → Option α
  | [] => none
  | x :: xs => match firstBy lt xs with
    | none => some x
    | some y => if lt y x then some y else some x

/-- The order of R303: the longest-waiting among those 4,096 slice cycles without issue; then warps without spinning
status; then spinning ones. -/
def pickFrom (now : Nat) (l : List (Group × Warp)) : Option (Group × Warp) :=
  let old := l.filter fun x => 4096 ≤ now - x.2.lastIssue
  match firstBy (fun x y => if x.2.lastIssue ≠ y.2.lastIssue then decide (x.2.lastIssue < y.2.lastIssue) else before x y) old with
  | some x => some x
  | none =>
    match firstBy before (l.filter fun x => x.2.spinUntil ≤ now) with
    | some x => some x
    | none => firstBy before l

/-- The warp that a slice issues next (R191, R303). -/
def State.pickWarp (s : State) (cluster k : Nat) : Option (Group × Warp) :=
  let l := s.readyOn cluster k
  let now := s.sliceCycles cluster k
  let others := l.filter fun x => !x.2.yield
  if others.isEmpty then pickFrom now l else pickFrom now others

/-- A selection by a slice: the pending SLEEP 0 rank is used up, and the warp's issue is noted (R191, R303). -/
def State.noteIssue (s : State) (cluster k uid wid : Nat) : State :=
  let now := s.sliceCycles cluster k
  { s with groups := s.groups.map fun g =>
      if g.cluster == cluster then
        { g with warps := g.warps.map fun w =>
            if w.slice == k then
              { w with yield := false, lastIssue := if g.uid == uid && w.id == wid then now else w.lastIssue } else w }
      else g }

/-- The Leek threads of a cluster by index. -/
def State.leeksOn (s : State) (cluster : Nat) : List (Group × Leek) :=
  (s.groups.filter fun g => g.cluster == cluster).filterMap fun g => g.leek.map fun l => (g, l)

/-- The Leek thread that issues next: round-robin after the last (R223). -/
def State.pickLeek (s : State) (cluster : Nat) : Option (Group × Leek) :=
  let last := (s.cluster cluster).lastLeek
  let l := (s.leeksOn cluster).filter fun x => s.readyLeek x.1 x.2
  firstBy (fun x y => decide ((x.2.index + 3 - last) % 4 < (y.2.index + 3 - last) % 4)) l

/-- Whether a warp's instruction has events to come and its context runs (R158, R332). -/
def State.goesOn (s : State) (g : Group) (w : Warp) : Bool :=
  w.wait == .events && w.progress.isSome && w.ended.isNone && g.runs && s.partRuns (partOf g.ctx)

/-- Events that are still to come of what has begun: the part's for a context, the host port's, the owner's, a warp's. -/
def State.pendingMove (s : State) : Option Move :=
  (s.todo.head?.map fun t => Move.part t.ctx)
    <|> (s.port.head?.map fun _ => Move.port)
    <|> (s.serving.head?.map fun x => Move.owner x.request.requester x.request.ctx)
    <|> s.groups.findSome? fun g => (g.warps.find? fun w => s.goesOn g w).map fun w => Move.warp g.uid w.id

/-- The move made when the schedule names none: an event to come, else the first slice or Leek core with a ready agent. -/
def State.defaultMove (s : State) : Option Move :=
  match s.pendingMove <|> s.groups.findSome? fun g => (g.warps.find? fun w => s.readyWarp g w).map fun w => Move.slice g.cluster w.slice with
  | some m => some m
  | none => s.groups.findSome? fun g => match g.leek with
    | some l => if s.readyLeek g l then some (Move.leekCore g.cluster) else none
    | none => none

/-- The next move, and the schedule after it. -/
def State.nextMove (s : State) : Option (Move × List Move) :=
  match s.schedule with
  | m :: rest => some (m, rest)
  | [] => s.defaultMove.map fun m => (m, [])

/-! ### Time -/

/-- How many of `n` cycles from `now` on a member waits or speculates: a timed wait lasts until its limit (R204, R208). -/
def Member.waits (m : Member) (id : BarId) (b : Barrier) (now n : Nat) : Nat :=
  if m.waitsOn id b then
    match m.wait with
    | .timed _ _ d => if m.specBar.isSome then n else min n (d - now)
    | _ => n
  else 0

/-- How many of the next `n` cycles a barrier's watchdog counts: those in which a member waits or speculates, while none is
debug-blocked (R208). -/
def State.counted (s : State) (id : BarId) (b : Barrier) (n : Nat) : Nat :=
  let ms := s.members id
  if ms.any fun m => m.blocked b then 0 else (ms.map fun m => m.waits id b s.clock n).foldl max 0

/-- The barriers of a group or span with their watchdogs n cycles on. -/
def State.tickBars {k : Nat} (s : State) (n : Nat) (mk : Nat → BarId) (bars : Vector Barrier k) : Vector Barrier k :=
  ⟨⟨bars.toArray.toList.zipIdx.map fun x => ({ x.1 with count := x.1.count + s.counted (mk x.2) x.1 n } : Barrier)⟩,
    by simp⟩

/-- Whether a member of a barrier is debug-blocked now (R204). -/
def State.someBlocked (s : State) (id : BarId) : Bool :=
  match s.bar? id with
  | some b => (s.members id).any fun m => m.blocked b
  | none => false

/-- A timed wait whose limit `now` has reached, with whether a member is debug-blocked at that moment (R204). -/
def State.expire (s : State) (now : Nat) : Wait → Wait
  | .timed b n d => if d ≤ now && !s.phaseOver b n then .expired b n d (s.someBlocked b) else .timed b n d
  | w => w

/-- A slice n cluster cycles on: n/8 slice cycles each (R2, R7). -/
def Slice.tick (x : Slice) (n : Nat) : Slice := { x with eighths := x.eighths + n * x.ratio.toNat }

/-- The effective cap in W; the 10,000 of reset until a grant is applied at STAGE 5 (R379, R382, R403). -/
def State.pCap (s : State) : Nat :=
  if s.hw.ready then min 10000 (10 * (s.hw.pGrant.toNat + s.hw.pBorrow.toNat - s.hw.pLent.toNat)) else 10000

/-- The draw after `n` cycles: toward what the load asks for, not below the floor and not above the cap, rising by at most
PRAMP watts a millisecond of 1,400,000 cycles (R396, R403; notes/assumptions/29.md). -/
def State.drawAfter (s : State) (n : Nat) : Nat :=
  let target := min s.pCap (max (Config.draw s.clock) s.hw.pFloor.toNat) * 1400000
  if s.hw.pRamp = 0 then target else min target (s.watts + s.hw.pRamp.toNat * n)

/-- The module's draw in watts, averaged over the 1 ms, 1,400,000 cycles, before a time (R379). -/
def State.drawAt (s : State) (time : Nat) : Nat :=
  (s.draws.map fun d => d.draw * (min d.stop time - max d.start (time - 1400000))).sum / (1400000 * 1400000)

/-- PDRAW: the average over the last 1 ms, not above the cap (R379, R396; notes/assumptions/29.md). -/
def State.pDraw (s : State) : Nat := min (s.drawAt s.clock) s.pCap

/-- The draws of the last 11 ms, of 15,400,000 cycles, which the averages of the last 10 ms need, with that of the `n` cycles that
end now (R404). -/
def State.noteDraw (s : State) (n draw : Nat) : State :=
  { s with draws := (s.draws.filter fun d => s.clock < d.stop + 15400000) ++ [{ start := s.clock - n, stop := s.clock, draw := draw }] }

/-- `n` cluster cycles pass: the clock, the slices, the watchdogs, the draw. A warp that is not ready does not age (R303). -/
def State.tick (s : State) (n : Nat) : State :=
  let clusters := s.clusters.map fun k => { k with slices := ⟨⟨k.slices.toArray.toList.map fun x => x.tick n⟩, by simp⟩ }
  let t := { s with clock := s.clock + n, clusters := clusters, watts := s.drawAfter n }
  { t.noteDraw n s.watts with
    spans := s.spans.map fun x => { x with bars := s.tickBars n (fun i => .sb x.uid i) x.bars }
    groups := s.groups.map fun g =>
      { g with
        bars := s.tickBars n (fun i => .gb g.uid i) g.bars
        leek := g.leek.map fun l => { l with wait := s.expire (s.clock + n - 1) l.wait }
        warps := g.warps.map fun w =>
          if s.readyWarp g w then w
          else { w with lastIssue := t.sliceCycles g.cluster w.slice, wait := s.expire (s.clock + n - 1) w.wait } } }

end Sys2Proof.Machine
end

