-- ==== Sys2Proof/Machine/Integer.lean ====
section
/-!
DEFINITION. The integer, bit and address instructions (R90 to R105, R107, R108, R110), for a warp and for the Leek core (R92).
-/

namespace Sys2Proof.Machine

/-! ### Elements (R13, R74, R90) -/

/-- The width and number of a format's elements. -/
def elemOf : Fmt → Nat × Nat
  | .f16x2 | .bf16x2 | .s16x2 | .n16x2 => (16, 2)
  | .e4m3x4 | .e5m2x4 | .s8x4 | .n8x4 => (8, 4)
  | .s64 | .n64 | .f64 | .q64 => (64, 1)
  | _ => (32, 1)

/-- Element `e` of a value, as bits. -/
def el (f : Fmt) (x : W64) (e : Nat) : Nat := bitsOf x.toNat ((elemOf f).1 * e) (elemOf f).1

/-- A value from its elements, each taken modulo its width. -/
def ofEls (f : Fmt) (g : Nat → Nat) : W64 :=
  let w := (elemOf f).1
  BitVec.ofNat 64 ((List.range (elemOf f).2).foldl (fun a e => a + (g e % 2 ^ w) * 2 ^ (w * e)) 0)

/-- A number of `w` bits read as two's complement. -/
def signed (w x : Nat) : Int := if x < 2 ^ (w - 1) then (x : Int) else (x : Int) - 2 ^ w

/-- An element in its format's signedness (R90). -/
def elInt (f : Fmt) (x : Nat) : Int := if f.isSigned then signed (elemOf f).1 x else (x : Int)

/-- An integer modulo 2^w as bits: `wrap` of R90. -/
def wrapTo (w : Nat) (y : Int) : Nat := (y % 2 ^ w).toNat

/-- The limits of an integer format (R74). -/
def minOf (f : Fmt) : Int := if f.isSigned then -2 ^ ((elemOf f).1 - 1) else 0
def maxOf (f : Fmt) : Int := if f.isSigned then 2 ^ ((elemOf f).1 - 1) - 1 else 2 ^ (elemOf f).1 - 1

/-- `sat` of R90. -/
def sat (f : Fmt) (y : Int) : Int := min (max y (minOf f)) (maxOf f)

/-- An operation applied element by element. -/
def mapEls (f : Fmt) (op : Nat → Nat → Nat → Nat) (a b c : W64) : W64 :=
  ofEls f fun e => op (el f a e) (el f b e) (el f c e)

/-- An operation on exact integers, wrapped. -/
def intEls (f : Fmt) (op : Int → Int → Int → Int) (a b c : W64) : W64 :=
  mapEls f (fun x y z => wrapTo (elemOf f).1 (op (elInt f x) (elInt f y) (elInt f z))) a b c

/-! ### The common form -/

/-- An integer operation: its three sources and what it computes from their values. -/
structure IntOp where
  os   : LForm → List Opnd
  value : LForm → W64 → W64 → W64 → W64

/-- The value of the `i`-th source in a lane. -/
def srcAt (w : Warp) (imm : Option W32) (os : List Opnd) (i : Nat) (l : Fin 64) : W64 :=
  match os[i]? with
  | some o => w.src o imm l
  | none => 0

/-- The warp's side of an integer operation (R90, R91). -/
def IntOp.body (o : IntOp) (f : LForm) (e : Env) : Effect :=
  let os := o.os f
  let x := srcAt e.w f.imm os
  e.run (RegIns.of f os (mkLanes fun l => (o.value f (x 0 l) (x 1 l) (x 2 l), 0)))

/-- A Leek source by its operand. -/
def leekAt (l : Leek) (imm : Option W32) (os : List Opnd) (i : Nat) : W64 :=
  match os[i]? with
  | some o => l.src o.fmt o.reg imm
  | none => 0

/-- The Leek core's side (R92). -/
def IntOp.leek (o : IntOp) (f : LForm) (e : LeekEnv) : Effect :=
  let os := o.os f
  let x := leekAt e.l f.imm os
  e.run f (o.value f (x 0) (x 1) (x 2))

/-- Issue an integer operation. -/
def IntOp.exec (o : IntOp) (op : LOp) (f : LForm) (s : State) : Host.Outcome State Fault Refusal :=
  issue (.l op f) s (o.body f) (o.leek f)

/-- Sources that must carry FMT (R14). -/
def tagged (f : LForm) : List Opnd := [Opnd.of f.src0 f.fmt, Opnd.of f.src1 f.fmt, Opnd.of f.src2 f.fmt]

/-- Sources that accept any tag (R14). -/
def untagged (f : LForm) : List Opnd := [Opnd.any f.src0 f.fmt, Opnd.any f.src1 f.fmt, Opnd.any f.src2 f.fmt]

/-! ### Addition and multiplication (R93 to R97) -/

/-- ADD and SUB share wrap-around and saturation (R93). -/
def sumOp (f : LForm) (y : Int) : Int := if f.sub = 1 then sat f.fmt y else y

def opAdd : IntOp := { os := tagged, value := fun f => intEls f.fmt fun a b _ => sumOp f (a + b) }
def execAdd (f : LForm) (s : State) : Host.Outcome State Fault Refusal := opAdd.exec .add f s

def opSub : IntOp := { os := tagged, value := fun f => intEls f.fmt fun a b _ => sumOp f (a - b) }
def execSub (f : LForm) (s : State) : Host.Outcome State Fault Refusal := opSub.exec .sub f s

/-- The short form's fields in form L (R40): ADD.S32 with SRC1 the sign-extended IMM6. -/
def addShortForm (imm : BitVec 6) (a d : Fin 256) : LForm :=
  { sub := 0, pneg := false, pred := 0, src2 := .zero, src1 := .imm, src0 := .v a, dst := .v d, fmt := .s32, nw := false
    a := false, imm := some (imm.signExtend 32) }

def execAddShort (imm : BitVec 6) (a d : Fin 256) (s : State) : Host.Outcome State Fault Refusal :=
  issue (.sr .add imm a d) s (opAdd.body (addShortForm imm a d)) noLeek

def opMul : IntOp := { os := tagged, value := fun f => intEls f.fmt fun a b _ => a * b }
def execMul (f : LForm) (s : State) : Host.Outcome State Fault Refusal := opMul.exec .mul f s

def opMulh : IntOp := { os := tagged, value := fun f => intEls f.fmt fun a b _ => (a * b) / 2 ^ (elemOf f.fmt).1 }
def execMulh (f : LForm) (s : State) : Host.Outcome State Fault Refusal := opMulh.exec .mulh f s

def opMad : IntOp := { os := tagged, value := fun f => intEls f.fmt fun a b c => a * b + c }
def execMad (f : LForm) (s : State) : Host.Outcome State Fault Refusal := opMad.exec .mad f s

/-- The 32-bit format that MADW reads its factors in (R96). -/
def madwFmt (f : Fmt) : Fmt := if f = .s64 then .s32 else .n32

def opMadw : IntOp :=
  { os := fun f => [Opnd.of f.src0 (madwFmt f.fmt), Opnd.of f.src1 (madwFmt f.fmt), Opnd.of f.src2 f.fmt]
    value := fun f a b c =>
      let g := madwFmt f.fmt
      BitVec.ofNat 64 (wrapTo 64 (elInt g (el g a 0) * elInt g (el g b 0) + c.toNat)) }
def execMadw (f : LForm) (s : State) : Host.Outcome State Fault Refusal := opMadw.exec .madw f s

def opMin : IntOp := { os := tagged, value := fun f => intEls f.fmt fun a b _ => min a b }
def execMin (f : LForm) (s : State) : Host.Outcome State Fault Refusal := opMin.exec .min f s

def opMax : IntOp := { os := tagged, value := fun f => intEls f.fmt fun a b _ => max a b }
def execMax (f : LForm) (s : State) : Host.Outcome State Fault Refusal := opMax.exec .max f s

def opAbs : IntOp := { os := tagged, value := fun f => intEls f.fmt fun a _ _ => sumOp f (if a < 0 then -a else a) }
def execAbs (f : LForm) (s : State) : Host.Outcome State Fault Refusal := opAbs.exec .abs f s

def opNeg : IntOp := { os := tagged, value := fun f => intEls f.fmt fun a _ _ => sumOp f (-a) }
def execNeg (f : LForm) (s : State) : Host.Outcome State Fault Refusal := opNeg.exec .neg f s

/-! ### ADDC (R94) -/

/-- The 33-bit sum of a lane. -/
def carrySum (a b : W64) (c : Bool) : Nat := a.toNat % 2 ^ 32 + b.toNat % 2 ^ 32 + (if c then 1 else 0)

/-- ADDC writes a vector and the carry bits of the executing lanes, also under NW, which withholds the destination register
only (DEDUCED, notes/assumptions/15.md); a lane that an operand's error kills takes carry 0 (R18). -/
def addcBody (f : LForm) (e : Env) : Effect :=
  let os := [Opnd.of f.src0 f.fmt, Opnd.of f.src1 f.fmt]
  let k : Fin 8 := match f.src2 with
    | .k n => n
    | _ => 0
  let kc := e.w.kmask k
  let sum (l : Fin 64) : Nat := carrySum (srcAt e.w f.imm os 0 l) (srcAt e.w f.imm os 1 l) (kc.getLsbD l)
  let kill := (e.w.operandKills os e.eff).1
  let w := e.w.writeK k e.eff (maskOf fun l => if h : l < 64 then 2 ^ 32 ≤ sum ⟨l, h⟩ && !kill.getLsbD l else false)
  -- the sources are those of the warp before the carry is written
  match e.w.operandFault e.g.desc.apxFrom f.a os [] [f.dst] with
  | some c => e.early c
  | none => Env.run { e with w := w } (RegIns.of f os (mkLanes fun l => (BitVec.ofNat 64 (sum l % 2 ^ 32), 0)))

/-- On the Leek core the carry is one bit (R92). -/
def addcLeek (f : LForm) (e : LeekEnv) : Effect :=
  match f.src2 with
  | .k n =>
    let sum := carrySum (e.l.src f.fmt f.src0 f.imm) (e.l.src f.fmt f.src1 f.imm) (e.l.kbit n)
    if e.l.takes f.pneg f.pred then
      let e' := { e with l := e.l.writeK n (2 ^ 32 ≤ sum) }
      .done (if f.nw then e'.put e'.l else e'.put (e'.l.writeG f.dst (leekResult f.fmt (BitVec.ofNat 64 (sum % 2 ^ 32)))))
    else .done e.s
  | _ => .fault .illegal 0 1

def execAddc (f : LForm) (s : State) : Host.Outcome State Fault Refusal := issue (.l .addc f) s (addcBody f) (addcLeek f)

/-! ### Bitwise operations and shifts (R98, R99) -/

def opAnd : IntOp := { os := untagged, value := fun _ a b _ => a &&& b }
def execAnd (f : LForm) (s : State) : Host.Outcome State Fault Refusal := opAnd.exec .and f s

def opOr : IntOp := { os := untagged, value := fun _ a b _ => a ||| b }
def execOr (f : LForm) (s : State) : Host.Outcome State Fault Refusal := opOr.exec .or f s

def opXor : IntOp := { os := untagged, value := fun _ a b _ => a ^^^ b }
def execXor (f : LForm) (s : State) : Host.Outcome State Fault Refusal := opXor.exec .xor f s

def opNot : IntOp := { os := untagged, value := fun _ a _ _ => ~~~a }
def execNot (f : LForm) (s : State) : Host.Outcome State Fault Refusal := opNot.exec .not f s

def opAndn : IntOp := { os := untagged, value := fun _ a b _ => a &&& ~~~b }
def execAndn (f : LForm) (s : State) : Host.Outcome State Fault Refusal := opAndn.exec .andn f s

/-- The shifts of R99 on one element of width `w`. -/
def shlEl (w x n : Nat) : Nat := if n < w then (x * 2 ^ n) % 2 ^ w else 0
def shrEl (w x n : Nat) : Nat := if n < w then x / 2 ^ n else 0
def sarEl (w x n : Nat) : Nat := wrapTo w (signed w x / 2 ^ (min n w))
def rotEl (w x n : Nat) : Nat :=
  let k := n % w
  (x * 2 ^ k) % 2 ^ w + x / 2 ^ (w - k)

def opShl : IntOp := { os := untagged, value := fun f => mapEls f.fmt fun x n _ => shlEl (elemOf f.fmt).1 x n }
def execShl (f : LForm) (s : State) : Host.Outcome State Fault Refusal := opShl.exec .shl f s

def opShr : IntOp := { os := untagged, value := fun f => mapEls f.fmt fun x n _ => shrEl (elemOf f.fmt).1 x n }
def execShr (f : LForm) (s : State) : Host.Outcome State Fault Refusal := opShr.exec .shr f s

def opSar : IntOp := { os := tagged, value := fun f => mapEls f.fmt fun x n _ => sarEl (elemOf f.fmt).1 x n }
def execSar (f : LForm) (s : State) : Host.Outcome State Fault Refusal := opSar.exec .sar f s

def opRot : IntOp := { os := untagged, value := fun f => mapEls f.fmt fun x n _ => rotEl (elemOf f.fmt).1 x n }
def execRot (f : LForm) (s : State) : Host.Outcome State Fault Refusal := opRot.exec .rot f s

/-! ### Bit fields, counts and bytes (R100 to R102) -/

/-- The position and length of a control word in a width (R100). -/
def bfCtl (w : Nat) (ctl : W64) : Nat × Nat :=
  let pos := bitsOf ctl.toNat 0 8
  let len := bitsOf ctl.toNat 8 8
  (pos, if w ≤ pos then 0 else min len (w - pos))

def opBfx : IntOp :=
  { os := untagged
    value := fun f a ctl _ =>
      let w := (elemOf f.fmt).1
      let (pos, len) := bfCtl w ctl
      let x := bitsOf (el f.fmt a 0) pos len
      BitVec.ofNat 64 (if len = 0 then 0 else if f.fmt.isSigned then wrapTo w (signed len x) else x) }
def execBfx (f : LForm) (s : State) : Host.Outcome State Fault Refusal := opBfx.exec .bfx f s

def opBfi : IntOp :=
  { os := untagged
    value := fun f ins ctl base =>
      let w := (elemOf f.fmt).1
      let (pos, len) := bfCtl w ctl
      let mask : W64 := BitVec.ofNat 64 ((2 ^ len - 1) * 2 ^ pos)
      (base &&& ~~~mask) ||| ((ins <<< pos) &&& mask) }
def execBfi (f : LForm) (s : State) : Host.Outcome State Fault Refusal := opBfi.exec .bfi f s

/-- Set bits of a number of `w` bits. -/
def popEl (w x : Nat) : Nat := ((List.range w).filter fun i => x.testBit i).length

/-- The index of the lowest set bit, `w` for none. -/
def ffsEl (w x : Nat) : Nat := ((List.range w).find? fun i => x.testBit i).getD w

/-- Leading zero bits. -/
def clzEl (w x : Nat) : Nat := ((List.range w).find? fun i => x.testBit (w - 1 - i)).getD w

/-- Bit i moved to bit w - 1 - i. -/
def brevEl (w x : Nat) : Nat := (List.range w).foldl (fun a i => a + if x.testBit i then 2 ^ (w - 1 - i) else 0) 0

def opClz : IntOp := { os := tagged, value := fun f => mapEls f.fmt fun x _ _ => clzEl (elemOf f.fmt).1 x }
def execClz (f : LForm) (s : State) : Host.Outcome State Fault Refusal := opClz.exec .clz f s

def opFfs : IntOp := { os := tagged, value := fun f => mapEls f.fmt fun x _ _ => ffsEl (elemOf f.fmt).1 x }
def execFfs (f : LForm) (s : State) : Host.Outcome State Fault Refusal := opFfs.exec .ffs f s

def opPopc : IntOp := { os := tagged, value := fun f => mapEls f.fmt fun x _ _ => popEl (elemOf f.fmt).1 x }
def execPopc (f : LForm) (s : State) : Host.Outcome State Fault Refusal := opPopc.exec .popc f s

def opBrev : IntOp := { os := untagged, value := fun f => mapEls f.fmt fun x _ _ => brevEl (elemOf f.fmt).1 x }
def execBrev (f : LForm) (s : State) : Host.Outcome State Fault Refusal := opBrev.exec .brev f s

/-- A byte of the eight of a and b that a selector nibble chooses (R102). -/
def pickByte (a b : W64) (sel : Nat) : Nat :=
  let i := sel % 8
  let x := if i < 4 then bitsOf a.toNat (8 * i) 8 else bitsOf b.toNat (8 * (i - 4)) 8
  if sel / 8 % 2 = 1 then (if 128 ≤ x then 255 else 0) else x

def opBytep : IntOp :=
  { os := untagged
    value := fun _ a b sel => ofEls .n8x4 fun j => pickByte a b (bitsOf sel.toNat (4 * j) 4) }
def execBytep (f : LForm) (s : State) : Host.Outcome State Fault Refusal := opBytep.exec .bytep f s

/-! ### Compare, select, predicate logic (R103 to R105) -/

/-- The relations of CMP, and of FCMP's ordered ones, for SUB 0 to 5. -/
def relation (sub : Nat) (lt eq : Bool) : Bool :=
  match sub with
  | 0 => eq
  | 1 => !eq
  | 2 => lt
  | 3 => lt || eq
  | 4 => !lt && !eq
  | _ => !lt

/-- Whether a relation holds for every element (R103). -/
def cmpAll (f : Fmt) (sub : Nat) (a b : W64) : Bool :=
  (List.range (elemOf f).2).all fun e =>
    relation sub (decide (elInt f (el f a e) < elInt f (el f b e))) (el f a e == el f b e)

def opCmp : IntOp :=
  { os := fun f => [Opnd.of f.src0 f.fmt, Opnd.of f.src1 f.fmt]
    value := fun f a b _ => if cmpAll f.fmt f.sub.toNat a b then 1 else 0 }

/-- On the Leek core the compare is made once, into a one-bit register. -/
def cmpLeek (f : LForm) (e : LeekEnv) : Effect :=
  let b := cmpAll f.fmt f.sub.toNat (e.l.src f.fmt f.src0 f.imm) (e.l.src f.fmt f.src1 f.imm)
  match f.dst with
  | .k n => .done (if e.l.takes f.pneg f.pred then e.put (e.l.writeK n b) else e.s)
  | _ => .fault .illegal 0 1

def execCmp (f : LForm) (s : State) : Host.Outcome State Fault Refusal := issue (.l .cmp f) s (opCmp.body f) (cmpLeek f)

/-- SEL: one of two checked sources by the bit of a k register (R104). A lane reads both sources, so an error in either kills it
(DEDUCED, notes/assumptions/12.md). -/
def selBody (f : LForm) (e : Env) : Effect :=
  let os := [Opnd.of f.src0 f.fmt, Opnd.of f.src1 f.fmt]
  let ks := match f.src2 with
    | .k n => e.w.kmask n
    | _ => 0
  e.run (RegIns.of f os (mkLanes fun l => (srcAt e.w f.imm os (if ks.getLsbD l then 0 else 1) l, 0)))

def selLeek (f : LForm) (e : LeekEnv) : Effect :=
  match f.src2 with
  | .k n => e.run f (e.l.src f.fmt (if e.l.kbit n then f.src0 else f.src1) f.imm)
  | _ => .fault .illegal 0 1

def execSel (f : LForm) (s : State) : Host.Outcome State Fault Refusal := issue (.l .sel f) s (selBody f) (selLeek f)

/-- PLOG through the truth table in SUB (R105). -/
def plogBody (f : LForm) (e : Env) : Effect :=
  match f.dst, f.src0, f.src1 with
  | .k d, .k a, .k b =>
    let bits := maskOf fun l =>
      f.sub.getLsbD (2 * ((e.w.kmask a).getLsbD l).toNat + ((e.w.kmask b).getLsbD l).toNat)
    .done (e.put (e.w.writeK d e.eff bits))
  | _, _, _ => e.early .illegal

def execPlog (f : LForm) (s : State) : Host.Outcome State Fault Refusal := issue (.l .plog f) s (plogBody f) noLeek

/-! ### Constants and addresses (R107, R108) -/

/-- MOVI: the trailing word widened to FMT (R107). -/
def moviBody (f : LForm) (e : Env) : Effect :=
  e.run (RegIns.of f [] (mkLanes fun _ => (widenImm f.fmt (f.imm.getD 0), 0)))

def moviLeek (f : LForm) (e : LeekEnv) : Effect := e.run f (widenImm f.fmt (f.imm.getD 0))

def execMovi (f : LForm) (s : State) : Host.Outcome State Fault Refusal := issue (.l .movi f) s (moviBody f) (moviLeek f)

/-- Whether an index is sign-extended: tagged S32, or a scalar, immediate or g register (R108). -/
def Warp.indexSigned (w : Warp) (r : Reg) : Bool :=
  match w.tagOf r with
  | some t => t == .s32
  | none => true

/-- An index tag other than S32, N32 and B32 is TAG (R108, R147). -/
def Warp.indexTagBad (w : Warp) (r : Reg) : Bool :=
  match w.tagOf r with
  | some t => t != .s32 && t != .n32 && t != .b32
  | none => false

/-- A 32-bit index extended to 64 bits (R108). -/
def extIndex (sgn : Bool) (x : W64) : W64 := if sgn then (lo32 x).signExtend 64 else zx64 (lo32 x)

/-- LEA (R108). Its base may be any source kind that R90 gives the chapter (DEDUCED, notes/assumptions/15.md). -/
def leaBody (f : LForm) (e : Env) : Effect :=
  let base := Opnd.of f.src0 .n64
  let idx := Opnd.any f.src1 .b32
  let sg := e.w.indexSigned f.src1
  if e.w.tagBad base || e.w.tagBad idx || e.w.indexTagBad f.src1 then e.early .tag
  else e.run (RegIns.of f [base, idx] (mkLanes fun l =>
    (e.w.src base f.imm l + (extIndex sg (e.w.src idx f.imm l) <<< f.sub.toNat), 0)))

def leaLeek (f : LForm) (e : LeekEnv) : Effect :=
  e.run f (e.l.src .n64 f.src0 f.imm + (extIndex true (e.l.src .b32 f.src1 f.imm) <<< f.sub.toNat))

def execLea (f : LForm) (s : State) : Host.Outcome State Fault Refusal := issue (.l .lea f) s (leaBody f) (leaLeek f)

end Sys2Proof.Machine
end

