-- ==== Sys2Proof/Machine/Float.lean ====
section
/-!
DEFINITION. Numbers: the floating formats (R70 to R73), exact dyadic arithmetic, `round`, `overflow`, `inf_into` and `to_int`
(R75 to R77), the flags they set (R82), sums and products (R86), reciprocals and roots (R119, R120), the accuracy bounds of
EXP2, LOG2, SIN and COS (R120, R341), and the permissible results of the approximate contract (R339, R340).
-/

namespace Sys2Proof.Machine

/-! ### Formats and values -/

/-- The floating formats of R70. -/
inductive FFmt where
  | f64 | f32 | f16 | bf16 | e4m3 | e5m2 | e2m1
  deriving DecidableEq, Repr

/-- Mantissa bits (R70). -/
def FFmt.man : FFmt → Nat
  | .f64 => 52
  | .f32 => 23
  | .f16 => 10
  | .bf16 => 7
  | .e4m3 => 3
  | .e5m2 => 2
  | .e2m1 => 1

/-- Exponent bits (R70). -/
def FFmt.exp : FFmt → Nat
  | .f64 => 11
  | .f32 | .bf16 => 8
  | .f16 | .e5m2 => 5
  | .e4m3 => 4
  | .e2m1 => 2

/-- Exponent bias (R70). -/
def FFmt.bias (f : FFmt) : Nat := 2 ^ (f.exp - 1) - 1

/-- Width in bits. -/
def FFmt.width (f : FFmt) : Nat := 1 + f.exp + f.man

/-- Whether the format has infinities (R70). -/
def FFmt.hasInf : FFmt → Bool
  | .e4m3 | .e2m1 => false
  | _ => true

/-- The code of the largest finite magnitude (R70). -/
def FFmt.maxCode : FFmt → Nat
  | .f64 => 0x7FEFFFFFFFFFFFFF
  | .f32 => 0x7F7FFFFF
  | .f16 => 0x7BFF
  | .bf16 => 0x7F7F
  | .e4m3 => 0x7E
  | .e5m2 => 0x7B
  | .e2m1 => 0x7

/-- The canonical NaN (R70, R72); E2M1 has none. -/
def FFmt.canon : FFmt → Nat
  | .f64 => 0x7FF8000000000000
  | .f32 => 0x7FC00000
  | .f16 => 0x7E00
  | .bf16 => 0x7FC0
  | .e4m3 => 0x7F
  | .e5m2 => 0x7E
  | .e2m1 => 0

/-- The largest exponent (R70). -/
def FFmt.emax : FFmt → Int
  | .f64 => 1023
  | .f32 | .bf16 => 127
  | .f16 | .e5m2 => 15
  | .e4m3 => 8
  | .e2m1 => 2

/-- The format's choice in OVFT: 0 largest finite, 1 infinity, 2 NaN (R29). E2M1 has no field. -/
def FFmt.choice (f : FFmt) (ovft : BitVec 16) : Nat :=
  match f with
  | .f32 => bitsOf ovft.toNat 0 2
  | .f16 => bitsOf ovft.toNat 2 2
  | .bf16 => bitsOf ovft.toNat 4 2
  | .e4m3 => bitsOf ovft.toNat 6 2
  | .e5m2 => bitsOf ovft.toNat 8 2
  | .f64 => bitsOf ovft.toNat 10 2
  | .e2m1 => 0

/-- An exact value: NaN, a signed infinity, or plus or minus m times 2^e; a zero keeps its sign (R75). -/
inductive FVal where
  | nan
  | inf (neg : Bool)
  | fin (neg : Bool) (m : Nat) (e : Int)
  deriving DecidableEq, Repr

/-- The rounding modes in SUB order (R39, R75). -/
inductive Rm where
  | rne | rtz | rdn | rup
  deriving DecidableEq, Repr

/-- The rounding mode of a 2-bit code (R39). -/
def Rm.of (n : Nat) : Rm :=
  match n % 4 with
  | 0 => .rne
  | 1 => .rtz
  | 2 => .rdn
  | _ => .rup

/-- The value of a code (R70). -/
def FFmt.decode (f : FFmt) (code : Nat) : FVal :=
  let m := bitsOf code 0 f.man
  let e := bitsOf code f.man f.exp
  let neg := code.testBit (f.width - 1)
  if f.hasInf && e == 2 ^ f.exp - 1 then (if m = 0 then .inf neg else .nan)
  else if f == .e4m3 && e == 15 && m == 7 then .nan
  else if e = 0 then .fin neg m (1 - (f.bias : Int) - f.man)
  else .fin neg (2 ^ f.man + m) ((e : Int) - f.bias - f.man)

/-- The sign bit of a format in place. -/
def FFmt.sign (f : FFmt) (neg : Bool) : Nat := if neg then 2 ^ (f.width - 1) else 0

/-- The code of an infinity. -/
def FFmt.infCode (f : FFmt) (neg : Bool) : Nat := f.sign neg + (2 ^ f.exp - 1) * 2 ^ f.man

/-- A result with the flags it sets. -/
abbrev FRes := Nat × Byte

/-! ### Rounding (R75 to R77) -/

/-- `m / 2^d` to an integer under a mode, and whether it is inexact. -/
def rndShift (neg : Bool) (m d : Nat) (rm : Rm) : Nat × Bool :=
  let q := m / 2 ^ d
  let r := m % 2 ^ d
  let up : Bool := match rm with
    | .rne => 2 ^ d < 2 * r || (2 * r == 2 ^ d && q % 2 == 1)
    | .rtz => false
    | .rdn => neg && r != 0
    | .rup => !neg && r != 0
  (if up then q + 1 else q, r != 0)

/-- `m * 2^e` over `2^s`, rounded to an integer. -/
def rndScaled (neg : Bool) (m : Nat) (e s : Int) (rm : Rm) : Nat × Bool :=
  if s ≤ e then (m * 2 ^ (e - s).toNat, false) else rndShift neg m (s - e).toNat rm

/-- `overflow` (R76). -/
def FFmt.overflow (f : FFmt) (neg : Bool) (ovft : BitVec 16) : Nat :=
  if f == .e2m1 then f.sign neg + f.maxCode
  else match f.choice ovft with
    | 0 => f.sign neg + f.maxCode
    | 1 => if f == .e4m3 then f.canon else f.infCode neg
    | _ => f.canon

/-- `inf_into` (R76). -/
def FFmt.infInto (f : FFmt) (neg : Bool) (ovft : BitVec 16) : FRes :=
  if f.hasInf then (f.infCode neg, 0)
  else if f == .e2m1 then (f.sign neg + f.maxCode, flagINX)
  else if f.choice ovft = 0 then (f.sign neg + f.maxCode, flagINX)
  else (f.canon, flagINV)

/-- The exponent of `round`: floor(log2 m 2^e), not below the smallest normal's. -/
def FFmt.roundExp (f : FFmt) (m : Nat) (e : Int) : Int := max ((Nat.log2 m : Int) + e) (1 - (f.bias : Int))

/-- `round` (R75). A NaN delivered into E2M1 becomes 0 and sets NANZ (R79). -/
def FFmt.round (f : FFmt) (x : FVal) (rm : Rm) (ovft : BitVec 16) : FRes :=
  match x with
  | .nan => if f == .e2m1 then (0, flagNANZ) else (f.canon, 0)
  | .inf neg => f.infInto neg ovft
  | .fin neg m e =>
    if m = 0 then (f.sign neg, 0)
    else
      let s := f.roundExp m e - f.man
      let (q, inexact) := rndScaled neg m e s rm
      let code := (s + f.man + f.bias - 1).toNat * 2 ^ f.man + q
      if f.maxCode < code then (f.overflow neg ovft, flagOVF ||| flagINX)
      else
        (f.sign neg + code,
          (if inexact then flagINX else 0)
            ||| (if inexact && (Nat.log2 m : Int) + e < 1 - (f.bias : Int) then flagUNF else 0))

/-- `to_int` into a range (R77). -/
def toInt (lo hi : Int) (x : FVal) (rm : Rm) : Int × Byte :=
  match x with
  | .nan => (0, flagNANZ)
  | .inf neg => (if neg then lo else hi, flagINV)
  | .fin neg m e =>
    let (q, inexact) := rndScaled neg m e 0 rm
    let y : Int := if neg then -(q : Int) else q
    if hi < y then (hi, flagINV) else if y < lo then (lo, flagINV) else (y, if inexact then flagINX else 0)

/-- An integer as an exact value. -/
def FVal.ofInt (x : Int) : FVal := .fin (x < 0) x.natAbs 0

/-! ### Sums and products (R86, R114) -/

def FVal.isNan : FVal → Bool
  | .nan => true
  | _ => false

def FVal.neg : FVal → FVal
  | .nan => .nan
  | .inf n => .inf (!n)
  | .fin n m e => .fin (!n) m e

/-- The signed integer of a finite value over 2^e. -/
def scaledInt (neg : Bool) (m : Nat) (e base : Int) : Int :=
  let x : Int := m * 2 ^ (e - base).toNat
  if neg then -x else x

/-- An exact sum; ∞ - ∞ is NaN. An exact zero is -0 under RDN and +0 otherwise, but a sum of zeros of one sign keeps it
(R86). -/
def FVal.add (a b : FVal) (rm : Rm) : FVal :=
  match a, b with
  | .nan, _ => .nan
  | _, .nan => .nan
  | .inf x, .inf y => if x == y then .inf x else .nan
  | .inf x, .fin _ _ _ => .inf x
  | .fin _ _ _, .inf y => .inf y
  | .fin na ma ea, .fin nb mb eb =>
    let e := min ea eb
    let s := scaledInt na ma ea e + scaledInt nb mb eb e
    if s = 0 then (if ma = 0 && mb = 0 && na == nb then .fin na 0 0 else .fin (rm == .rdn) 0 0)
    else .fin (s < 0) s.natAbs e

/-- An exact product; 0 × ∞ is NaN. -/
def FVal.mul (a b : FVal) : FVal :=
  match a, b with
  | .nan, _ => .nan
  | _, .nan => .nan
  | .inf x, .inf y => .inf (x != y)
  | .inf x, .fin y m _ => if m = 0 then .nan else .inf (x != y)
  | .fin x m _, .inf y => if m = 0 then .nan else .inf (x != y)
  | .fin x m e, .fin y n k => .fin (x != y) (m * n) (e + k)

/-- A result whose NaN, where no operand is NaN, sets INV (R82). -/
def invIfNew (anyNan : Bool) (x : FVal) (r : FRes) : FRes := if x.isNan && !anyNan then (r.1, r.2 ||| flagINV) else r

/-- `round(a + b)` on codes. -/
def FFmt.addC (f : FFmt) (a b : Nat) (rm : Rm) (ovft : BitVec 16) : FRes :=
  let x := f.decode a
  let y := f.decode b
  invIfNew (x.isNan || y.isNan) (x.add y rm) (f.round (x.add y rm) rm ovft)

/-- `round(a - b)` on codes. -/
def FFmt.subC (f : FFmt) (a b : Nat) (rm : Rm) (ovft : BitVec 16) : FRes :=
  let x := f.decode a
  let y := (f.decode b).neg
  invIfNew (x.isNan || y.isNan) (x.add y rm) (f.round (x.add y rm) rm ovft)

/-- `round(a × b)` on codes. -/
def FFmt.mulC (f : FFmt) (a b : Nat) (rm : Rm) (ovft : BitVec 16) : FRes :=
  let x := f.decode a
  let y := f.decode b
  invIfNew (x.isNan || y.isNan) (x.mul y) (f.round (x.mul y) rm ovft)

/-- `round(a × b + c)` on codes, with one rounding. -/
def FFmt.fmaC (f : FFmt) (a b c : Nat) (rm : Rm) (ovft : BitVec 16) : FRes :=
  let x := f.decode a
  let y := f.decode b
  let z := f.decode c
  let r := (x.mul y).add z rm
  invIfNew (x.isNan || y.isNan || z.isNan) r (f.round r rm ovft)

/-- The numeric order of non-NaN values. -/
def FVal.lt (a b : FVal) : Bool :=
  match a, b with
  | .inf x, .inf y => x && !y
  | .inf x, .fin _ _ _ => x
  | .fin _ _ _, .inf y => !y
  | .fin na ma ea, .fin nb mb eb => decide (scaledInt na ma ea (min ea eb) < scaledInt nb mb eb (min ea eb))
  | _, _ => false

/-- FMIN and FMAX on codes: -0 below +0, NaN canonical (R115). -/
def FFmt.minC (f : FFmt) (a b : Nat) : Nat :=
  let x := f.decode a
  let y := f.decode b
  if x.isNan || y.isNan then f.canon
  else if x.lt y then a else if y.lt x then b
  else if a.testBit (f.width - 1) then a else b

def FFmt.maxC (f : FFmt) (a b : Nat) : Nat :=
  let x := f.decode a
  let y := f.decode b
  if x.isNan || y.isNan then f.canon
  else if x.lt y then b else if y.lt x then a
  else if a.testBit (f.width - 1) then b else a

/-! ### Reciprocals and roots (R119, R120) -/

/-- A quotient or root as a dyadic with a sticky bit below it, so that every rounding of it is that of the exact value. -/
def sticky (neg : Bool) (q : Nat) (exact : Bool) (e : Int) : FVal := .fin neg (2 * q + if exact then 0 else 1) (e - 1)

/-- The integer square root by bits, from bit `n - 1` down. -/
def isqrtFrom (x : Nat) : Nat → Nat → Nat
  | 0, r => r
  | n + 1, r => isqrtFrom x n (if (r + 2 ^ n) * (r + 2 ^ n) ≤ x then r + 2 ^ n else r)

/-- The integer square root. -/
def isqrt (x : Nat) : Nat := isqrtFrom x (Nat.log2 x / 2 + 1) 0

/-- RCP on codes. -/
def FFmt.rcpC (f : FFmt) (a : Nat) (ovft : BitVec 16) : FRes :=
  match f.decode a with
  | .nan => (f.canon, 0)
  | .inf neg => (f.sign neg, 0)
  | .fin neg m e =>
    if m = 0 then (f.infCode neg, flagDZ)
    else
      let k := Nat.log2 m + f.man + 4
      f.round (sticky neg (2 ^ k / m) (2 ^ k % m == 0) (-(k : Int) - e)) .rne ovft

/-- RSQ on codes. -/
def FFmt.rsqC (f : FFmt) (a : Nat) (ovft : BitVec 16) : FRes :=
  match f.decode a with
  | .nan => (f.canon, 0)
  | .inf neg => if neg then (f.canon, flagINV) else (0, 0)
  | .fin neg m e =>
    if m = 0 then (f.infCode neg, flagDZ)
    else if neg then (f.canon, flagINV)
    else
      -- with e even, 1/sqrt(m 2^e) = sqrt(2^(2k) / m) 2^(-k - e/2)
      let (m, e) := if e % 2 = 0 then (m, e) else (2 * m, e - 1)
      let k := Nat.log2 m / 2 + f.man + 4
      let q := isqrt (2 ^ (2 * k) / m)
      f.round (sticky false q (q * q * m == 2 ^ (2 * k)) (-(k : Int) - e / 2)) .rne ovft

/-- SQRT on codes. -/
def FFmt.sqrtC (f : FFmt) (a : Nat) (rm : Rm) (ovft : BitVec 16) : FRes :=
  match f.decode a with
  | .nan => (f.canon, 0)
  | .inf neg => if neg then (f.canon, flagINV) else (f.infCode false, 0)
  | .fin neg m e =>
    if m = 0 then (f.sign neg, 0)
    else if neg then (f.canon, flagINV)
    else
      let (m, e) := if e % 2 = 0 then (m, e) else (2 * m, e - 1)
      let k := f.man + 4
      let q := isqrt (m * 2 ^ (2 * k))
      f.round (sticky false q (q * q == m * 2 ^ (2 * k)) (e / 2 - k)) rm ovft

/-! ### EXP2, LOG2, SIN and COS (R119, R120, R341)

The exact values are enclosed in fixed point with 256 fraction bits: the functions below are within 2^-240 of them. -/

/-- ln 2 and pi in fixed point. -/
def ln2Fix : Nat := 0xb17217f7d1cf79abc9e3b39803f2f6af40f343267298b62d8a0d175b8baafa2b
def piFix : Nat := 0x3243f6a8885a308d313198a2e03707344a4093822299f31d0082efa98ec4e6c89

/-- A fixed-point product. -/
def fixMul (a b : Nat) : Nat := a * b / 2 ^ 256

/-- The sum of t^k / k! from term k on, `n` terms, given the term before. -/
def expSum (t : Nat) : Nat → Nat → Nat → Nat
  | 0, _, _ => 0
  | n + 1, k, term => term + expSum t n (k + 1) (fixMul term t / (k + 1))

/-- 2^f for a fixed-point f below 1, in fixed point. -/
def exp2Fix (f : Nat) : Nat := expSum (fixMul f ln2Fix) 64 0 (2 ^ 256)

/-- The sum of z^(2k+1) / (2k+1), `n` terms. -/
def atanhSum (z2 : Nat) : Nat → Nat → Nat → Nat
  | 0, _, _ => 0
  | n + 1, k, p => p / (2 * k + 1) + atanhSum z2 n (k + 1) (fixMul p z2)

/-- log2 of a fixed-point value from 1 up to 2, in fixed point. -/
def log2Fix (x : Nat) : Nat :=
  let z := (x - 2 ^ 256) * 2 ^ 256 / (x + 2 ^ 256)
  2 * atanhSum (fixMul z z) 84 0 z * 2 ^ 256 / ln2Fix

/-- The alternating sum of t^k / k! over k of one parity, `n` terms. -/
def trigSum (t2 : Nat) : Nat → Nat → Int → Int
  | 0, _, _ => 0
  | n + 1, k, term => term + trigSum t2 n (k + 2) (-(term * t2 / 2 ^ 256) / ((k + 1) * (k + 2)))

/-- sin(pi r) for a fixed-point r below 1/2: a value below 1. -/
def sinFix (r : Nat) : Nat :=
  if r ≤ 2 ^ 254 then
    let t := fixMul piFix r
    (trigSum (fixMul t t) 40 1 t).toNat
  else
    let t := fixMul piFix (2 ^ 255 - r)
    min (trigSum (fixMul t t) 40 0 (2 ^ 256)).toNat (2 ^ 256 - 1)

/-- The four functions. -/
inductive TransFn where
  | exp2 | log2 | sin | cos
  deriving DecidableEq, Repr

/-- What R119 decides, or the exact value where it is rational; else an open enclosure: a sign, and a magnitude above
(m - lo) 2^e and below (m + hi) 2^e, of which nothing else is known. -/
inductive TransVal where
  | special (code : Nat) (flags : Byte)
  | exact (x : FVal)
  | near (neg : Bool) (m : Nat) (e : Int) (lo hi : Nat := 16)

/-- The fixed-point fraction of m 2^e with e not below -256, modulo 2^(256 + k). -/
def fixOf (m : Nat) (e : Int) : Nat := if 0 ≤ e + 256 then m * 2 ^ (e + 256).toNat else m / 2 ^ (-(e + 256)).toNat

/-- EXP2 of a finite value; one at or below -8192 is known only to be above 0 and below 2^-8191. -/
def exp2Of (neg : Bool) (m : Nat) (e : Int) : TransVal :=
  if 12 < (Nat.log2 m : Int) + e then (if neg then .near false 0 (-8191) 0 1 else .near false (2 ^ 256) 100000)
  else
    let x := fixOf m e
    let y : Int := if neg then -(x : Int) else x
    let n := y / 2 ^ 256
    let f := (y % 2 ^ 256).toNat
    if f = 0 then .exact (.fin false 1 n) else .near false (exp2Fix f) (n - 256)

/-- LOG2 of a positive finite value. -/
def log2Of (m : Nat) (e : Int) : TransVal :=
  let p := Nat.log2 m
  let n : Int := (p : Int) + e
  if m = 2 ^ p then .exact (if n = 0 then .fin false 0 0 else FVal.ofInt n)
  else
    let y : Int := n * 2 ^ 256 + log2Fix (m * 2 ^ (256 - p))
    .near (y < 0) y.natAbs (-256)

/-- SIN of half-turns at a nonnegative argument below 2, in fixed point; the sign is separate. An irrational value is below 1. -/
def sinTurn (r : Nat) : Bool × TransVal :=
  let neg := 2 ^ 256 ≤ r
  let r := r % 2 ^ 256
  let r := if 2 ^ 255 < r then 2 ^ 256 - r else r
  (neg, if r = 0 then .exact (.fin false 0 0) else if r = 2 ^ 255 then .exact (.fin false 1 0)
    else .near false (sinFix r) (-256) 16 (min 16 (2 ^ 256 - sinFix r)))

/-- A fixed-point argument modulo 2. -/
def turnOf (m : Nat) (e : Int) : Nat := if 1 ≤ e then 0 else fixOf m e % 2 ^ 257

/-- A sign put on a value. -/
def TransVal.signed (neg : Bool) : TransVal → TransVal
  | .exact (.fin _ m e) => .exact (.fin neg m e)
  | .near _ m e lo hi => .near neg m e lo hi
  | x => x

/-- The value of a function at a code (R119). -/
def FFmt.trans (f : FFmt) (fn : TransFn) (a : Nat) : TransVal :=
  match fn, f.decode a with
  | _, .nan => .special f.canon 0
  | .exp2, .inf neg => .special (if neg then 0 else f.infCode false) 0
  | .exp2, .fin neg m e => if m = 0 then .exact (.fin false 1 0) else exp2Of neg m e
  | .log2, .inf neg => if neg then .special f.canon flagINV else .special (f.infCode false) 0
  | .log2, .fin neg m e =>
    if m = 0 then .special (f.infCode true) flagDZ else if neg then .special f.canon flagINV else log2Of m e
  | .sin, .inf _ => .special f.canon flagINV
  | .sin, .fin neg m e =>
    if m = 0 then .special a 0
    else match sinTurn (turnOf m e) with
      | (_, .exact (.fin _ 0 k)) => .exact (.fin neg 0 k)
      | (n, x) => x.signed (n != neg)
  | .cos, .inf _ => .special f.canon flagINV
  | .cos, .fin _ m e =>
    match sinTurn ((turnOf m e + 2 ^ 255) % 2 ^ 257) with
    | (_, .exact (.fin _ 0 k)) => .exact (.fin false 0 k)
    | (n, x) => x.signed n

/-- The exponent of an ulp of m 2^e (R120). -/
def FFmt.ulpExp (f : FFmt) (m : Nat) (e : Int) : Int := if m = 0 then 1 - (f.bias : Int) - f.man else f.roundExp m e - f.man

/-- Whether a code is within `mul` ulp of the value m 2^e, or less than that where `strict` (R120, R341). -/
def FFmt.within (f : FFmt) (code : Nat) (neg : Bool) (m : Nat) (e : Int) (mul : Nat) (strict : Bool) : Bool :=
  match f.decode code with
  | .fin nc mc ec =>
    let u := f.ulpExp m e
    let b := min (min ec e) u
    let d := (scaledInt nc mc ec b - scaledInt neg m e b).natAbs
    let lim := mul * 2 ^ (u - b).toNat
    if strict then decide (d < lim) else decide (d ≤ lim)
  | _ => false

/-- Whether a code is within `mul` ulp of every value of an open enclosure: where both its ends are no farther than that,
every value between them is nearer, so that a strict bound asks no more. -/
def FFmt.enclosed (f : FFmt) (code : Nat) (neg : Bool) (m : Nat) (e : Int) (lo hi mul : Nat) : Bool :=
  match f.decode code with
  | .fin nc mc ec =>
    let u := f.ulpExp m e
    let b := min (min ec e) u
    let v := scaledInt nc mc ec b
    let lim := mul * 2 ^ (u - b).toNat
    decide ((v - scaledInt neg (m - lo) e b).natAbs ≤ lim) && decide ((v - scaledInt neg (m + hi) e b).natAbs ≤ lim)
  | _ => false

/-- The bound of R120 in ulp, and whether it is strict, widened by D bits (R341). -/
def FFmt.bound (f : FFmt) (d : Nat) : Nat × Bool := if f == .f32 then (2 ^ (d + 1), false) else (2 ^ d, true)

/-- Whether a code's magnitude exceeds 1, which SIN and COS never deliver (R119). -/
def FFmt.aboveOne (f : FFmt) (code : Nat) : Bool := f.bias * 2 ^ f.man < code % 2 ^ (f.width - 1)

/-- Whether the value at a code is one of those of R119, delivered exactly in every form (R341): every exact value but
EXP2 of a nonzero operand and LOG2 (R120). -/
def FFmt.listed (f : FFmt) (fn : TransFn) (a : Nat) : Bool :=
  match fn with
  | .exp2 => a % 2 ^ (f.width - 1) == 0
  | .log2 => false
  | _ => true

/-- The delivered result of a function: the candidate where it meets the bound, else the nearest (R119, R120, R341). The
flags are those of the exact value under RNE. Under A = 1 an exact value that R119 does not list is bounded as another
(R341); so is, in every form, EXP2 of an integer whose value is not representable (R120). -/
def FFmt.transC (f : FFmt) (fn : TransFn) (apx : Bool) (a cand d : Nat) (ovft : BitVec 16) : FRes :=
  let (mul, strict) := f.bound d
  match f.trans fn a with
  | .special c fl => (c, fl)
  | .exact x =>
    let r := f.round x .rne ovft
    match x with
    | .fin neg m e =>
      if (apx || (r.2 &&& flagINX) != 0) && !f.listed fn a && (r.2 &&& flagOVF) == 0 && f.within cand neg m e mul strict
      then (cand, r.2) else r
    | _ => r
  | .near neg m e lo hi =>
    let r := f.round (.fin neg (2 * m + 1) (e - 1)) .rne ovft
    let sc := fn == .sin || fn == .cos
    let ok := (r.2 &&& flagOVF) == 0 && f.enclosed cand neg m e lo hi mul && !(sc && f.aboveOne cand)
    ((if ok then cand else if sc && f.aboveOne r.1 then f.sign neg + f.bias * 2 ^ f.man else r.1), r.2 ||| flagINX)

/-! ### The approximate contract (R339 to R342) -/

/-- D(L) (R339). -/
def FFmt.dBits (f : FFmt) (level : Nat) : Nat :=
  match f with
  | .f32 => [0, 2, 4, 6, 9, 12, 15, 18].getD level 0
  | .f16 => [0, 1, 2, 3, 4, 5, 6, 7].getD level 0
  | .bf16 => [0, 0, 1, 1, 2, 3, 4, 5].getD level 0
  | _ => 0

/-- Low D bits of a code replaced by those of a free value. -/
def lowBits (code free d : Nat) : Nat := code / 2 ^ d * 2 ^ d + free % 2 ^ d

/-- A permissible result for r: its low D bits free, but NaN, zero and infinity are delivered as they are and a zero is
never delivered for a nonzero r (R340). -/
def FFmt.permit (f : FFmt) (r free d : Nat) : Nat :=
  match f.decode r with
  | .fin _ m _ =>
    let y := lowBits r free d
    if m = 0 || y % 2 ^ (f.width - 1) = 0 then r else y
  | _ => r

/-- The element format of an approximate or floating tag (R13). -/
def ffmtOf : Fmt → FFmt
  | .f16x2 => .f16
  | .bf16x2 => .bf16
  | .e4m3x4 => .e4m3
  | .e5m2x4 => .e5m2
  | .f64 => .f64
  | _ => .f32

end Sys2Proof.Machine
end

