-- ==== Sys2Proof/Machine/FloatOps.lean ====
section
/-!
DEFINITION. The floating, conversion, tag and random instructions (R111 to R129). All are warp-only (R67).
-/

namespace Sys2Proof.Machine

/-! ### The common form -/

/-- The overflow table that an instruction uses: its context's at its issue (R29), which one that has events left has kept
(R31, R252). -/
def Env.ovft (e : Env) : BitVec 16 := (e.w.progress.map Progress.ovft).getD e.c.ovft

/-- D(L) of a format at the group's requested level (R338, R339). -/
def Env.dOf (e : Env) (f : FFmt) : Nat := f.dBits e.g.level.toNat

/-- The free value of element `j` in a lane (notes/assumptions/2.md). -/
def Env.free (e : Env) (l : Fin 64) (j : Nat) : Nat := (Config.freeBits (e.s.fresh + 8 * l.val + j)).toNat

/-- How many free values an instruction draws. -/
def draws (a : Bool) : Nat := if a then 512 else 0

/-- A value and flags from its elements. -/
def gather (f : Fmt) (g : Nat → FRes) : W64 × Byte :=
  let rs := (List.range (elemOf f).2).map g
  (ofEls f fun i => ((rs[i]?).map Prod.fst).getD 0, rs.foldl (fun a r => a ||| r.2) 0)

/-- An element as an A = 0 or A = 1 instruction delivers it (R112, R340). -/
def Env.deliver (e : Env) (f : FFmt) (a : Bool) (l : Fin 64) (j : Nat) (r : FRes) : FRes :=
  if a then (f.permit r.1 (e.free l j) (e.dOf f), r.2) else r

/-- A floating operation element by element on up to three sources in FMT (R111, R112). -/
def floatBody (os : LForm → List Opnd) (op : LForm → BitVec 16 → Nat → Nat → Nat → FRes) (f : LForm) (e : Env) : Effect :=
  let srcs := os f
  let x := srcAt e.w f.imm srcs
  let ff := ffmtOf f.fmt
  e.run { RegIns.of f srcs (mkLanes fun l =>
      let a := x 0 l
      let b := x 1 l
      let c := x 2 l
      gather f.fmt fun j => e.deliver ff f.a l j (op f e.ovft (el f.fmt a j) (el f.fmt b j) (el f.fmt c j))) with
    draws := draws f.a }

/-- The rounding mode of an instruction (R39). -/
def rmOf (f : LForm) : Rm := Rm.of f.sub.toNat

/-! ### Arithmetic (R114 to R116) -/

def faddBody := floatBody tagged fun f t a b _ => (ffmtOf f.fmt).addC a b (rmOf f) t
def execFadd (f : LForm) (s : State) : Host.Outcome State Fault Refusal := issue (.l .fadd f) s (faddBody f) noLeek

def fsubBody := floatBody tagged fun f t a b _ => (ffmtOf f.fmt).subC a b (rmOf f) t
def execFsub (f : LForm) (s : State) : Host.Outcome State Fault Refusal := issue (.l .fsub f) s (fsubBody f) noLeek

def fmulBody := floatBody tagged fun f t a b _ => (ffmtOf f.fmt).mulC a b (rmOf f) t
def execFmul (f : LForm) (s : State) : Host.Outcome State Fault Refusal := issue (.l .fmul f) s (fmulBody f) noLeek

def fmaBody := floatBody tagged fun f t a b c => (ffmtOf f.fmt).fmaC a b c (rmOf f) t
def execFma (f : LForm) (s : State) : Host.Outcome State Fault Refusal := issue (.l .fma f) s (fmaBody f) noLeek

def fminBody := floatBody tagged fun f _ a b _ => ((ffmtOf f.fmt).minC a b, 0)
def execFmin (f : LForm) (s : State) : Host.Outcome State Fault Refusal := issue (.l .fmin f) s (fminBody f) noLeek

def fmaxBody := floatBody tagged fun f _ a b _ => ((ffmtOf f.fmt).maxC a b, 0)
def execFmax (f : LForm) (s : State) : Host.Outcome State Fault Refusal := issue (.l .fmax f) s (fmaxBody f) noLeek

/-- FSGN on codes: ABS, NEG and COPY for SUB 0 to 2 (R116). -/
def FFmt.sgnC (f : FFmt) (sub a b : Nat) : Nat :=
  let mag := a % 2 ^ (f.width - 1)
  let neg := a.testBit (f.width - 1)
  if (f.decode a).isNan || (sub == 2 && (f.decode b).isNan) then f.canon
  else match sub with
    | 0 => mag
    | 1 => mag + f.sign (!neg)
    | _ => mag + f.sign (b.testBit (f.width - 1))

def fsgnBody := floatBody tagged fun f _ a b _ => ((ffmtOf f.fmt).sgnC f.sub.toNat a b, 0)
def execFsgn (f : LForm) (s : State) : Host.Outcome State Fault Refusal := issue (.l .fsgn f) s (fsgnBody f) noLeek

/-! ### Compare and classify (R117, R118) -/

/-- A relation of R117 between two elements. -/
def FFmt.relC (f : FFmt) (sub a b : Nat) : Bool :=
  let x := f.decode a
  let y := f.decode b
  if x.isNan || y.isNan then sub == 1 || sub == 6
  else match sub with
    | 6 => false
    | 7 => true
    | n => relation n (x.lt y) (!x.lt y && !y.lt x)

def fcmpBody (f : LForm) (e : Env) : Effect :=
  let os := [Opnd.of f.src0 f.fmt, Opnd.of f.src1 f.fmt]
  let x := srcAt e.w f.imm os
  e.run (RegIns.of f os (mkLanes fun l =>
    let a := x 0 l
    let b := x 1 l
    (if (List.range (elemOf f.fmt).2).all fun j => (ffmtOf f.fmt).relC f.sub.toNat (el f.fmt a j) (el f.fmt b j) then 1 else 0, 0)))
def execFcmp (f : LForm) (s : State) : Host.Outcome State Fault Refusal := issue (.l .fcmp f) s (fcmpBody f) noLeek

/-- The class bit of a code (R118). -/
def FFmt.classC (f : FFmt) (a : Nat) : Nat :=
  let neg := a.testBit (f.width - 1)
  match f.decode a with
  | .nan => 0x100
  | .inf _ => if neg then 0x001 else 0x080
  | .fin _ m _ =>
    if m = 0 then (if neg then 0x008 else 0x010)
    else if bitsOf a f.man f.exp = 0 then (if neg then 0x004 else 0x020)
    else if neg then 0x002 else 0x040

/-- The tag of FCLASS's result (R118). -/
def classTag (f : Fmt) : Fmt :=
  match f with
  | .f16x2 | .bf16x2 => .n16x2
  | .f64 => .n64
  | _ => .n32

def fclassBody (f : LForm) (e : Env) : Effect :=
  let os := [Opnd.of f.src0 f.fmt]
  e.run { RegIns.of f os (mkLanes fun l =>
      let a := srcAt e.w f.imm os 0 l
      (ofEls f.fmt fun j => (ffmtOf f.fmt).classC (el f.fmt a j), 0)) with
    tag := classTag f.fmt }
def execFclass (f : LForm) (s : State) : Host.Outcome State Fault Refusal := issue (.l .fclass f) s (fclassBody f) noLeek

/-! ### Reciprocals, roots and transcendentals (R119, R120, R341) -/

def rcpBody := floatBody tagged fun f t a _ _ => (ffmtOf f.fmt).rcpC a t
def execRcp (f : LForm) (s : State) : Host.Outcome State Fault Refusal := issue (.l .rcp f) s (rcpBody f) noLeek

def rsqBody := floatBody tagged fun f t a _ _ => (ffmtOf f.fmt).rsqC a t
def execRsq (f : LForm) (s : State) : Host.Outcome State Fault Refusal := issue (.l .rsq f) s (rsqBody f) noLeek

def sqrtBody := floatBody tagged fun f t a _ _ => (ffmtOf f.fmt).sqrtC a (rmOf f) t
def execSqrt (f : LForm) (s : State) : Host.Outcome State Fault Refusal := issue (.l .sqrt f) s (sqrtBody f) noLeek

/-- The device's candidate result: its own function of operand and format under A = 0, a free value under A = 1. -/
def Env.candidate (e : Env) (fn : Nat) (ff : FFmt) (a : Bool) (l : Fin 64) (j x : Nat) : Nat :=
  (if a then e.free l j else Config.transcendental fn ff.maxCode x) % 2 ^ ff.width

def transBody (fn : TransFn) (n : Nat) (f : LForm) (e : Env) : Effect :=
  let os := [Opnd.of f.src0 f.fmt]
  let ff := ffmtOf f.fmt
  e.run { RegIns.of f os (mkLanes fun l =>
      let a := srcAt e.w f.imm os 0 l
      gather f.fmt fun j =>
        ff.transC fn f.a (el f.fmt a j) (e.candidate n ff f.a l j (el f.fmt a j)) (if f.a then e.dOf ff else 0) e.ovft) with
    draws := draws f.a }

def execExp2 (f : LForm) (s : State) : Host.Outcome State Fault Refusal := issue (.l .exp2 f) s (transBody .exp2 0 f) noLeek
def execLog2 (f : LForm) (s : State) : Host.Outcome State Fault Refusal := issue (.l .log2 f) s (transBody .log2 1 f) noLeek
def execSin (f : LForm) (s : State) : Host.Outcome State Fault Refusal := issue (.l .sin f) s (transBody .sin 2 f) noLeek
def execCos (f : LForm) (s : State) : Host.Outcome State Fault Refusal := issue (.l .cos f) s (transBody .cos 3 f) noLeek

/-! ### Streams and conversion (R121, R122) -/

/-- The source format of a stream: SRC0's tag, Q64 read as N64; none for an invalid latch. -/
def Warp.streamFmt (w : Warp) (r : Reg) : Option Fmt := w.tagOf r

/-- The sources of a stream in its format. -/
def streamOs (s : Fmt) (f : LForm) : List Opnd :=
  Opnd.of f.src0 s :: if f.src1 == .zero then [] else [Opnd.of f.src1 s]

/-- Whether a vector operand of a 64-bit format is odd (R121). -/
def oddPair (s : Fmt) : Reg → Bool
  | .v n => s.wide && n.val % 2 == 1
  | _ => false

/-- TAG faults of a stream: a format the opcode does not take, an SRC1 of another tag, an odd pair (R121 to R123). -/
def Warp.streamTag (w : Warp) (takes : Fmt → Bool) (f : LForm) : Bool :=
  match w.streamFmt f.src0 with
  | none => false
  | some s => !takes s || (streamOs s f).any w.tagBad || oddPair s f.src0 || oddPair s f.src1

/-- TAG faults of an SRC1 whatever the format of the stream is: its own tag is a format the opcode does not take, its pair holds
two tags, or it is odd and its tag names a 64-bit format (R121). -/
def Warp.streamTag1 (w : Warp) (takes : Fmt → Bool) (f : LForm) : Bool :=
  (w.streamFmt f.src1).any fun t => !takes t || w.tagBad (Opnd.of f.src1 t) || oddPair t f.src1

/-- The fault of a stream whose SRC0 is an invalid latch: it has no format to compare SRC1's tag with, so TAG is raised only where
SRC1 meets it in every format, and APXFLOW comes next, before LATCH (R48, R57, R121; DEDUCED, notes/assumptions/15.md). -/
def Env.streamLatch (e : Env) (takes : Fmt → Bool) (f : LForm) : Effect :=
  e.early (if e.w.streamTag1 takes f then .tag
    else if (!f.a && e.w.isApx e.g.desc.apxFrom f.src1) || (f.a && preciseDst e.g.desc.apxFrom f.dst) then .apxflow else .latch)

/-- An element of a stream as its bits; absent past its end. -/
def Warp.streamEl (w : Warp) (s : Fmt) (f : LForm) (l : Fin 64) (i : Nat) : Option Nat :=
  let n := (elemOf s).2
  match (streamOs s f)[i / n]? with
  | some o => some (el s (w.src o f.imm l) (i % n))
  | none => none

/-- Whether a format is floating (R13). -/
def isFloating : Fmt → Bool
  | .f32 | .f16x2 | .bf16x2 | .e4m3x4 | .e5m2x4 | .f64 => true
  | _ => false

/-- An element's exact value in its format. -/
def valueOf (s : Fmt) (x : Nat) : FVal := if isFloating s then (ffmtOf s).decode x else FVal.ofInt (elInt s x)

/-- A value delivered into a format: `round`, or `to_int` with its bits (R77, R121). -/
def intoFmt (d : Fmt) (x : FVal) (rm : Rm) (ovft : BitVec 16) : FRes :=
  if isFloating d then (ffmtOf d).round x rm ovft
  else
    let (y, fl) := toInt (minOf d) (maxOf d) x rm
    (wrapTo (elemOf d).1 y, fl)

/-- The source formats of CVT: all but B32, and only F32, F16X2 and BF16X2 under A = 1 (R121, R122). -/
def cvtTakes (a : Bool) (s : Fmt) : Bool := if a then s.isApx else s != .b32

def cvtBody (f : LForm) (e : Env) : Effect :=
  match e.w.streamFmt f.src0 with
  | none => e.streamLatch (cvtTakes f.a) f
  | some s =>
    if e.w.streamTag (cvtTakes f.a) f then e.early .tag
    else
    let k := (f.imm.getD 0).toNat
    let rm := if f.sub.toNat = 4 then Rm.of e.w.round.toNat else Rm.of f.sub.toNat
    e.run { RegIns.of f (streamOs s f) (mkLanes fun l => gather f.fmt fun j =>
        match e.w.streamEl s f l (k + j) with
        | some x => e.deliver (ffmtOf f.fmt) f.a l j (intoFmt f.fmt (valueOf s x) rm e.ovft)
        | none => (0, 0)) with
      draws := draws f.a }
def execCvt (f : LForm) (s : State) : Host.Outcome State Fault Refusal := issue (.l .cvt f) s (cvtBody f) noLeek

/-! ### Block quantisation (R84, R123) -/

/-- floor(log2 m 2^e) of nonzero finite values, the greatest of a list; none where there is none. -/
def topExp (xs : List FVal) : Option Int :=
  xs.foldl (fun a x => match x with
    | .fin _ m e => if m = 0 then a else
      let t := (Nat.log2 m : Int) + e
      some (match a with
        | some b => max b t
        | none => t)
    | _ => a) none

/-- The scale exponent of a block (R84). -/
def blockScale (f : FFmt) (xs : List FVal) : Int :=
  match topExp xs with
  | none => -127
  | some t => min (max (t - f.emax) (-127)) 127

/-- A value times 2^k. -/
def FVal.scale (x : FVal) (k : Int) : FVal :=
  match x with
  | .fin n m e => .fin n m (e + k)
  | y => y

/-- An element under a block scale: overflow saturates with INX (R84). A zero keeps its sign, as R75 has it: a -0 of a block whose
elements are all zero becomes 0x80, though R130 says of that block that its zeros become 0x00 (DEDUCED,
notes/assumptions/17.md). -/
def FFmt.scaled (f : FFmt) (x : FVal) (k : Int) (rm : Rm) (ovft : BitVec 16) : FRes :=
  let r := f.round (x.scale (-k)) rm ovft
  match x with
  | .fin neg _ _ => if r.2 &&& flagOVF != 0 then (f.sign neg + f.maxCode, flagINX) else r
  | _ => r

/-- 2^k as an F32 code for k from -127 to 127. -/
def f32Pow (k : Int) : W32 := if k = -127 then 0x00400000 else BitVec.ofNat 32 ((k + 127).toNat * 2 ^ 23)

/-- The formats that QUANT reads (R123). -/
def quantTakes (s : Fmt) : Bool := s.isApx

/-- A lane's four elements, missing ones as +0. -/
def Warp.quantEls (w : Warp) (s : Fmt) (f : LForm) (l : Fin 64) : List FVal :=
  (List.range 4).map fun i => match w.streamEl s f l i with
    | some x => (ffmtOf s).decode x
    | none => .fin false 0 0

def quantBody (f : LForm) (e : Env) : Effect :=
  match e.w.streamFmt f.src0 with
  | none => e.streamLatch quantTakes f
  | some s =>
    if e.w.streamTag quantTakes f then e.early .tag
    else
    let os := streamOs s f
    match e.w.operandFault e.g.desc.apxFrom f.a os [] [f.dst] with
    | some c => e.early c
    | none =>
      let size := (f.imm.getD 1).toNat
      let (kill, source) := e.w.operandKills os e.eff
      let part := e.eff &&& ~~~kill
      let els := mkLanes fun l => if part.getLsbD l then e.w.quantEls s f l else []
      let scales := (List.range (64 / size)).map fun b =>
        blockScale (ffmtOf f.fmt) ((List.range size).flatMap fun i => ((els.toList)[b * size + i]?).getD [])
      let scaleOf (l : Fin 64) : Int := (scales[l.val / size]?).getD 0
      let vals : Lanes (W64 × Byte) := mkLanes fun l =>
        gather f.fmt fun j => match (els[l])[j]? with
          | some x => (ffmtOf f.fmt).scaled x (scaleOf l) (Rm.of f.sub.toNat) e.ovft
          | none => (0, 0)
      match f.dst with
      | .v n =>
        let wr (t : Fmt) (v : Fin 64 → W64) : VecWrite :=
          { eff := e.eff, sel := e.sel, kill := kill, vals := v, wide := false, tag := t, a := false, nw := f.nw }
        match (e.w.writeVec (n.val + 1) (wr .f32 fun l => zx64 (f32Pow (scaleOf l)))).bind fun w =>
            w.commitVec n.val (wr f.fmt fun l => (vals[l]).1) with
        | none => .wait e.s .speculation
        | some w =>
          let w := w.setFlags (orFlags part vals)
          .done ((e.put w).killLanes e.c e.g e.w kill source 0)
      | _ => e.early .illegal
def execQuant (f : LForm) (s : State) : Host.Outcome State Fault Refusal := issue (.l .quant f) s (quantBody f) noLeek

/-! ### Scaling and rounding to integral (R124, R125) -/

/-- `round(a * 2^n)`; a zero or infinity passes. Beyond the exponents that decide the result, n is capped. -/
def FFmt.scalebC (f : FFmt) (a : Nat) (n : Int) (rm : Rm) (ovft : BitVec 16) : FRes :=
  match f.decode a with
  | .inf _ => (a, 0)
  | .fin neg 0 _ => (f.sign neg, 0)
  | x => f.round (x.scale (min (max n (-5000)) 5000)) rm ovft

def scalebBody (f : LForm) (e : Env) : Effect :=
  let os := [Opnd.of f.src0 f.fmt, Opnd.of f.src1 .s32]
  let x := srcAt e.w f.imm os
  e.run (RegIns.of f os (mkLanes fun l =>
    let a := x 0 l
    let n := signed 32 ((x 1 l).toNat % 2 ^ 32)
    gather f.fmt fun j => (ffmtOf f.fmt).scalebC (el f.fmt a j) n (rmOf f) e.ovft))
def execScaleb (f : LForm) (s : State) : Host.Outcome State Fault Refusal := issue (.l .scaleb f) s (scalebBody f) noLeek

/-- FRND on codes. -/
def FFmt.frndC (f : FFmt) (a : Nat) (rm : Rm) (ovft : BitVec 16) : FRes :=
  match f.decode a with
  | .nan => (f.canon, 0)
  | .inf _ => (a, 0)
  | .fin neg m e =>
    let (q, inexact) := rndScaled neg m e 0 rm
    ((f.round (.fin neg q 0) .rne ovft).1, if inexact then flagINX else 0)

def frndBody := floatBody tagged fun f t a _ _ => (ffmtOf f.fmt).frndC a (rmOf f) t
def execFrnd (f : LForm) (s : State) : Host.Outcome State Fault Refusal := issue (.l .frnd f) s (frndBody f) noLeek

/-! ### Tags and endorsement (R126 to R128) -/

/-- ENDORSE: the one copy of an approximate value into a precise register. -/
def endorseBody (f : LForm) (e : Env) : Effect :=
  let o := Opnd.of f.src0 f.fmt
  if e.w.tagBad o then e.early .tag
  else if e.w.isApx e.g.desc.apxFrom f.dst then e.early .apxflow
  else if e.w.latchBad f.src0 then e.early .latch
  else
    let (kill, source) := e.w.operandKills [o] e.eff
    match f.dst with
    | .v n =>
      match e.w.commitVec n.val
        { eff := e.eff, sel := e.sel, kill := kill, vals := e.w.src o f.imm, wide := false, tag := f.fmt, a := f.a, nw := f.nw } with
      | none => .wait e.s .speculation
      | some w => .done ((e.put w).killLanes e.c e.g e.w kill source 0)
    | _ => e.early .illegal
def execEndorse (f : LForm) (s : State) : Host.Outcome State Fault Refusal := issue (.l .endorse f) s (endorseBody f) noLeek

/-- Whether a v or s register is odd. -/
def oddReg : Reg → Bool
  | .v n => n.val % 2 == 1
  | .s n => n.val % 2 == 1
  | _ => false

/-- The scalar that supplies TAGSET's tag (R18, R127). -/
def tagOs (f : LForm) : List Opnd := if f.src1 == .imm then [] else [Opnd.any f.src1 .b32]

/-- TAGSET. The tag's own checks are encoding checks for an immediate; for a scalar they are value checks, made only
where a lane executes (R127, R177). An immediate SRC0 copied to a pair is its word zero-extended, whatever the tag: the operand's own
format is 0, and R38 widens by format (DESIGN CHOICE, notes/assumptions/15.md). -/
def tagsetBody (f : LForm) (e : Env) : Effect :=
  let t := (e.w.uni f.src1 f.imm .b32).toNat % 2 ^ 32
  let wide := 12 ≤ t % 16 && !oddReg f.dst
  let o : Opnd := { reg := f.src0, fmt := if wide then .n64 else .b32, wide := wide, tag := none }
  let scalar := f.src1 != .imm
  let bad := 15 < t || (12 ≤ t % 16 && (oddReg f.dst || oddReg f.src0)) || e.w.tagBad o
  -- the latch width is a value check with a scalar tag; the other operand checks keep their rank
  if !scalar && e.w.tagBad o then e.early .tag
  else
    let os := (if scalar && e.w.tagBad o then { o with wide := !wide } else o) :: tagOs f
    e.run { dst := f.dst, nw := f.nw, a := f.a, os := os, wide := wide, tag := Fmt.ofCode (BitVec.ofNat 4 t)
            faults := if scalar && bad && e.sound (tagOs f) != 0 then some (.tag, e.eff) else none
            vals := mkLanes fun l => (e.w.src o f.imm l, 0) }
def execTagset (f : LForm) (s : State) : Host.Outcome State Fault Refusal := issue (.l .tagset f) s (tagsetBody f) noLeek

/-- The source of TAGGET, as the checks of its latch's width see it (R48, R60): any tag, 32 bits. -/
def taggetOpnd (f : LForm) : Opnd := { reg := f.src0, fmt := .n32, wide := false, tag := none }

/-- TAGGET reads no data, so it raises no APXFLOW and consumes no error (R128); a latch of 64 bits has not the width of its format
(R48). -/
def taggetBody (f : LForm) (e : Env) : Effect :=
  if e.w.tagBad (taggetOpnd f) then e.early .tag
  else match e.w.tagOf f.src0 with
  | none => e.early .latch
  | some t =>
    e.run { dst := f.dst, nw := f.nw, a := f.a, os := [], wide := false, tag := .n32
            vals := mkLanes fun _ => (t.code.setWidth 64, 0) }
def execTagget (f : LForm) (s : State) : Host.Outcome State Fault Refusal := issue (.l .tagget f) s (taggetBody f) noLeek

/-! ### Random numbers (R129) -/

/-- The next state of a lane. -/
def rngNext (x : W64) : W64 :=
  let x := x ^^^ (x >>> 12)
  let x := x ^^^ (x <<< 25)
  x ^^^ (x >>> 27)

/-- The value that a state delivers in a format. -/
def rngOut (f : Fmt) (x : W64) : W64 :=
  let out := x * 0x2545F4914F6CDD1D
  match f with
  | .n64 => out
  | .f32 => BitVec.ofNat 64 (FFmt.f32.round (.fin false (out.toNat / 2 ^ 40) (-24)) .rne 0).1
  | _ => zx64 (hi32 out)

def randBody (f : LForm) (e : Env) : Effect :=
  let next := mkLanes fun l => rngNext (e.w.rng[l])
  let w := { e.w with rng := mkLanes fun l => if e.eff.getLsbD l then next[l] else e.w.rng[l] }
  match e.w.operandFault e.g.desc.apxFrom f.a [] [] [f.dst] with
  | some c => e.early c
  | none => Env.run { e with w := w } (RegIns.of f [] (mkLanes fun l => (rngOut f.fmt (next[l]), 0)))
def execRand (f : LForm) (s : State) : Host.Outcome State Fault Refusal := issue (.l .rand f) s (randBody f) noLeek

end Sys2Proof.Machine
end

