-- ==== Sys2Proof/Machine/Moves.lean ====
section
/-!
DEFINITION. Moves: MOV in both forms (R106) and MOVS, the read of every special register (R27 to R31, R109).
-/

namespace Sys2Proof.Machine

/-! ### MOV (R106, R342) -/

/-- The tag that a move gives its destination: the source's, or FMT for a source with none (R14, R106). -/
def Warp.moveTag (w : Warp) (f : LForm) : Fmt :=
  match f.src0 with
  | .qm _ | .qb _ => .n64
  | r => (w.tagOf r).getD f.fmt

/-- Elements of FMT as a move delivers them: under A = 1 a permissible result of each element (R342). -/
def Env.moved (e : Env) (f : LForm) (l : Fin 64) (x : W64) : W64 :=
  if f.a then ofEls f.fmt fun j => (ffmtOf f.fmt).permit (el f.fmt x j) (e.free l j) (e.dOf (ffmtOf f.fmt)) else x

def movBody (f : LForm) (e : Env) : Effect :=
  let o := Opnd.any f.src0 f.fmt
  e.run { RegIns.of f [o] (mkLanes fun l => (e.moved f l (e.w.src o f.imm l), 0)) with
    tag := e.w.moveTag f, draws := draws f.a }

def movLeek (f : LForm) (e : LeekEnv) : Effect := e.run f (e.l.src f.fmt f.src0 f.imm)

def execMov (f : LForm) (s : State) : Host.Outcome State Fault Refusal := issue (.l .mov f) s (movBody f) (movLeek f)

/-- The short form's fields in form L (R40): MOV.B32 of one vector register. -/
def movShortForm (a d : Fin 256) : LForm :=
  { sub := 0, pneg := false, pred := 0, src2 := .zero, src1 := .zero, src0 := .v a, dst := .v d, fmt := .b32, nw := false
    a := false, imm := none }

def execMovShort (a d : Fin 256) (s : State) : Host.Outcome State Fault Refusal :=
  issue (.sr .mov 0 a d) s (movBody (movShortForm a d)) noLeek

/-! ### Special registers (R27) -/

/-- The current ratio of a warp's slice (R27). -/
def Env.sliceRatio (e : Env) : Nat :=
  (((e.s.cluster e.g.cluster).slices.toArray.toList.getD e.w.slice { ratio := 8, eighths := 0 }).ratio).toNat

/-- The partition's approximate storage level (R31). -/
def Env.apxst (e : Env) : Nat := ((e.s.part? (partOf e.c.id)).map fun p => p.apxst.toNat).getD 0

/-- The value of a special register of a warp, sampled at issue (R27, R30). -/
def Env.special (e : Env) (n : Nat) (l : Fin 64) : W64 :=
  match n with
  | 0x00 => BitVec.ofNat 64 l.val
  | 0x01 => 64
  | 0x02 => BitVec.ofNat 64 e.w.id
  | 0x03 => BitVec.ofNat 64 e.g.desc.gwarps
  | 0x04 => BitVec.ofNat 64 e.g.groupId
  | 0x05 => BitVec.ofNat 64 e.g.groups
  | 0x06 => BitVec.ofNat 64 e.g.spanId
  | 0x07 => e.g.podAddr
  | 0x08 => BitVec.ofNat 64 e.g.cluster
  | 0x09 => BitVec.ofNat 64 e.w.slice
  | 0x0A => BitVec.ofNat 64 (e.s.clock % 2 ^ 32)
  | 0x0B => BitVec.ofNat 64 (e.s.clock / 2 ^ 32 % 2 ^ 32)
  | 0x0C => BitVec.ofNat 64 e.sliceRatio
  | 0x0D => e.g.level.setWidth 64
  | 0x0E => e.w.flags.setWidth 64
  | 0x0F => e.w.round.setWidth 64
  | 0x10 => zx64 (lo32 e.w.dead)
  | 0x11 => zx64 (hi32 e.w.dead)
  | 0x12 => BitVec.ofNat 64 e.w.join.length
  | 0x13 => e.w.sigw.setWidth 64
  | 0x14 => BitVec.ofNat 64 e.apxst
  | 0x18 => zx64 e.w.tsw
  | 0x19 => e.w.tpc
  | 0x1A => e.w.taddr
  | 0x1B => e.w.tfirst
  | 0x1C => e.w.tlanes
  | 0x1D => e.c.trapBase
  | 0x1E => (e.s.cluster e.g.cluster).level.setWidth 64
  | 0x20 => e.g.scrBase
  | 0x21 => BitVec.ofNat 64 e.g.desc.scrSize
  | 0x22 => e.g.desc.brecBase
  | 0x23 => e.c.ovft.setWidth 64
  | _ => 0

/-- The value of a special register that a Leek thread may read (R109). -/
def LeekEnv.special (e : LeekEnv) (n : Nat) : W64 :=
  match n with
  | 0x08 => BitVec.ofNat 64 e.g.cluster
  | 0x0A => BitVec.ofNat 64 (e.s.clock % 2 ^ 32)
  | 0x0B => BitVec.ofNat 64 (e.s.clock / 2 ^ 32 % 2 ^ 32)
  | 0x0C => 8
  | 0x1E => (e.s.cluster e.g.cluster).level.setWidth 64
  | 0x20 => e.g.scrBase
  | 0x21 => BitVec.ofNat 64 e.g.desc.scrSize
  | 0x22 => e.g.desc.brecBase
  | _ => 0

/-- MOVS tags a vector destination N32, or N64 under FMT 13 (R109). -/
def movsBody (f : LForm) (e : Env) : Effect :=
  let n := (f.imm.getD 0).toNat
  e.run { RegIns.of f [] (mkLanes fun l => (e.special n l, 0)) with tag := if f.fmt.wide then .n64 else .n32 }

def movsLeek (f : LForm) (e : LeekEnv) : Effect := e.run f (e.special (f.imm.getD 0).toNat)

def execMovs (f : LForm) (s : State) : Host.Outcome State Fault Refusal := issue (.l .movs f) s (movsBody f) (movsLeek f)

end Sys2Proof.Machine
end

