-- ==== Sys2Proof/Machine/Modular.lean ====
section
/-!
DEFINITION. Modular arithmetic and the butterfly network (R131 to R145). Warp-only (R67).
-/

namespace Sys2Proof.Machine

/-! ### The helpers of R137 to R139 -/

/-- A residue and whether it was left at or above the modulus. -/
abbrev QRes := Nat × Bool

/-- The bit length of a modulus (R135). -/
def bitLen (q : Nat) : Nat := Nat.log2 q + 1

/-- One conditional subtraction. -/
def subOnce (r q : Nat) : Nat := if q ≤ r then r - q else r

/-- `qred128` (R137). -/
def qred128 (q m x : Nat) : QRes :=
  let bq := bitLen q
  let t := x / 2 ^ (bq - 2) * m / 2 ^ (bq + 2)
  let r := wrapTo 64 ((x : Int) - (t * q : Nat))
  let r := subOnce (subOnce r q) q
  (r, q ≤ r)

/-- `qadd` and `qsub` to the r of R139. -/
def qaddR (q a b : Nat) : QRes :=
  let r := subOnce (a + b) q % 2 ^ 64
  (r, q ≤ r)
def qsubR (q a b : Nat) : QRes :=
  let s : Int := (a : Int) - b
  let r := wrapTo 64 (if s < 0 then s + q else s)
  (r, q ≤ r)

/-- `QSHOUP` (R138). -/
def qshoupR (q a w wc : Nat) : QRes :=
  let hi := a * wc / 2 ^ 64
  let r := subOnce (wrapTo 64 (((a * w : Nat) : Int) - (hi * q : Nat))) q
  (r, q ≤ r)

/-! ### The common form (R131, R133) -/

/-- The modulus number of an instruction. -/
def modNo (f : LForm) : Fin 4 := ⟨f.sub.toNat % 4, by omega⟩

/-- The modulus and Barrett constant of a lane. -/
def Env.qAt (e : Env) (f : LForm) (l : Fin 64) : Nat := ((e.w.qm[modNo f])[l]).toNat
def Env.muAt (e : Env) (f : LForm) (l : Fin 64) : Nat := ((e.w.qb[modNo f])[l]).toNat

/-- The modulus that an instruction reads in each lane, and with it the Barrett constant where it reduces a product (R137). -/
def qUse (f : LForm) : List Opnd := [Opnd.any (.qm (modNo f)) .n64]
def muUse (f : LForm) : List Opnd := [Opnd.any (.qm (modNo f)) .n64, Opnd.any (.qb (modNo f)) .n64]

/-- The value faults of a modular opcode: a bad modulus in an executing lane, where no error stands in it; under escalation, a QBAD that the instruction
would set, so one of a lane that its operands do not kill (R131, R133). -/
def Env.modFault (e : Env) (f : LForm) (os : List Opnd) (bad : Lanes Bool) : Option (Cause × Mask) :=
  match laneFault .illegal (e.sound (qUse f)) fun l => e.qAt f l < 2 with
  | some x => some x
  | none => if e.c.qbadEsc then laneFault .qbad (e.sound os) fun l => bad[l] else none

/-- Q64 sources. A modular register as a source carries no tag (R14, R19, R36). -/
def qOs (f : LForm) : List Opnd := [Opnd.of f.src0 .q64, Opnd.of f.src1 .q64, Opnd.of f.src2 .q64]

/-- A modular operation with one destination: it reads three values, q and m, in each lane; `mods` says whether it uses m. -/
def modBody (os mods : LForm → List Opnd) (op : Nat → Nat → Nat → Nat → Nat → QRes) (f : LForm) (e : Env) : Effect :=
  let srcs := os f ++ mods f
  let x := srcAt e.w f.imm srcs
  let r : Lanes QRes := mkLanes fun l => op (e.qAt f l) (e.muAt f l) (x 0 l).toNat (x 1 l).toNat (x 2 l).toNat
  e.run { RegIns.of f srcs (mkLanes fun l => (BitVec.ofNat 64 (r[l]).1, if (r[l]).2 then flagQBAD else 0)) with
    wide := true, tag := .q64, faults := e.modFault f srcs (mkLanes fun l => (r[l]).2) }

def qmulBody := modBody qOs muUse fun q m a b _ => qred128 q m (a * b)
def execQmul (f : LForm) (s : State) : Host.Outcome State Fault Refusal := issue (.l .qmul f) s (qmulBody f) noLeek

def qmacBody := modBody qOs muUse fun q m a b c => qred128 q m (a * b + c)
def execQmac (f : LForm) (s : State) : Host.Outcome State Fault Refusal := issue (.l .qmac f) s (qmacBody f) noLeek

def qaddBody := modBody qOs qUse fun q _ a b _ => qaddR q a b
def execQadd (f : LForm) (s : State) : Host.Outcome State Fault Refusal := issue (.l .qadd f) s (qaddBody f) noLeek

def qsubBody := modBody qOs qUse fun q _ a b _ => qsubR q a b
def execQsub (f : LForm) (s : State) : Host.Outcome State Fault Refusal := issue (.l .qsub f) s (qsubBody f) noLeek

def qnegBody := modBody qOs qUse fun q _ a _ _ => qsubR q 0 a
def execQneg (f : LForm) (s : State) : Host.Outcome State Fault Refusal := issue (.l .qneg f) s (qnegBody f) noLeek

/-- QRED reads N64 and never sets QBAD (R140). -/
def qredBody := modBody (fun f => [Opnd.of f.src0 .n64]) qUse fun q _ a _ _ => (a % q, false)
def execQred (f : LForm) (s : State) : Host.Outcome State Fault Refusal := issue (.l .qred f) s (qredBody f) noLeek

/-- QSHOUP's companion is N64 (R138). -/
def qshoupBody := modBody (fun f => [Opnd.of f.src0 .q64, Opnd.of f.src1 .q64, Opnd.of f.src2 .n64]) qUse
  fun q _ a w wc => qshoupR q a w wc
def execQshoup (f : LForm) (s : State) : Host.Outcome State Fault Refusal := issue (.l .qshoup f) s (qshoupBody f) noLeek

/-! ### QSET (R136) -/

/-- New contents of a modular register in the executing lanes; a lane that an error kills takes zero (R18). -/
def qput (old : Lanes W64) (eff kill : Mask) (x : Fin 64 → W64) : Lanes W64 :=
  mkLanes fun l => if eff.getLsbD l then (if kill.getLsbD l then 0 else x l) else old[l]

/-- Errors that a write of a modulus and its Barrett constant in some lanes clears (R405). -/
def clearModulus (bad : List BadReg) (n : Nat) (m : Mask) : List BadReg :=
  bad.filter fun b => match b with
    | .qm k l _ | .qb k l _ => !(k == n && m.getLsbD l)
    | _ => true

def qsetBody (f : LForm) (e : Env) : Effect :=
  let os := [Opnd.of f.src0 .n64, Opnd.of f.src1 .n64]
  let x := srcAt e.w f.imm os
  match e.w.operandFault e.g.desc.apxFrom f.a os [] [] with
  | some c => e.early c
  | none =>
    match laneFault .illegal (e.sound os) fun l => (x 0 l).toNat < 2 || 2 ^ 62 ≤ (x 0 l).toNat with
    | some (c, m) => .fault c 0 m
    | none =>
      let (kill, source) := e.w.operandKills os e.eff
      let n := modNo f
      let w := { e.w with
        qm := e.w.qm.set n (qput e.w.qm[n] e.eff kill (x 0)), qb := e.w.qb.set n (qput e.w.qb[n] e.eff kill (x 1))
        bad := clearModulus e.w.bad n.val e.eff }
      .done ((e.put w).killLanes e.c e.g e.w kill source 0)
def execQset (f : LForm) (s : State) : Host.Outcome State Fault Refusal := issue (.l .qset f) s (qsetBody f) noLeek

/-! ### In-place opcodes (R141 to R143) -/

/-- Write SRC0's register, then DST's with one shift of the latches (R142). -/
def Env.putBoth (e : Env) (f : LForm) (kill : Mask) (a b : Fin 64 → W64) : Option Warp :=
  match f.dst, f.src0 with
  | .v da, .v db =>
    let wr (v : Fin 64 → W64) : VecWrite :=
      { eff := e.eff, sel := e.sel, kill := kill, vals := v, wide := f.fmt.wide, tag := f.fmt, a := f.a, nw := f.nw }
    (e.w.writeVec db.val (wr b)).bind fun w => w.commitVec da.val (wr a)
  | _, _ => none

/-- Write of NPERM: a lane writes its register B where `low` holds, else its register A, and the other keeps its value and
its errors (R143, R405). So is the zero of a dead or killed lane: R145 names its own destination, where R142 writes two (DESIGN
CHOICE, notes/assumptions/12.md). -/
def Env.putSplit (e : Env) (f : LForm) (kill low : Mask) (a b : Fin 64 → W64) : Option Warp :=
  match f.dst, f.src0 with
  | .v da, .v db =>
    let wr (m : Mask) (v : Fin 64 → W64) : VecWrite :=
      { eff := e.eff &&& m, sel := e.sel &&& m, kill := kill, vals := v, wide := f.fmt.wide, tag := f.fmt, a := f.a, nw := f.nw }
    (e.w.writeVec db.val (wr low b)).bind fun w => w.commitVec da.val (wr (~~~low) a)
  | _, _ => none

/-- An in-place instruction: its value fault, its kills, the warp with its two results written, and its flags. -/
def Env.runBoth (e : Env) (f : LForm) (os : List Opnd) (faults : Option (Cause × Mask)) (kills : Mask × Nat)
    (put : Option Warp) (flags : Lanes (W64 × Byte)) : Effect :=
  match e.w.operandFault e.g.desc.apxFrom f.a os [] [f.dst, f.src0] with
  | some c => e.early c
  | none =>
    match (if e.eff = 0 then none else faults) with
    | some (c, m) => .fault c 0 m
    | none =>
      match put with
      | none => .wait e.s .speculation
      | some w =>
        .done ((e.put (w.setFlags (orFlags (e.eff &&& ~~~kills.1) flags))).killLanes e.c e.g e.w kills.1 kills.2 0)

/-- A butterfly: the two results of a lane from a, b and w. -/
def butterflyBody (op : Nat → Nat → Nat → Nat → Nat → QRes × QRes) (f : LForm) (e : Env) : Effect :=
  let os := [Opnd.of f.dst .q64, Opnd.of f.src0 .q64, Opnd.of f.src1 .q64] ++ muUse f
  let x := srcAt e.w f.imm os
  let r : Lanes (QRes × QRes) :=
    mkLanes fun l => op (e.qAt f l) (e.muAt f l) (x 0 l).toNat (x 1 l).toNat (x 2 l).toNat
  let bad : Lanes Bool := mkLanes fun l => (r[l]).1.2 || (r[l]).2.2
  let kills := e.w.operandKills os e.eff
  e.runBoth f os (e.modFault f os bad) kills
    (e.putBoth f kills.1 (fun l => BitVec.ofNat 64 (r[l]).1.1) fun l => BitVec.ofNat 64 (r[l]).2.1)
    (mkLanes fun l => (0, if bad[l] then flagQBAD else 0))

/-- QBFCT; QBAD of any of its helpers counts (R141). -/
def qbfctR (q m a b w : Nat) : QRes × QRes :=
  let p := qred128 q m (b * w)
  let x := qaddR q a p.1
  let y := qsubR q a p.1
  ((x.1, x.2 || p.2), y)

/-- QBFGS. -/
def qbfgsR (q m a b w : Nat) : QRes × QRes :=
  let d := qsubR q a b
  let y := qred128 q m (d.1 * w)
  (qaddR q a b, (y.1, y.2 || d.2))

def execQbfct (f : LForm) (s : State) : Host.Outcome State Fault Refusal :=
  issue (.l .qbfct f) s (butterflyBody qbfctR f) noLeek
def execQbfgs (f : LForm) (s : State) : Host.Outcome State Fault Refusal :=
  issue (.l .qbfgs f) s (butterflyBody qbfgsR f) noLeek

/-! ### Lane movement (R143 to R145) -/

/-- Lane i xor d. -/
def laneXor (l : Fin 64) (d : Nat) : Fin 64 := ⟨(l.val ^^^ d) % 64, by omega⟩

/-- The lanes of a mask that consume an error in the element they take from another lane (R18). -/
def Env.movedKills (e : Env) (o : Opnd) (part : Fin 64 → Option (Fin 64)) : Mask :=
  let bad := e.w.badIn o
  if bad = 0 then 0
  else maskOf fun i => if h : i < 64 then e.eff.getLsbD i && (part ⟨i, h⟩).any (fun p => bad.getLsbD p && !e.w.dead.getLsbD p) else false

/-- NPERM (R143). -/
def npermBody (f : LForm) (e : Env) : Effect :=
  let a := Opnd.of f.dst f.fmt
  let b := Opnd.of f.src0 f.fmt
  let dd := 64 >>> f.sub.toNat
  let low (l : Fin 64) : Bool := l.val &&& dd == 0
  let read (o : Opnd) (l : Fin 64) : W64 := if e.w.dead.getLsbD l then 0 else e.w.src o f.imm l
  let kill := e.movedKills a (fun l => if low l then some (laneXor l dd) else none)
    ||| e.movedKills b (fun l => if low l then none else some (laneXor l dd))
  let source := if kill = 0 then 0 else 1
  e.runBoth f [a, b] none (kill, source)
    (e.putSplit f kill (maskOf fun i => i &&& dd == 0) (fun l => read b (laneXor l dd)) fun l => read a (laneXor l dd))
    (mkLanes fun l => (0, if e.w.dead.getLsbD (laneXor l dd) then flagSHDEAD else 0))
def execNperm (f : LForm) (s : State) : Host.Outcome State Fault Refusal := issue (.l .nperm f) s (npermBody f) noLeek

/-- The lane that LBREV reads for spans of m (R144). -/
def brevLane (m : Nat) (l : Fin 64) : Fin 64 :=
  ⟨(l.val / m * m + brevEl (Nat.log2 m) (l.val % m)) % 64, by omega⟩

/-- LBREV (R144). -/
def lbrevBody (f : LForm) (e : Env) : Effect :=
  let a := Opnd.of f.src0 f.fmt
  let so := Opnd.any f.src1 .n32
  let m := (e.w.uni f.src1 f.imm .n32).toNat
  let part (l : Fin 64) : Fin 64 := brevLane m l
  let (unif, _) := e.w.operandKills [so] e.eff
  let kill := unif ||| e.movedKills a fun l => some (part l)
  let source := match f.src0 with
    | .latch _ => if unif = 0 then 6 else 1
    | _ => 1
  e.runKill { RegIns.of f [a, so] (mkLanes fun l =>
      if e.w.dead.getLsbD (part l) then (0, flagSHDEAD) else (e.w.src a f.imm (part l), 0)) with
    faults := if isPow64 m || e.sound [so] == 0 then none else some (.illegal, e.eff) } (kill, source)
def execLbrev (f : LForm) (s : State) : Host.Outcome State Fault Refusal := issue (.l .lbrev f) s (lbrevBody f) noLeek

end Sys2Proof.Machine
end

