-- ==== Sys2Proof/Machine/CrossLane.lean ====
section
/-!
DEFINITION. The cross-lane instructions (R87, R88, R192 to R196). Warp-only (R67).
-/

namespace Sys2Proof.Machine

/-! ### SHFL (R193) -/

/-- The partner of a lane under a mode, from the lane operand. -/
def shflLane (mode b : Nat) (l : Fin 64) : Fin 64 :=
  match mode with
  | 0 => ⟨b % 64, by omega⟩
  | 1 => if b ≤ l.val then ⟨l.val - b, by omega⟩ else l
  | 2 => if h : l.val + b < 64 then ⟨l.val + b, h⟩ else l
  | 3 => laneXor l (b % 64)
  | _ => laneXor l (64 >>> b)

def shflBody (f : LForm) (e : Env) : Effect :=
  let a := Opnd.any f.src0 f.fmt
  let bo := Opnd.any f.src1 .b32
  let part (l : Fin 64) : Fin 64 := shflLane f.sub.toNat (e.w.src bo f.imm l).toNat l
  let b0 := (e.w.src bo f.imm 0).toNat
  let (own, _) := e.w.operandKills [bo] e.eff
  let kill := own ||| e.movedKills a fun l => some (part l)
  let source := match f.src0 with
    | .latch _ => 6
    | _ => 1
  e.runKill { RegIns.of f [a, bo] (mkLanes fun l =>
      if e.w.dead.getLsbD (part l) then (0, flagSHDEAD) else (e.moved f l (e.w.src a f.imm (part l)), 0)) with
    never := [f.src1], tag := (e.w.tagOf f.src0).getD f.fmt, draws := draws f.a
    faults := if f.sub.toNat = 4 && (b0 == 0 || 6 < b0) && e.sound [bo] != 0 then some (.illegal, e.eff) else none } (kill, source)
def execShfl (f : LForm) (s : State) : Host.Outcome State Fault Refusal := issue (.l .shfl f) s (shflBody f) noLeek

/-! ### VOTE (R194) -/

def voteBody (f : LForm) (e : Env) : Effect :=
  let ks := match f.src0 with
    | .k n => e.w.kmask n &&& e.eff
    | _ => 0
  let r : W64 := match f.sub.toNat with
    | 0 => if ks = e.eff then 1 else 0
    | 1 => if ks = 0 then 0 else 1
    | 2 => if ks = 0 ∨ ks = e.eff then 1 else 0
    | _ => ks
  e.run { RegIns.of f [] (mkLanes fun _ => (r, 0)) with wide := f.sub.toNat = 3 }
def execVote (f : LForm) (s : State) : Host.Outcome State Fault Refusal := issue (.l .vote f) s (voteBody f) noLeek

/-! ### REDLOG and SCANLOG (R87, R88, R195) -/

/-- A lane's contribution; absent lanes have none. -/
abbrev Present := Option W64

/-- The operation of SUB on one element (R58, R195). -/
def redEl (f : LForm) (ovft : BitVec 16) (x y : Nat) : FRes :=
  let w := (elemOf f.fmt).1
  match f.sub.toNat with
  | 0 => (wrapTo w (elInt f.fmt x + elInt f.fmt y), 0)
  | 1 => (wrapTo w (min (elInt f.fmt x) (elInt f.fmt y)), 0)
  | 2 => (wrapTo w (max (elInt f.fmt x) (elInt f.fmt y)), 0)
  | 3 => (x &&& y, 0)
  | 4 => (x ||| y, 0)
  | 5 => (x ^^^ y, 0)
  | 12 => ((ffmtOf f.fmt).minC x y, 0)
  | 13 => ((ffmtOf f.fmt).maxC x y, 0)
  | n => (ffmtOf f.fmt).addC x y (Rm.of n) ovft

/-- `combine` (R87): the operation on each element, each delivered under the A bit by a free value of its own (R340). -/
def Env.combine (e : Env) (f : LForm) (n : Nat) (a b : Present) : Present × Byte :=
  match a, b with
  | none, y => (y, 0)
  | x, none => (x, 0)
  | some x, some y =>
    let r := gather f.fmt fun j =>
      let r := redEl f e.ovft (el f.fmt x j) (el f.fmt y j)
      if f.a then
        ((ffmtOf f.fmt).permit r.1 (Config.freeBits (e.s.fresh + 2 * n + j)).toNat (e.dOf (ffmtOf f.fmt)), r.2)
      else r
    (some r.1, r.2)

/-- One lane of a list of lanes. -/
def atLane (v : List Present) (i : Nat) : Present := (v[i]?).getD none

/-- One level of REDLOG: lanes i and i + d both take their combination. Pairs whose lanes are congruent modulo d hold equal
inputs, and have one combination: every lane ends with one value (R87, R195). -/
def Env.redLevel (e : Env) (f : LForm) (j d : Nat) (v : List Present) : List Present × Byte :=
  let c := (List.range 64).map fun i => if i &&& d = 0 then e.combine f (64 * j + i % d) (atLane v i) (atLane v (i + d)) else (none, 0)
  ((List.range 64).map fun i => (c.getD (i - (i &&& d)) (none, 0)).1, c.foldl (fun a x => a ||| x.2) 0)

/-- REDLOG's tree: d = 32, 16, 8, 4, 2, 1. -/
def Env.reduce (e : Env) (f : LForm) (v : List Present) : List Present × Byte :=
  [0, 1, 2, 3, 4, 5].foldl (fun a j =>
    let r := e.redLevel f j (32 >>> j) a.1
    (r.1, a.2 ||| r.2)) (v, 0)

/-- One level of SCANLOG on totals and prefixes. The totals of a pair hold the same two inputs, and under A = 1 they draw one
shared value: the spec does not say whether R88's two combinations deliver one value or two (DESIGN CHOICE,
notes/assumptions/2.md). -/
def Env.scanLevel (e : Env) (f : LForm) (j d : Nat) (tot pre : List Present) : List Present × List Present × Byte :=
  let p := (List.range 64).map fun i =>
    if i &&& d = 0 then (atLane pre i, 0) else e.combine f (128 * j + i) (atLane tot (i - d)) (atLane pre i)
  let c := (List.range 64).map fun i =>
    if i &&& d = 0 then e.combine f (128 * j + 64 + i) (atLane tot i) (atLane tot (i + d)) else (none, 0)
  ((List.range 64).map fun i => (c.getD (i - (i &&& d)) (none, 0)).1, p.map Prod.fst,
    (p ++ c).foldl (fun a x => a ||| x.2) 0)

/-- SCANLOG's tree: d = 1, 2, 4, 8, 16, 32. -/
def Env.scan (e : Env) (f : LForm) (v : List Present) : List Present × Byte :=
  let r := [0, 1, 2, 3, 4, 5].foldl (fun a j =>
    let r := e.scanLevel f j (1 <<< j) a.1 a.2.1
    (r.1, r.2.1, a.2.2 ||| r.2.2)) (v, v, (0 : Byte))
  (r.2.1, r.2.2)

/-- What a lane brings to a tree: under a floating SUB a NaN is canonical, also where no other lane is combined with it (R72). -/
def treeIn (f : LForm) (x : W64) : W64 :=
  if f.sub.toNat < 8 then x
  else ofEls f.fmt fun j => if ((ffmtOf f.fmt).decode (el f.fmt x j)).isNan then (ffmtOf f.fmt).canon else el f.fmt x j

/-- A reduction or scan of the lanes of the effective mask that their operand does not kill. -/
def treeBody (tree : Env → LForm → List Present → List Present × Byte) (n : Nat) (f : LForm) (e : Env) : Effect :=
  let o := Opnd.of f.src0 f.fmt
  let kills := e.w.operandKills [o] e.eff
  let part := e.eff &&& ~~~kills.1
  let v := (mkLanes fun l => if part.getLsbD l then some (treeIn f (e.w.src o f.imm l)) else none).toList
  let r := tree e f v
  -- a scalar destination takes the value that every lane holds
  e.runKill { RegIns.of f [o] (mkLanes fun l => ((atLane r.1 l.val).getD 0, r.2)) with
    draws := if f.a then n else 0 } kills

def execRedlog (f : LForm) (s : State) : Host.Outcome State Fault Refusal :=
  issue (.l .redlog f) s (treeBody Env.reduce 768 f) noLeek
def execScanlog (f : LForm) (s : State) : Host.Outcome State Fault Refusal :=
  issue (.l .scanlog f) s (treeBody Env.scan 1536 f) noLeek

/-! ### MATCH (R196) -/

/-- Whether a vector source's tag is of another width than FMT (R196). -/
def Warp.widthBad (w : Warp) (r : Reg) (wide : Bool) : Bool :=
  match r with
  | .v n => (w.vreg n.val).tag.wide != wide || (wide && (w.vreg (n.val + 1)).tag.wide != wide)
  | _ => false

def matchBody (f : LForm) (e : Env) : Effect :=
  let o := Opnd.any f.src0 f.fmt
  let kills := e.w.operandKills [o] e.eff
  let part := Mask.lanes (e.eff &&& ~~~kills.1)
  if e.w.widthBad f.src0 f.fmt.wide then e.early .tag
  else e.runKill { RegIns.of f [o] (mkLanes fun l =>
      (part.foldl (fun m j => if e.w.src o f.imm j = e.w.src o f.imm l then m ||| BitVec.ofNat 64 (2 ^ j.val) else m) 0, 0)) with
    wide := true, tag := .n64 } kills
def execMatchLanes (f : LForm) (s : State) : Host.Outcome State Fault Refusal :=
  issue (.l .matchLanes f) s (matchBody f) noLeek

end Sys2Proof.Machine
end

