-- ==== Sys2Proof/Machine/Control.lean ====
section
/-!
DEFINITION. Control flow, the execution mask, hints and unassigned opcodes (R56, R178 to R191).
-/

namespace Sys2Proof.Machine

/-! ### NOP and BLKEND (R187) -/

def execNop (f : LForm) (s : State) : Host.Outcome State Fault Refusal :=
  issue (.l .nop f) s (fun e => .done e.s) (fun e => .done e.s)

def execNopShort (s : State) : Host.Outcome State Fault Refusal :=
  issue (.sb .nop 0 false 0) s (fun e => .done e.s) (fun e => .done e.s)

/-- BLKEND makes only its signature check (R55, R187). -/
def execBlkend (f : BForm) (s : State) : Host.Outcome State Fault Refusal :=
  issue (.b .blkend f) s (fun e => .done e.s) noLeek

/-! ### Directions and targets (R42, R179, R180) -/

/-- A target of a word offset from an instruction's first byte (R42). -/
def relTarget {n : Nat} (pc : W64) (off : BitVec n) : W64 := pc + (off.signExtend 64 <<< 2)

/-- The lanes that take a transfer. -/
def Env.taken (e : Env) (pneg : Bool) (pred : Fin 8) : Mask := e.live &&& e.w.predMask pneg pred

/-- Whether a transfer goes; none where the live lanes differ (R179). -/
def Env.direction (e : Env) (pneg : Bool) (pred : Fin 8) : Option Bool :=
  let t := e.taken pneg pred
  if e.live = 0 then some (pred = 0 && !pneg) else if t = e.live then some true else if t = 0 then some false else none

/-- The address after an instruction of `n` bytes. -/
def Env.next (e : Env) (n : Nat) : W64 := e.w.pc + BitVec.ofNat 64 n

/-- Push an entry: JOINOVF at 32 (R21). -/
def Warp.push (w : Warp) (x : JoinEntry) : Option Warp :=
  if w.join.length < 32 then some { w with join := x :: w.join } else none

/-- BRA of `n` bytes (R179). Where the entry of a divergent branch finds no room, TLANES is EXEC and not DEAD: the spec does not
say whether it is those lanes or the ones that branch (DESIGN CHOICE, notes/assumptions/34.md). -/
def braBody (n : Nat) (target : W64) (u pneg : Bool) (pred : Fin 8) (e : Env) : Effect :=
  match e.direction pneg pred with
  | some go => .flow e.s (if go then target else e.next n) []
  | none =>
    let t := e.taken pneg pred
    if u then .fault .illegal 0 t
    else match e.w.push (.path target t) with
      | none => .fault .joinovf 0 e.live
      | some w => .flow (e.put { w with exec := w.exec &&& ~~~t }) (e.next n) [0x01]

/-- A branch on the Leek core (R181). -/
def braLeek (n : Nat) (target : W64) (pneg : Bool) (pred : Fin 8) (e : LeekEnv) : Effect :=
  .flow e.s (if e.l.takes pneg pred then target else e.l.pc + BitVec.ofNat 64 n) []

def execBra (f : BForm) (s : State) : Host.Outcome State Fault Refusal :=
  issue (.b .bra f) s (fun e => braBody 8 (relTarget e.w.pc f.offset) f.u f.pneg f.pred e)
    (fun e => braLeek 8 (relTarget e.l.pc f.offset) f.pneg f.pred e)

def execBraShort (off : BitVec 18) (pneg : Bool) (pred : Fin 8) (s : State) : Host.Outcome State Fault Refusal :=
  issue (.sb .bra off pneg pred) s (fun e => braBody 4 (relTarget e.w.pc off) false pneg pred e)
    (fun e => braLeek 4 (relTarget e.l.pc off) pneg pred e)

/-- A uniform transfer (R180): ILLEGAL where the live lanes differ, MISALIGN where it goes to a misaligned target, the link
written where it goes. A scalar operand in error kills the lanes that execute it (R18). -/
def transferBody (target : W64) (link : Bool) (os : List Opnd) (pneg : Bool) (pred : Fin 8) (e : Env) : Effect :=
  match e.direction pneg pred with
  | none => .fault .illegal 0 (e.taken pneg pred)
  | some false => .flow e.s (e.next 8) []
  | some true =>
    if target.toNat % 4 ≠ 0 then .fault .misalign target e.live
    else
      let (kill, source) := e.w.operandKills os e.eff
      let w := if link then e.w.writeS 14 true (e.next 8) else e.w
      .flow ((e.put w).killLanes e.c e.g e.w kill source 0) target []

/-- A transfer on the Leek core; the link is g31. -/
def transferLeek (target : W64) (link pneg : Bool) (pred : Fin 8) (e : LeekEnv) : Effect :=
  let next := e.l.pc + 8
  if e.l.takes pneg pred then
    if target.toNat % 4 ≠ 0 then .fault .misalign target 1
    else .flow (if link then e.put (e.l.writeG (.g 31) next) else e.s) target []
  else .flow e.s next []

/-- The operand of BRX and CALLX. -/
def brxOpnd (f : LForm) : Opnd := Opnd.any f.src0 .n64

def execBrx (f : LForm) (s : State) : Host.Outcome State Fault Refusal :=
  issue (.l .brx f) s (fun e => transferBody (e.w.uni f.src0 none .n64) false [brxOpnd f] f.pneg f.pred e)
    (fun e => transferLeek (e.l.src .n64 f.src0 none) false f.pneg f.pred e)

def execCall (f : BForm) (s : State) : Host.Outcome State Fault Refusal :=
  issue (.b .call f) s (fun e => transferBody (relTarget e.w.pc f.offset) true [] f.pneg f.pred e)
    (fun e => transferLeek (relTarget e.l.pc f.offset) true f.pneg f.pred e)

def execCallx (f : LForm) (s : State) : Host.Outcome State Fault Refusal :=
  issue (.l .callx f) s (fun e => transferBody (e.w.uni f.src0 none .n64) true [brxOpnd f] f.pneg f.pred e)
    (fun e => transferLeek (e.l.src .n64 f.src0 none) true f.pneg f.pred e)

def execRet (f : BForm) (s : State) : Host.Outcome State Fault Refusal :=
  issue (.b .ret f) s (fun e => transferBody (e.w.spair 14) false [Opnd.any (.s 14) .n64] f.pneg f.pred e)
    (fun e => transferLeek (e.l.greg 31) false f.pneg f.pred e)

/-! ### The join stack (R182 to R184) -/

/-- MARK of `n` bytes (R182). -/
def markBody (n : Nat) (target : W64) (e : Env) : Effect :=
  match e.w.push (.rejoin target e.w.exec) with
  | none => .fault .joinovf 0 e.live
  | some w => .flow (e.put w) (e.next n) [0x01]

def execMark (f : BForm) (s : State) : Host.Outcome State Fault Refusal :=
  issue (.b .mark f) s (fun e => markBody 8 (relTarget e.w.pc f.offset) e) noLeek

def execMarkShort (off : BitVec 18) (s : State) : Host.Outcome State Fault Refusal :=
  issue (.sb .mark off false 0) s (fun e => markBody 4 (relTarget e.w.pc off) e) noLeek

/-- The address and mask of an entry. -/
def JoinEntry.addr : JoinEntry → W64
  | .rejoin a _ => a
  | .path a _ => a
def JoinEntry.mask : JoinEntry → Mask
  | .rejoin _ m => m
  | .path _ m => m

/-- JOIN (R183); every JOIN invalidates the latches (R49). -/
def joinBody (e : Env) : Effect :=
  match e.w.join with
  | [] => .fault .joinovf 0 e.live
  | x :: rest => .flow (e.put { e.w.dropLatches with exec := x.mask, join := rest }) x.addr [0x02]

def execJoin (f : BForm) (s : State) : Host.Outcome State Fault Refusal := issue (.b .join f) s joinBody noLeek

def execJoinShort (s : State) : Host.Outcome State Fault Refusal := issue (.sb .join 0 false 0) s joinBody noLeek

/-- An entry without some lanes. -/
def JoinEntry.without (x : Mask) : JoinEntry → JoinEntry
  | .rejoin a m => .rejoin a (m &&& ~~~x)
  | .path a m => .path a (m &&& ~~~x)

/-- The loop of R184: pop while no live lane remains; the entries popped, and where it goes on if it does. -/
def unwind (dead : Mask) : Mask → W64 → List JoinEntry → Nat × Option (Mask × W64 × List JoinEntry)
  | exec, pc, [] => (0, if exec &&& ~~~dead = 0 then none else some (exec, pc, []))
  | exec, pc, x :: rest =>
    if exec &&& ~~~dead = 0 then
      let r := unwind dead x.mask x.addr rest
      (r.1 + 1, r.2)
    else (0, some (exec, pc, x :: rest))

/-- EXIT of `n` bytes (R184, R185). -/
def exitBody (n : Nat) (pneg : Bool) (pred : Fin 8) (e : Env) : Effect :=
  let x := e.taken pneg pred
  let exec := e.w.exec &&& ~~~x
  let join := e.w.join.map (JoinEntry.without x)
  let r := unwind e.w.dead exec (e.next n) join
  let marks := List.replicate r.1 (0x02 : Byte)
  match r.2 with
  | some (exec', pc, join') => .flow (e.put { e.w with exec := exec', join := join' }) pc marks
  | none => if e.w.spec.isSome then .wait e.s .speculation else .exits (e.put { e.w with exec := 0, join := [] }) marks

def execExit (f : BForm) (s : State) : Host.Outcome State Fault Refusal :=
  issue (.b .exit f) s (exitBody 8 f.pneg f.pred) noLeek

def execExitShort (pneg : Bool) (pred : Fin 8) (s : State) : Host.Outcome State Fault Refusal :=
  issue (.sb .exit 0 pneg pred) s (exitBody 4 pneg pred) noLeek

/-! ### The execution mask (R188) -/

def getxBody (f : LForm) (e : Env) : Effect :=
  match f.dst with
  | .k n => .done (e.put (e.w.writeK n (BitVec.allOnes 64) e.w.exec))
  | .s n => .done (e.put (e.w.writeS n.val true e.w.exec))
  | _ => e.early .illegal
def execGetx (f : LForm) (s : State) : Host.Outcome State Fault Refusal := issue (.l .getx f) s (getxBody f) noLeek

def setxBody (f : LForm) (e : Env) : Effect :=
  let x := match f.src0 with
    | .k n => e.w.kmask n
    | r => e.w.uni r none .n64
  let (kill, source) := e.w.operandKills [Opnd.any f.src0 .n64] e.eff
  .done ((e.put { e.w with exec := x }).killLanes e.c e.g e.w kill source 0)
def execSetx (f : LForm) (s : State) : Host.Outcome State Fault Refusal := issue (.l .setx f) s (setxBody f) noLeek

/-! ### Debug and scheduling hints (R189 to R191) -/

def brkBody (e : Env) : Effect := .done (if e.c.debug && e.eff != 0 then e.put { e.w with halted := true } else e.s)
def execBrk (f : LForm) (s : State) : Host.Outcome State Fault Refusal := issue (.l .brk f) s brkBody noLeek

def spinBody (f : LForm) (e : Env) : Effect :=
  let c := (f.imm.getD 1).toNat
  .done (if e.eff = 0 then e.s else
    e.put { e.w with spinUntil := e.s.sliceCycles e.g.cluster e.w.slice + 256 * c })
def execSpin (f : LForm) (s : State) : Host.Outcome State Fault Refusal := issue (.l .spin f) s (spinBody f) noLeek

/-- SLEEP. An error in its duration kills the executing lanes, and the warp still sleeps, or yields, for the stored value: R18
and R191 do not say whether it does (DESIGN CHOICE, notes/assumptions/14.md). -/
def sleepBody (f : LForm) (e : Env) : Effect :=
  let d := (e.w.uni f.src0 f.imm .n32).toNat % 2 ^ 32
  let (kill, source) := e.w.operandKills [Opnd.any f.src0 .n32] e.eff
  let s := e.s.killLanes e.c e.g e.w kill source 0
  if e.eff = 0 then .done s
  else if d = 0 then .done (s.mapWarp e.g.uid e.w.id fun w => { w with yield := true })
  else .rest s (.sleep (e.s.clock + d))
def execSleep (f : LForm) (s : State) : Host.Outcome State Fault Refusal := issue (.l .sleep f) s (sleepBody f) noLeek

/-! ### Unassigned opcodes (R56) -/

def execUnassignedOp (word : W32) (s : State) : Host.Outcome State Fault Refusal := issue (.word word) s noWarp noLeek

end Sys2Proof.Machine
end

