-- ==== Sys2Proof/Machine/Access.lean ====
section
/-!
DEFINITION. What memory instructions share: addresses (R147), the checks over all executing lanes (R148 to R150), the loss
of approximate storage (R328), the errors that accesses consume (R18, R308), the atomic step (R157), and the requests of
remote operations (R160, R161, R407).
-/

namespace Sys2Proof.Machine

/-! ### Addresses (R147) -/

/-- The address operands of an instruction. -/
def addrOs (f : MForm) : List Opnd :=
  Opnd.of f.base .n64 :: (if f.index == .zero then [] else [Opnd.any f.index .b32])

/-- The byte offset of an instruction. -/
def offOf (f : MForm) : W64 := (f.off.getD 0).signExtend 64

/-- The address of a lane; the index counts units of `scale` bytes. -/
def Env.ea (e : Env) (f : MForm) (scale : Nat) (l : Fin 64) : W64 :=
  let idx : W64 := if f.index == .zero then 0
    else extIndex (e.w.indexSigned f.index) (e.w.src (Opnd.any f.index .b32) none l)
  e.w.src (Opnd.any f.base .n64) none l + idx * BitVec.ofNat 64 scale + offOf f

/-- The address of a Leek access. -/
def LeekEnv.ea (e : LeekEnv) (f : MForm) : W64 :=
  let idx : W64 := if f.index == .zero then 0 else extIndex true (e.l.src .b32 f.index none)
  e.l.src .n64 f.base none + idx + offOf f

/-- The operand faults of a memory instruction: addresses are never approximate (R147, R344). -/
def Env.memFault (e : Env) (f : MForm) (data : List Opnd) (dsts : List Reg) : Option Cause :=
  if e.w.indexTagBad f.index then some .tag
  else e.w.operandFault e.g.desc.apxFrom f.a (addrOs f ++ data) [f.base, f.index] dsts

/-- The bytes of a lane's access (R149). -/
def accBytes (f : Fmt) : Nat := if f.wide then 8 else 4

/-! ### Checks (R150) -/

/-- What the checks of all lanes find: one fault, or the place of each lane's access, and the cache entries filled. -/
inductive Checked where
  | bad (e : Effect)
  | ok (acc : List (Fin 64 × W64 × Nat × Bool)) (fill : List TlbEntry)

/-- The worst fault of a list of results. -/
def worstFault (rs : List (Fin 64 × W64 × Resolved)) : Option AddrFault :=
  rs.foldl (fun a r => match r.2.2 with
    | .bad f _ => match a with
      | some x => if f.rank < x.rank then some f else some x
      | none => some f
    | .ok _ _ _ => a) none

/-- The mask of a list of lanes. -/
def laneMask (ls : List (Fin 64)) : Mask := ls.foldl (fun m l => m ||| BitVec.ofNat 64 (2 ^ l.val)) 0

/-- The first of two results: that of the lower lane, then of the lower address. -/
def firstHit (x y : Fin 64 × W64 × Resolved) : Fin 64 × W64 × Resolved :=
  if y.1 < x.1 || (y.1 == x.1 && y.2.1 < x.2.1) then y else x

/-- The one fault that the lanes' results report, at the lowest such lane's lowest address (R150). -/
def reportFault (acc : Access) (rs : List (Fin 64 × W64 × Resolved)) : Option Effect :=
  match worstFault rs with
  | none => none
  | some k =>
    let hit := rs.filter fun r => match r.2.2 with
      | .bad f _ => f == k
      | .ok _ _ _ => false
    let lanes := laneMask (hit.map Prod.fst)
    match hit with
    | [] => none
    | x :: rest =>
      let (_, ea, r) := rest.foldl firstHit x
      match k, r with
      | .absent, .bad _ va => some (.absent va acc ea lanes)
      | _, _ => some (.fault k.cause ea lanes)

/-- The results that passed. -/
def passed (rs : List (Fin 64 × W64 × Resolved)) : List (Fin 64 × W64 × Nat × Bool) :=
  rs.filterMap fun r => match r.2.2 with
    | .ok place apx _ => some (r.1, r.2.1, place, apx)
    | .bad _ _ => none

/-- The cache entries that results fill. -/
def fillsOf (rs : List (Fin 64 × W64 × Resolved)) : List TlbEntry :=
  rs.flatMap fun r => match r.2.2 with
    | .ok _ _ fill => fill
    | .bad _ _ => []

/-- The viewer of a warp. -/
def Env.viewer (e : Env) : Viewer := { ctx := e.c, grp := e.g }
def LeekEnv.viewer (e : LeekEnv) : Viewer := { ctx := e.c, grp := e.g }

/-- Check the accesses of the lanes of a mask. -/
def Env.check (e : Env) (m : Mask) (ea : Fin 64 → W64) (sp : Space) (n : Nat) (acc : Access) (a : Bool) : Checked :=
  let rs := (Mask.lanes m).map fun l => (l, ea l, e.s.resolve e.viewer sp (ea l).toNat n n acc a)
  match reportFault acc rs with
  | some x => .bad x
  | none => .ok (passed rs) (fillsOf rs)

/-! ### Reading (R328, R405) -/

/-- An element format's value as approximate storage returns it: its low D(Ls) mantissa bits are free (R328). -/
def Env.lossy (e : Env) (f : Fmt) (apx : Bool) (l : Fin 64) (x : W64) : W64 :=
  if apx then ofEls f fun j => lowBits (el f x j) (e.free l j) ((ffmtOf f).dBits e.apxst) else x

/-- The errors that the accesses of a warp's lanes consume, each with its lane, source and address, where `error` gives what a read
of a place meets (R18, R308, R405). -/
def State.memErrors (s : State) (error : Nat → Bool → Option Nat) (acc : List (Fin 64 × W64 × Nat × Bool)) :
    List (Mask × Nat × W64) :=
  if s.poison.isEmpty then []
  else acc.filterMap fun x => (error x.2.2.1 x.2.2.2).map fun source => (laneMask [x.1], source, x.2.1)

/-- The lanes of some errors. -/
def errLanes (errs : List (Mask × Nat × W64)) : Mask := errs.foldl (fun m x => m ||| x.1) 0

/-- Kill the lanes of some errors, each error with its record; a lane is killed once (R308). -/
def State.killMasks (s : State) (c : Context) (g : Group) (w : Warp) (live : Mask) : List (Mask × Nat × W64) → State
  | [] => s
  | (m, source, addr) :: rest =>
    State.killMasks (s.killLanes c g w (m &&& live) source addr) c g w (live &&& ~~~m) rest

/-- A value by lane from a list. -/
def laneVal (l : List (Fin 64 × W64)) (i : Fin 64) : W64 := ((l.find? fun x => x.1 == i).map Prod.snd).getD 0

/-- Write a load's result: values by lane, lanes killed by operands and by memory, free values drawn. -/
def Env.deliverLoad (e : Env) (s : State) (w : Warp) (f : MForm) (vals : List (Fin 64 × W64)) (kills : Mask × Nat)
    (errs : List (Mask × Nat × W64)) : Effect :=
  let kill := kills.1 ||| errLanes errs
  match f.data with
  | .v n =>
    match w.commitVec n.val
      { eff := e.eff, sel := e.sel, kill := kill, vals := laneVal vals, wide := f.fmt.wide, tag := f.fmt, a := f.a, nw := false } with
    | none => .wait e.s .speculation
    | some w' =>
      .done (((s.mapWarp e.g.uid e.w.id fun _ => w').killLanes e.c e.g e.w kills.1 kills.2 0).killMasks e.c e.g e.w
        (e.eff &&& ~~~kills.1) errs)
  | _ => e.early .illegal

/-! ### The atomic step (R157, R159) -/

/-- The operation of a SUB value (R63). -/
def atomOf (sub : BitVec 4) : AtomOp :=
  match sub.toNat with
  | 0 => .add
  | 1 => .min
  | 2 => .max
  | 3 => .and
  | 4 => .or
  | 5 => .xor
  | 6 => .xchg
  | _ => .cas

/-- One element of a step. -/
def atomEl (op : AtomOp) (f : Fmt) (ovft : BitVec 16) (x y : Nat) : Nat :=
  match op with
  | .add => if isFloating f then ((ffmtOf f).addC x y .rne ovft).1 else x + y
  | .min => if isFloating f then (ffmtOf f).minC x y else wrapTo (elemOf f).1 (min (elInt f x) (elInt f y))
  | .max => if isFloating f then (ffmtOf f).maxC x y else wrapTo (elemOf f).1 (max (elInt f x) (elInt f y))
  | .and => x &&& y
  | .or => x ||| y
  | .xor => x ^^^ y
  | .xchg => y
  | .cas => x

/-- The new value of a step on an old one. -/
def atomNew (op : AtomOp) (f : Fmt) (ovft : BitVec 16) (old v swp : W64) : W64 :=
  match op with
  | .cas => if old = v then swp else old
  | _ => ofEls f fun j => atomEl op f ovft (el f old j) (el f v j)

/-- A write of the datapaths, or of the matrix unit's rounding, into memory: where an undetected error may still reach it
(R402). -/
def State.wrote (s : State) (xs : List (Nat × Nat)) : State := { s with datapath := xs }

/-- One step at a place, as one event: the old value, and the state after it (R158). -/
def State.atomStep (s : State) (who : Option AgentId) (place : Nat) (op : AtomOp) (f : Fmt) (ovft : BitVec 16) (v swp : W64) :
    W64 × State :=
  let old := BitVec.ofNat 64 (ofBytesLE (s.mem.read place (accBytes f)))
  (old, (s.store who place (toBytesLE (accBytes f) (atomNew op f ovft old v swp).toNat)).wrote [(place, accBytes f)])

/-- The formats whose halves an ATOM updates as separate events (R158). -/
def pairFmt (f : Fmt) : Bool := f == .f16x2 || f == .bf16x2

/-- The events of a step whose elements are separate events: those of the words from a place up, in ascending element order,
for a lane or step of a request (R158, R159). -/
def atomEvents (f : Fmt) (lane place : Nat) (words : List W64) : List AtomEvent :=
  let (w, n) := elemOf f
  words.zipIdx.flatMap fun x => (List.range n).map fun j =>
    { lane := lane, el := n * x.2 + j, place := place + 4 * x.2 + w / 8 * j, v := el f x.1 j }

/-- The bytes of an element of an atomic. -/
def elBytes (f : Fmt) : Nat := (elemOf f).1 / 8

/-- One element's event: the old element, and the state after it (R157, R158). -/
def State.atomEvent (s : State) (who : Option AgentId) (op : AtomOp) (f : Fmt) (ovft : BitVec 16) (a : AtomEvent) :
    Nat × State :=
  let old := ofBytesLE (s.mem.read a.place (elBytes f))
  (old, (s.store who a.place (toBytesLE (elBytes f) (atomEl op f ovft old a.v))).wrote [(a.place, elBytes f)])

/-- The word that a lane or step finds, from its elements. -/
def gotWord (f : Fmt) (got : List (Nat × Nat × Nat)) (lane : Nat) : W64 :=
  ofEls f fun j => ((got.find? fun x => x.1 == lane && x.2.1 == j).map fun x => x.2.2).getD 0

/-! ### Remote requests (R148, R160, R161, R406, R407) -/

/-- The owner module and the address in the owner context (R148). -/
def ownerOf (ea : W64) : Byte := BitVec.ofNat 8 (ea.toNat / 2 ^ 56)
def ownerVa (ea : W64) : W64 := BitVec.ofNat 64 (ea.toNat % 2 ^ 56)

/-- The owner context that the remote map pairs with a context at an owner module (R148, R391). An entry on a page that is
absent or not readable names none, and gives PERM as an owner outside the map does: the spec is silent (DESIGN CHOICE,
notes/assumptions/35.md). -/
def State.remoteCtx (s : State) (c : Context) (owner : Byte) : Option Nat :=
  match s.ctxRead c (c.remMap.toNat + 8 * owner.toNat) with
  | some x => if x.getLsbD 11 then some (x.toNat % 2048) else none
  | none => none

/-- Check remote addresses at the requester: alignment, and PERM for an owner outside the remote map (R148 to R150). -/
def Env.checkRemote (e : Env) (m : Mask) (ea : Fin 64 → W64) (n : Nat) : Option Effect :=
  reportFault .read ((Mask.lanes m).map fun l =>
    (l, ea l,
      if (ea l).toNat % n ≠ 0 then Resolved.bad .misalign 0
      else if (e.s.remoteCtx e.c (ownerOf (ea l))).isNone then .bad .perm 0 else .ok 0 false []))

/-- Lanes by distinct address, in ascending order of each one's lowest lane (R157, R160). -/
def mergeLanes (ls : List (Fin 64)) (ea : Fin 64 → W64) : List (W64 × List (Fin 64)) :=
  ls.foldl (fun acc l =>
    if acc.any fun x => x.1 == ea l then acc.map fun x => if x.1 == ea l then (x.1, x.2 ++ [l]) else x
    else acc ++ [(ea l, [l])]) []

/-- What a context knows of an owner; the sequence starts at 0, with nothing retired (R162, R361). -/
def Context.peer (c : Context) (owner : Byte) : Peer :=
  (c.peers.find? fun p => p.owner == owner).getD
    { owner := owner, next := 0, watermark := 0xFFFFFFFF, acked := 0xFFFFFFFF, early := [], kept := 0 }

/-- Update what a context knows of an owner. -/
def Context.mapPeer (c : Context) (owner : Byte) (f : Peer → Peer) : Context :=
  { c with peers := f (c.peer owner) :: c.peers.filter fun p => p.owner != owner }

/-- The latest epoch received from an owner partition; 0 when none was (R407). -/
def State.peerEpoch (s : State) (owner : Byte) (part : Nat) : W32 :=
  ((s.peerEpochs.find? fun x => x.1 == (owner, part)).map Prod.snd).getD 0

/-- The silence count of an owner starts when an operation to it becomes outstanding while none was (R161). -/
def State.startSilence (s : State) (owner : Byte) : State :=
  if s.outRemote.any fun o => o.owner == owner && o.done.isNone then s
  else { s with lastPkt := (owner, s.clock) :: s.lastPkt.filter fun x => x.1 != owner }

/-- Send one request. -/
def State.sendRequest (s : State) (ctx : Nat) (agent : AgentId) (ea : W64) (lanes : List (Fin 64)) (op : RemoteOp)
    (numbered posted : Bool) : State :=
  match s.ctx? ctx with
  | none => s
  | some c =>
    let owner := ownerOf ea
    let p := c.peer owner
    let oc := (s.remoteCtx c owner).getD 0
    let r : RemoteRequest :=
      { requester := Config.moduleId, ctx := ctx, gen := c.gen, rsn := if numbered then some p.next else none
        watermark := p.watermark, epoch := s.peerEpoch owner (partOf oc), ownerCtx := oc, va := ownerVa ea, op := op
        tag := s.nextUid }
    let o : Outstanding :=
      { tag := s.nextUid, agent := agent, owner := owner, part := some (partOf oc), request := r, lanes := lanes.map Fin.val
        posted := posted, tries := 1, sentAt := s.clock, refusedAt := none, done := none }
    let s := s.startSilence owner
    let s := { s with nextUid := s.nextUid + 1, outRemote := s.outRemote ++ [o], fabricOut := s.fabricOut ++ [.request owner r] }
    -- the keepalives of an owner count from its first RSN that is not acknowledged (R162)
    let kept := if p.next - 1 = p.acked then s.clock else p.kept
    if numbered then s.mapCtx ctx fun c => c.mapPeer owner fun p => { p with next := p.next + 1, kept := kept } else s

/-- Send requests in order. -/
def State.sendAll (s : State) (ctx : Nat) (agent : AgentId) (op : List (Fin 64) → RemoteOp) (numbered posted : Bool) :
    List (W64 × List (Fin 64)) → State
  | [] => s
  | (ea, ls) :: rest => State.sendAll (s.sendRequest ctx agent ea ls (op ls) numbered posted) ctx agent op numbered posted rest

/-- An owner whose window lacks room for the requests toward it (R161). -/
def Env.fullWindow (e : Env) (reqs : List (W64 × List (Fin 64))) : Option (Byte × Nat) :=
  (reqs.map fun r => (ownerOf r.1, (reqs.filter fun x => ownerOf x.1 == ownerOf r.1).length)).find? fun x =>
    let p := e.c.peer x.1
    4096 < (p.next - p.watermark).toNat + x.2

/-- A posted remote operation (R160, R406). -/
def Env.post (e : Env) (act : Mask) (kills : Mask × Nat) (ea : Fin 64 → W64) (n : Nat) (op : List (Fin 64) → RemoteOp)
    (numbered : Bool) : Effect :=
  match e.checkRemote act ea n with
  | some x => x
  | none =>
    let reqs := mergeLanes (Mask.lanes act) ea
    match (if numbered then e.fullWindow reqs else none) with
    | some (o, k) => .wait e.s (.window o k)
    | none => .done ((e.s.sendAll e.c.id e.me op numbered true reqs).killLanes e.c e.g e.w kills.1 kills.2 0)

/-- The answer of a lane among completed operations: its value, and the source of an error in it (R163). -/
def State.answerOf (s : State) (tags : List Nat) (l : Fin 64) : W64 × Option Nat :=
  match s.outRemote.find? fun o => tags.contains o.tag && o.lanes.contains l.val with
  | some o => match o.done with
    | some (.ok, vals, bad) =>
      let i := match o.request.op with
        | .load _ _ => 0
        | _ => (o.lanes.findIdx? fun x => x == l.val).getD 0
      (if bad.isSome then 0 else (vals[i]?).getD 0, bad)
    | _ => (0, none)
  | none => (0, none)

/-- A remote operation that waits for its answers: it sends at its first issue and delivers when all have come (R153,
R160). -/
def Env.await (e : Env) (act : Mask) (kills : Mask × Nat) (ea : Fin 64 → W64) (n : Nat) (op : List (Fin 64) → RemoteOp)
    (numbered : Bool) (f : MForm) : Effect :=
  match e.w.wait with
  | .remote tags =>
    let ans := (Mask.lanes act).map fun l => (l, e.s.answerOf tags l)
    let errs := ans.filterMap fun x => x.2.2.map fun src => (laneMask [x.1], src, ea x.1)
    let s := { e.s with outRemote := e.s.outRemote.filter fun o => !tags.contains o.tag }
    e.deliverLoad s e.w f (ans.map fun x => (x.1, x.2.1)) kills errs
  | _ =>
    match e.checkRemote act ea n with
    | some x => x
    | none =>
      let reqs := mergeLanes (Mask.lanes act) ea
      if reqs.isEmpty then e.deliverLoad e.s e.w f [] kills []
      else match (if numbered then e.fullWindow reqs else none) with
        | some (o, k) => .wait e.s (.window o k)
        | none =>
          let s := e.s.sendAll e.c.id e.me op numbered false reqs
          .wait s (.remote ((List.range reqs.length).map fun i => e.s.nextUid + i))

end Sys2Proof.Machine
end

