-- ==== Sys2Proof/Machine/MemOps.lean ====
section
/-!
DEFINITION. Loads, stores, uniform accesses, atomics, remote waits, hints and ISYNC (R151 to R153, R156 to R159, R164, R171,
R174, R406).
-/

namespace Sys2Proof.Machine

/-! ### LD and LDS (R151, R153, R406) -/

/-- A load from local memory. -/
def loadLocal (f : MForm) (scale : Nat) (act : Mask) (kills : Mask × Nat) (e : Env) : Effect :=
  let n := accBytes f.fmt
  match e.check act (e.ea f scale) f.space n .read f.a with
  | .bad x => x
  | .ok acc fill =>
    let s := e.s.fillTlb fill
    -- a touch reads nothing (R46)
    if f.nw then .done (s.killLanes e.c e.g e.w kills.1 kills.2 0)
    else match e.w.track (acc.flatMap fun x => sectorsOf x.2.2.1 n) with
      | none => .wait s .speculation
      | some w =>
        let vals := acc.map fun x =>
          (x.1, e.lossy f.fmt x.2.2.2 x.1 (BitVec.ofNat 64 (ofBytesLE (s.loadBytes e.w x.2.2.1 n))))
        e.deliverLoad (s.drawn (if acc.any fun x => x.2.2.2 then 512 else 0)) w f vals kills
          (s.memErrors (fun place apx => s.loadError e.g.cluster e.w place n apx) acc)

/-- LD and LDS with their scale. -/
def loadBody (f : MForm) (scale : Nat) (e : Env) : Effect :=
  match e.memFault f [] [f.data] with
  | some c => e.early c
  | none =>
    let kills := e.w.operandKills (addrOs f) e.eff
    let act := e.eff &&& ~~~kills.1
    if f.space == .remote then
      let n := accBytes f.fmt
      if f.nw then e.post act kills (e.ea f scale) n (fun _ => .touch f.fmt f.a) false
      else e.await act kills (e.ea f scale) n (fun _ => .load f.fmt f.a) false f
    else loadLocal f scale act kills e

def execLd (f : MForm) (s : State) : Host.Outcome State Fault Refusal := issue (.m .ld f) s (loadBody f 1) noLeek
def execLds (f : MForm) (s : State) : Host.Outcome State Fault Refusal :=
  issue (.m .lds f) s (loadBody f (accBytes f.fmt)) noLeek

/-! ### ST and STS (R151, R153, R160) -/

/-- The bytes that a lane stores. -/
def Env.storeBytes (e : Env) (f : MForm) (l : Fin 64) : List Byte :=
  toBytesLE (accBytes f.fmt) (e.w.src (Opnd.any f.data f.fmt) none l).toNat

/-- A store into local memory: events in ascending lane order, or into the buffer of a speculating warp. -/
def storeLocal (f : MForm) (scale : Nat) (act : Mask) (kills : Mask × Nat) (e : Env) : Effect :=
  let n := accBytes f.fmt
  match e.check act (e.ea f scale) f.space n .write f.a with
  | .bad x => x
  | .ok acc fill =>
    let s := e.s.fillTlb fill
    let kill (s : State) : State := s.killLanes e.c e.g e.w kills.1 kills.2 0
    let stores := acc.map fun x => (x.2.2.1, e.storeBytes f x.1)
    if e.w.spec.isSome then
      match e.w.buffer stores false with
      | none => .wait s .speculation
      | some w => .done (kill (s.mapWarp e.g.uid e.w.id fun x => { x with spec := w.spec }))
    else .done ((kill s).storeAll (some e.me) stores)

/-- ST and STS with their scale. -/
def storeBody (f : MForm) (scale : Nat) (e : Env) : Effect :=
  match e.memFault f [Opnd.any f.data f.fmt] [] with
  | some c => e.early c
  | none =>
    let kills := e.w.operandKills (Opnd.any f.data f.fmt :: addrOs f) e.eff
    let act := e.eff &&& ~~~kills.1
    if f.space == .remote then
      -- the highest lane of an address supplies its value
      e.post act kills (e.ea f scale) (accBytes f.fmt)
        (fun ls => .store ((ls.getLast?.map (e.storeBytes f)).getD []) f.a) true
    else storeLocal f scale act kills e

def execSt (f : MForm) (s : State) : Host.Outcome State Fault Refusal := issue (.m .st f) s (storeBody f 1) noLeek
def execSts (f : MForm) (s : State) : Host.Outcome State Fault Refusal :=
  issue (.m .sts f) s (storeBody f (accBytes f.fmt)) noLeek

/-! ### LDU and STU (R152) -/

/-- The outcome of a uniform access's check: its place with whether it is approximate storage, or its fault over the executing
lanes. -/
inductive UniChecked where
  | ok (place : Nat) (apx : Bool) (fill : List TlbEntry)
  | bad (e : Effect)

/-- Check one uniform access. -/
def State.checkUni (s : State) (v : Viewer) (lanes : Mask) (f : MForm) (ea : W64) (acc : Access) : UniChecked :=
  let n := accBytes f.fmt
  match s.resolve v f.space ea.toNat n n acc f.a with
  | .ok place apx fill => .ok place apx fill
  | .bad .absent va => .bad (.absent va acc ea lanes)
  | .bad k _ => .bad (.fault k.cause ea lanes)

def lduBody (f : MForm) (e : Env) : Effect :=
  let kills := e.w.operandKills (addrOs f) e.eff
  if e.eff = 0 then .done e.s
  else if kills.1 ≠ 0 then
    -- an error in the uniform address kills every lane and leaves no access to make
    let w := match f.data with
      | .s n => if f.nw then e.w else e.w.writeS n.val f.fmt.wide 0
      | _ => e.w
    .done ((e.put w).killLanes e.c e.g e.w kills.1 kills.2 0)
  else
    let ea := e.ea f 1 0
    match e.s.checkUni e.viewer e.eff f ea .read with
    | .bad x => x
    | .ok place apx fill =>
      let n := accBytes f.fmt
      let s := e.s.fillTlb fill
      if f.nw then .done s
      else match e.w.track (sectorsOf place n) with
        | none => .wait s .speculation
        | some w =>
          let x := BitVec.ofNat 64 (ofBytesLE (s.loadBytes e.w place n))
          match f.data with
          | .s r =>
            let write (x : W64) : State := s.mapWarp e.g.uid e.w.id fun _ => w.writeS r.val f.fmt.wide x
            match s.loadError e.g.cluster e.w place n apx with
            | some source => .done ((write 0).killLanes e.c e.g e.w e.eff source ea)
            | none => .done (write x)
          | _ => e.early .illegal

def lduLeek (f : MForm) (e : LeekEnv) : Effect :=
  if !e.l.takes f.pneg f.pred then .done e.s
  else
    let ea := e.ea f
    match e.s.checkUni e.viewer 1 f ea .read with
    | .bad x => x
    | .ok place apx fill =>
      let n := accBytes f.fmt
      let s := e.s.fillTlb fill
      if f.nw then .done s
      else match s.errorFor e.g.cluster place n apx with
      | some source => .gone (s.killLeek e.c e.g e.l source ea)
      | none => .done (s.mapLeek e.g.uid fun l => l.writeG f.data (BitVec.ofNat 64 (ofBytesLE (s.mem.read place n))))

def execLdu (f : MForm) (s : State) : Host.Outcome State Fault Refusal := issue (.m .ldu f) s (lduBody f) (lduLeek f)

def stuBody (f : MForm) (e : Env) : Effect :=
  let data := Opnd.any f.data f.fmt
  let kills := e.w.operandKills (data :: addrOs f) e.eff
  if e.eff = 0 then .done e.s
  else if kills.1 ≠ 0 then .done (e.s.killLanes e.c e.g e.w kills.1 kills.2 0)
  else
    match e.s.checkUni e.viewer e.eff f (e.ea f 1 0) .write with
    | .bad x => x
    | .ok place _ fill =>
      let s := e.s.fillTlb fill
      let bs := toBytesLE (accBytes f.fmt) (e.w.src data none 0).toNat
      if e.w.spec.isSome then
        match e.w.buffer [(place, bs)] false with
        | none => .wait s .speculation
        | some w => .done (s.mapWarp e.g.uid e.w.id fun _ => w)
      else .done (s.store (some e.me) place bs)

def stuLeek (f : MForm) (e : LeekEnv) : Effect :=
  if !e.l.takes f.pneg f.pred then .done e.s
  else
    match e.s.checkUni e.viewer 1 f (e.ea f) .write with
    | .bad x => x
    | .ok place _ fill =>
      .done ((e.s.fillTlb fill).store (some e.me) place (toBytesLE (accBytes f.fmt) (e.l.src .n64 f.data none).toNat))

def execStu (f : MForm) (s : State) : Host.Outcome State Fault Refusal := issue (.m .stu f) s (stuBody f) (stuLeek f)

/-! ### ATOM (R156 to R158) -/

/-- The operands of an ATOM's data: the swap register of CAS follows the compare value (R156). -/
def atomOs (f : MForm) : List Opnd :=
  match f.data with
  | .v n =>
    let d := Reg.v n
    match atomOf f.sub with
    | .cas =>
      let k := if f.fmt.wide then 2 else 1
      [Opnd.any d f.fmt, Opnd.any (.v ⟨(n.val + k) % 256, by omega⟩) f.fmt]
    | .xchg => [Opnd.any d f.fmt]
    | _ => [Opnd.of d f.fmt]
  | _ => []

/-- The accesses whose lanes meet no error, so that their steps are performed (R157). -/
def performed (acc : List (Fin 64 × W64 × Nat × Bool)) (errs : List (Mask × Nat × W64)) : List (Fin 64 × W64 × Nat × Bool) :=
  acc.filter fun x => !(errLanes errs).getLsbD x.1

/-- The steps of the lanes one after another, each one event: the old values, and the state. -/
def Env.atomSteps (e : Env) (f : MForm) (s : State) : List (Fin 64 × W64 × Nat × Bool) → List (Fin 64 × W64) × State
  | [] => ([], s)
  | (l, _, place, _) :: rest =>
    let x := srcAt e.w none (atomOs f)
    let (old, s) := s.atomStep (some e.me) place (atomOf f.sub) f.fmt e.ovft (x 0 l) (x 1 l)
    let r := e.atomSteps f s rest
    ((l, old) :: r.1, r.2)

/-- Records of posted steps not performed, one for each lane (R157). -/
def Env.postedErrors (e : Env) (s : State) : List (Mask × Nat × W64) → State
  | [] => s
  | (_, source, addr) :: rest => e.postedErrors (s.postedError e.c e.g e.w source addr) rest

/-- The OVFT choice that a remote request carries (R157). -/
def Env.ovfOf (e : Env) (f : Fmt) : BitVec 2 :=
  if isFloating f then BitVec.ofNat 2 ((ffmtOf f).choice e.ovft) else 0

/-- The warp between two events of its instruction (R158, R332). -/
def Env.pause (e : Env) (s : State) (p : Progress) : Effect :=
  .wait (s.mapWarp e.g.uid e.w.id fun w => { w with progress := some p }) .events

/-- The end of an ATOM or VATOM: a posted one reports the steps that met an error; another delivers what its steps found
(R157). -/
def Env.atomDone (e : Env) (f : MForm) (posted : Bool) (s : State) (kills : Mask × Nat) (errs : List (Mask × Nat × W64))
    (olds : List (Fin 64 × W64)) : Effect :=
  if posted then .done (e.postedErrors (s.killLanes e.c e.g e.w kills.1 kills.2 0) errs)
  else e.deliverLoad s e.w f olds kills errs

/-- The next event of an atomic whose elements are separate events, and its end after the last. A step that meets an error
makes no event from there on (R157, R158). -/
def Env.atomNext (e : Env) (f : MForm) (posted : Bool) (s : State) (p : Progress) (todo : List AtomEvent)
    (got : List (Nat × Nat × Nat)) : Effect :=
  let on (s : State) (p : Progress) (todo : List AtomEvent) (got : List (Nat × Nat × Nat)) : Effect :=
    if todo.isEmpty then e.atomDone f posted s p.kills p.errs ((Mask.lanes e.eff).map fun l => (l, gotWord f.fmt got l))
    else e.pause s { p with stage := .atoms todo got }
  match todo with
  | [] => on s p [] got
  | a :: rest =>
    match s.errorAt a.place (elBytes f.fmt) with
    | some source =>
      let l : Fin 64 := Fin.ofNat 64 a.lane
      on s { p with errs := p.errs ++ [(laneMask [l], source, e.ea f 1 l)] } (rest.filter fun x => x.lane != a.lane) got
    | none =>
      let (old, s) := s.atomEvent (some e.me) (atomOf f.sub) f.fmt e.ovft a
      on s p rest (got ++ [(a.lane, a.el, old)])

/-- The local part of an ATOM or VATOM that has issued: steps of one event each, or the first of their separate events. -/
def Env.atomLocal (e : Env) (f : MForm) (posted : Bool) (kills : Mask × Nat) (n : Nat) (words : Option (Fin 64 → List W64))
    (act : Mask) : Effect :=
  match e.check act (e.ea f 1) f.space n .atomic f.a with
  | .bad x => x
  | .ok acc fill =>
    let s := e.s.fillTlb fill
    let errs := s.memErrors (fun place apx => s.errorIn place n apx) acc
    let todo := performed acc errs
    match words with
    | none =>
      let (olds, t) := e.atomSteps f s todo
      e.atomDone f posted (t.wrote (todo.map fun x => (x.2.2.1, n))) kills errs olds
    | some ws =>
      e.atomNext f posted s { kills := kills, errs := errs, ovft := e.ovft, stage := .atoms [] [] }
        (todo.flatMap fun x => atomEvents f.fmt x.1 x.2.2.1 (ws x.1)) []

/-- An instruction that has events left goes on; another issues. -/
def Env.orGoOn (e : Env) (f : MForm) (posted : Bool) (start : Effect) : Effect :=
  match e.w.progress with
  | some p => match p.stage with
    | .atoms todo got => e.atomNext f posted e.s p todo got
    | _ => start
  | none => start

def atomBody (f : MForm) (e : Env) : Effect :=
  let os := atomOs f
  e.orGoOn f f.nw <| match e.memFault f os [] with
  | some c => e.early c
  | none =>
    let kills := e.w.operandKills (os ++ addrOs f) e.eff
    let act := e.eff &&& ~~~kills.1
    let n := accBytes f.fmt
    let x := srcAt e.w none os
    if f.space == .remote then
      let op (ls : List (Fin 64)) : RemoteOp := .atom (atomOf f.sub) f.fmt (ls.map fun l => (x 0 l, x 1 l)) (e.ovfOf f.fmt)
      if f.nw then e.post act kills (e.ea f 1) n op true else e.await act kills (e.ea f 1) n op true f
    else e.atomLocal f f.nw kills n (if pairFmt f.fmt then some fun l => [x 0 l] else none) act

def execAtom (f : MForm) (s : State) : Host.Outcome State Fault Refusal := issue (.m .atom f) s (atomBody f) noLeek

/-! ### VATOM (R159) -/

/-- The eight data registers. -/
def vatomOs (f : MForm) : List Opnd :=
  match f.data with
  | .v n => (List.range 8).map fun k =>
      let r := Reg.v ⟨(n.val + k) % 256, by omega⟩
      if f.sub.toNat ≤ 2 then Opnd.of r f.fmt else Opnd.any r f.fmt
  | _ => []

/-- The eight words of a lane. -/
def Env.vatomWords (e : Env) (f : MForm) (l : Fin 64) : List W32 := (vatomOs f).map fun o => lo32 (e.w.src o none l)

def vatomBody (f : MForm) (e : Env) : Effect :=
  let os := vatomOs f
  e.orGoOn f true <| match e.memFault f os [] with
  | some c => e.early c
  | none =>
    let kills := e.w.operandKills (os ++ addrOs f) e.eff
    let act := e.eff &&& ~~~kills.1
    if f.space == .remote then
      e.post act kills (e.ea f 1) 32 (fun ls => .vatom (atomOf f.sub) f.fmt (ls.map (e.vatomWords f)) (e.ovfOf f.fmt)) true
    else e.atomLocal f true kills 32 (some fun l => (e.vatomWords f l).map zx64) act

def execVatom (f : MForm) (s : State) : Host.Outcome State Fault Refusal := issue (.m .vatom f) s (vatomBody f) noLeek

/-! ### WAITR (R164) -/

def waitrBody (f : MForm) (e : Env) : Effect :=
  if e.s.outRemote.any fun o => o.agent == e.me && o.done.isNone then .wait e.s .remoteAll
  else match f.data with
    | .s n =>
      .done (if e.eff = 0 then e.s else e.put { e.w.writeS n.val false (e.w.remote.setWidth 64) with remote := 0 })
    | _ => .done e.s

def execWaitr (f : MForm) (s : State) : Host.Outcome State Fault Refusal := issue (.m .waitr f) s (waitrBody f) noLeek

/-! ### PREF, OWN and ISYNC (R171, R174) -/

/-- A hint: only its operand faults and errors show. -/
def hintBody (f : MForm) (e : Env) : Effect :=
  match e.memFault f [] [] with
  | some c => e.early c
  | none =>
    let kills := e.w.operandKills (addrOs f) e.eff
    .done (e.s.killLanes e.c e.g e.w kills.1 kills.2 0)

def execPref (f : MForm) (s : State) : Host.Outcome State Fault Refusal := issue (.m .pref f) s (hintBody f) noLeek
def execOwn (f : MForm) (s : State) : Host.Outcome State Fault Refusal := issue (.m .own f) s (hintBody f) noLeek

/-- After ISYNC every line is fetched fresh (R174). Under an empty effective mask it discards nothing, and bytes fetched before may
still be executed: R177 and R178 do not name ISYNC, and R267 says that `?!k0` keeps an instruction from executing (DEDUCED,
notes/assumptions/11.md). -/
def isyncBody (e : Env) : Effect := .done (if e.eff = 0 then e.s else e.put { e.w with fetched := [] })
def execIsync (f : MForm) (s : State) : Host.Outcome State Fault Refusal := issue (.m .isync f) s isyncBody noLeek

end Sys2Proof.Machine
end

