-- ==== Sys2Proof/Machine/BufRec.lean ====
section
/-!
DEFINITION. LDB and STB: the buffer record (R154, R322, R323), interleave and bounds (R155, R324), the conversion stage with
block scales and codebooks (R71, R78, R325 to R327, R343), and exception lists (R79 to R81).
-/

namespace Sys2Proof.Machine

/-! ### The record (R322) -/

/-- A buffer record as read. -/
structure BRec where
  base   : W64
  xl     : Bool
  blk    : Nat
  ilv    : Nat
  apx    : Bool
  oob    : Nat
  rfmt   : Nat
  menc   : Nat
  extent : Nat
  gscale : W32
  aux    : W64
  xhdr   : W64
  resv   : Bool

/-- A record from its 40 bytes. -/
def BRec.ofBytes (bs : List Byte) : BRec :=
  let w (i : Nat) : Nat := ofBytesLE ((bs.drop (8 * i)).take 8)
  { base := BitVec.ofNat 64 (w 0), xl := (w 1).testBit 60, blk := bitsOf (w 1) 56 4, ilv := bitsOf (w 1) 53 3
    apx := (w 1).testBit 52, oob := bitsOf (w 1) 50 2, rfmt := bitsOf (w 1) 45 5, menc := bitsOf (w 1) 40 5
    extent := bitsOf (w 1) 0 40, gscale := BitVec.ofNat 32 (bitsOf (w 2) 0 32), aux := BitVec.ofNat 64 (w 3)
    xhdr := BitVec.ofNat 64 (w 4), resv := bitsOf (w 1) 61 3 != 0 || bitsOf (w 2) 32 32 != 0 }

/-- The memory encodings of R323: the bits of an element, the admitted RFMT codes (none for any), and whether BLK is zero,
optional or needed. -/
inductive BlkRule where
  | zero | optional | needed
  deriving DecidableEq, Repr

/-- A row of R323. -/
structure Menc where
  bits  : Nat
  rfmts : Option (List Nat)
  blk   : BlkRule

/-- The row of a MENC code; RAW's width is RFMT's. -/
def mencRow (n : Nat) (rfmt : Fmt) : Option Menc :=
  match n with
  | 0 => some ⟨(elemOf rfmt).1, none, .zero⟩
  | 1 => some ⟨32, some [3, 4, 5], .zero⟩
  | 2 | 3 => some ⟨16, some [3, 4, 5], .zero⟩
  | 4 => some ⟨8, some [3, 4, 5, 6], .optional⟩
  | 5 => some ⟨8, some [3, 4, 5, 7], .optional⟩
  | 6 => some ⟨4, some [3, 4, 5], .needed⟩
  | 7 | 8 => some ⟨8, some [1, 2, 3, 4, 5, 8, 9, 10, 11], .zero⟩
  | 9 => some ⟨2, some [3, 4, 5], .needed⟩
  | 10 => some ⟨3, some [3, 4, 5], .needed⟩
  | 11 => some ⟨4, some [3, 4, 5], .needed⟩
  | _ => none

/-- Whether a record's fields raise TAG under FMT (R154, R322, R323, R343). A BLK of 5 to 10 under a MENC whose row has no block
scale is among them, as a reserved combination; a store through such a record is ILLEGAL (`BRec.storeIllegal`): the spec names
no outcome (DESIGN CHOICE, notes/assumptions/14.md). -/
def BRec.tagBad (r : BRec) (f : Fmt) : Bool :=
  r.resv || (1 ≤ r.blk && r.blk ≤ 4) || 10 < r.blk || 3 < r.ilv || r.oob == 3 || 15 < r.rfmt || r.rfmt != f.code.toNat
    || match mencRow r.menc f with
      | none => true
      | some m =>
        m.rfmts.any (fun l => !l.contains r.rfmt) || (m.blk == .zero && r.blk != 0) || (m.blk == .needed && r.blk == 0)
          || (r.blk != 0 && r.aux == 0) || (r.apx && 3 < r.menc)

/-- Whether a store through the record is ILLEGAL: a block scale or a codebook (R154, R325). A reserved MENC is no encoding to
be refused but a reserved value, which R322 gives TAG; so is a reserved BLK, 1 to 4 or 11 to 15, under a legal MENC, though R325
lets only a store without BLK be legal (DEDUCED, notes/assumptions/14.md). -/
def BRec.storeIllegal (r : BRec) : Bool := r.menc ≤ 11 && ((5 ≤ r.blk && r.blk ≤ 10) || r.menc == 6 || 9 ≤ r.menc)

/-- The bits of an element. -/
def BRec.bits (r : BRec) (f : Fmt) : Nat := ((mencRow r.menc f).map Menc.bits).getD 8

/-- The bytes `[lo, hi]` of element x: offsets from BASE (R324). -/
def BRec.first (r : BRec) (f : Fmt) (x : Nat) : Nat := r.bits f * x / 8
def BRec.last (r : BRec) (f : Fmt) (x : Nat) : Nat := (r.bits f * x + r.bits f - 1) / 8

/-- The element index that ILV gives (R324). -/
def BRec.index (r : BRec) (i e : Nat) : Nat :=
  match r.ilv with
  | 0 => i + e
  | 1 => i + e * (r.extent / 64)
  | 2 => i + e % 2 + 128 * (e / 2)
  | _ => i + e % 4 + 256 * (e / 4)

/-- What becomes of an element (R155): it moves, it is zero or discarded, or it traps. -/
inductive ElemUse where
  | move (x : Nat)
  | none'
  | trap (x : Nat)
  deriving DecidableEq, Repr

/-- The use of an element index. -/
def BRec.use (r : BRec) (load : Bool) (x : Nat) : ElemUse :=
  if x < r.extent then .move x
  else if r.oob = 1 then .trap x
  else if r.oob = 2 && load && r.extent != 0 then .move (r.extent - 1)
  else .none'

/-- One element of one lane. -/
structure Elem where
  lane : Fin 64
  e    : Nat
  use  : ElemUse

/-- The elements of the lanes of a mask, in ascending lane and element order. -/
def BRec.elems (r : BRec) (f : Fmt) (load : Bool) (m : Mask) (ix : Fin 64 → W64) : List Elem :=
  (Mask.lanes m).flatMap fun l =>
    (List.range (elemOf f).2).map fun e => { lane := l, e := e, use := r.use load (r.index (ix l).toNat e) }

/-! ### Checks (R150, R154, R155, R326, R327) -/

/-- The address of byte `k` from an address. -/
def byteAt (a : W64) (k : Nat) : W64 := a + BitVec.ofNat 64 k

/-- Check one byte. -/
def Env.checkByte (e : Env) (va : W64) (acc : Access) (a : Bool) : Resolved := e.s.resolve e.viewer .generic va.toNat 1 1 acc a

/-- The bytes of a table entry of block j: a scale byte, or the 16 bytes of a codebook (R323). -/
def BRec.tableBytes (r : BRec) (j : Nat) : List W64 :=
  if 9 ≤ r.menc then (List.range 16).map fun k => byteAt r.aux (16 * j + k) else [byteAt r.aux j]

/-- The blocks that elements lie in, each with the lanes that read its table, ascending. -/
def BRec.blocks (r : BRec) (es : List Elem) : List (Nat × List (Fin 64)) :=
  if r.blk = 0 then []
  else
    let js := (es.filterMap fun x => match x.use with
      | .move i => some (i / 2 ^ r.blk, x.lane)
      | _ => none)
    let ks := js.foldl (fun acc x => if acc.contains x.1 then acc else x.1 :: acc) []
    let sorted := ks.foldl (fun acc k => acc.takeWhile (fun y => decide (y < k)) ++ [k] ++ acc.dropWhile fun y => decide (y < k)) []
    sorted.map fun k => (k, ((js.filter fun x => x.1 == k).map Prod.snd).eraseDups)

/-- Whether an element is the first of its lane that traps, whose address a BOUNDS of R155 reports. -/
def Elem.firstTrap (x : Elem) (es : List Elem) : Bool :=
  (es.find? fun y => y.lane == x.lane && match y.use with
    | .trap _ => true
    | _ => false).any fun y => y.e == x.e

/-- Every check of the elements, the tables and the exception header. -/
def Env.recChecks (e : Env) (f : MForm) (r : BRec) (load : Bool) (es : List Elem) (m : Mask) : List (Fin 64 × W64 × Resolved) :=
  let acc := if load then Access.read else Access.write
  let elems := es.flatMap fun x => match x.use with
    | .none' => []
    | .trap i => if x.firstTrap es then [(x.lane, byteAt r.base (r.first f.fmt i), Resolved.bad .bounds 0)] else []
    | .move i => (List.range (r.last f.fmt i - r.first f.fmt i + 1)).map fun k =>
        let va := byteAt r.base (r.first f.fmt i + k)
        (x.lane, va, e.checkByte va acc f.a)
  let tables := if load then (r.blocks es).flatMap fun b => (r.tableBytes b.1).flatMap fun va =>
      let res := e.checkByte va .read f.a
      b.2.map fun l => (l, va, res)
    else []
  let lanes := Mask.lanes m
  let flow := if r.apx && !f.a then lanes.map fun l => (l, r.base, Resolved.bad .apxflow 0) else []
  let align := if r.base.toNat % 32 ≠ 0 then lanes.map fun l => (l, r.base, Resolved.bad .misalign 0) else []
  let header := if !r.xl then []
    else
      let res := if r.xhdr.toNat % 64 ≠ 0 then Resolved.bad .misalign 0
        else e.s.resolve e.viewer .generic r.xhdr.toNat 64 64 .write false
      lanes.map fun l => (l, r.xhdr, res)
  align ++ header ++ elems ++ tables ++ flow

/-! ### Conversion (R71, R78, R325) -/

/-- The floating format of a memory encoding. -/
def mencFmt (menc : Nat) : FFmt :=
  match menc with
  | 1 => .f32
  | 2 => .f16
  | 3 => .bf16
  | 4 => .e4m3
  | 5 => .e5m2
  | _ => .e2m1

/-- The element format by which approximate storage loses bits: the memory encoding's (R328, R343). -/
def BRec.lossFmt (r : BRec) (f : Fmt) : FFmt :=
  match r.menc with
  | 0 => ffmtOf f
  | n => mencFmt n

/-- The value of an E8M0 code (R71). -/
def e8m0 (c : Nat) : FVal := if c = 255 then .nan else .fin false 1 ((c : Int) - 127)

/-- An element times a scale: a NaN of either gives NaN, and a decoded infinity stays one under a scale of 0 (R78). A zero under
an infinite scale has no product in the spec: it gives NaN, with no INV (DESIGN CHOICE, notes/assumptions/17.md). -/
def FVal.times (a g : FVal) : FVal :=
  match a, g with
  | .inf x, .fin y _ _ => .inf (x != y)
  | _, _ => a.mul g

/-- The value of a field of an element from its table bytes (R325). -/
def BRec.value (r : BRec) (table : List Byte) (c : Nat) : FVal :=
  match r.menc with
  | 7 => FVal.ofInt (signed 8 c)
  | 8 => FVal.ofInt c
  | 9 | 10 => FFmt.bf16.decode (ofBytesLE ((table.drop (2 * c)).take 2))
  | 11 =>
    let v := FFmt.bf16.decode (ofBytesLE ((table.drop (2 * (c % 8))).take 2))
    if 8 ≤ c then v.neg else v
  | n =>
    let v := (mencFmt n).decode c
    if r.blk = 0 then v else v.times (e8m0 (ofBytesLE table))

/-- The register element of a loaded value (R78). -/
def BRec.load (r : BRec) (f : Fmt) (v : FVal) (ovft : BitVec 16) : FRes :=
  intoFmt f (v.times (FFmt.f32.decode r.gscale.toNat)) .rne ovft

/-- The memory element of a register element (R78, R325). -/
def BRec.store (r : BRec) (f : Fmt) (x : Nat) (ovft : BitVec 16) : FRes :=
  let v := (valueOf f x).times (FFmt.f32.decode r.gscale.toNat)
  match r.menc with
  | 0 => (x, 0)
  | 7 =>
    let (y, fl) := toInt (-128) 127 v .rne
    (wrapTo 8 y, fl)
  | 8 =>
    let (y, fl) := toInt 0 255 v .rne
    (wrapTo 8 y, fl)
  | n => (mencFmt n).round v .rne ovft

/-! ### Exception lists (R79 to R81) -/

/-- One append (R81). A slot on an APX page counts as not writable: an append is a store by an instruction's A = 0 header check
(R344). An uncorrectable error in the header or in the slot's granule kills no lane, and the append goes on with the bytes that
are stored (DESIGN CHOICE, notes/assumptions/14.md). Where the header, checked at the issue, is no longer mapped or writable when
the append's event comes, the append is dropped and sets nothing; the spec speaks only of the slot's page. Entry n lies at the header
plus (64 + 8n) mod 2^64; where the sum reaches 2^64, the slot counts as one that is not writable, since R80 names no modulus (DESIGN
CHOICE, notes/assumptions/14.md). -/
def Env.append (e : Env) (s : State) (hdr : Nat) (index : Nat) : State :=
  let at' (s : State) (off : Nat) : Option (Nat × List TlbEntry) :=
    match s.resolve e.viewer .generic (hdr + off) 8 8 .write false with
    | .ok p _ fill => some (p, fill)
    | .bad _ _ => none
  match at' s 0, at' s 8, at' s 16 with
  | some (pc, fill), some (pcap, _), some (po, _) =>
    let s := s.fillTlb fill
    let count := (s.mem.read64 pc).toNat
    let cap := (s.mem.read64 pcap).toNat
    let overflow := s.store (some e.me) po (toBytesLE 8 ((s.mem.read64 po) ||| 1).toNat)
    if count < cap then
      match at' s ((64 + 8 * count) % 2 ^ 64) with
      | some (p, fill) => ((s.fillTlb fill).store (some e.me) p (toBytesLE 8 index)).store (some e.me) pc (toBytesLE 8 (count + 1))
      | none => overflow
    else overflow
  | _, _, _ => s

/-! ### Reading -/

/-- The record's bytes, each with its address, place and APX attribute, or its failing byte (R154). -/
def Env.recordBytes (e : Env) (f : MForm) : Except Effect (List (W64 × Nat × Bool) × List TlbEntry) :=
  let at' := e.g.desc.brecBase + BitVec.ofNat 64 (40 * f.brec.toNat)
  let rs := (List.range 40).map fun k => ((0 : Fin 64), byteAt at' k, e.checkByte (byteAt at' k) .read f.a)
  match reportFault .read rs with
  | some (.fault c a _) => .error (.fault c a e.eff)
  | some (.absent va acc a _) => .error (.absent va acc a e.eff)
  | some x => .error x
  | none => .ok ((passed rs).map Prod.snd, fillsOf rs)

/-- Bytes at places as a warp loads them. -/
def State.bytesAt (s : State) (w : Warp) (ps : List Nat) : List Byte := ps.flatMap fun p => s.loadBytes w p 1

/-- The place of a byte that has passed its check. -/
def Env.placeOf (e : Env) (va : W64) (acc : Access) (a : Bool) : Nat × Bool :=
  match e.checkByte va acc a with
  | .ok p apx _ => (p, apx)
  | .bad _ _ => (0, false)

/-- The places of an element's bytes. -/
def Env.elemPlaces (e : Env) (f : MForm) (r : BRec) (acc : Access) (x : Nat) : List (Nat × Bool) :=
  (List.range (r.last f.fmt x - r.first f.fmt x + 1)).map fun k =>
    e.placeOf (byteAt r.base (r.first f.fmt x + k)) acc f.a

/-! ### LDB and STB -/

/-- The element index to append (R79): of a NaN that becomes 0 and sets NANZ. R79's sentence on the exception list could also be
read of a NaN that a format with NaN codes takes as it is; the model reads it with the sentences before it (DEDUCED,
notes/assumptions/17.md). -/
def nanIndex (fl : Byte) (x : Nat) : Option Nat := if fl &&& flagNANZ = 0 then none else some x

/-- An element read: its bits out of its bytes, converted (R155, R325, R328). -/
def Env.loadElem (e : Env) (f : MForm) (r : BRec) (table : List Byte) (x : ElemRead) (bytes : List Byte) : Converted :=
  let field := bitsOf (ofBytesLE bytes) (r.bits f.fmt * x.index % 8) (r.bits f.fmt)
  let field := if x.places.any Prod.snd then lowBits field (e.free x.lane x.e) ((r.lossFmt f.fmt).dBits e.apxst) else field
  if r.menc = 0 then { lane := x.lane, e := x.e, code := field, flags := 0, nan := none }
  else
    let (c, fl) := r.load f.fmt (r.value table field) e.ovft
    { lane := x.lane, e := x.e, code := c, flags := fl, nan := nanIndex fl x.index }

/-- A lane's value and flags from its elements. -/
def laneOf (f : Fmt) (cs : List Converted) (l : Fin 64) : W64 × Byte :=
  let mine := cs.filter fun c => c.lane == l
  (ofEls f fun j => ((mine.find? fun c => c.e == j).map Converted.code).getD 0, mine.foldl (fun a c => a ||| c.flags) 0)

/-- Write an LDB's result. -/
def Env.finishLdb (e : Env) (s : State) (w : Warp) (f : MForm) (vals : Lanes (W64 × Byte)) (kills : Mask × Nat)
    (errs : List (Mask × Nat × W64)) : Effect :=
  let kill := kills.1 ||| (errLanes errs &&& e.eff)
  match f.data with
  | .v n =>
    match w.commitVec n.val
      { eff := e.eff, sel := e.sel, kill := kill, vals := fun l => (vals[l]).1, wide := f.fmt.wide, tag := f.fmt, a := f.a, nw := false } with
    | none => .wait e.s .speculation
    | some w' =>
      let w' := w'.setFlags (orFlags (e.eff &&& ~~~kill) vals)
      .done (((s.mapWarp e.g.uid e.w.id fun _ => w').killLanes e.c e.g e.w kills.1 kills.2 0).killMasks e.c e.g e.w
        (e.eff &&& ~~~kills.1) errs)
  | _ => e.early .illegal

/-- No value in any lane. -/
def noVals : Lanes (W64 × Byte) := mkLanes fun _ => (0, 0)

/-! ### An LDB's reads (R154, R326) -/

/-- What an LDB has to read. An element that does not move is zero and has no event (R155). -/
def Env.planLoad (e : Env) (f : MForm) (r : BRec) (record : List Byte) (es : List Elem) : RecLoad :=
  { record := record, bytes := [], got := []
    tables := (r.blocks es).map fun b =>
      { block := b.1, lanes := laneMask b.2, places := (r.tableBytes b.1).map fun va => e.placeOf va .read f.a }
    todo := es.filterMap fun x => match x.use with
      | .move i => some { lane := x.lane, e := x.e, index := i, places := e.elemPlaces f r .read i }
      | _ => none }

/-- The places that an LDB's plan reads. -/
def RecLoad.places (x : RecLoad) : List (Nat × Bool) := x.tables.flatMap TableRead.places ++ x.todo.flatMap ElemRead.places

/-- The sector of the first table byte that has not been read. -/
def RecLoad.nextTable (x : RecLoad) : Option Nat :=
  x.tables.findSome? fun t => t.places.findSome? fun p =>
    if x.bytes.any fun b => b.1 == p.1 then none else some (sectorOf p.1)

/-- Whether nothing is left to read. -/
def RecLoad.over (x : RecLoad) : Bool := x.nextTable.isNone && x.todo.isEmpty

/-- The bytes of a block's table, as read. -/
def RecLoad.table (x : RecLoad) (block : Nat) : List Byte :=
  match x.tables.find? fun t => t.block == block with
  | some t => t.places.map fun p => ((x.bytes.find? fun b => b.1 == p.1).map Prod.snd).getD 0
  | none => []

/-- The read of one sector of tables, or of one element once the tables have come: what is read, and the errors met. A lane
that meets one reads nothing more. -/
def Env.loadEvent (e : Env) (f : MForm) (s : State) (x : RecLoad) : RecLoad × List (Mask × Nat × W64) :=
  let r := BRec.ofBytes x.record
  match x.nextTable with
  | some sector =>
    let here (p : Nat × Bool) : Bool := sectorOf p.1 == sector
    let errs := x.tables.filterMap fun t => t.places.zipIdx.findSome? fun q =>
      if here q.1 then
        (s.loadError e.g.cluster e.w q.1.1 1 q.1.2).map fun source => (t.lanes, source, (r.tableBytes t.block).getD q.2 0)
      else none
    let bytes := ((x.tables.flatMap TableRead.places).filter here).map fun p => (p.1, (s.loadBytes e.w p.1 1).getD 0 0)
    ({ x with bytes := x.bytes ++ bytes, todo := x.todo.filter fun y => !(errLanes errs).getLsbD y.lane }, errs)
  | none =>
    match x.todo with
    | [] => (x, [])
    | y :: rest =>
      match y.places.findSome? fun p => s.loadError e.g.cluster e.w p.1 1 p.2 with
      | some source =>
        ({ x with todo := rest.filter fun z => z.lane != y.lane },
          [(laneMask [y.lane], source, byteAt r.base (r.first f.fmt y.index))])
      | none =>
        let bytes := s.bytesAt e.w (y.places.map Prod.fst)
        ({ x with todo := rest, got := x.got ++ [e.loadElem f r (x.table (y.index / 2 ^ r.blk)) y bytes] }, [])

/-- Every read of an LDB at once, as a speculating warp makes them (R210). -/
def Env.loadAll (e : Env) (f : MForm) (s : State) : Nat → RecLoad → RecLoad × List (Mask × Nat × W64)
  | 0, x => (x, [])
  | n + 1, x =>
    if x.over then (x, [])
    else
      let a := e.loadEvent f s x
      let b := e.loadAll f s n a.1
      (b.1, a.2 ++ b.2)

/-- Free values for the elements of approximate storage that an event reads (notes/assumptions/2.md). -/
def State.drawnFor (s : State) (places : List (Nat × Bool)) : State := s.drawn (if places.any Prod.snd then 512 else 0)

/-! ### Event by event (R81, R332) -/

/-- The appends of an LDB that has read everything: NaNs of lanes that no error kills, in order (R81). A NaN of a lane that another
element's error kills is not appended: the spec does not say (DESIGN CHOICE, notes/assumptions/17.md). -/
def Env.loaded (e : Env) (f : MForm) (p : Progress) (x : RecLoad) : Progress :=
  let r := BRec.ofBytes x.record
  let live := e.eff &&& ~~~(p.kills.1 ||| errLanes p.errs)
  let nans := if r.xl then (x.got.filter fun c => live.getLsbD c.lane).filterMap Converted.nan else []
  { p with stage := .appends (mkLanes fun l => laneOf f.fmt x.got l) nans r.xhdr }

/-- After an event: the end of the instruction when none is left, else the warp pauses. -/
def Env.recSettle (e : Env) (f : MForm) (s : State) (p : Progress) : Effect :=
  let p := match p.stage with
    | .load x => if x.over then e.loaded f p x else p
    | _ => p
  match p.stage with
  | .appends vals [] _ => e.finishLdb s e.w f vals p.kills p.errs
  | .stores [] fl [] _ =>
    .done ((s.mapWarp e.g.uid e.w.id fun w => w.setFlags fl).killLanes e.c e.g e.w p.kills.1 p.kills.2 0)
  | _ => e.pause s p

/-- The next event of an LDB or STB (R332). -/
def Env.recNext (e : Env) (f : MForm) (s : State) (p : Progress) : Effect :=
  match p.stage with
  | .load x =>
    let r := e.loadEvent f s x
    e.recSettle f (s.drawnFor (if x.nextTable.isSome then [] else x.todo.head?.toList.flatMap ElemRead.places))
      { p with errs := p.errs ++ r.2, stage := .load r.1 }
  | .stores (x :: rest) fl nans hdr =>
    e.recSettle f ((s.storeAll (some e.me) x).wrote (x.map fun y => (y.1, y.2.length))) { p with stage := .stores rest fl nans hdr }
  | .stores [] fl (x :: rest) hdr => e.recSettle f (e.append s hdr.toNat x) { p with stage := .stores [] fl rest hdr }
  | .appends vals (x :: rest) hdr => e.recSettle f (e.append s hdr.toNat x) { p with stage := .appends vals rest hdr }
  | _ => e.recSettle f s p

/-- The state with what a speculating warp's instruction has tracked (R210). -/
def Env.tracked (e : Env) (s : State) (w : Warp) : State :=
  if e.w.spec.isSome then s.mapWarp e.g.uid e.w.id fun _ => w else s

/-- An LDB after its record, whose sectors a speculating `w0` has tracked (R154, R210, R326). A touch reads and tracks only its
record, and none of the tables of R326: the spec does not say whether it reads them (DESIGN CHOICE, notes/assumptions/21.md). -/
def ldbMove (f : MForm) (r : BRec) (record : List Byte) (es : List Elem) (kills : Mask × Nat) (s : State) (w0 : Warp)
    (e : Env) : Effect :=
  let x := e.planLoad f r record es
  if f.nw then .done ((e.tracked s w0).killLanes e.c e.g e.w kills.1 kills.2 0)
  else if e.w.spec.isSome then
    match w0.track (x.places.map fun p => sectorOf p.1) with
    | none => .wait s .speculation
    | some w =>
      let (y, errs) := e.loadAll f s x.places.length x
      e.finishLdb (s.drawnFor x.places) w f (mkLanes fun l => laneOf f.fmt y.got l) kills errs
  else e.recNext f s { kills := kills, errs := [], ovft := e.ovft, stage := .load x }

/-- The store of an STB's element, one event, with its conversion (R155, R325). -/
def Env.stbStore (e : Env) (f : MForm) (r : BRec) (x : Elem) : Option (List (Nat × List Byte) × Converted) :=
  match x.use with
  | .move i =>
    let (c, fl) := r.store f.fmt (el f.fmt (e.w.src (Opnd.any f.data f.fmt) none x.lane) x.e) e.ovft
    let ps := e.elemPlaces f r .write i
    let bs := toBytesLE ps.length c
    let stores := match ps with
      | [] => []
      | (p, _) :: _ =>
        if (ps.zipIdx.all fun q => q.1.1 == p + q.2) then [(p, bs)]
        else ps.zipIdx.map fun q => (q.1.1, [bs.getD q.2 0])
    some (stores, { lane := x.lane, e := x.e, code := c, flags := fl, nan := nanIndex fl i })
  | _ => none

/-- An STB after its record. -/
def stbMove (f : MForm) (r : BRec) (es : List Elem) (kills : Mask × Nat) (s : State) (w0 : Warp) (e : Env) : Effect :=
  let xs := es.filterMap (e.stbStore f r)
  let fl := xs.foldl (fun a x => a ||| x.2.flags) 0
  let nans := if r.xl then xs.filterMap fun x => x.2.nan else []
  if e.w.spec.isSome then
    match w0.buffer (xs.flatMap Prod.fst) true with
    | none => .wait s .speculation
    | some w => .done ((s.mapWarp e.g.uid e.w.id fun _ => w.setFlags fl).killLanes e.c e.g e.w kills.1 kills.2 0)
  else e.recNext f s { kills := kills, errs := [], ovft := e.ovft, stage := .stores (xs.map Prod.fst) fl nans r.xhdr }

/-! ### The record's reads (R154) -/

/-- The register that an STB stores. -/
def recData (load : Bool) (f : MForm) : List Opnd := if load then [] else [Opnd.any f.data f.fmt]

/-- The lanes that an LDB's or STB's operands kill, and their source (R18). -/
def Env.recKills (e : Env) (load : Bool) (f : MForm) : Mask × Nat := e.w.operandKills (recData load f ++ addrOs f) e.eff

/-- The error that a read of bytes of the record meets: the record is warp-uniform, and its error kills every executing lane. -/
def Env.recordError (e : Env) (s : State) (bytes : List (W64 × Nat × Bool)) : Option (Mask × Nat × W64) :=
  bytes.findSome? fun b => (s.loadError e.g.cluster e.w b.2.1 1 b.2.2).map fun source => (e.eff, source, b.1)

/-- The end of an LDB or STB whose record holds an error. -/
def Env.recordLost (e : Env) (load : Bool) (f : MForm) (s : State) (w : Warp) (err : Mask × Nat × W64) : Effect :=
  if load && !f.nw then e.finishLdb s w f noVals (e.recKills load f) [err]
  else .done ((e.tracked s w).killMasks e.c e.g e.w e.eff [err])

/-- The bytes that lie in the sector of the first, and those after them. -/
def nextSector (todo : List (W64 × Nat × Bool)) : List (W64 × Nat × Bool) × List (W64 × Nat × Bool) :=
  let here (b : W64 × Nat × Bool) : Bool := todo.head?.any fun a => sectorOf b.2.1 == sectorOf a.2.1
  (todo.takeWhile here, todo.dropWhile here)

/-- The load event of the record's next sector, after which the warp pauses: other agents' events may fall between it and the next
event, the first of the tables or elements among them (R154, R332). -/
def Env.recordEvent (e : Env) (load : Bool) (f : MForm) (s : State) (todo : List (W64 × Nat × Bool)) (got : List Byte) : Effect :=
  let (here, rest) := nextSector todo
  match e.recordError s here with
  | some err => e.recordLost load f s e.w err
  | none => e.pause s { kills := e.recKills load f, errs := [], ovft := e.ovft
                        stage := .record rest (got ++ s.bytesAt e.w (here.map fun b => b.2.1)) }

/-- An LDB or STB whose record has come: the checks of the record and of what it names, then the move. -/
def Env.recordReady (e : Env) (load : Bool) (f : MForm) (s : State) (w : Warp) (record : List Byte) : Effect :=
  let kills := e.recKills load f
  let r := BRec.ofBytes record
  if !load && r.storeIllegal then .fault .illegal 0 e.eff
  else if r.tagBad f.fmt then .fault .tag 0 e.eff
  else
    let es := r.elems f.fmt load (e.eff &&& ~~~kills.1) (e.ea f 1)
    let rs := e.recChecks f r load es e.eff
    match reportFault (if load then .read else .write) rs with
    | some x => x
    | none =>
      if e.w.spec.isSome && r.xl then .wait s .speculation
      else
        let s := s.fillTlb (fillsOf rs)
        if load then ldbMove f r record es kills s w e else stbMove f r es kills s w e

/-- An LDB or STB that issues: operand faults, the check of its record, and the first of its record's reads; a speculating warp
makes them all (R154, R210). -/
def recStart (load : Bool) (f : MForm) (e : Env) : Effect :=
  if e.g.desc.nbrec ≤ f.brec.toNat then e.early .illegal
  else match e.memFault f (recData load f) (if load then [f.data] else []) with
    | some c => e.early c
    | none =>
      if e.eff = 0 then (if load && !f.nw then e.finishLdb e.s e.w f noVals (e.recKills load f) [] else .done e.s)
      else match e.recordBytes f with
        | .error x => x
        | .ok (bytes, fill) =>
          let s := e.s.fillTlb fill
          if e.w.spec.isSome then
            let places := bytes.map fun b => b.2.1
            match e.w.track (places.map sectorOf) with
            | none => .wait s .speculation
            | some w => match e.recordError s bytes with
              | some err => e.recordLost load f s w err
              | none => e.recordReady load f s w (s.bytesAt e.w places)
          else e.recordEvent load f s bytes []

/-- LDB and STB: an instruction that has events left goes on; another issues. -/
def recBody (load : Bool) (f : MForm) (e : Env) : Effect :=
  match e.w.progress with
  | some p => match p.stage with
    | .record [] record => e.recordReady load f e.s e.w record
    | .record todo got => e.recordEvent load f e.s todo got
    | _ => e.recNext f e.s p
  | none => recStart load f e

def execLdb (f : MForm) (s : State) : Host.Outcome State Fault Refusal := issue (.m .ldb f) s (recBody true f) noLeek
def execStb (f : MForm) (s : State) : Host.Outcome State Fault Refusal := issue (.m .stb f) s (recBody false f) noLeek

end Sys2Proof.Machine
end

