-- ==== Sys2Proof/Machine/Place0.lean ====
section
/-!
DEFINITION. The machine state in which the next step fetches and runs a given instruction: what a loader would have set
up (notes/assumptions/9.md), used by `State.withFetchWord`.
-/

namespace Sys2Proof.Machine

/-- The state of a warp at launch, before its pod's words (R15 to R32). -/
def Warp.launch (id slice : Nat) (pc : W64) : Warp :=
  { id := id, slice := slice, pc := pc
    v := Vector.replicate 256 { lanes := mkLanes fun _ => 0, tag := .b32 }
    s := Vector.replicate 64 0, k := Vector.replicate 8 0, exec := BitVec.allOnes 64, dead := 0
    qm := Vector.replicate 4 (mkLanes fun _ => 0), qb := Vector.replicate 4 (mkLanes fun _ => 0)
    latches := Vector.replicate 4 none, join := [], sigw := 0xFFFF, seed := 0xFFFF, rng := mkLanes fun _ => 0, flags := 0
    round := 0, tsw := 0, tpc := 0, taddr := 0, tfirst := 0, tlanes := 0, rep := none, wait := .ready, spinUntil := 0
    yield := false, halted := false, lastIssue := 0, spec := none, noSpec := none, remote := 0, fetched := [], bad := []
    progress := none, ended := none }

/-- A kernel descriptor with every register and no barrier, table or scratch. -/
def KDesc.plain : KDesc :=
  { vcount := 256, scount := 64, apxFrom := 256, gwarps := 1, spec := false, restart := false, leek := false, nbrec := 0
    scrSize := 0, gbMask := 0, sbMask := 0, leekBar := 0, lkEntry := 0, brecBase := 0, watch := 0, watchBuf := 0 }

/-- A group as it stands before its pod's values are filled in. -/
def Group.blank (uid : Nat) (desc : KDesc) (warps : List Warp) : Group :=
  { uid := uid, ctx := 0, cluster := 0, pod := 0, podAddr := 0, groupId := 0, groups := 1, spanId := 0, span := 0, prio := 0
    age := 0, desc := desc, scrBase := 0, level := 0, blocks := blockMap [], fifos := []
    bars := Vector.replicate 16 Barrier.init, names := Vector.replicate 16 none, warps := warps, leek := none, draining := []
    fault := false, lost := [], restart := none, ended := false }

/-- A context with a page table and nothing else. -/
def Context.blank (id : Nat) (ptRoot : W64) : Context :=
  { id := id, gen := 0, run := .running, ptRoot := ptRoot, trapBase := 0, eqBase := 0, lqBase := 0, edgeBase := 0, nEdge := 0
    spillBase := 0, spillSlots := 0, spillUsed := [], gathBase := 0, gathSize := 0, gathUsed := [], remMap := 0, deadline := 0
    vector := 0, debug := false, system := false, qbadEsc := false, ovft := 0x0555, wdCap := 0, wdLimit := 2 ^ 32, diag := 0, diagGroup := none
    saveArea := 0, perf := Vector.replicate 8 0, windows := [], hidden := [], hiddenBad := [], stopped := [], peers := [] }

/-- A partition of one quarter. -/
def Partition.blank (id quarter : Nat) : Partition :=
  { id := id, quarters := BitVec.ofNat 32 (2 ^ quarter), leaving := 0, prepared := false, t2Base := 0, t2Units := 0
    credits := 1, apxst := 0, ring := 0, failed := false }

/-- Where the placed program's page tables lie: two tables of 4 KiB. -/
def placedTables : Nat := 0x10000

/-- Where the placed instruction lies. -/
def placedCode : Nat := 0x1000

/-- Memory with a page table that maps the first 1 GiB onto itself with R, W and X (R393), and a program's bytes. -/
def placedMem (m : Memory) (code : List Byte) : Memory :=
  ((m.write placedTables (toBytesLE 8 (placedTables + 0x1001))).write (placedTables + 0x1000) (toBytesLE 8 0x11D)).write
    placedCode code

end Sys2Proof.Machine
end

