-- ==== Sys2Proof/Machine/Copy.lean ====
section
/-!
DEFINITION. Copies and publication (R165 to R170), bank modes and FIFOs (R172, R173, R317 to R319), with the events of the
copy engine and of a bank's drain.
-/

namespace Sys2Proof.Machine

/-! ### Checks of a range (R166, R328, R344) -/

/-- Check an address by its page or block alone, without the flow rules. -/
def State.resolveAny (s : State) (v : Viewer) (sp : Space) (ea : Nat) (acc : Access) : Resolved :=
  match s.resolve v sp ea 32 32 acc false with
  | .bad .apxflow _ => s.resolve v sp ea 32 32 acc true
  | r => r

/-- The worse of two failing addresses: the earlier kind of R150, then the lower address. -/
def worseAt (x y : Option (AddrFault × Nat × Nat)) : Option (AddrFault × Nat × Nat) :=
  match x, y with
  | none, y => y
  | x, none => x
  | some a, some b => if b.1.rank < a.1.rank || (b.1.rank == a.1.rank && b.2.1 < a.2.1) then some b else some a

/-- The fault of a range of `n` sectors, with its address and the page concerned. -/
def State.rangeFault (s : State) (v : Viewer) (sp : Space) (acc : Access) : Nat → Nat → Option (AddrFault × Nat × Nat)
  | _, 0 => none
  | ea, n + 1 =>
    let here := match s.resolveAny v sp (ea % 2 ^ 64) acc with
      | .bad f va => some (f, ea % 2 ^ 64, va)
      | .ok _ _ _ => none
    worseAt here (s.rangeFault v sp acc (ea + 32) n)

/-- Whether an address names approximate storage, as its page says or, in scratch, its block, whether the block's page is present
or not; none where no page or block says it (R315, R328, R344). -/
def State.kindAt (s : State) (v : Viewer) (sp : Space) (ea : Nat) (acc : Access) : Option Bool :=
  match s.resolve v sp ea 32 32 acc false with
  | .ok _ a _ => some a
  | .bad .apxflow _ => some true
  | .bad .absent _ => if sp == .scratch || v.grp.inWindow ea then some false else none
  | .bad _ _ => none

/-- The lowest source sector of a kind other than its destination's (R328, R344). -/
def State.kindClash (s : State) (v : Viewer) (sp : Space) : Nat → Nat → Nat → Option Nat
  | _, _, 0 => none
  | src, dst, n + 1 =>
    match s.kindAt v sp (src % 2 ^ 64) .read, s.kindAt v .generic (dst % 2 ^ 64) .write with
    | some a, some b => if a == b then s.kindClash v sp (src + 32) (dst + 32) n else some (src % 2 ^ 64)
    | _, _ => s.kindClash v sp (src + 32) (dst + 32) n

/-! ### Completion (R168) -/

/-- The fields of the control word (R165). -/
def ctlEv (x : W32) : Bool := x.getLsbD 21
def ctlBd (x : W32) : Bool := x.getLsbD 20
def ctlBar (x : W32) : Nat := bitsOf x.toNat 16 4
def ctlTag (x : W32) : Nat := bitsOf x.toNat 0 16

/-- Whether a control word is ILLEGAL in a group (R165). -/
def ctlBad (x : W32) (g : Group) : Bool := bitsOf x.toNat 22 10 != 0 || (ctlBd x && !g.desc.gbMask.getLsbD (ctlBar x))

/-- The completion record (R168). -/
def Copy.record (c : Copy) : BitVec 128 :=
  BitVec.ofNat 128 (c.dst.toNat * 2 ^ 64 + c.written % 2 ^ 32 * 2 ^ 32 + (if c.publish then 2 else 1) * 2 ^ 24
    + c.status.toNat * 2 ^ 16 + ctlTag c.ctl)

/-- Whether a copy has nothing more to move. -/
def Copy.over (c : Copy) : Bool := c.count ≤ c.done || c.status == 1 || c.status == 3

/-- Complete a copy: its record, unless the event queue is full, and its bytes to its barrier (R168). -/
def State.completeCopy (s : State) (c : Copy) : State :=
  if !c.over then s
  else if ctlEv c.ctl && 64 ≤ (s.cluster c.cluster).events.length then s
  else
    let s := { s with copies := s.copies.filter fun x => x.uid != c.uid }
    let s := if ctlEv c.ctl then
        s.mapCluster c.cluster fun k => { k with events := k.events ++ [{ group := c.group, record := c.record }] }
      else s
    if ctlBd c.ctl then s.addBytes (.gb c.group (ctlBar c.ctl)) (-(c.written : Int)) else s

/-- Start a copy; one with nothing to move completes at once where the event queue has room (R166, R168). -/
def State.startCopy (s : State) (mk : Nat → Copy) : State :=
  let (u, s) := s.newUid
  let c := mk u
  State.completeCopy { s with copies := s.copies ++ [c] } c

/-! ### Windows (R169, R170) -/

/-- The window that holds a range. -/
def Context.windowOf (c : Context) (lo n : Nat) : Option Window :=
  c.windows.find? fun w => w.base.toNat ≤ lo && lo + n ≤ w.base.toNat + w.size

/-! ### ACOPY (R165 to R167) -/

/-- The checks and start of a copy, shared by a warp and a Leek thread. The WINDOW fault of a SHADOW copy that leaves its window
reports the start of its destination: the spec does not name the address (R167; DESIGN CHOICE, notes/assumptions/19.md). -/
def acopyRun (s : State) (v : Viewer) (agent : AgentId) (f : MForm) (lanes : Mask) (dst src : W64) (count ctl : W32) : Effect :=
  let n := count.toNat
  let shadow := f.sub == 1
  if ctlBad ctl v.grp then .fault .illegal 0 lanes
  else if dst.toNat % 32 ≠ 0 then .fault .misalign dst lanes
  else if src.toNat % 32 ≠ 0 then .fault .misalign src lanes
  else if n % 32 ≠ 0 then .fault .misalign (zx64 count) lanes
  else
    let win := if shadow && n != 0 && (v.ctx.windowOf dst.toNat n).isNone then some (AddrFault.window, dst.toNat, dst.toNat) else none
    match worseAt (worseAt win (s.rangeFault v f.space .read src.toNat (n / 32))) (s.rangeFault v .generic .write dst.toNat (n / 32)) with
    | some (.absent, ea, va) =>
      -- the flow rules come before a page that is not present (R150)
      match s.kindClash v f.space src.toNat dst.toNat (n / 32) with
      | some a => .fault .apxflow (BitVec.ofNat 64 a) lanes
      | none =>
        let acc := if (s.rangeFault v f.space .read src.toNat (n / 32)).any (fun x => x.2.1 == ea) then Access.read else .write
        .absent va acc (BitVec.ofNat 64 ea) lanes
    | some (k, ea, _) => .fault k.cause (BitVec.ofNat 64 ea) lanes
    | none =>
      match s.kindClash v f.space src.toNat dst.toNat (n / 32) with
      | some a => .fault .apxflow (BitVec.ofNat 64 a) lanes
      | none => .done (s.startCopy fun u =>
        { uid := u, ctx := v.ctx.id, group := v.grp.uid, cluster := v.grp.cluster, agent := agent, shadow := shadow
          publish := false, scratch := f.space == .scratch, src := src, dst := dst, count := n, done := 0, written := 0
          ctl := ctl, status := 0, held := none })

/-- An instruction whose scalar operands are read once: an error in them kills every executing lane, and nothing else
happens (R18). -/
def Env.once (e : Env) (os : List Opnd) (k : Effect) : Effect :=
  if e.eff = 0 then .done e.s
  else
    let kills := e.w.operandKills os e.eff
    if kills.1 ≠ 0 then .done (e.s.killLanes e.c e.g e.w kills.1 kills.2 0) else k

def acopyBody (f : MForm) (e : Env) : Effect :=
  let x (r : Reg) : W64 := e.w.uni r none .n64
  e.once [Opnd.any f.data .n64, Opnd.any f.base .n64, Opnd.any f.index .n64]
    (acopyRun e.s e.viewer e.me f e.eff (x f.data) (x f.base + offOf f) (lo32 (x f.index)) (hi32 (x f.index)))

def acopyLeek (f : MForm) (e : LeekEnv) : Effect :=
  let x (r : Reg) : W64 := e.l.src .n64 r none
  if e.l.takes f.pneg f.pred then
    acopyRun e.s e.viewer e.me f 1 (x f.data) (x f.base + offOf f) (lo32 (x f.index)) (hi32 (x f.index))
  else .done e.s

def execAcopy (f : MForm) (s : State) : Host.Outcome State Fault Refusal := issue (.m .acopy f) s (acopyBody f) (acopyLeek f)

/-! ### The copy engine's events (R166, R167) -/

/-- Update one copy. -/
def State.mapCopy (s : State) (u : Nat) (f : Copy → Copy) : State :=
  { s with copies := s.copies.map fun c => if c.uid == u then f c else c }

/-- The write of one sector: into memory as an event, or into the window's invisible backing (R167). -/
def State.copyWrite (s : State) (c : Copy) (va place : Nat) (bs : List Byte) : State :=
  if c.shadow then
    s.mapCtx c.ctx fun x => { x with hidden := x.hidden.write va bs, hiddenBad := cleanGranules x.hiddenBad va bs.length }
  else s.store none place bs

/-- The next event of a copy: the read of its next source sector, or the write of the sector that it has read (R166, R167). -/
def State.moveSector (s : State) (c : Copy) : State :=
  match s.ctx? c.ctx, s.group? c.group with
  | some x, some g =>
    let v : Viewer := { ctx := x, grp := g }
    let stop := s.mapCopy c.uid fun c => { c with status := 1, held := none }
    match c.held with
    | none =>
      match s.resolveAny v (if c.scratch then .scratch else .generic) ((c.src.toNat + c.done) % 2 ^ 64) .read with
      | .ok p apx fill =>
        let s := s.fillTlb fill
        if (s.errorIn p 32 apx).isSome then s.mapCopy c.uid fun c => { c with done := c.done + 32, status := 2 }
        else s.mapCopy c.uid fun c => { c with held := some (s.mem.read p 32) }
      | .bad _ _ => stop
    | some bs =>
      let dst := (c.dst.toNat + c.done) % 2 ^ 64
      match s.resolveAny v .generic dst .write with
      | .ok q _ fill =>
        ((s.fillTlb fill).copyWrite c dst q bs).mapCopy c.uid fun c => { c with done := c.done + 32, written := c.written + 32, held := none }
      | .bad _ _ => stop
  | _, _ => s

/-- COPY_SECTOR: the next event of a copy (R167). -/
def execCopySector (copy : Nat) (s : State) : Host.Outcome State Fault Refusal :=
  match s.copies.find? fun c => c.uid == copy with
  | some c => .next (if c.over then s else s.moveSector c)
  | none => .next s

/-- COPY_COMPLETE (R168). -/
def execCopyComplete (copy : Nat) (s : State) : Host.Outcome State Fault Refusal :=
  match s.copies.find? fun c => c.uid == copy with
  | some c => .next (s.completeCopy c)
  | none => .next s

/-! ### WINSET (R169) -/

/-- Whether every 4 KiB page of a range has the WIN attribute. -/
def State.allWin (s : State) (c : Context) (base : Nat) : Nat → Bool
  | 0 => true
  | n + 1 => (match s.translate c (base + 4096 * n) with
      | .ok _ leaf _ => leafWin leaf
      | _ => false) && s.allWin c base n

/-- Whether a binding is ILLEGAL. -/
def Env.winsetBad (e : Env) (n base size : Nat) : Bool :=
  63 < n || base % 2 ^ 16 != 0 || size % 2 ^ 16 != 0 || 2 ^ 24 < size
    || (size != 0 && e.c.windows.any fun w => w.n != n && w.base.toNat < base + size && base < w.base.toNat + w.size)
    || !e.s.allWin e.c base (size / 4096)

/-- A range that a SHADOW copy still writes. -/
def Env.shadowRange (e : Env) (rs : List (Nat × Nat)) : Option (Nat × Nat) :=
  rs.find? fun r => r.1 < r.2 && e.s.shadowInto e.c.id r.1 r.2 e.s.nextUid

def winsetBody (f : MForm) (e : Env) : Effect :=
  e.once [Opnd.any f.data .n32, Opnd.any f.base .n64, Opnd.any f.index .n32] <|
    let n := (e.w.uni f.data none .n32).toNat
    let base := e.w.uni f.base none .n64 + offOf f
    let size := (e.w.uni f.index none .n32).toNat
    if e.winsetBad n base.toNat size then .fault .illegal 0 e.eff
    else
      let old := (e.c.windows.filter fun w => w.n == n).map fun w => (w.base.toNat, w.base.toNat + w.size)
      match e.shadowRange ((base.toNat, base.toNat + size) :: old) with
      | some r => .wait e.s (.shadows r.1 r.2 e.s.nextUid)
      | none => .done (e.s.mapCtx e.c.id fun c =>
        let rest := c.windows.filter fun w => w.n != n
        { c with windows := if size = 0 then rest else { n := n, base := base, size := size } :: rest })

def execWinset (f : MForm) (s : State) : Host.Outcome State Fault Refusal := issue (.m .winset f) s (winsetBody f) noLeek

/-! ### PUBLISH (R170) -/

/-- Entries moved by an offset into memory. -/
def Memory.put (m : Memory) (from' to' : Nat) (es : Memory) : Memory := es.foldl (fun m c => m.set (c.1 - from' + to') c.2) m

/-- Exchange one page of a window's backings: visible bytes at a place, hidden ones by virtual address. -/
def State.swapPage (s : State) (ctx va place : Nat) : State :=
  let vis := s.mem.slice place (place + 4096)
  let within (lo : Nat) (g : BadGranule) : Bool := lo ≤ g.at' && g.at' < lo + 4096
  let bad := s.poison.filter (within place)
  match s.ctx? ctx with
  | none => s
  | some c =>
    let hid := c.hidden.slice va (va + 4096)
    let hbad := c.hiddenBad.filter (within va)
    let move (from' to' : Nat) (g : BadGranule) : BadGranule := { g with at' := g.at' - from' + to' }
    State.mapCtx { s with
        mem := (s.mem.clear place (place + 4096)).put va place hid
        poison := hbad.map (move va place) ++ s.poison.filter fun g => !within place g } ctx
      fun c => { c with
        hidden := (c.hidden.clear va (va + 4096)).put place va vis
        hiddenBad := bad.map (move place va) ++ c.hiddenBad.filter fun g => !within va g }

/-- Exchange `n` pages from an address up, collecting the places of the visible ones. A page that no longer translates has no
visible backing to exchange: the spec is silent, and the model leaves its contents, visible and hidden, as they are, with no
fault (DESIGN CHOICE, notes/assumptions/19.md). -/
def State.swapPages (s : State) (c : Context) (va : Nat) : Nat → State × List Nat
  | 0 => (s, [])
  | n + 1 =>
    let r := s.swapPages c va n
    match s.translate c (va + 4096 * n) with
    | .ok place _ fill => ((r.1.fillTlb fill).swapPage c.id (va + 4096 * n) place, place :: r.2)
    | _ => r

/-- The sectors of speculating warps' read sets that lie in some pages. -/
def State.readSectorsIn (s : State) (pages : List Nat) : List Nat :=
  (s.groups.flatMap fun g => g.warps.flatMap fun w => match w.spec with
    | some p => p.reads
    | none => []).filter fun x => pages.any fun p => p ≤ 32 * x && 32 * x < p + 4096

/-- The swap as one event, which conflicts with every read of the window (R170, R212). -/
def State.swapWindow (s : State) (c : Context) (w : Window) (who : AgentId) : State :=
  let (t, pages) := s.swapPages c w.base.toNat (w.size / 4096)
  t.conflict (some who) (s.readSectorsIn pages)

def publishBody (f : MForm) (e : Env) : Effect :=
  e.once [Opnd.any f.base .n64, Opnd.any f.index .n32] <|
    let va := e.w.uni f.base none .n64 + offOf f
    let ctl := lo32 (e.w.uni f.index none .n32)
    if ctlBad ctl e.g then .fault .illegal 0 e.eff
    else match e.c.windowOf va.toNat 1 with
      | none => .fault .window va e.eff
      | some w =>
        let lo := w.base.toNat
        let bound := match e.w.wait with
          | .shadows _ _ b => b
          | _ => e.s.nextUid
        if e.s.shadowInto e.c.id lo (lo + w.size) bound then .wait e.s (.shadows lo (lo + w.size) bound)
        else .done ((e.s.swapWindow e.c w e.me).startCopy fun u =>
          { uid := u, ctx := e.c.id, group := e.g.uid, cluster := e.g.cluster, agent := e.me, shadow := false, publish := true
            scratch := false, src := 0, dst := w.base, count := 0, done := 0, written := 0, ctl := ctl, status := 0
            held := none })

def execPublish (f : MForm) (s : State) : Host.Outcome State Fault Refusal := issue (.m .publish f) s (publishBody f) noLeek

/-! ### BANKSET (R172, R317, R318) -/

/-- Zero a bank. -/
def State.zeroBank (s : State) (cluster bank : Nat) : State := s.zero (bankRange cluster bank).1 (bankRange cluster bank).2

/-- Update a block's entry, and empty or drop its FIFO. -/
def Group.setBlock (g : Group) (n : Nat) (f : BlockEntry → BlockEntry) (fifo : Bool) : Group :=
  let rest := g.fifos.filter fun x => x.1 != n
  { g with blocks := vmod g.blocks n f, fifos := if fifo then (n, []) :: rest else rest }

/-- The ranges of places that serve a block. -/
def State.blockRanges (s : State) (c : Context) (g : Group) (n : Nat) : List (Nat × Nat) :=
  let b := g.block n
  if b.spill then (List.range 8).filterMap fun i => match s.translate c (spillAddr c b.slot + 4096 * i) with
    | .ok place _ _ => some (place, place + 4096)
    | _ => none
  else [bankRange g.cluster b.bank.toNat]

/-- Whether a speculating warp has read or buffered a sector in some ranges. -/
def Warp.specIn (w : Warp) (rs : List (Nat × Nat)) : Bool :=
  w.spec.any fun p => (p.reads ++ p.bufferSectors).any fun x => rs.any fun r => r.1 ≤ 32 * x && 32 * x < r.2

/-- The BANKSET event meets speculation: a warp of the group that has read or buffered a sector of the block rolls back, since
its accesses become events only after it (R212, R215, R318; notes/assumptions/24.md). -/
def State.rollBlock (s : State) (c : Context) (g : Group) (n : Nat) : State :=
  let hit := Warp.specIn (rs := s.blockRanges c g n)
  (s.mapGroup g.uid fun g => { g with warps := g.warps.map fun w => if hit w then w.rollback else w }).perfAdd c.id 1
    (g.warps.filter hit).length

/-- The modes of BANKSET by SUB (R172). -/
def State.setBank (s : State) (g : Group) (mode n : Nat) : State :=
  let b := g.block n
  match mode with
  | 0 =>
    let s := s.mapGroup g.uid fun g => g.setBlock n (fun _ => BlockEntry.unmapped n) false
    if b.spill then s.mapCtx g.ctx fun c => { c with spillUsed := c.spillUsed.erase b.slot.toNat } else s
  | 1 => (s.zeroBank g.cluster b.bank.toNat).mapGroup g.uid fun g => g.setBlock n (fun b => { b with fifo := false }) false
  | _ => s.mapGroup g.uid fun g => g.setBlock n (fun b => { b with fifo := true }) true

def banksetBody (f : MForm) (e : Env) : Effect :=
  e.once [Opnd.any f.data .n32] <|
    let n := (e.w.uni f.data none .n32).toNat
    let mode := f.sub.toNat
    let b := e.g.block n
    if 31 < n || !b.valid || (b.spill && mode != 0) then .fault .illegal 0 e.eff
    else if b.spill || e.w.wait == .drain b.bank.toNat || e.w.wait == .quiet n then
      -- accesses begun since the drain complete first, in the old mode
      if e.s.blockBusy e.g n then .wait e.s (.quiet n) else .done ((e.s.rollBlock e.c e.g n).setBank e.g mode n)
    else .wait (e.s.mapCluster e.g.cluster fun k => { k with drains := b.bank.toNat :: k.drains }) (.drain b.bank.toNat)

def execBankset (f : MForm) (s : State) : Host.Outcome State Fault Refusal := issue (.m .bankset f) s (banksetBody f) noLeek

/-- Whether accesses to the block that a bank serves are still to take place (R318). -/
def State.bankBusy (s : State) (cluster bank : Nat) : Bool :=
  s.groups.any fun g => g.cluster == cluster && (List.range 32).any fun n =>
    (g.block n).valid && !(g.block n).spill && (g.block n).bank.toNat == bank && s.blockBusy g n

/-- BANK_DRAIN_COMPLETE: a bank that a placement took is zeroed and its group comes nearer to its start; a bank that a
BANKSET waits for lets it go on, once the accesses issued before have taken place (R172, R317, R318). -/
def execBankDrainComplete (cluster bank : Nat) (s : State) : Host.Outcome State Fault Refusal :=
  let (lo, hi) := bankRange cluster bank
  let mine (g : Group) : Bool := g.cluster == cluster && g.draining.contains bank
  if s.groups.any mine then
    .next { (s.zero lo hi) with
      groups := s.groups.map fun g => if mine g then { g with draining := g.draining.filter fun b => b != bank } else g }
  else if (s.cluster cluster).drains.contains bank && !s.bankBusy cluster bank then
    .next (s.mapCluster cluster fun k => { k with drains := k.drains.filter fun b => b != bank })
  else .next s

/-! ### FIFOs (R173, R319) -/

/-- The slots that a push adds, or the fault of its block. -/
def fifoFault (g : Group) (n : Nat) : Option Cause :=
  let b := g.block n
  if 31 < n || !b.valid || !b.fifo then some .illegal else if b.apx then some .apxflow else none

/-- Update a FIFO. -/
def State.mapFifo (s : State) (uid n : Nat) (f : List FifoSlot → List FifoSlot) : State :=
  s.mapGroup uid fun g => { g with fifos := (n, f (g.fifo n)) :: g.fifos.filter fun x => x.1 != n }

/-- The slot of one register: executing lanes supply their words, other lanes zero. -/
def slotOf (w : Warp) (n : Nat) (m : Mask) : FifoSlot :=
  { bytes := (List.finRange 64).flatMap fun (l : Fin 64) => toBytesLE 4 (if m.getLsbD l then ((w.vreg n).lanes[l]).toNat else 0)
    bad := [] }

/-- The address that the record of an error in a FIFO slot holds: the scratch offset of its block (DESIGN CHOICE,
notes/assumptions/24.md). -/
def fifoAddr (n : Nat) : W64 := BitVec.ofNat 64 (2 ^ 15 * n)

/-- The errors of a slot that a warp's pop consumes: each bad granule holds the words of two lanes (R18, R401, R405). -/
def FifoSlot.errs (x : FifoSlot) (n : Nat) (m : Mask) : List (Mask × Nat × W64) :=
  x.bad.map fun g => (BitVec.ofNat 64 (3 * 2 ^ (2 * g)) &&& m, 2, fifoAddr n)

def fpushBody (f : MForm) (e : Env) : Effect :=
  let data := Opnd.of f.data f.fmt
  match e.w.operandFault e.g.desc.apxFrom f.a [data] [] [] with
  | some c => e.early c
  | none =>
    e.once [Opnd.any f.index .n32] <|
      let n := (e.w.uni f.index none .n32).toNat
      let kills := e.w.operandKills [data] e.eff
      match fifoFault e.g n, f.data with
      | some c, _ => .fault c 0 e.eff
      | none, .v r =>
        let m := e.eff &&& ~~~kills.1
        let slots := slotOf e.w r.val m :: if f.fmt.wide then [slotOf e.w (r.val + 1) m] else []
        if (e.g.fifo n).length + slots.length ≤ 128 then
          .done ((e.s.mapFifo e.g.uid n fun q => q ++ slots).killLanes e.c e.g e.w kills.1 kills.2 0)
        else .wait e.s (.fifoRoom n slots.length)
      | none, _ => e.early .illegal

def fpushLeek (f : MForm) (e : LeekEnv) : Effect :=
  let n := (lo32 (e.l.src .n32 f.index none)).toNat
  if !e.l.takes f.pneg f.pred then .done e.s
  else match fifoFault e.g n with
    | some c => .fault c 0 1
    | none =>
      if (e.g.fifo n).length < 128 then
        .done (e.s.mapFifo e.g.uid n fun q =>
          q ++ [{ bytes := toBytesLE 8 (e.l.src .n64 f.data none).toNat ++ List.replicate 248 0, bad := [] }])
      else .wait e.s (.fifoRoom n 1)

def execFpush (f : MForm) (s : State) : Host.Outcome State Fault Refusal := issue (.m .fpush f) s (fpushBody f) (fpushLeek f)

/-- A lane's word of a slot. -/
def slotWord (slot : FifoSlot) (l : Fin 64) : Nat := ofBytesLE ((slot.bytes.drop (4 * l.val)).take 4)

def fpopBody (f : MForm) (e : Env) : Effect :=
  match e.w.operandFault e.g.desc.apxFrom f.a [] [] [f.data] with
  | some c => e.early c
  | none =>
    let k := if f.fmt.wide then 2 else 1
    let put (s : State) (vals : Fin 64 → W64) (kills : Mask × Nat) (errs : List (Mask × Nat × W64)) : Effect :=
      e.deliverLoad s e.w f ((List.finRange 64).map fun l => (l, vals l)) kills errs
    let n := (e.w.uni f.index none .n32).toNat
    let kills := e.w.operandKills [Opnd.any f.index .n32] e.eff
    if e.eff = 0 || kills.1 ≠ 0 then put e.s (fun _ => 0) kills []
    else match fifoFault e.g n with
      | some c => .fault c 0 e.eff
      | none =>
        if (e.g.fifo n).length < k then .wait e.s (.fifoData n k)
        else
          let empty : FifoSlot := { bytes := [], bad := [] }
          let lo := (e.g.fifo n).getD 0 empty
          let hi := if f.fmt.wide then (e.g.fifo n).getD 1 empty else empty
          put (e.s.mapFifo e.g.uid n fun q => q.drop k)
            (fun l => BitVec.ofNat 64 (slotWord lo l + slotWord hi l * 2 ^ 32)) (0, 0) (lo.errs n e.eff ++ hi.errs n e.eff)

def fpopLeek (f : MForm) (e : LeekEnv) : Effect :=
  let n := (lo32 (e.l.src .n32 f.index none)).toNat
  if !e.l.takes f.pneg f.pred then .done e.s
  else match fifoFault e.g n with
    | some c => .fault c 0 1
    | none =>
      match e.g.fifo n with
      | [] => .wait e.s (.fifoData n 1)
      | x :: _ =>
        let s := e.s.mapFifo e.g.uid n List.tail
        if x.bad.contains 0 then .gone (s.killLeek e.c e.g e.l 2 (fifoAddr n))
        else .done (s.mapLeek e.g.uid fun l => l.writeG f.data (BitVec.ofNat 64 (ofBytesLE (x.bytes.take 8))))

def execFpop (f : MForm) (s : State) : Host.Outcome State Fault Refusal := issue (.m .fpop f) s (fpopBody f) (fpopLeek f)

end Sys2Proof.Machine
end

