-- ==== Sys2Proof/Machine/Sync.lean ====
section
/-!
DEFINITION. Barriers as instructions (R198 to R209), the emission of pods and join counters (R216 to R218), event records,
the clock and the fill of queues (R219, R220), with the expiry of a timed wait.
-/

namespace Sys2Proof.Machine

/-! ### Selectors (R198) -/

/-- The barrier that a selector names for an agent; none where it is ILLEGAL (R198, R205, R209). -/
def barOf (g : Group) (leek item gbOnly : Bool) (x : W32) : Option BarId :=
  let n := x.toNat % 256
  if !bselOk x item then none
  else if n < 16 then
    if g.desc.gbMask.getLsbD n && (!leek || g.desc.leekBar.getLsbD n) then some (.gb g.uid n) else none
  else if leek || gbOnly || !g.desc.sbMask.getLsbD (n - 16) then none
  else some (.sb g.span (n - 16))

/-- The selector of a warp's instruction: the trailing word, or SRC0. -/
def Env.bsel (e : Env) (f : LForm) : W32 :=
  match f.imm with
  | some x => x
  | none => lo32 (e.w.uni f.src0 none .n32)

/-- The selector of a Leek thread's instruction. -/
def LeekEnv.bsel (e : LeekEnv) (f : LForm) : W32 :=
  match f.imm with
  | some x => x
  | none => lo32 (e.l.src .n32 f.src0 none)

/-- A barrier instruction of a warp: it acts whatever EXEC holds (R199), unless an error in an operand kills its lanes,
when its uniform destination is zero (R18). A selector in the trailing word that names no barrier is ILLEGAL by the encoding and
the descriptor alone, before any operand is read (R57, R198). -/
def Env.withBar (e : Env) (f : LForm) (item gbOnly : Bool) (zero : Warp → Warp) (k : BarId → Effect) : Effect :=
  let kills := e.w.operandKills [Opnd.any f.src0 .n32, Opnd.any f.src1 .n32] e.eff
  if f.imm.isSome && (barOf e.g false item gbOnly (e.bsel f)).isNone then .fault .illegal 0 e.live
  else if kills.1 ≠ 0 then .done ((e.put (zero e.w)).killLanes e.c e.g e.w kills.1 kills.2 0)
  else match barOf e.g false item gbOnly (e.bsel f) with
    | none => .fault .illegal 0 e.live
    | some id => k id

/-- A barrier instruction of a Leek thread. -/
def LeekEnv.withBar (e : LeekEnv) (f : LForm) (item gbOnly : Bool) (k : BarId → Effect) : Effect :=
  match barOf e.g true item gbOnly (e.bsel f) with
  | none => .fault .illegal 0 1
  | some id => k id

/-! ### Arriving and waiting (R203, R206) -/

/-- What a barrier operation comes to: done, a wait, or a phase that OVERDELIVERY stopped. -/
inductive BarOut where
  | done (s : State)
  | wait (s : State) (w : Wait)
  | over

/-- BARARR (R203). -/
def State.barArrive (s : State) (id : BarId) (a : AgentId) : BarOut :=
  match s.bar? id with
  | none => .done s
  | some b =>
    if b.arrived.contains a then (if b.stopped then .over else .wait s (.rearrive id b.phase)) else .done (s.arrive id a)

/-- BARWAIT (R203, R206). -/
def State.barWait (s : State) (id : BarId) (a : AgentId) : BarOut :=
  match s.bar? id with
  | none => .done s
  | some b =>
    match b.latestOf a with
    | none => .done s
    | some n => if n < b.phase then .done s else if b.stopped then .over else .wait s (.phase id n)

/-- BARSYNC: BARARR, then BARWAIT; issued again after its arrival, the BARWAIT alone (R203). A phase that this arrival stops
is met at the wait. -/
def State.barSync (s : State) (id : BarId) (a : AgentId) (arrived : Bool) : BarOut :=
  if arrived then s.barWait id a
  else match s.barArrive id a with
    | .done t => match t.barWait id a with
      | .over => .wait t (.phase id (((t.bar? id).map Barrier.phase).getD 0))
      | x => x
    | x => x

/-- Whether a wait is the one after an arrival. -/
def Wait.afterArrival : Wait → Bool
  | .phase _ _ => true
  | _ => false

/-- The effect of a barrier operation of a warp. -/
def Env.barEffect (e : Env) (f : LForm) : BarOut → Effect
  | .done s => .done s
  | .wait s w => .wait s w
  | .over => .fault .overdelivery (zx64 (e.bsel f)) e.live

/-- The effect of a barrier operation of a Leek thread. -/
def LeekEnv.barEffect (e : LeekEnv) (f : LForm) : BarOut → Effect
  | .done s => .done s
  | .wait s w => .wait s w
  | .over => .fault .overdelivery (zx64 (e.bsel f)) 1

/-! ### BARARR, BARWAIT, BARSYNC -/

def bararrBody (f : LForm) (e : Env) : Effect :=
  e.withBar f false false id fun b => e.barEffect f (e.s.barArrive b e.me)

def bararrLeek (f : LForm) (e : LeekEnv) : Effect :=
  e.withBar f false false fun b => e.barEffect f (e.s.barArrive b e.me)

def execBararr (f : LForm) (s : State) : Host.Outcome State Fault Refusal :=
  issue (.l .bararr f) s (bararrBody f) (bararrLeek f)

/-- Whether a wait speculates: `.S` under SPEC, unless a roll-back left this wait (R209, R213). -/
def Env.mayspec (e : Env) (f : LForm) : Bool := f.sub == 1 && e.g.desc.spec && e.w.noSpec != some e.w.pc

/-- The checkpoint of a speculative wait, with the errors of what it saves (R210). -/
def Warp.checkpoint (w : Warp) (bar phase : Nat) : Spec :=
  { bar := bar, phase := phase, pc := w.pc, sregs := w.s, ks := w.k, exec := w.exec, join := w.join, sigw := w.sigw
    flags := w.flags, shadows := [], stores := [], converted := [], reads := []
    marks := w.bad.filter fun b => match b with
      | .s _ => true
      | _ => false }

/-- The end of a wait on a barrier: over, waiting, or speculating past a phase that has not stopped; a rolled-back wait that is
over is forgotten (R206, R209). -/
def Env.waitEffect (e : Env) (f : LForm) (x : BarOut) : Effect :=
  match x with
  | .done s => .done (s.mapWarp e.g.uid e.w.id fun w => if w.noSpec == some e.w.pc then { w with noSpec := none } else w)
  | .wait s (.phase (.gb u n) p) =>
    if e.mayspec f && !(s.bar? (.gb u n)).any Barrier.stopped then .done (s.mapWarp e.g.uid e.w.id fun w => { w with spec := some (e.w.checkpoint n p) })
    else .wait s (.phase (.gb u n) p)
  | x => e.barEffect f x

/-- The state of an issued wait: its warp's latches are invalid (R49, R203). -/
def Env.dropped (e : Env) : State := e.put e.w.dropLatches

def barwaitBody (f : LForm) (e : Env) : Effect :=
  e.withBar f false (f.sub == 1) Warp.dropLatches fun b => e.waitEffect f (e.dropped.barWait b e.me)

def barwaitLeek (f : LForm) (e : LeekEnv) : Effect := e.withBar f false false fun b => e.barEffect f (e.s.barWait b e.me)

def execBarwait (f : LForm) (s : State) : Host.Outcome State Fault Refusal :=
  issue (.l .barwait f) s (barwaitBody f) (barwaitLeek f)

def barsyncBody (f : LForm) (e : Env) : Effect :=
  e.withBar f false (f.sub == 1) Warp.dropLatches fun b =>
    e.waitEffect f (e.dropped.barSync b e.me (e.w.wait.afterArrival || e.w.noSpec == some e.w.pc))

def barsyncLeek (f : LForm) (e : LeekEnv) : Effect :=
  e.withBar f false false fun b => e.barEffect f (e.s.barSync b e.me e.l.wait.afterArrival)

def execBarsync (f : LForm) (s : State) : Host.Outcome State Fault Refusal :=
  issue (.l .barsync f) s (barsyncBody f) (barsyncLeek f)

/-! ### BARWAITT (R204) -/

/-- What a timed wait comes to: its code, a wait, or a stopped phase. -/
inductive TimedOut where
  | code (n : Nat)
  | wait (w : Wait)
  | over

/-- BARWAITT with `limit` cycles from its issue: 0 completed, 1 timed out, 3 timed out while a member is debug-blocked. -/
def State.barTimed (s : State) (id : BarId) (a : AgentId) (limit : Nat) (wt : Wait) : TimedOut :=
  match s.bar? id with
  | none => .code 0
  | some b =>
    match wt with
    | .expired _ n d blocked => if n < b.phase && b.doneAt ≤ d then .code 0 else .code (if blocked then 3 else 1)
    | .timed _ n d =>
      if n < b.phase then .code 0 else if b.stopped then .over else .wait (.timed id n d)
    | _ =>
      match b.latestOf a with
      | none => .code 0
      | some n =>
        if n < b.phase then .code 0
        else if b.stopped then .over
        else if limit = 0 then .code (if s.someBlocked id then 3 else 1)
        else .wait (.timed id n (s.clock + limit))

/-- A result of BARWAITT in its destination. -/
def Warp.putCode (w : Warp) (dst : Reg) (n : Nat) : Warp :=
  match dst with
  | .k k => w.writeK k (BitVec.allOnes 64) (if n = 0 then BitVec.allOnes 64 else 0)
  | .s k => w.putS k.val (BitVec.ofNat 32 n)
  | _ => w

def barwaittBody (f : LForm) (e : Env) : Effect :=
  let zero (w : Warp) : Warp := match f.dst with
    | .s k => w.dropLatches.putS k.val 0
    | .k k => w.dropLatches.writeK k (BitVec.allOnes 64) 0
    | _ => w.dropLatches
  e.withBar f false false zero fun b =>
    match e.s.barTimed b e.me (lo32 (e.w.uni f.src1 none .n32)).toNat e.w.wait with
    | .code n => .done (e.put (e.w.dropLatches.putCode f.dst n))
    | .wait w => .wait e.dropped w
    | .over => .fault .overdelivery (zx64 (e.bsel f)) e.live

def barwaittLeek (f : LForm) (e : LeekEnv) : Effect :=
  e.withBar f false false fun b =>
    match e.s.barTimed b e.me (lo32 (e.l.src .n32 f.src1 none)).toNat e.l.wait with
    | .code n => .done (e.put (match f.dst with
      | .k k => e.l.writeK k (n == 0)
      | r => e.l.writeG r (BitVec.ofNat 64 n)))
    | .wait w => .wait e.s w
    | .over => .fault .overdelivery (zx64 (e.bsel f)) 1

def execBarwaitt (f : LForm) (s : State) : Host.Outcome State Fault Refusal :=
  issue (.l .barwaitt f) s (barwaittBody f) (barwaittLeek f)

/-- BARWAITT_TIMEOUT: the limit of an agent's timed wait has come (R204). -/
def execBarwaittTimeout (a : AgentId) (s : State) : Host.Outcome State Fault Refusal :=
  match a with
  | .warp uid wid => .next (s.mapWarp uid wid fun w => { w with wait := s.expire s.clock w.wait })
  | .leek uid => .next (s.mapLeek uid fun l => { l with wait := s.expire s.clock l.wait })

/-! ### BAREXP (R205) and BARSTAT (R207) -/

def barexpBody (f : LForm) (e : Env) : Effect :=
  e.withBar f false true id fun b => .done (e.s.addBytes b (lo32 (e.w.uni f.src1 none .n32)).toNat)

def barexpLeek (f : LForm) (e : LeekEnv) : Effect :=
  e.withBar f false true fun b => .done (e.s.addBytes b (lo32 (e.l.src .n32 f.src1 none)).toNat)

def execBarexp (f : LForm) (s : State) : Host.Outcome State Fault Refusal :=
  issue (.l .barexp f) s (barexpBody f) (barexpLeek f)

/-- A doubleword of a list of members: bit w for warp `lo + w`, and the Leek thread's bit where it is given. -/
def memberBits (ms : List Member) (lo : Nat) (leekBit : Option Nat) (p : Member → Bool) : W64 :=
  ms.foldl (fun x m =>
    if !p m then x
    else match m.warp with
      | some w => if lo ≤ w && w < lo + 64 then x ||| BitVec.ofNat 64 (2 ^ (w - lo)) else x
      | none => match leekBit with
        | some b => x ||| BitVec.ofNat 64 (2 ^ b)
        | none => x) 0

/-- The snapshot of a barrier as a group sees it (R207). -/
def State.barSnapshot (s : State) (uid : Nat) (id : BarId) (item : Nat) : W64 :=
  match s.bar? id with
  | none => 0
  | some b =>
    let ms := (s.members id).filter fun m => m.group == uid
    let arrived (m : Member) : Bool := b.arrived.contains m.agent
    let departed (m : Member) : Bool := m.departed
    let blocked (m : Member) : Bool := m.blocked b
    let n (p : Member → Bool) : Nat := (ms.filter p).length % 256
    match item with
    | 0 => BitVec.ofNat 64 (n blocked * 2 ^ 40 + n departed * 2 ^ 32 + n arrived * 2 ^ 24 + ms.length % 256 * 2 ^ 16
        + b.phase % 2 ^ 16)
    | 1 => memberBits ms 0 none arrived
    | 2 => memberBits ms 64 (some 32) arrived
    | 3 => memberBits ms 0 none departed
    | 4 => memberBits ms 64 (some 32) departed
    | 5 => memberBits ms 0 none blocked
    | 6 => memberBits ms 64 (some 32) blocked
    | _ => match id with
      | .gb _ _ => BitVec.ofInt 64 b.bytes
      | .sb _ _ => 0

/-- Write a uniform doubleword result to an s pair. -/
def Warp.putPair (w : Warp) (dst : Reg) (x : W64) : Warp :=
  match dst with
  | .s n => w.writeS n.val true x
  | _ => w

def barstatBody (f : LForm) (e : Env) : Effect :=
  e.withBar f true false (fun w => w.putPair f.dst 0) fun b =>
    .done (e.put (e.w.putPair f.dst (e.s.barSnapshot e.g.uid b (bitsOf (e.bsel f).toNat 8 3))))

def barstatLeek (f : LForm) (e : LeekEnv) : Effect :=
  e.withBar f true false fun b =>
    .done (e.put (e.l.writeG f.dst (e.s.barSnapshot e.g.uid b (bitsOf (e.bsel f).toNat 8 3))))

def execBarstat (f : LForm) (s : State) : Host.Outcome State Fault Refusal :=
  issue (.l .barstat f) s (barstatBody f) (barstatLeek f)

/-! ### EMIT (R217) -/

/-- The words of a pod that a register's sixteen words give. -/
def podBytes (word : Nat → W32) : List Byte := (List.range 16).flatMap fun j => toBytesLE 4 (word j).toNat

/-- The sixteen operands that hold the words of EMIT's pods. -/
def podOs (f : LForm) : List Opnd :=
  (List.range 16).filterMap fun j => match f.src0 with
    | .v n => if h : n.val + j < 256 then some (Opnd.any (.v ⟨n.val + j, h⟩) .b32) else none
    | .s n => if h : n.val + j < 64 then some (Opnd.any (.s ⟨n.val + j, h⟩) .b32) else none
    | _ => none

/-- The pods of an EMIT by lane; a scalar one belongs to the lowest lane. -/
def Env.pods (e : Env) (f : LForm) (m : Mask) : List (Fin 64 × List Byte) :=
  match f.src0 with
  | .v n => (Mask.lanes m).map fun l => (l, podBytes fun j => (e.w.vreg (n.val + j)).lanes[l])
  | .s n => ((Mask.lanes m).take 1).map fun l => (l, podBytes fun j => e.w.sreg (n.val + j))
  | _ => []

/-- The lanes of a fault that some pods meet: of a scalar pod, every executing lane. -/
def Env.podLanes (e : Env) (f : LForm) (ls : List (Fin 64)) : Mask :=
  match f.src0 with
  | .s _ => if ls.isEmpty then 0 else e.eff
  | _ => laneMask ls

/-- The pod checks of R217 that ask for ILLEGAL. -/
def Pod.illegal (p : Pod) : Bool := bitsOf p.shape.toNat 53 11 != 0 || 2 ≤ p.kind

/-- The check of a counter's address: aligned, outside the scratch window, and a page that allows an atomic (R217, R218). -/
def State.resolveCounter (s : State) (v : Viewer) (a : W64) : Resolved :=
  if a.toNat % 8 ≠ 0 then .bad .misalign a.toNat
  else if v.grp.inWindow a.toNat then .bad .perm a.toNat
  else s.resolve v .generic a.toNat 8 8 .atomic false

/-- The check of a pod's addresses: MISALIGN of ENTRY, then its counter's. -/
def Env.podAddress (e : Env) (p : Pod) : W64 × Resolved :=
  if p.entry.toNat % 4 ≠ 0 then (p.entry, .bad .misalign p.entry.toNat)
  else if p.join = 0 then (0, .ok 0 false [])
  else (p.join, e.s.resolveCounter e.viewer p.join)

/-- The destination queues of some pods with how many go to each. -/
def emitNeeds (qsel : W32) (pods : List (Fin 64 × List Byte)) : List (QueueRef × Nat) :=
  let qs := pods.map fun p => qselQueue qsel (Pod.ofBytes p.2).prio
  qs.eraseDups.map fun q => (q, (qs.filter fun x => x == q).length)

/-- Whether more pods go to a queue than it has slots. -/
def State.overCapacity (s : State) (c : Context) (x : QueueRef × Nat) : Bool :=
  match s.queue? c x.1 with
  | some d => d.ok && decide (d.cap < x.2)
  | none => false

/-- Queues found broken stop (R298). -/
def State.stopBroken (s : State) (c : Context) (qs : List QueueRef) : State :=
  qs.foldl (fun s q => match s.queue? c q with
    | some d => if d.ok then s else s.stopQueue c q
    | none => s) s

/-- One pod emitted: its counter counts it, then it is enqueued (R217). -/
def State.emitPod (s : State) (ctx : Nat) (qsel : W32) (bs : List Byte) : State :=
  match s.ctx? ctx with
  | none => s
  | some c =>
    let p := Pod.ofBytes bs
    let q := qselQueue qsel p.prio
    let slot : W64 := match s.queue? c q with
      | some d => BitVec.ofNat 64 (d.slot d.tail)
      | none => 0
    (s.joinEvent p.join (.inc ctx p.join slot)).enqueue c q bs

/-- The fault that the pods of an EMIT meet (R57, R217). -/
def Env.emitFault (e : Env) (f : LForm) (qsel : W32) (pods : List (Fin 64 × List Byte)) (m : Mask) : Option Effect :=
  let bad := pods.filter fun p => (Pod.ofBytes p.2).illegal
  if !qselValid qsel e.c.nEdge then some (.fault .illegal 0 e.eff)
  else if bad.isEmpty && (emitNeeds qsel pods).any (e.s.overCapacity e.c) then some (.fault .illegal 0 m)
  else if !bad.isEmpty then
    some (.fault .illegal 0 (if (emitNeeds qsel pods).any (e.s.overCapacity e.c) then m else e.podLanes f (bad.map Prod.fst)))
  else match reportFault .atomic (pods.map fun p => (p.1, e.podAddress (Pod.ofBytes p.2))) with
    | some (.fault c a ls) => some (.fault c a (e.podLanes f (Mask.lanes ls)))
    | some (.absent va acc a ls) => some (.absent va acc a (e.podLanes f (Mask.lanes ls)))
    | x => x

/-- Write a mask result in the executing lanes. -/
def Warp.putFlagK (w : Warp) (dst : Reg) (m : Mask) (b : Bool) : Warp :=
  match dst with
  | .k n => w.writeK n m (if b then BitVec.allOnes 64 else 0)
  | _ => w

def emitBody (f : LForm) (e : Env) : Effect :=
  let os := podOs f
  if os.any fun o => e.w.isApx e.g.desc.apxFrom o.reg then e.early .apxflow
  else if e.eff = 0 then .done e.s
  else
    let qk := e.w.operandKills [Opnd.any f.src1 .n32] e.eff
    let kills := e.w.operandKills (Opnd.any f.src1 .n32 :: os) e.eff
    let m := e.eff &&& ~~~kills.1
    let qsel := lo32 (e.w.uni f.src1 f.imm .n32)
    let pods := if qk.1 = 0 then e.pods f m else []
    let kill (s : State) : State := s.killLanes e.c e.g e.w kills.1 kills.2 0
    if pods.isEmpty then .done (kill (e.put (e.w.putFlagK f.dst e.eff false)))
    else match e.emitFault f qsel pods m with
      | some x => x
      | none =>
      -- events of a counter that wait for a page are not overtaken (R217, R408)
      match pods.find? fun p => (Pod.ofBytes p.2).join != 0 && e.s.counterHeld e.c.id (Pod.ofBytes p.2).join with
      | some p => .wait e.s (.counter (Pod.ofBytes p.2).join)
      | none =>
        let needs := emitNeeds qsel pods
        let s := e.s.stopBroken e.c (needs.map Prod.fst)
        let c := (s.ctx? e.c.id).getD e.c
        if needs.all fun x => x.2 ≤ s.roomIn c x.1 then
          let s := pods.foldl (fun s p => s.emitPod e.c.id qsel p.2) s
          .done (kill (s.mapWarp e.g.uid e.w.id fun w => (w.putFlagK f.dst kills.1 false).putFlagK f.dst m true))
        else if f.sub = 0 then .wait s (.queues needs)
        else .done (kill (s.mapWarp e.g.uid e.w.id fun w => w.putFlagK f.dst e.eff false))

def execEmit (f : LForm) (s : State) : Host.Outcome State Fault Refusal := issue (.l .emit f) s (emitBody f) noLeek

/-! ### JOINDEC (R218) -/

/-- The atomic event: the old count, and the state after it with any release. -/
def State.joinDec (s : State) (who : AgentId) (ctx : Nat) (a : W64) (place : Nat) (n : W32) : W32 × State :=
  let x := s.mem.read64 place
  let old := lo32 x
  if old < n then (old, s)
  else
    let s := s.store (some who) place (toBytesLE 8 (pair64 (old - n) (hi32 x)).toNat)
    (old, if old = n && n ≠ 0 && !x.getLsbD 63 then s.releaseRead ctx a else s)

/-- An s destination written once. -/
def Warp.putWord (w : Warp) (dst : Reg) (x : W32) : Warp :=
  match dst with
  | .s n => w.putS n.val x
  | _ => w

def joindecBody (f : LForm) (e : Env) : Effect :=
  let kills := e.w.operandKills [Opnd.any f.src0 .n64, Opnd.any f.src1 .n32] e.eff
  if e.eff = 0 then .done e.s
  else if kills.1 ≠ 0 then .done ((e.put (e.w.putWord f.dst 0)).killLanes e.c e.g e.w kills.1 kills.2 0)
  else
    let a := e.w.uni f.src0 none .n64
    let n := lo32 (e.w.uni f.src1 f.imm .n32)
    match e.s.resolveCounter e.viewer a with
    | .bad .absent va => .absent va .atomic a e.eff
    | .bad k _ => .fault k.cause a e.eff
    | .ok place _ fill =>
      -- events of the counter that wait for a page are not overtaken (R408)
      if e.s.counterHeld e.c.id a then .wait e.s (.counter a)
      else
        let s := e.s.fillTlb fill
        match s.errorAt place 8 with
        | some source =>
          match f.dst with
          | .s n => .done ((s.mapWarp e.g.uid e.w.id fun w => w.putS n.val 0).killLanes e.c e.g e.w e.eff source a)
          | _ => .done (s.postedError e.c e.g e.w source a)
        | none =>
          let r := s.joinDec e.me e.c.id a place n
          .done (r.2.mapWarp e.g.uid e.w.id fun w => w.putWord f.dst r.1)

def execJoindec (f : LForm) (s : State) : Host.Outcome State Fault Refusal := issue (.l .joindec f) s (joindecBody f) noLeek

/-! ### Event records (R219) -/

/-- Take the oldest record of a group; zero when it has none. -/
def State.popRecord (s : State) (g : Group) : BitVec 128 × State :=
  match (s.cluster g.cluster).events.find? fun r => r.group == g.uid with
  | none => (0, s)
  | some r => (r.record, s.mapCluster g.cluster fun k => { k with events := k.events.erase r })

def evpopBody (f : LForm) (e : Env) : Effect :=
  if e.eff = 0 then .done e.s
  else
    let (r, s) := e.s.popRecord e.g
    let lo := BitVec.ofNat 64 (r.toNat % 2 ^ 64)
    let hi := BitVec.ofNat 64 (r.toNat / 2 ^ 64)
    .done (s.mapWarp e.g.uid e.w.id fun w => match f.dst with
      | .s n => (w.writeS n.val true lo).writeS (n.val + 2) true hi
      | _ => w)

/-- The g register after another. -/
def nextG : Reg → Reg
  | .g n => .g (n + 1)
  | r => r

def evpopLeek (f : LForm) (e : LeekEnv) : Effect :=
  if !e.l.takes f.pneg f.pred then .done e.s
  else
    let (r, s) := e.s.popRecord e.g
    .done (s.mapLeek e.g.uid fun l => (l.writeG f.dst (BitVec.ofNat 64 (r.toNat % 2 ^ 64))).writeG (nextG f.dst)
      (BitVec.ofNat 64 (r.toNat / 2 ^ 64)))

def execEvpop (f : LForm) (s : State) : Host.Outcome State Fault Refusal := issue (.l .evpop f) s (evpopBody f) (evpopLeek f)

/-- EVWAIT with a count of records. -/
def evwaitEffect (s : State) (g : Group) (m : Nat) (lanes : Mask) : Effect :=
  if m = 0 || 64 < m then .fault .illegal 0 lanes
  else if m ≤ (s.recordsOf g).length then .done s else .wait s (.records m)

def evwaitBody (f : LForm) (e : Env) : Effect :=
  e.once [Opnd.any f.src0 .n32] (evwaitEffect e.s e.g (lo32 (e.w.uni f.src0 f.imm .n32)).toNat e.eff)

def evwaitLeek (f : LForm) (e : LeekEnv) : Effect :=
  if e.l.takes f.pneg f.pred then evwaitEffect e.s e.g (lo32 (e.l.src .n32 f.src0 f.imm)).toNat 1 else .done e.s

def execEvwait (f : LForm) (s : State) : Host.Outcome State Fault Refusal :=
  issue (.l .evwait f) s (evwaitBody f) (evwaitLeek f)

/-! ### CLOCK and QSTAT (R220) -/

/-- The 64-bit cluster-cycle counter (R30). -/
def State.clock64 (s : State) : W64 := BitVec.ofNat 64 s.clock

def clockBody (f : LForm) (e : Env) : Effect :=
  .done (if e.eff = 0 then e.s else e.put (e.w.putPair f.dst e.s.clock64))

def clockLeek (f : LForm) (e : LeekEnv) : Effect :=
  .done (if e.l.takes f.pneg f.pred then e.put (e.l.writeG f.dst e.s.clock64) else e.s)

def execClock (f : LForm) (s : State) : Host.Outcome State Fault Refusal := issue (.l .clock f) s (clockBody f) (clockLeek f)

/-- FREE and CAPACITY of the queue whose descriptor lies at an address, with the place read and whether it is approximate storage;
none where its page does not let the part read it. -/
def Env.queueFill (e : Env) (va : Nat) : Option (W64 × Nat × Bool) :=
  match e.s.translate e.c va with
  | .ok place leaf _ =>
    if Access.read.allowed leaf then
      let bs := e.s.loadBytes e.w place 64
      some (pair64 (BitVec.ofNat 32 (ofBytesLE ((bs.drop 32).take 4))) (BitVec.ofNat 32 (ofBytesLE ((bs.drop 8).take 4))), place,
        leafApx leaf)
    else none
  | _ => none

def qstatBody (f : LForm) (e : Env) : Effect :=
  let kills := e.w.operandKills [Opnd.any f.src0 .n32] e.eff
  if e.eff = 0 then .done e.s
  else if kills.1 ≠ 0 then .done ((e.put (e.w.putPair f.dst 0)).killLanes e.c e.g e.w kills.1 kills.2 0)
  else
    let qsel := lo32 (e.w.uni f.src0 f.imm .n32)
    if !qselValid qsel e.c.nEdge then .fault .illegal 0 e.eff
    else match e.queueFill (e.c.queueAddr (qselQueue qsel e.g.prio)) with
      | none => .done ((e.put (e.w.putPair f.dst (Config.freeBits e.s.fresh))).drawn 1)
      | some (x, place, apx) =>
        match e.w.track (sectorsOf place 64) with
        | none => .wait e.s .speculation
        | some w =>
          -- the descriptor is a warp-uniform operand (R18)
          match e.s.loadError e.g.cluster e.w place 64 apx with
          | some source => .done ((e.put (w.putPair f.dst 0)).killLanes e.c e.g e.w e.eff source
              (BitVec.ofNat 64 (e.c.queueAddr (qselQueue qsel e.g.prio))))
          | none => .done (e.put (w.putPair f.dst x))

def execQstat (f : LForm) (s : State) : Host.Outcome State Fault Refusal := issue (.l .qstat f) s (qstatBody f) noLeek

end Sys2Proof.Machine
end

