-- ==== Sys2Proof/Machine/Place.lean ====
section
/-!
DEFINITION. The die scheduler: taking pods (R292 to R295), the gatherer (R294, R300), placement of groups and spans (R281 to
R283, R289, R290, R301, R302, R316, R317), restart groups (R308) and the wait limit of a span.
-/

namespace Sys2Proof.Machine

/-! ### The kernel descriptor (R281) -/

/-- The fields of a descriptor's eight words (R281). -/
def KDesc.ofWords (w : Nat → Nat) : KDesc :=
  { vcount := 8 * bitsOf (w 0) 0 6, scount := 8 * bitsOf (w 0) 12 4, apxFrom := 8 * bitsOf (w 0) 6 6
    gwarps := bitsOf (w 0) 16 7, spec := bitsOf (w 0) 23 1 == 1, restart := bitsOf (w 0) 24 1 == 1
    leek := bitsOf (w 0) 25 1 == 1, nbrec := bitsOf (w 0) 32 8, scrSize := 64 * bitsOf (w 1) 0 15
    gbMask := BitVec.ofNat 16 (bitsOf (w 1) 16 16), sbMask := BitVec.ofNat 8 (bitsOf (w 1) 32 8)
    leekBar := BitVec.ofNat 16 (bitsOf (w 1) 40 16), lkEntry := BitVec.ofNat 64 (w 2), brecBase := BitVec.ofNat 64 (w 3)
    watch := BitVec.ofNat 32 (w 4), watchBuf := BitVec.ofNat 64 (w 5) }

/-- The number of set bits. -/
def bitCount {n : Nat} (x : BitVec n) : Nat := ((List.range n).filter fun i => x.getLsbD i).length

/-- The first descriptor word that breaks the table of R281, or the floor of R289 under CLASS 0. The device's class is 1
(R290). R282 names the word for R281's table alone; a breach of a floor is placed at the word of its field, in the table's order
(DESIGN CHOICE, notes/assumptions/27.md). -/
def descRefusal (w : Nat → Nat) : Option Nat :=
  let d := KDesc.ofWords w
  let cls := bitsOf (w 0) 26 2
  let floor (broken : Bool) : Bool := cls == 0 && broken
  if bitsOf (w 0) 40 24 ≠ 0 || bitsOf (w 0) 28 4 ≠ 0 || floor (decide (32 < d.nbrec)) || 2 ≤ cls
      || d.leek == (d.lkEntry == 0) || d.gwarps = 0 || 96 < d.gwarps || d.scount < 16 || 64 < d.scount
      || d.vcount < d.apxFrom || d.vcount = 0 || 256 < d.vcount || floor (decide (128 < d.vcount)) then some 0
  else if bitsOf (w 1) 56 8 ≠ 0 || bitsOf (w 1) 15 1 ≠ 0 || d.leekBar &&& ~~~d.gbMask ≠ 0 || 2 ^ 20 < d.scrSize
      || floor (decide (2 ^ 18 < d.scrSize)) || floor (decide (8 < bitCount d.gbMask)) then some 1
  else if w 2 % 4 ≠ 0 then some 2
  else if w 3 % 8 ≠ 0 || (w 3 = 0 && d.nbrec ≠ 0) then some 3
  else if w 4 / 2 ^ 32 ≠ 0 then some 4
  else if w 5 % 64 ≠ 0 then some 5
  else if w 6 ≠ 0 then some 6
  else if w 7 ≠ 0 then some 7
  else none

/-- Bytes that the part reads in a context's space, in at most two pages; or the address that is absent or refused. -/
inductive PartRead where
  | ok (bs : List Byte)
  | absent (va : Nat)
  | refused (va : Nat)

/-- Read bytes of one page. An uncorrectable error in them is no hindrance: R405 has agents consume one, and of the part's own reads
of pods and descriptors the spec says nothing (DESIGN CHOICE, notes/assumptions/27.md). -/
def State.pageRead (s : State) (c : Context) (va n : Nat) : PartRead :=
  match s.sliceAccess c va .read with
  | .ok place _ => .ok (s.mem.read place n)
  | .absent => .absent va
  | .refused => .refused va

/-- Read up to 4,096 bytes. -/
def State.partRead (s : State) (c : Context) (va n : Nat) : PartRead :=
  let n1 := min n (4096 - va % 4096)
  match s.pageRead c va n1 with
  | .ok bs =>
    if n1 = n then .ok bs
    else match s.pageRead c (va + n1) (n - n1) with
      | .ok bs2 => .ok (bs ++ bs2)
      | x => x
  | x => x

/-- Word i of some bytes, as a number. -/
def wordAt (bs : List Byte) (i : Nat) : Nat := ofBytesLE ((bs.drop (8 * i)).take 8)

/-- The descriptor check of a pod: the descriptor, or the record's kind and the address of the word that broke it (R295). A
descriptor page that the context may not read is refused under R282 too (notes/assumptions/27.md). -/
inductive DescRead where
  | ok (d : KDesc)
  | absent (va : Nat)
  | refused (kind : Nat) (addr : W64)

/-- Read and check a pod's descriptor, then its WARPS (R282, R295). `shapeAt` is the address of its shape word. -/
def State.readDesc (s : State) (c : Context) (p : Pod) (shapeAt : W64) : DescRead :=
  let at' := p.entry - 64
  match s.partRead c at'.toNat 64 with
  | .absent va => .absent va
  | .refused _ => .refused 0x18 at'
  | .ok bs =>
    match descRefusal (wordAt bs) with
    | some i => .refused 0x18 (at' + BitVec.ofNat 64 (8 * i))
    | none =>
      let d := KDesc.ofWords (wordAt bs)
      if p.warps ≠ d.gwarps then .refused 0x19 shapeAt else .ok d

/-- A refused pod: its record, then the end of its count (R282, R295). -/
def State.refusePod (s : State) (ctx kind : Nat) (p : Pod) (addr podAddr : W64) : State :=
  let s := s.putRec ctx { kind := kind, cause := 1, pc := p.entry, addr := addr, pod := podAddr }
  if p.join.toNat % 8 = 0 then s.joinEvent p.join (.dec ctx p.join 1 0 podAddr) else s

/-! ### Taking a pod from its queue (R298) -/

/-- The pod at the head of a queue, with its index and slot address. -/
structure Head where
  index : Nat
  slot  : Nat
  pod   : Pod
  bytes : List Byte

/-- What stands at the head of a queue: nothing that can be read, a descriptor that stops the queue, or a pod. -/
inductive HeadRead where
  | none'
  | broken
  | pod (h : Head)

/-- Read the head of a queue (R298). -/
def State.head (s : State) (c : Context) (q : QueueRef) : HeadRead :=
  if c.stopped.contains q then .none'
  else match s.queue? c q with
    | none => .none'
    | some d =>
      if !d.ok then .broken
      else if d.head = d.tail then .none'
      else match s.partRead c (d.slot d.head) 64 with
        | .ok bs => .pod { index := d.head, slot := d.slot d.head, pod := Pod.ofBytes bs, bytes := bs }
        | _ => .none'

/-- The age of a pod of a queue; the oldest where nothing noted it (notes/assumptions/27.md). -/
def State.ageOf (s : State) (ctx : Nat) (q : QueueRef) (index : Nat) : Nat :=
  ((s.arrivals.find? fun x => x.1 == ctx && x.2.1 == q && x.2.2.1 == index).map fun x => x.2.2.2).getD 0

/-- HEAD one more, past a pod whose slot has been read. -/
def State.takeHead (s : State) (c : Context) (q : QueueRef) (index : Nat) : State :=
  let s := s.touch c ((s.queue? c q).toList.map fun d => d.slot index)
  let s := s.setQueueWord c q 2 ((index + 1) % 2 ^ 64)
  { s with arrivals := s.arrivals.filter fun x => !(x.1 == c.id && x.2.1 == q && x.2.2.1 == index) }

/-- FREE regains a slot; a broken descriptor stops the queue, and so does a FREE that passes CAPACITY (R298; DEDUCED,
notes/assumptions/22.md). -/
def State.freeSlot (s : State) (ctx : Nat) (q : QueueRef) : State :=
  match s.ctx? ctx with
  | none => s
  | some c => match s.queue? c q with
    | some d =>
      if !d.ok then s.stopQueue c q
      else
        let s := s.setQueueWord c q 4 (d.free + 1)
        if d.free < d.cap then s else s.stopQueue c q
    | none => s

/-! ### Room on a cluster (R301) -/

/-- Whether a warp still holds its slot and registers (R185). -/
def State.holdsSlot (s : State) (g : Group) (w : Warp) : Bool :=
  w.ended.isNone || s.outRemote.any fun o => o.agent == g.agent w && o.done.isNone

/-- The warp-registers of a warp (R301). -/
def KDesc.regs (d : KDesc) : Nat := d.vcount + (if d.spec then 32 else 0)

/-- Warp slots and registers in use on each slice of a cluster. -/
def State.sliceUse (s : State) (cluster : Nat) : List (Nat × Nat) :=
  (List.range 6).map fun k =>
    (s.groups.filter fun g => g.cluster == cluster && !g.ended).foldl (fun u g =>
      let n := (g.warps.filter fun w => w.slice == k && s.holdsSlot g w).length
      (u.1 + n, u.2 + n * g.desc.regs)) (0, 0)

/-- The slice with the most free slots that holds a warp's registers, the lowest first. -/
def pickSlice (need : Nat) (allowed : Nat → Bool) (l : List (Nat × Nat)) : Option Nat :=
  let use (k : Nat) : Nat × Nat := l.getD k (16, 1024)
  firstBy (fun i j => decide ((use i).1 < (use j).1))
    ((List.range 6).filter fun k => allowed k && decide ((use k).1 < 16) && decide ((use k).2 + need ≤ 1024))

/-- The slices of `n` warps in ascending order, where they have room (R301). -/
def assignSlices (need : Nat) (allowed : Nat → Bool) : Nat → List (Nat × Nat) → Option (List Nat)
  | 0, _ => some []
  | n + 1, l =>
    match pickSlice need allowed l with
    | none => none
    | some k =>
      (assignSlices need allowed n (l.zipIdx.map fun x => if x.2 = k then (x.1.1 + 1, x.1.2 + need) else x.1)).map fun r => k :: r

/-- The Leek slots of a cluster that threads hold; a thread that has ended holds none (R240, R306). -/
def State.leekIndexes (s : State) (cluster : Nat) : List Nat :=
  (s.groups.filter fun g => g.cluster == cluster && !g.ended).filterMap fun g =>
    g.leek.bind fun l => if l.ended.isNone then some l.index else none

/-- The lowest free Leek slot of a cluster (R222). -/
def State.freeLeek (s : State) (cluster : Nat) : Option Nat :=
  (List.range 4).find? fun i => !(s.leekIndexes cluster).contains i

/-- The banks of a cluster that groups map (R316). -/
def State.mappedBanks (s : State) (cluster : Nat) : List Nat :=
  (s.groups.filter fun g => g.cluster == cluster && !g.ended).flatMap fun g =>
    (g.blocks.toArray.toList.filter fun b => b.valid && !b.spill).map fun b => b.bank.toNat

/-- The free banks of a cluster. -/
def State.freeBanks (s : State) (cluster : Nat) : List Nat :=
  (List.range 32).filter fun b => !(s.mappedBanks cluster).contains b

/-- The clusters that take new groups of a partition: of its quarters, not leaving (R389), on a die that has not failed
(R397). -/
def State.clustersOf (s : State) (p : Partition) : List Nat :=
  (List.range 256).filter fun c =>
    p.quarters.getLsbD (quarterOf c) && !p.leaving.getLsbD (quarterOf c) && !s.hw.dieFailed.getLsbD (dieOf c)

/-- The placement of a group's warps on one cluster. -/
structure Seat where
  cluster : Nat
  slices  : List Nat
  leek    : Option Nat

/-- Whether and how a group of `n` warps fits on a cluster. -/
def State.seat (s : State) (d : KDesc) (n : Nat) (allowed : Nat → Nat → Bool) (cluster : Nat) : Option Seat :=
  match assignSlices d.regs (allowed cluster) n (s.sliceUse cluster) with
  | none => none
  | some slices =>
    if d.leek then
      match s.freeLeek cluster with
      | none => none
      | some i => some { cluster := cluster, slices := slices, leek := some i }
    else some { cluster := cluster, slices := slices, leek := none }

/-- The cluster with room and the most free banks, the lowest first (R301). -/
def State.bestSeat (s : State) (d : KDesc) (n : Nat) (allowed : Nat → Nat → Bool) (clusters : List Nat) : Option Seat :=
  firstBy (fun a b => decide ((s.freeBanks b.cluster).length < (s.freeBanks a.cluster).length))
    (clusters.filterMap fun c => s.seat d n allowed c)

/-- Block-map entries for blocks in ascending order: the lowest free bank of the class, else a free spill slot (R315,
R316). -/
def mapBlocks : List Nat → List Nat → List Nat → Option (List BlockEntry)
  | [], _, _ => some []
  | n :: rest, banks, spill =>
    let apx := decide (24 ≤ n)
    match banks.find? fun b => decide (24 ≤ b) == apx with
    | some b =>
      (mapBlocks rest (banks.filter fun x => x != b) spill).map fun r =>
        { slot := 0, valid := true, spill := false, apx := apx, fifo := false, bank := BitVec.ofNat 5 b } :: r
    | none =>
      match spill with
      | [] => none
      | k :: spill =>
        (mapBlocks rest banks spill).map fun r =>
          { slot := BitVec.ofNat 16 k, valid := true, spill := true, apx := apx, fifo := false, bank := 0 } :: r

/-- The addresses of the pages of a context's spill slot (R316). -/
def Context.spillPages (c : Context) (slot : Nat) : List Nat :=
  (List.range 8).map fun i => spillAddr c (BitVec.ofNat 16 slot) + 4096 * i

/-- Whether a spill slot can be taken: no block uses it, and the part can zero its pages (R316; notes/assumptions/27.md). -/
def State.spillFree (s : State) (c : Context) (slot : Nat) : Bool :=
  !c.spillUsed.contains slot && (c.spillPages slot).all fun va => match s.sliceAccess c va .write with
    | .ok _ _ => true
    | _ => false

/-- The first `n` slots of some that can be taken. -/
def State.spillSome (s : State) (c : Context) : Nat → List Nat → List Nat
  | 0, _ => []
  | _, [] => []
  | n + 1, k :: ks => if s.spillFree c k then k :: s.spillSome c n ks else s.spillSome c (n + 1) ks

/-- The lowest spill slots of a context that can be taken: 32, as many as a group has blocks, or all there are. -/
def State.freeSpill (s : State) (c : Context) : List Nat := s.spillSome c 32 (List.range c.spillSlots)

/-- The number of scratch blocks (R314). -/
def KDesc.blockCount (d : KDesc) : Nat := (d.scrSize + 2 ^ 15 - 1) / 2 ^ 15

/-- Zero a page of a spill slot. -/
def State.zeroPage (s : State) (c : Context) (va : Nat) : State :=
  match s.sliceAccess c va .write with
  | .ok place fill => (s.fillTlb fill).zero place (place + 4096)
  | _ => s

/-- Zero the spill slots that a group takes, page by page (R316; notes/assumptions/27.md). -/
def State.zeroSpill (s : State) (c : Context) (bs : List BlockEntry) : State :=
  ((bs.filter fun b => b.spill).flatMap fun b => c.spillPages b.slot.toNat).foldl (fun s va => s.zeroPage c va) s

/-! ### Launch values -/

/-- The random state of a lane at launch (R23). -/
def rngSeed (group warp lane : Nat) : W64 :=
  let x : W64 := 0x9E3779B97F4A7C15 ^^^ (BitVec.ofNat 64 group <<< 16) ^^^ (BitVec.ofNat 64 warp <<< 6) ^^^ BitVec.ofNat 64 lane
  if x = 0 then 0x9E3779B97F4A7C15 else x

/-- s0 to s9 at launch, then zeros (R32). -/
def Pod.sregs (p : Pod) : Vector W32 64 :=
  (((List.range 8).foldl (fun v i => vmod v i fun _ => p.args.toArray.toList.getD i 0) (Vector.replicate 64 (0 : W32))).set 8
    (lo32 p.frame)).set 9 (BitVec.ofNat 32 (p.frame.toNat / 2 ^ 32))

/-- g0 to g8 at launch, then zeros (R24). -/
def Pod.gregs (p : Pod) : Vector W64 32 :=
  ((List.range 8).foldl (fun v i => vmod v i fun _ => zx64 (p.args.toArray.toList.getD i 0)) (Vector.replicate 32 (0 : W64))).set 8
    p.frame

/-- A warp at launch with its pod's values (R17, R23, R32). -/
def Pod.warp (p : Pod) (now : Nat) (group id slice : Nat) (exec : Mask) : Warp :=
  { Warp.launch id slice p.entry with
    s := p.sregs, exec := exec, rng := mkLanes fun l => rngSeed group id l.val, lastIssue := now }

/-- A Leek thread at launch (R24, R25). -/
def Pod.leekThread (p : Pod) (index : Nat) (entry : W64) : Leek :=
  { index := index, pc := entry, g := p.gregs, k := 0, tiles := Vector.replicate 8 { data := [], tag := .b32 }
    la := Vector.replicate 2 { data := [], tag := .b32 }, queue := [], wait := .ready, halted := false, fetched := [], bad := []
    ended := none }

/-- What a launch needs beyond a seat: the pod and its address, the group's numbers, the work it belongs to, the warps' own
numbers and EXEC masks, and the counter of a restart group. -/
structure Launch where
  ctx     : Nat
  work    : Nat
  pod     : Pod
  podAddr : W64
  desc    : KDesc
  groupId : Nat
  groups  : Nat
  spanId  : Nat
  span    : Nat
  warps   : List (Nat × Mask)
  restart : Option W64

/-- The scratch window of a group (R27; notes/assumptions/3.md). -/
def scratchWindow (uid : Nat) : W64 := Config.scratchBase uid &&& ~~~(0x7FFF : W64)

/-- Place a group on a seat: its blocks mapped, its warps and Leek thread launched, its cluster's rail asked for level 0; none
where the spill area lacks slots (R301, R306, R316). -/
def State.launch (s : State) (c : Context) (l : Launch) (seat : Seat) : Option State :=
  match mapBlocks (List.range l.desc.blockCount) (s.freeBanks seat.cluster) (s.freeSpill c) with
  | none => none
  | some bs =>
    let (uid, s) := s.newUid
    let g : Group :=
      { Group.blank uid l.desc ((l.warps.zip seat.slices).map fun x =>
          l.pod.warp (s.sliceCycles seat.cluster x.2) l.groupId x.1.1 x.2 x.1.2) with
        ctx := l.ctx, cluster := seat.cluster, pod := l.work, podAddr := l.podAddr, groupId := l.groupId, groups := l.groups
        spanId := l.spanId, span := l.span, prio := l.pod.prio, age := uid, scrBase := scratchWindow uid
        blocks := blockMap bs
        leek := seat.leek.map fun i => l.pod.leekThread i l.desc.lkEntry
        draining := (bs.filter fun b => !b.spill).map fun b => b.bank.toNat, restart := l.restart }
    let s := (s.touch c [(l.pod.entry - 64).toNat]).zeroSpill c bs
    let s := s.mapCtx l.ctx fun c =>
      { c with spillUsed := c.spillUsed ++ (bs.filter fun b => b.spill).map fun b => b.slot.toNat }
    let s := s.mapCluster seat.cluster fun k => { k with level := 0 }
    let s := s.mapSpan l.span fun x => { x with groups := x.groups ++ [uid] }
    some { s with groups := s.groups ++ [g] }

/-- Place groups of a span one after another, each where it fits (R302); none unless all fit. -/
def State.launchAll (s : State) (p : Partition) (ctx : Nat) (mk : Nat → Launch) : List Nat → Option State
  | [] => some s
  | i :: rest =>
    match s.ctx? ctx with
    | none => none
    | some c =>
      let l := mk i
      match s.bestSeat l.desc l.warps.length (fun _ _ => true) (s.clustersOf p) with
      | none => none
      | some seat => match s.launch c l seat with
        | none => none
        | some s => State.launchAll s p ctx mk rest

/-- A new span of some work. -/
def State.newSpan (s : State) (ctx work : Nat) : Nat × State :=
  let (u, s) := s.newUid
  (u, { s with spans := s.spans ++ [{ uid := u, ctx := ctx, pod := work, groups := [], bars := Vector.replicate 8 Barrier.init }] })

/-- The EXEC masks of a group of `n` warps with `count` filled lanes (R300). -/
def filledWarps (n count : Nat) : List (Nat × Mask) :=
  (List.range n).map fun w => (w, maskOf fun l => decide (64 * w + l < count))

/-- Place the next span of some work with a descriptor, all its groups at once; none where it does not fit. -/
def State.placeSpan (s : State) (p : Partition) (w : PodWork) (d : KDesc) (count : Nat) : Option State :=
  let (u, s) := s.newSpan w.ctx w.uid
  s.launchAll p w.ctx
    (fun i =>
      { ctx := w.ctx, work := w.uid, pod := w.pod, podAddr := w.addr, desc := d, groupId := i, groups := w.pod.groups
        spanId := w.next, span := u, warps := filledWarps d.gwarps count, restart := none })
    (List.range w.pod.groups)

/-! ### Who is placed first (R302) -/

/-- What competes for placement: its source and its rank. -/
structure Cand where
  src   : PlaceSource
  ctx   : Nat
  prio  : Nat
  order : Nat
  limit : Bool

/-- The rank of R302: priority, then age, then the lower context number. -/
def Cand.before (a b : Cand) : Bool :=
  if a.prio ≠ b.prio then decide (b.prio < a.prio)
  else if a.order ≠ b.order then decide (a.order < b.order)
  else decide (a.ctx < b.ctx)

/-- The priority of a queue with a pod at its head (R302). -/
def queuePrio (q : QueueRef) (p : Pod) : Nat :=
  match q with
  | .launch n => n
  | .edge _ => p.prio

/-- The queues of a context. -/
def Context.queues (c : Context) : List QueueRef :=
  (List.range 8).map QueueRef.launch ++ (List.range c.nEdge).map QueueRef.edge

/-- The work of a queue with a span not yet placed. -/
def State.current (s : State) (ctx : Nat) (q : QueueRef) : Option PodWork :=
  s.pods.find? fun w => w.ctx == ctx && w.queue == q && !w.gathered && decide (w.next < w.pod.spans)

/-- Whether gathered pods of a queue are not placed yet. -/
def State.gathering (s : State) (ctx : Nat) (q : QueueRef) : Bool := s.gathers.any fun g => g.ctx == ctx && g.queue == q

/-- Whether a gathered group of an earlier pod, or the work of one, is unplaced: the pods of one queue start in order
(R302, R304). -/
def State.mustWait (s : State) (g : Gather) : Bool :=
  (s.gathers.any fun x => x.ctx == g.ctx && x.queue == g.queue && x.order < g.order)
    || (s.current g.ctx g.queue).any fun w => decide (w.order < g.order)

/-- Whether a context of a partition places groups now (R309, R310). -/
def State.places (s : State) (c : Context) : Bool :=
  s.hw.ready && s.alive && s.power && c.run == .running && (s.part? (partOf c.id)).any fun p => !p.failed

/-- The state in which a source's next span is placed; none where it does not fit or is not there to place. -/
def State.placed (s : State) (p : Partition) (c : Context) : PlaceSource → Option State
  | .queue _ q =>
    match s.current c.id q with
    | none => none
    | some w =>
      match s.readDesc c w.pod (w.addr + 24) with
      | .ok d =>
        (s.placeSpan p w d (64 * d.gwarps)).map fun s =>
          s.mapPod w.uid fun w => { w with next := w.next + 1, open' := w.open' + 1, since := s.clock, limit := false }
      | _ => none
  | .gathered u =>
    match s.gathers.find? fun g => g.uid == u with
    | none => none
    | some g =>
      if !g.offered || s.mustWait g then none
      else match s.readDesc c g.pod (g.base + 24) with
        | .ok d =>
          let (n, s) := s.newUid
          let w : PodWork :=
            { uid := n, ctx := g.ctx, queue := g.queue, addr := g.base, pod := g.pod, next := 0, open' := 0, fault := false
              lost := [], since := s.clock, order := g.order, limit := false, gathered := true, joins := g.joins }
          (s.placeSpan p w d g.count).map fun s =>
            { s with
              gathers := s.gathers.filter fun x => x.uid != u
              pods := s.pods ++ [{ w with next := 1, open' := 1 }] }
        | _ => none

/-- Take the group pod at the head of a queue as work (R293, R295), or refuse it. It waits while an earlier pod of its queue
is unplaced, and while its descriptor's page is absent. -/
def State.takeGroupPod (s : State) (c : Context) (q : QueueRef) : State :=
  match s.head c q with
  | .none' => s
  | .broken => s.stopQueue c q
  | .pod h =>
    let addr := BitVec.ofNat 64 h.slot
    let refuse (kind : Nat) (at' : W64) : State := ((s.takeHead c q h.index).refusePod c.id kind h.pod at' addr).freeSlot c.id q
    if h.pod.kind = 1 then s
    else match h.pod.refusal with
      | some off => refuse 0x19 (addr + BitVec.ofNat 64 off)
      | none =>
        match s.readDesc c h.pod (addr + 24) with
        | .absent va => s.faultRing c.id va .read 0
        | .refused kind at' => refuse kind at'
        | .ok _ =>
          if s.gathering c.id q then s
          else
            let t := s.takeHead c q h.index
            let (u, t) := t.newUid
            { t with pods := t.pods ++ [
                { uid := u, ctx := c.id, queue := q, addr := addr, pod := h.pod, next := 0, open' := 0, fault := false, lost := []
                  since := t.clock, order := s.ageOf c.id q h.index, limit := false, gathered := false, joins := [] }] }

/-- The work of a queue as a candidate. -/
def PodWork.cand (w : PodWork) : Cand :=
  { src := .queue w.ctx w.queue, ctx := w.ctx, prio := queuePrio w.queue w.pod, order := w.order, limit := w.limit }

/-- The candidate that a queue gives, with the state in which its pod is taken. -/
def State.queueCand (s : State) (c : Context) (q : QueueRef) : Option (Cand × State) :=
  let t := if (s.current c.id q).isSome then s else s.takeGroupPod c q
  (t.current c.id q).map fun w => (w.cand, t)

/-- What competes for placement in a partition: the heads of its contexts' queues and the offered gathered groups (R302). -/
def State.candidates (s : State) (part : Nat) : List (Cand × State) :=
  let cs := s.ctxs.filter fun c => partOf c.id == part && s.places c
  cs.flatMap (fun c => c.queues.filterMap fun q => s.queueCand c q)
  ++ (s.gathers.filter fun g => (cs.any fun c => c.id == g.ctx) && g.offered && !s.mustWait g).map fun g =>
    ({ src := .gathered g.uid, ctx := g.ctx, prio := queuePrio g.queue g.pod, order := g.order, limit := g.limit }, s)

/-- Whether a candidate must leave the place to another one: to one that ranks before it and fits, or to a span that has
waited 1 ms and whose priority is as high (R302). -/
def State.yields (s : State) (p : Partition) (x : Cand) : Bool :=
  (s.candidates p.id).any fun y =>
    y.1.src != x.src &&
      ((y.1.limit && decide (x.prio ≤ y.1.prio) && !(x.limit && x.before y.1))
        || (y.1.before x && ((y.2.ctx? y.1.ctx).bind fun c => y.2.placed p c y.1.src).isSome))

/-- Place the next span of a source if its turn has come (R301, R302). -/
def State.tryPlace (s : State) (p : Partition) (c : Context) (src : PlaceSource) : State :=
  match (s.candidates p.id).find? fun x => x.1.src == src with
  | none => s
  | some x => if s.yields p x.1 then s else (s.placed p c src).getD s

/-- The work of a pod whose spans have all ended: its end event or events, its queue slot or its gather area (R294, R297,
R298). -/
def State.endWork (s : State) (w : PodWork) : State :=
  let f := if w.fault then 1 else 0
  let s := { s with pods := s.pods.filter fun x => x.uid != w.uid }
  if w.gathered then
    let s := s.mapCtx w.ctx fun c =>
      { c with gathUsed := c.gathUsed.filter fun r => r.1 != (w.addr - c.gathBase).toNat }
    w.joins.foldl (fun s j =>
      s.joinEvent j.2 (.dec w.ctx j.2 f (w.lost.filter fun l => l == j.1).length (w.addr + BitVec.ofNat 64 (64 * j.1)))) s
  else (s.joinEvent w.pod.join (.dec w.ctx w.pod.join f w.lost.length w.addr)).freeSlot w.ctx w.queue

/-- End some work if every span has been placed and has ended. -/
def State.settleWork (s : State) (uid : Nat) : State :=
  match s.pods.find? fun w => w.uid == uid with
  | none => s
  | some w => if w.pod.spans ≤ w.next && w.open' = 0 then s.endWork w else s

/-- A later span of some work meets a descriptor that no longer stands: the rest of the pod is refused (R283, R295; see
notes/assumptions/27.md). -/
def State.refuseRest (s : State) (w : PodWork) (kind : Nat) (addr : W64) : State :=
  let s := s.putRec w.ctx { kind := kind, cause := 1, pc := w.pod.entry, addr := addr, pod := w.addr }
  (s.mapPod w.uid fun w => { w with next := w.pod.spans, fault := true }).settleWork w.uid

/-- A refused gathered group: each of its pods is refused (R295). -/
def State.refuseGather (s : State) (g : Gather) (kind : Nat) (addr : W64) : State :=
  let s := { s with gathers := s.gathers.filter fun x => x.uid != g.uid }
  let s := s.mapCtx g.ctx fun c =>
    { c with gathUsed := c.gathUsed.filter fun r => r.1 != (g.base - c.gathBase).toNat }
  g.joins.foldl (fun s j =>
    let at' := g.base + BitVec.ofNat 64 (64 * j.1)
    s.refusePod g.ctx kind { g.pod with join := j.2 } (if kind = 0x18 then addr else at' + 24) at') s

/-- GROUP_PLACE: the die scheduler considers a queue or an offered gathered group (R281 to R283, R295, R301, R302). -/
def execGroupPlace (src : PlaceSource) (s : State) : Host.Outcome State Fault Refusal :=
  match src with
  | .queue ctx q =>
    match s.ctx? ctx, s.part? (partOf ctx) with
    | some c, some p =>
      if !s.places c then .next s
      else
        let s := if (s.current ctx q).isSome then s else s.takeGroupPod c q
        match s.current ctx q with
        | none => .next s
        | some w =>
          match s.readDesc c w.pod (w.addr + 24) with
          | .absent va => .next (s.faultRing ctx va .read 0)
          | .refused kind addr => .next (s.refuseRest w kind addr)
          | .ok _ => .next (s.tryPlace p c src)
    | _, _ => .next s
  | .gathered u =>
    match s.gathers.find? fun g => g.uid == u with
    | none => .next s
    | some g =>
      match s.ctx? g.ctx, s.part? (partOf g.ctx) with
      | some c, some p =>
        if !s.places c || !g.offered || s.mustWait g then .next s
        else match s.readDesc c g.pod (g.base + 24) with
          | .absent va => .next (s.faultRing g.ctx va .read 0)
          | .refused kind addr => .next (s.refuseGather g kind addr)
          | .ok _ => .next (s.tryPlace p c src)
      | _, _ => .next s

/-- SPAN_WAIT_LIMIT: a span of some work, or a gathered group, has waited 1 ms, 1,400,000 cluster cycles (R302). -/
def execSpanWaitLimit (uid : Nat) (s : State) : Host.Outcome State Fault Refusal :=
  .next { s with
    pods := s.pods.map fun w =>
      if w.uid == uid && w.next < w.pod.spans && w.since + 1400000 ≤ s.clock then { w with limit := true } else w
    gathers := s.gathers.map fun g =>
      if g.uid == uid && g.offered && g.since + 1400000 ≤ s.clock then { g with limit := true } else g }

/-! ### The gatherer (R294, R300) -/

/-- The lanes that a gathered group of a shape holds (R300). Thread pods whose WARPS is 0 or above 96, which their placement
refuses, gather as for 1 or 96: the spec does not say how many do (DESIGN CHOICE, notes/assumptions/27.md). -/
def Pod.lanesMax (p : Pod) : Nat := 64 * min (max p.warps 1) 96

/-- The lowest offset of the gather area with `size` free bytes, if any. -/
def Context.gatherRoom (c : Context) (size : Nat) : Option Nat :=
  (0 :: c.gathUsed.map fun r => r.1 + r.2).foldl (fun best o =>
    if o + size ≤ c.gathSize.toNat && c.gathUsed.all (fun r => o + size ≤ r.1 || r.1 + r.2 ≤ o) && best.all (fun b => decide (o < b))
    then some o else best) none

/-- Zero a range of a context's space as writes of 64 bytes. -/
def State.zeroSpace (s : State) (c : Context) (va n : Nat) : State :=
  (List.range (n / 64)).foldl (fun s i => (s.ctxWrite c (va + 64 * i) (List.replicate 64 0)).getD s) s

/-- A thread pod copied into its place of an open group, which is offered when it is full. On a page of the gather area that is
absent or not writable nothing is stored, and the pod is taken all the same: the spec is silent (R294; DESIGN CHOICE,
notes/assumptions/27.md). -/
def State.fillLane (s : State) (c : Context) (g : Gather) (h : Head) : State :=
  let s := (s.ctxWrite c (g.base.toNat + 64 * g.count) h.bytes).getD s
  let full := g.count + 1 == g.pod.lanesMax
  { s with gathers := s.gathers.map fun x =>
      if x.uid == g.uid then
        { x with
          count := g.count + 1, joins := g.joins ++ [(g.count, h.pod.join)], offered := full
          since := if full then s.clock else x.since }
      else x }

/-- Open a gathered group for the key of a pod; none while the area lacks room (R294). -/
def State.openGather (s : State) (c : Context) (q : QueueRef) (h : Head) : Option (Gather × State) :=
  let size := 64 * h.pod.lanesMax
  match c.gatherRoom size with
  | none => none
  | some off =>
    let (u, s) := s.newUid
    let g : Gather :=
      { uid := u, ctx := c.id, queue := q, pod := h.pod, warps := h.pod.warps, base := c.gathBase + BitVec.ofNat 64 off
        count := 0, joins := [], since := s.clock, offered := false, order := s.ageOf c.id q h.index, limit := false }
    let s := s.mapCtx c.id fun c => { c with gathUsed := c.gathUsed ++ [(off, size)] }
    let s := s.zeroSpace c g.base.toNat size
    some (g, { s with gathers := s.gathers ++ [g] })

/-- GATHER_TAKE: the gatherer takes the thread pod at the head of a queue (R294, R295, R300). -/
def execGatherTake (ctx : Nat) (q : QueueRef) (s : State) : Host.Outcome State Fault Refusal :=
  match s.ctx? ctx with
  | none => .next s
  | some c =>
    if !s.places c then .next s
    else match s.head c q with
      | .none' => .next s
      | .broken => .next (s.stopQueue c q)
      | .pod h =>
        if h.pod.kind ≠ 1 then .next s
        else match h.pod.refusal with
          | some off =>
            let addr := BitVec.ofNat 64 h.slot
            .next (((s.takeHead c q h.index).refusePod ctx 0x19 h.pod (addr + BitVec.ofNat 64 off) addr).freeSlot ctx q)
          | none =>
            let opened := s.gathers.find? fun g =>
              g.ctx == ctx && g.queue == q && !g.offered && g.pod.entry == h.pod.entry && g.pod.shape == h.pod.shape
            match (match opened with
              | some g => some (g, s)
              | none => s.openGather c q h) with
            | none => .next s
            | some (g, t) => .next (((t.fillLane c g h).takeHead c q h.index).freeSlot ctx q)

/-- GATHER_OFFER: an open group is offered 4 microseconds, 5,600 cluster cycles, after its first pod (R300). -/
def execGatherOffer (uid : Nat) (s : State) : Host.Outcome State Fault Refusal :=
  .next { s with gathers := s.gathers.map fun g =>
    if g.uid == uid && !g.offered && g.since + 5600 ≤ s.clock then { g with offered := true, since := s.clock } else g }

/-! ### The end of a group (R306) and restart groups (R308) -/

/-- Whether a group may end: its warps and Leek thread have ended, and its copies and posted remote operations are done. -/
def State.groupOver (s : State) (g : Group) : Bool :=
  !g.ended && (g.warps.all fun w => w.ended.isSome) && (g.leek.all fun l => l.ended.isSome)
    && !(s.copies.any fun c => c.group == g.uid)
    && !(s.outRemote.any fun o => o.done.isNone && match o.agent with
      | .warp u _ => u == g.uid
      | .leek u => u == g.uid)

/-- What an ended group frees: its records, slots, banks, spill slots and places in queues of waiters (R306). -/
def State.freeGroup (s : State) (g : Group) : State :=
  let s := s.freeSlots g.cluster fun x => x.group == g.uid
  let s := s.mapCluster g.cluster fun k =>
    { k with
      events := k.events.filter fun e => e.group != g.uid
      slotWait := k.slotWait.filter fun u => u != g.uid
      waiters := k.waiters.filter fun a => match a with
        | .warp u _ => u != g.uid
        | .leek u => u != g.uid }
  let spilled := (g.blocks.toArray.toList.filter fun b => b.valid && b.spill).map fun b => b.slot.toNat
  let s := s.mapCtx g.ctx fun c => { c with spillUsed := c.spillUsed.filter fun k => !spilled.contains k }
  s.mapGroup g.uid fun g =>
    { g with ended := true, blocks := blockMap [], fifos := [], draining := [], names := Vector.replicate 16 none }

/-- GROUP_END (R306): what the group holds is freed, and its span and its pod's work end with their last group (R297). -/
def execGroupEnd (uid : Nat) (s : State) : Host.Outcome State Fault Refusal :=
  match s.group? uid with
  | none => .next s
  | some g =>
    if !s.groupOver g then .next s
    else
      let s := s.freeGroup g
      let s := s.mapPod g.pod fun w =>
        if g.restart.isSome then w else { w with fault := w.fault || g.fault, lost := w.lost ++ g.lost }
      let s := match g.restart with
        | some j => s.joinEvent j (.dec g.ctx j (if g.fault then 1 else 0) g.lost.length g.podAddr)
        | none => s
      let done := (s.groups.filter fun x => x.span == g.span).all fun x => x.ended
      if !done then .next s
      else
        let s := { s with
          groups := s.groups.filter fun x => x.span != g.span
          spans := s.spans.filter fun x => x.uid != g.span }
        if g.restart.isSome then .next s
        else .next ((s.mapPod g.pod fun w => { w with open' := w.open' - 1 }).settleWork g.pod)

/-- Whether a group of a priority must leave the place to a span that has waited 1 ms (R302, R304). -/
def State.heldBack (s : State) (p : Partition) (prio : Nat) : Bool :=
  (s.candidates p.id).any fun y => y.1.limit && decide (prio ≤ y.1.prio)

/-- Place a restart group with the descriptor as it reads now (R283): one warp with the lost lane, on another cluster where one
has room, else on another slice of the same cluster (R308). -/
def State.placeRestart (s : State) (p : Partition) (c : Context) (r : Restart) (desc : KDesc) : Option State :=
  let d := { desc with leek := false }
  let others := (s.clustersOf p).filter fun k => k != r.orig.cluster
  let seat := match s.bestSeat d 1 (fun _ _ => true) others with
    | some x => some x
    | none => s.bestSeat d 1 (fun _ k => k != r.slice) ((s.clustersOf p).filter fun k => k == r.orig.cluster)
  match seat with
  | none => none
  | some seat =>
    let (u, s) := s.newSpan c.id r.orig.pod
    (s.launch c
      { ctx := c.id, work := r.orig.pod, pod := r.pod, podAddr := r.orig.podAddr, desc := d, groupId := r.orig.groupId
        groups := r.orig.groups, spanId := r.orig.spanId, span := u, warps := [(r.warp, maskOf fun l => l == r.lane)]
        restart := some r.join } seat).map fun s => { s with restarts := s.restarts.filter fun x => x.uid != r.uid }

/-- RESTART_GROUP: the descriptor is read at the placement (R283); an absent page keeps the group waiting, and one that is refused
ends it (R282; notes/assumptions/27.md). -/
def execRestartGroup (uid : Nat) (s : State) : Host.Outcome State Fault Refusal :=
  match s.restarts.find? fun r => r.uid == uid with
  | none => .next s
  | some r =>
    match s.ctx? r.orig.ctx, s.part? (partOf r.orig.ctx) with
    | some c, some p =>
      if !s.places c || s.heldBack p r.orig.prio then .next s
      else match s.readDesc c r.pod (r.orig.podAddr + 24) with
        | .absent va => .next (s.faultRing c.id va .read 0)
        | .refused kind addr =>
          .next ({ s with restarts := s.restarts.filter fun x => x.uid != uid }.refusePod c.id kind { r.pod with join := r.join } addr
            r.orig.podAddr)
        | .ok d => .next ((s.placeRestart p c r d).getD s)
    | _, _ => .next s

/-- CONTINUATION_ENQUEUE: a released continuation enters its queue when it has room (R218, R408). Its enqueue counts the pod on no
counter: R218's "as EMIT.BLOCK enqueues it" is read of the queue alone, and the +1 of R217 on the pod's own counter is left to
what wrote the pod (DESIGN CHOICE, notes/assumptions/22.md). -/
def execContinuationEnqueue (uid : Nat) (s : State) : Host.Outcome State Fault Refusal :=
  match s.held.find? fun h => h.uid == uid with
  | some { item := .enqueue ctx q bs, .. } =>
    match s.ctx? ctx with
    | none => .next s
    | some c =>
      if 1 ≤ s.roomIn c q then .next ({ s with held := s.held.filter fun h => h.uid != uid }.enqueue c q bs)
      else match s.queue? c q with
        | some d => if d.ok then .next s else .next (s.stopQueue c q)
        | none => .next s
  | _ => .next s

/-! ### Limiter, spinning, sleeping (R190, R191, R311) -/

/-- The clusters with warps that the ramp limiter holds. -/
def State.limited (s : State) : List Nat := (s.clusters.filter fun k => !k.waiters.isEmpty).map Cluster.id

/-- The cluster that the limiter admits next (R311): the dies in a cycle after the die of the last one admitted, and within
a die the lowest waiting cluster above its last one, wrapping round. -/
def nextAdmitted (last : Nat) (pos : List (Nat × Nat)) (waiting : List Nat) : Option Nat :=
  let least (l : List Nat) : Option Nat := firstBy (fun a b => decide (a < b)) l
  ((List.range 8).map fun i => (last + 1 + i) % 8).findSome? fun die =>
    let here := waiting.filter fun c => dieOf c == die
    let above := match pos.find? fun x => x.1 == die with
      | some (_, c) => here.filter fun x => decide (c < x)
      | none => here
    (least above).or (least here)

/-- LIMITER_ADMIT: the limiter interval has passed and one waiting cluster resumes (R311, R396); without a ramp rate every
waiting cluster does. -/
def execLimiterAdmit (s : State) : Host.Outcome State Fault Refusal :=
  if s.hw.pRamp = 0 then .next { s with clusters := s.clusters.map fun k => { k with waiters := [] } }
  else if s.clock < s.admitNext then .next s
  else match nextAdmitted s.admitDie s.admitPos s.limited with
    | none => .next s
    | some c =>
      let s := s.mapCluster c fun k => { k with waiters := [] }
      .next { s with
        admitDie := dieOf c, admitPos := (dieOf c, c) :: s.admitPos.filter fun x => x.1 != dieOf c
        admitNext := s.clock + limiterInterval s.hw.pRamp }

/-- SPIN_END: a warp's spinning status lapses when its slice cycles have passed (R190). -/
def execSpinEnd (uid wid : Nat) (s : State) : Host.Outcome State Fault Refusal :=
  match s.group? uid with
  | none => .next s
  | some g => .next (s.mapWarp uid wid fun w =>
      if w.spinUntil ≤ s.sliceCycles g.cluster w.slice then { w with spinUntil := 0 } else w)

/-- SLEEP_END: a sleeping warp becomes ready after its cluster cycles (R191). -/
def execSleepEnd (uid wid : Nat) (s : State) : Host.Outcome State Fault Refusal :=
  .next (s.mapWarp uid wid fun w => match w.wait with
    | .sleep t => if t ≤ s.clock then { w with wait := .ready } else w
    | _ => w)

/-! ### The barrier watchdog (R208, R307) -/

/-- The group that stands for a barrier in its record: its own, or group 0 of its span. -/
def State.barGroup (s : State) : BarId → Option Group
  | .gb uid _ => s.group? uid
  | .sb uid _ => (s.span? uid).bind fun x => x.groups.findSome? fun u => (s.group? u).bind fun g =>
      if g.groupId = 0 then some g else none

/-- The BAR field of R198. -/
def barField : BarId → Nat
  | .gb _ n => n
  | .sb _ n => 16 + n

/-- The limit of a barrier's watchdog: the context's, or the kernel's where it is lower (R208, R256, R272). -/
def watchLimit (c : Context) (d : KDesc) : Nat := if d.watch = 0 then c.wdLimit else min c.wdLimit d.watch.toNat

/-- The entry of a member that has not arrived: its program counter, or where it ended, and its names (R307). -/
def State.memberEntry (s : State) (m : Member) : List W64 :=
  match s.group? m.group with
  | none => []
  | some g =>
    let at' : W64 := match m.warp with
      | some w => ((g.warp? w).map fun w => w.ended.getD w.pc).getD 0
      | none => (g.leek.map fun l => l.ended.getD l.pc).getD 0
    [at', BitVec.ofNat 64 (g.groupId % 2 ^ 16 * 2 ^ 32 + m.warp.getD 0xFF * 2 ^ 8 + (if m.departed then 1 else 0))]

/-- The 32 words of a diagnostic record (R307). -/
def State.watchRecord (s : State) (id : BarId) (b : Barrier) (g : Group) (limit : Nat) : List W64 :=
  let ms := s.members id
  let mine := ms.filter fun m => m.group == g.uid
  let arrived (m : Member) : Bool := b.arrived.contains m.agent
  let late := ms.filter fun m => !arrived m
  let entries := ((late.take 12).flatMap fun m => s.memberEntry m)
  let sat (n : Nat) : Nat := min n 0xFF
  let head : List W64 :=
    [BitVec.ofNat 64 (0x11 * 2 ^ 56 + 0x0C * 2 ^ 48 + g.cluster * 2 ^ 40 + barField id * 2 ^ 32 + min late.length 12 * 2 ^ 24
        + (if 12 < late.length then 2 ^ 23 else 0)),
      BitVec.ofNat 64 (b.phase % 2 ^ 16 * 2 ^ 48 + sat (ms.filter arrived).length * 2 ^ 40
        + sat (ms.filter fun m => m.departed).length * 2 ^ 32 + sat ms.length * 2 ^ 24),
      memberBits mine 0 none arrived, memberBits mine 64 (some 32) arrived, g.podAddr, BitVec.ofInt 64 b.bytes
      , BitVec.ofNat 64 limit, 0]
  head ++ entries ++ List.replicate (24 - entries.length) 0

/-- A list of 32 words as four entries of eight. -/
def fourEntries (ws : List W64) : List (List W64) := (List.range 4).map fun i => (ws.drop (8 * i)).take 8

/-- The pieces of a diagnostic record for a buffer, sector by sector, each with its place; none for a sector that is not mapped
writable (R256, R272). `grp` is the group in whose scratch window the buffer lies. -/
def State.diagPieces (s : State) (c : Context) (grp : Option Group) (a : W64) (ws : List W64) : List (Nat × List Byte) :=
  if a = 0 then []
  else (List.range 8).filterMap fun i =>
    let va := a.toNat + 32 * i
    let bs := bytesOf ((ws.drop (4 * i)).take 4)
    match grp with
    | some g => match s.resolveScratch { ctx := c, grp := g } (va - g.scrBase.toNat) .write false with
      | .ok place _ _ => some (place, bs)
      | .bad _ _ => none
    | none => match s.sliceAccess c va .write with
      | .ok place _ => some (place, bs)
      | _ => none

/-- The pieces for the buffer of WDSET; a buffer in the scratch of a group that has ended is unmapped (R256). -/
def State.wdsetPieces (s : State) (c : Context) (ws : List W64) : List (Nat × List Byte) :=
  match c.diagGroup with
  | none => s.diagPieces c none c.diag ws
  | some u => match s.group? u with
    | some g => if g.ended then [] else s.diagPieces c (some g) c.diag ws
    | none => []

/-- The record of an expired watchdog on its way to the buffers: what lies in scratch is written before its group ends, the rest
follows in memory as the part's next steps (R307, R373; notes/assumptions/39.md). -/
def State.writeDiag (s : State) (c : Context) (g : Group) (ws : List W64) : State × List Todo :=
  let (near, far) := (s.wdsetPieces c ws ++ s.diagPieces c none g.desc.watchBuf ws).partition fun x => sramAt ≤ x.1
  (s.storeAll none near, far.map fun x => .piece c.id x.1 x.2)

/-- BARTIMEOUT: a barrier's watchdog has reached its limit; the context stops, its record is written and it is terminated (R208,
R307, R309, R373). -/
def execBartimeout (id : BarId) (s : State) : Host.Outcome State Fault Refusal :=
  match s.bar? id, s.barGroup id with
  | some b, some g =>
    match s.ctx? g.ctx with
    | none => .next s
    | some c =>
      let limit := watchLimit c g.desc
      if b.count < limit || !s.partRuns (partOf c.id) then .next s
      else
        let ws := s.watchRecord id b g limit
        let (s, pieces) := s.writeDiag c g ws
        .next (s.terminate c.id (.record c.id (fourEntries ws) :: pieces))
  | _, _ => .next s

end Sys2Proof.Machine
end

