-- ==== Sys2Proof/Machine/HostPort.lean ====
section
/-!
DEFINITION. What the host reaches (R337, R379, R380, R386, R387, R400): HW-A registers, doorbells, HW-B apertures; and the
bring-up of the module from reset through its firmware image to READY (R377, R378, R381, R382).
-/

namespace Sys2Proof.Machine

/-! ### Registers (R379, R400, R403) -/

/-- STATUS (R379). -/
def HwA.status (h : HwA) : W64 :=
  BitVec.ofNat 64 (h.failDetail.toNat * 2 ^ 16 + h.failCode.toNat * 2 ^ 8 + h.stage.toNat * 2 + (if h.ready then 1 else 0))

/-- A count that saturates at 2^64 - 1 (R400). -/
def satCount (n : Nat) : W64 := BitVec.ofNat 64 (min n (2 ^ 64 - 1))

/-- A numbered count. -/
def countOf (l : List (Nat × Nat)) (k : Nat) : Nat := ((l.find? fun x => x.1 == k).map Prod.snd).getD 0

/-- A read of HW-A (R377, R379, R400). Before STAGE 6 only STATUS reads otherwise than zero. -/
def State.readRegister (s : State) (offset : Nat) : W64 :=
  let h := s.hw
  if offset = 0 then h.status
  else if !h.ready then 0
  else match offset with
    | 0x0008 => h.fwAddr
    | 0x0010 => h.fwSize.setWidth 64
    | 0x0020 => h.cmdBase
    | 0x0028 => h.cmdCap.setWidth 64
    | 0x0030 => h.cmdTail
    | 0x0038 => h.cmdHead
    | 0x0040 => h.pFloor.setWidth 64
    | 0x0048 => h.pRamp.setWidth 64
    | 0x0050 => BitVec.ofNat 64 s.pCap
    | 0x0058 => BitVec.ofNat 64 s.pDraw
    | 0x0800 => BitVec.ofNat 64 (h.fenced.toNat * 2 ^ 16 + h.up.toNat * 2 ^ 8 + h.training.toNat)
    | 0x0808 => h.dieFailed.setWidth 64
    | 0x0810 => h.pGrant.setWidth 64
    | 0x0818 => h.pTrade.setWidth 64
    | 0x0820 => h.pLent.setWidth 64
    | 0x0828 => h.pBorrow.setWidth 64
    | 0x0830 => h.telVec.setWidth 64
    | _ =>
      if 0x0100 ≤ offset && offset < 0x0500 && offset % 8 = 0 then
        let a := h.aper.toArray.toList.getD ((offset - 0x0100) / 16) (0, 0)
        if offset % 16 = 0 then a.1 else a.2
      else if 0x0A10 ≤ offset && offset < 0x0AB0 && offset % 8 = 0 then
        let n := (offset - 0x0A00) / 16
        satCount (countOf (if offset % 16 = 0 then h.secErr else h.seUnc) n)
      else if 0x0C00 ≤ offset && offset < 0x1000 && offset % 8 = 0 then
        let p := (offset - 0x0C00) / 32
        let c := s.count p
        match offset % 32 with
        | 0 => satCount c.lanes
        | 8 => satCount c.warps
        | 16 => satCount c.leeks
        | _ => BitVec.ofNat 64 (min c.terms (2 ^ 32 - 1) * 2 ^ 32 + (if (s.part? p).any fun p => p.failed then 1 else 0))
      else 0

/-- MSI of TELVEC when LINKSTAT, DIESTAT or a FAILED bit changes (R400). -/
def State.telemetry (s : State) : State :=
  if s.hw.telVec.getLsbD 8 then { s with msi := s.msi ++ [s.hw.telVec.setWidth 8] } else s

/-- Whether a ring capacity is legal: a power of two from 16 to 4,096 (R379). -/
def capOk (n : Nat) : Bool := (List.range 9).any fun i => n == 2 ^ (i + 4)

/-- A write to an HW-A register with no behaviour of its own; a reserved value is discarded (R379). -/
def HwA.write (h : HwA) (offset : Nat) (v : W64) : HwA :=
  let n := v.toNat
  match offset with
  | 0x0008 => if n % 4096 = 0 then { h with fwAddr := v } else h
  | 0x0010 => if 4096 ≤ n && n ≤ 2 ^ 26 then { h with fwSize := BitVec.ofNat 32 n } else h
  | 0x0020 => if n % 64 = 0 then { h with cmdBase := v } else h
  | 0x0028 => if capOk n then { h with cmdCap := BitVec.ofNat 16 n } else h
  | 0x0030 => if (v - h.cmdHead).toNat ≤ h.cmdCap.toNat then { h with cmdTail := v } else h
  | 0x0040 => if n ≤ 9000 then { h with pFloor := BitVec.ofNat 14 n } else h
  | 0x0048 => if n = 0 || (40 ≤ n && n ≤ 100000) then { h with pRamp := BitVec.ofNat 17 n } else h
  | 0x0830 => if n < 2 ^ 9 then { h with telVec := BitVec.ofNat 9 n } else h
  | _ =>
    if 0x0100 ≤ offset && offset < 0x0500 && offset % 8 = 0 then
      let a := (offset - 0x0100) / 16
      if offset % 16 = 0 then
        if n < 2 ^ 12 then { h with aper := vmod h.aper a fun x => (v, x.2) } else h
      else if n % 2 ^ 30 = 0 then { h with aper := vmod h.aper a fun x => (x.1, v) } else h
    else h

/-- The limiter under a new ramp rate: without one every waiting cluster resumes, and a higher rate brings the next admission
forward (R311, R396). -/
def State.newRamp (s : State) : State :=
  if s.hw.pRamp = 0 then { s with clusters := s.clusters.map fun k => { k with waiters := [] } }
  else { s with admitNext := min s.admitNext (s.clock + limiterInterval s.hw.pRamp) }

/-- The event of a write of an HW-A register: before STAGE 6 only FWADDR and FWSIZE take writes, and after a failure nothing does
(R377, R379). -/
def State.writeRegister (s : State) (offset : Nat) (value : W64) : State :=
  if s.hw.stage != 7 && (s.hw.ready || offset == 0x0008 || offset == 0x0010) then
    let s := { s with hw := s.hw.write offset value }
    if offset = 0x0048 then s.newRamp else s
  else s

/-! ### Doorbells (R387) -/

/-- The queue of a doorbell offset: launch queue p at 8p, edge queue e at 0x800 + 8e. -/
def doorbellQueue (offset : Nat) : Option QueueRef :=
  if offset % 8 ≠ 0 then none
  else if offset < 0x40 then some (.launch (offset / 8))
  else if 0x800 ≤ offset && offset < 0x1000 then some (.edge ((offset - 0x800) / 8))
  else none

/-- Whether a context has a queue. -/
def Context.hasQueue (c : Context) : QueueRef → Bool
  | .launch p => decide (p < 8)
  | .edge e => decide (e < c.nEdge)

/-- A discarded doorbell write (R387). -/
def State.badDoorbell (s : State) (ctx offset : Nat) : State := s.putRec ctx { kind := 0x1A, addr := BitVec.ofNat 64 offset }

/-- A doorbell write's event: TAIL advances and FREE falls, or the write is discarded with a record (R298, R309, R387); before
STAGE 6 no context exists. -/
def State.doorbell (s : State) (ctx offset : Nat) (tail : W64) : State :=
  match s.ctx? ctx, doorbellQueue offset with
  | some c, some q =>
    if c.run == .terminated then s
    else if !c.hasQueue q then s.badDoorbell ctx offset
    else if c.stopped.contains q then s
    else match s.queue? c q with
      | none => s.badDoorbell ctx offset
      | some d =>
        if !d.ok then s.stopQueue c q
        else
          let n := (tail - BitVec.ofNat 64 d.tail).toNat
          if d.free < n then s.badDoorbell ctx offset
          else
            let s := s.setQueueWord c q 3 tail.toNat
            let s := s.setQueueWord c q 4 (d.free - n)
            s.noteArrivals ctx q ((List.range n).map fun i => (d.tail + i) % 2 ^ 64)
  | _, _ => s

/-! ### HW-B (R337, R380, R386) -/

/-- Bytes cut at multiples of a size, from an offset on. -/
def piecesOf (size : Nat) : Nat → Nat → List Byte → List (Nat × List Byte)
  | 0, _, _ => []
  | k + 1, off, bs =>
    if bs.isEmpty then []
    else
      let n := size - off % size
      (off, bs.take n) :: piecesOf size k (off + n) (bs.drop n)

/-- The context and virtual address that an HW-B offset reaches, where its aperture is valid, as none is before STAGE 6. The port
asks at each sector's event, when every register write accepted before the access has acted and none accepted after it has
(R337, R377, R380). -/
def State.aperture (s : State) (off : Nat) : Option (Context × Nat) :=
  if !s.hw.ready || 2 ^ 36 ≤ off then none
  else
    let a := s.hw.aper.toArray.toList.getD (off / 2 ^ 30) (0, 0)
    if !a.1.getLsbD 11 then none
    else (s.ctx? (a.1.toNat % 2 ^ 11)).map fun c => (c, a.2.toNat + off % 2 ^ 30)

/-- The record of a discarded host access (R386). -/
def State.badHost (s : State) (c : Context) (va : Nat) : State := s.putRec c.id { kind := 0x1C, addr := BitVec.ofNat 64 va }

/-- The place that a host access of a context reaches, with whether it is approximate storage, and the translation that it puts
in force; none where its page is absent or not writable, which discards a write and gives a read all ones (R386, R393). -/
def State.hostPlace (s : State) (c : Context) (va : Nat) : Option (Nat × Bool × List TlbEntry) :=
  match s.translate c va with
  | .ok place leaf fill => if Access.write.allowed leaf then some (place, leafApx leaf, fill) else none
  | _ => none

/-- The sectors of a request that lie in one page of a context, and those after them. -/
def State.samePage {α : Type} (s : State) (c : Context) (va : Nat) (l : List (Nat × α)) : List (Nat × α) × List (Nat × α) :=
  let here (x : Nat × α) : Bool := (s.aperture x.1).any fun y => y.1.id == c.id && y.2 / 4096 == va / 4096
  (l.takeWhile here, l.dropWhile here)

/-- The write of the next sector, one event, and the sectors left. A page that refuses it discards its sectors, with one record;
so does an aperture that is not valid, with none (R337, R380, R386). -/
def State.writeSector (s : State) (off : Nat) (bs : List Byte) (rest : List (Nat × List Byte)) : State × List (Nat × List Byte) :=
  match s.aperture off with
  | none => (s, rest)
  | some (c, va) =>
    match s.hostPlace c va with
    | some (place, _, fill) => ((s.fillTlb fill).store none place bs, rest)
    | none => (s.badHost c va, (s.samePage c va rest).2)

/-- Bytes that the host reads; what an uncorrectable granule gives it is left open (notes/assumptions/2.md). -/
def State.hostBytes (s : State) (place n : Nat) (apx : Bool) : List Byte × State :=
  if (s.errorIn place n apx).isSome then
    ((List.range n).map fun i => (Config.freeBits (s.fresh + i)).setWidth 8, { s with fresh := s.fresh + n })
  else (s.mem.read place n, s)

/-- The read of the next sector, one event: its bytes, the state, and the sectors left. A page that refuses it gives all ones
for its sectors, with one record; so does an aperture that is not valid, with none (R337, R380, R386). -/
def State.readSector (s : State) (off n : Nat) (rest : List (Nat × Nat)) : List Byte × State × List (Nat × Nat) :=
  let ones := List.replicate n (0xFF : Byte)
  match s.aperture off with
  | none => (ones, s, rest)
  | some (c, va) =>
    match s.hostPlace c va with
    | some (place, apx, fill) =>
      let (bs, s) := (s.fillTlb fill).hostBytes place n apx
      (bs, s, rest)
    | none =>
      let r := s.samePage c va rest
      (ones ++ List.replicate (r.1.map Prod.snd).sum 0xFF, s.badHost c va, r.2)

/-! ### Bring-up (R377, R378) -/

/-- Whether a failure of stages 0 to 2 is one of R378. -/
def failureOk (f : BringUpFailure) : Bool :=
  let d := f.detail.toNat
  match f.code.toNat with
  | 0x10 => f.stage == 0 && d == 0
  | 0x11 => f.stage == 0 && decide (d ≤ 7)
  | 0x12 => f.stage == 0 && decide (d ≤ 2)
  | 0x20 => f.stage == 1 && decide (d ≤ 511)
  | 0x21 => f.stage == 1 && decide (d ≤ 15)
  | 0x30 => f.stage == 2 && decide (d ≤ 527)
  | 0x31 => f.stage == 2 && decide (d ≤ 767)
  | _ => false

/-- The module after a reset, with what lies outside it: the schedule, host memory and the logs. Every partition starts a
new owner epoch (R407; notes/assumptions/3.md). -/
def State.resetModule (s : State) : State :=
  (List.range 32).foldl (fun s p => s.newEpoch p)
    { State.reset with
      schedule := s.schedule, cur := s.cur, fresh := s.fresh, nextUid := s.nextUid, partEpoch := s.partEpoch
      hostMem := s.hostMem, fabricOut := s.fabricOut, msi := s.msi, hostReads := s.hostReads }

/-- A module whose bring-up failed (R377). -/
def State.failed (s : State) (code : Nat) (detail : Nat) : State :=
  { s with hw := { s.hw with
      stage := 7, ready := false, failCode := BitVec.ofNat 8 code, failDetail := BitVec.ofNat 16 detail } }

/-- FUNDAMENTAL_RESET: stages 0 to 2, then STAGE 3, or a failure (R377, R378). -/
def execFundamentalReset (failure : Option BringUpFailure) (s : State) : Host.Outcome State Fault Refusal :=
  match failure with
  | none => .next { s.resetModule with hw := { HwA.reset with stage := 3 } }
  | some f => if failureOk f then .next (s.resetModule.failed f.code.toNat f.detail.toNat) else .next s

/-! ### The firmware image (R381, R382) -/

/-- Bytes as one number for a digest: byte i is bits 8i + 7 to 8i. -/
def digestOf (bs : List Byte) : BitVec 384 := BitVec.ofNat 384 (ofBytesLE bs)

/-- The number in bytes [at, at + n). -/
def fieldAt (bs : List Byte) (at' n : Nat) : Nat := ofBytesLE ((bs.drop at').take n)

/-- Whether bytes [lo, hi) are zero. -/
def zeroAt (bs : List Byte) (lo hi : Nat) : Bool := ((bs.drop lo).take (hi - lo)).all fun b => b == 0

/-- Whether a header is well formed and the image holds its body, its signatures and its configuration block (R381). -/
def headerOk (h : List Byte) (size : Nat) : Bool :=
  let body := fieldAt h 8 8
  let cfg := fieldAt h 64 8
  fieldAt h 0 4 == 0x4D49574E && cfg % 8 == 0 && fieldAt h 72 8 == 64 && zeroAt h 80 128
    && decide (cfg + 64 ≤ body) && decide (128 + body + 384 + 16224 ≤ size)

/-- The first bad field of a configuration block: its FAILCODE and FAILDETAIL (R382). -/
def configBad (c : List Byte) : Option (Nat × Nat) :=
  if fieldAt c 0 4 ≠ 0x47464E43 then some (0x50, 0)
  else if fieldAt c 4 2 ≠ 64 then some (0x51, fieldAt c 4 2)
  else if fieldAt c 6 1 ≠ 1 then some (0x52, fieldAt c 6 1)
  else if fieldAt c 7 1 ≠ 0 then some (0x50, 7)
  else if fieldAt c 8 2 < 100 || 1000 < fieldAt c 8 2 then some (0x53, fieldAt c 8 2)
  else if !zeroAt c 10 64 then some (0x50, 10)
  else none

/-- The failure of STAGE 4, if any, in the order of its codes (R378, R381). -/
def verifyBad (image header : List Byte) : Option Nat :=
  let body := (image.drop 128).take (fieldAt header 8 8)
  let sigs := image.drop (128 + fieldAt header 8 8)
  let bad (k at' n : Nat) : Bool :=
    let key := Config.imageKey k image
    !(Config.keyDigestOk k (Config.sha384 key) && Config.signatureOk k (key ++ (sigs.drop at').take n) header)
  if !headerOk header image.length then some 1
  else if bad 0 0 384 then some 2
  else if bad 1 384 16224 then some 3
  else if Config.sha384 body != digestOf ((header.drop 16).take 48) then some 4
  else none

/-- STAGE 5 and 6: the configuration applied and the module running (R382, R403). Its fabric ports begin to train
(notes/assumptions/30.md). -/
def State.start (s : State) (header cfg : List Byte) : State :=
  let grant := BitVec.ofNat 10 (fieldAt cfg 8 2)
  { s with
    lastGrant := s.clock
    hw := { s.hw with
      stage := 6, ready := true, pGrant := grant, safeGrant := grant, secVersion := BitVec.ofNat 32 (fieldAt header 4 4)
      fwDigest := Config.sha384 header, warpWidth := BitVec.ofNat 16 (fieldAt cfg 4 2), cls := BitVec.ofNat 8 (fieldAt cfg 6 1)
      training := 0xFF } }

/-- STAGE 4 to 6 on an image. -/
def State.bringUp (s : State) (image : List Byte) : State :=
  let header := image.take 128
  match verifyBad image header with
  | some code => s.failed code 0
  | none =>
    let cfg := (image.drop (128 + fieldAt header 64 8)).take 64
    match configBad cfg with
    | some (code, detail) => s.failed code detail
    | none => s.start header cfg

/-- The event of a write of FWGO, which acts in STAGE 3 (R377, R378, R381). The value written does not matter. -/
def State.fwgo (s : State) (x : FwgoWrite) : State :=
  if s.hw.stage == 3 then
    let size := s.hw.fwSize.toNat
    if !x.readable || s.hw.fwAddr.toNat % 4096 ≠ 0 || size < 4096 || 2 ^ 26 < size then s.failed 5 0
    else s.bringUp (s.hostMem.read s.hw.fwAddr.toNat size)
  else s

end Sys2Proof.Machine
end

