-- ==== Sys2Proof/Machine/Remote.lean ====
section
/-!
DEFINITION. The exactly-once protocol of remote operations (R160 to R163, R335, R336, R361, R362, R406, R407): what the owner
does with requests and keepalives, and what the requester does with answers, refusals, acknowledgements and silence.
-/

namespace Sys2Proof.Machine

/-- Whether the module takes part in the fabric: running, with its supplies (R377, R397). -/
def State.up (s : State) : Bool := s.hw.ready && s.alive && s.power

/-- Whether one serial number lies ahead of another, modulo 2^32 (R161). -/
def ahead (a b : W32) : Bool := a != b && (a - b).toNat < 2 ^ 31

/-! ### The owner: requester contexts (R162) -/

/-- Whether a record concerns a requester context. -/
def Requester.is (q : Requester) (m : Byte) (ctx : Nat) : Bool := q.requester == m && q.ctx == ctx

/-- What the owner knows of a requester context. -/
def State.requester? (s : State) (m : Byte) (ctx : Nat) : Option Requester := s.requesters.find? fun q => q.is m ctx

/-- Update what the owner knows of a requester context. -/
def State.putRequester (s : State) (q : Requester) : State :=
  { s with requesters := q :: s.requesters.filter fun x => !x.is q.requester q.ctx }

/-- The result-cache entry of a request (R161). -/
def State.cached (s : State) (m : Byte) (ctx : Nat) (gen : BitVec 16) (rsn : W32) : Option CacheEntry :=
  s.cache.find? fun e => e.requester == m && e.ctx == ctx && e.gen == gen && e.rsn == rsn

/-! ### The owner: carrying out a request (R157, R163, R406) -/

/-- The access that a request makes, its APX flag and its bytes. -/
def remoteAccess : RemoteOp → Access × Bool × Nat
  | .load f a => (.read, a, accBytes f)
  | .touch f a => (.read, a, accBytes f)
  | .store bs a => (.write, a, bs.length)
  | .atom _ f _ _ => (.atomic, false, accBytes f)
  | .vatom _ _ _ _ => (.atomic, false, 32)

/-- The context that a request names, where it exists and has not ended, in a partition that has not failed (R163). -/
def State.ownerCtx (s : State) (ctx : Nat) : Option Context :=
  match s.ctx? ctx with
  | some c => if c.run == .terminated then none else some c
  | none => none

/-- The owner's translation, permission and APX checks: the place and whether it is approximate (R163, R344). -/
def State.ownerPlace (s : State) (r : RemoteRequest) : Option (Nat × Bool) :=
  match s.ownerCtx r.ownerCtx with
  | none => none
  | some c =>
    let (acc, a, _) := remoteAccess r.op
    match s.translate c r.va.toNat with
    | .ok place leaf _ => if acc.allowed leaf && flowOk acc a (leafApx leaf) then some (place, leafApx leaf) else none
    | _ => none

/-- The translation that a request's access at the owner puts in force (R393). -/
def State.ownerFill (s : State) (r : RemoteRequest) : State :=
  match (s.ownerCtx r.ownerCtx).map fun c => s.translate c r.va.toNat with
  | some (.ok _ _ fill) => s.fillTlb fill
  | _ => s

/-- The cache slice that homes a place (R320). -/
def State.homeSlice (s : State) (part place : Nat) : Nat :=
  if place < 2 ^ 39 then 16 * (place / 2 ^ 34) + Config.tierOneHome (place / 64) % 16
  else
    let quarters := ((s.part? part).map fun p => (List.range 32).filter fun q => p.quarters.getLsbD q).getD []
    let slices := quarters.flatMap fun q => (List.range 16).map fun i => 16 * q + i
    slices.getD (Config.tierTwoHome (place / 64) % slices.length) 0

/-- The slice where a request's entry is kept (R161); one that names no place is kept by its address
(notes/assumptions/28.md). -/
def State.requestSlice (s : State) (r : RemoteRequest) : Nat :=
  match s.ownerPlace r with
  | some (place, _) => s.homeSlice (partOf r.ownerCtx) place
  | none => Config.tierTwoHome (r.va.toNat / 64) % 512

/-- A loaded value as the owner's approximate storage gives it (R328). -/
def State.ownerLossy (s : State) (part : Nat) (f : Fmt) (apx : Bool) (x : W64) : W64 :=
  let level := ((s.part? part).map fun p => p.apxst.toNat).getD 0
  if apx then ofEls f fun j => lowBits (el f x j) (Config.freeBits (s.fresh + j)).toNat ((ffmtOf f).dBits level) else x

/-- The lane steps of an atomic request in order, each one event: the old values and the state (R158). -/
def State.remoteAtoms (s : State) (place : Nat) (op : AtomOp) (f : Fmt) (ovft : BitVec 16) :
    List (W64 × W64) → List W64 × State
  | [] => ([], s)
  | (v, swp) :: rest =>
    let (old, s) := s.atomStep none place op f ovft v swp
    let (olds, s) := State.remoteAtoms s place op f ovft rest
    (old :: olds, s)

/-- The OVFT that a request's choice stands for: every format has that choice (R157). -/
def ovftOf (c : BitVec 2) : BitVec 16 := BitVec.ofNat 16 (c.toNat * 0x555)

/-- An atomic whose elements are separate events: its operation, format and OVFT choice, and the words of each step (R158). -/
def stepWords : RemoteOp → Option (AtomOp × Fmt × BitVec 2 × List (List W64))
  | .atom op f steps c => if pairFmt f then some (op, f, c, steps.map fun x => [x.1]) else none
  | .vatom op f steps c => some (op, f, c, steps.map fun ws => ws.map zx64)
  | .load _ _ | .touch _ _ | .store _ _ => none

/-- A request whose elements are separate events as the owner takes it up; none for another request, and for one that its
checks or an error in the granules that it reads refuse, which makes no event (R157, R163, R336). -/
def State.startServing (s : State) (r : RemoteRequest) : Option Serving :=
  match stepWords r.op, s.ownerPlace r with
  | some (_, f, _, steps), some (place, _) =>
    if s.poisoned place (remoteAccess r.op).2.2 then none
    else some
      { request := r, got := [], todo := steps.zipIdx.flatMap fun x => atomEvents f x.2 place x.1 }
  | _, _ => none

/-- The next event of a request in service. Its granules were read when it was taken up: an error that comes into one later
changes nothing of it (R336; DESIGN CHOICE, notes/assumptions/36.md). -/
def State.serveEvent (s : State) (x : Serving) : Serving × State :=
  match stepWords x.request.op, x.todo with
  | some (op, f, c, _), a :: rest =>
    let (old, s) := s.atomEvent none op f (ovftOf c) a
    ({ x with todo := rest, got := x.got ++ [(a.lane, a.el, old)] }, s)
  | _, _ => (x, s)

/-- The events of a request in service one after another. -/
def State.serveEvents (s : State) (x : Serving) : Nat → Serving × State
  | 0 => (x, s)
  | n + 1 => let r := s.serveEvent x; r.2.serveEvents r.1 n

/-- What carrying out a request comes to. -/
structure Applied where
  status : RemoteStatus
  values : List W64
  bad    : Option Nat
  state  : State

/-- What a request that has made its events comes to: a VATOM returns no value (R159, R362). -/
def Serving.applied (x : Serving) (s : State) : Applied :=
  { status := .ok
    values := match x.request.op with
      | .atom _ f steps _ => (List.range steps.length).map fun i => gotWord f x.got i
      | _ => []
    bad := none, state := s }

/-- Carry out a request at once (R157, R163, R335). -/
def State.applyRemote (s : State) (r : RemoteRequest) : Applied :=
  match s.ownerPlace r with
  | none => { status := .ownerFault, values := [], bad := none, state := s }
  | some (place, apx) =>
    let s := s.ownerFill r
    match r.op with
    | .touch _ _ => { status := .ok, values := [], bad := none, state := s }
    | .load f _ =>
      let n := accBytes f
      let x := BitVec.ofNat 64 (ofBytesLE (s.mem.read place n))
      { status := .ok, values := [s.ownerLossy (partOf r.ownerCtx) f apx x]
        bad := s.errorIn place n apx
        state := { s with fresh := s.fresh + (if apx then 8 else 0) } }
    | .store bs _ => { status := .ok, values := [], bad := none, state := s.store none place bs }
    | op =>
      match s.startServing r with
      | some x => let y := s.serveEvents x x.todo.length; y.1.applied y.2
      | none =>
        match op with
        | .atom op f steps c =>
          if s.poisoned place (accBytes f) then { status := .ownerFault, values := [], bad := none, state := s }
          else
            let (olds, s) := s.remoteAtoms place op f (ovftOf c) steps
            { status := .ok, values := olds, bad := none, state := s }
        | _ => { status := .ownerFault, values := [], bad := none, state := s }

/-- The answer to a request (R163, R407). -/
def State.answerFor (s : State) (r : RemoteRequest) (st : RemoteStatus) (values : List W64) (bad : Option Nat) : RemoteAnswer :=
  { owner := Config.moduleId, ctx := r.ctx, gen := r.gen, tag := r.tag, part := partOf r.ownerCtx
    epoch := s.epochOf (partOf r.ownerCtx), status := st, values := values, bad := bad }

/-- Send an answer. -/
def State.sendAnswer (s : State) (r : RemoteRequest) (st : RemoteStatus) (values : List W64) (bad : Option Nat) : State :=
  { s with fabricOut := s.fabricOut ++ [.answer r.requester (s.answerFor r st values bad)] }

/-- Carry out a request and answer it. -/
def State.serve (s : State) (r : RemoteRequest) : State :=
  let a := s.applyRemote r
  a.state.sendAnswer r a.status a.values a.bad

/-- Keep the entry of a numbered request that has been carried out, and answer it (R161, R362). -/
def State.answerNumbered (s : State) (r : RemoteRequest) (rsn : W32) (a : Applied) : State :=
  let e : CacheEntry :=
    { slice := s.requestSlice r, requester := r.requester, ctx := r.ctx, gen := r.gen, rsn := rsn, status := a.status
      values := a.values }
  { a.state with cache := e :: a.state.cache }.sendAnswer r a.status a.values a.bad

/-- Carry out a numbered request at once, keep its entry and answer it. -/
def State.serveNumbered (s : State) (r : RemoteRequest) (rsn : W32) : State := s.answerNumbered r rsn (s.applyRemote r)

/-- Whether a request in service is of a requester context. -/
def Serving.is (x : Serving) (m : Byte) (ctx : Nat) : Bool := x.request.requester == m && x.request.ctx == ctx

/-- The entries of a cache slice, with those that requests in service will have (R161). -/
def State.sliceFill (s : State) (home : Nat) : Nat :=
  (s.cache.filter fun e => e.slice == home).length + (s.serving.filter fun x => s.requestSlice x.request == home).length

/-- Refuse a request whose cache slice is full (R161). -/
def State.refuseFull (s : State) (r : RemoteRequest) : State :=
  { s with fabricOut := s.fabricOut ++ [.refusal r.requester (s.answerFor r .ok [] none)] }

/-- The next RSN past those answered out of turn. -/
def skipTo (skipped : List W32) : Nat → W32 → W32
  | 0, n => n
  | k + 1, n => if skipped.contains n then skipTo skipped k (n + 1) else n

/-- Apply the held requests of a requester context whose predecessors have been applied, in RSN order (R163). A request whose
elements are separate events is taken up, and its successors wait until it is done (R158). One whose turn comes while its cache
slice is full is refused, and its successors wait for its resend (R161). -/
def State.drainHeld (m : Byte) (ctx : Nat) : Nat → State → State
  | 0, s => s
  | k + 1, s =>
    match s.requester? m ctx with
    | none => s
    | some q =>
      let next := skipTo q.skipped q.skipped.length q.next
      let mine (r : RemoteRequest) : Bool := r.requester == m && r.ctx == ctx && r.rsn == some next
      if s.serving.any fun x => x.is m ctx then s
      else match s.heldReqs.find? mine with
      | none => s
      | some r =>
        let s := { s with heldReqs := s.heldReqs.filter fun x => !mine x }
        if 1024 ≤ s.sliceFill (s.requestSlice r) then s.refuseFull r
        else match s.startServing r with
        | some x => { s.ownerFill r with serving := s.serving ++ [x] }
        | none => State.drainHeld m ctx k ((s.putRequester { q with next := next + 1 }).serveNumbered r next)

/-- A numbered request has made its events: its entry and its answer (R161, R163). -/
def State.settled (s : State) (x : Serving) : State :=
  let r := x.request
  let s := { s with serving := s.serving.filter fun y => !y.is r.requester r.ctx }
  match r.rsn with
  | none => s
  | some n =>
    let s := match s.requester? r.requester r.ctx with
      | some q => s.putRequester { q with next := if ahead (n + 1) q.next then n + 1 else q.next }
      | none => s
    s.answerNumbered r n (x.applied s)

/-- A numbered request has made its events: it is settled, and then its successors come (R163). -/
def State.served (s : State) (x : Serving) : State :=
  let s := s.settled x
  State.drainHeld x.request.requester x.request.ctx s.heldReqs.length s

/-- The owner makes the next event of the request of a requester context that it has in service. -/
def State.ownerStep (s : State) (m : Byte) (ctx : Nat) : State :=
  match s.serving.find? fun x => x.is m ctx with
  | none => s
  | some x =>
    let (y, s) := s.serveEvent x
    let s := { s with serving := s.serving.map fun z => if z.is m ctx then y else z }
    if y.todo.isEmpty then s.served y else s

/-- Requests in service make the rest of their events at once and are answered; so are those that come up in their turn and are
taken up then. -/
def State.finishServing (p : RemoteRequest → Bool) : Nat → State → State
  | 0, s => s
  | k + 1, s => match s.serving.find? fun x => p x.request with
    | none => s
    | some x =>
      let r := s.serveEvents x x.todo.length
      State.finishServing p k (r.2.served r.1)

/-- Requests in service make the rest of their events at once and are answered (R161, R389, R390). -/
def State.finishAll (s : State) (p : RemoteRequest → Bool) : State :=
  s.finishServing p (s.serving.length + s.heldReqs.length)

/-- Requests in service that must end now make the rest of their events at once, and get no answer. -/
def State.endServing (s : State) (p : RemoteRequest → Bool) : State :=
  let t := (s.serving.filter fun x => p x.request).foldl (fun s x => (s.serveEvents x x.todo.length).2) s
  { t with serving := t.serving.filter fun x => !p x.request }

/-- A request in service makes the rest of its events at once, and is settled. -/
def State.settleNow (s : State) (x : Serving) : State :=
  let r := s.serveEvents x x.todo.length
  r.2.settled r.1

/-- A watermark that arrives: its requester waits for nothing at or below it. A request there in service makes the rest of its
events at once, since what comes after finds it applied whole or not at all (R335, R364); none there is held any longer, and
entries below it go (R161, R361; notes/assumptions/36.md). -/
def State.takeWatermark (s : State) (q : Requester) (w : W32) : State :=
  if w = q.watermark || ahead w q.watermark then
    let past (n : W32) : Bool := n == w || ahead w n
    let s := (s.serving.filter fun x => x.is q.requester q.ctx && x.request.rsn.any past).foldl State.settleNow s
    let s := { s with
      cache := s.cache.filter fun e =>
        !(e.requester == q.requester && e.ctx == q.ctx && ahead w e.rsn)
      heldReqs := s.heldReqs.filter fun r =>
        !(r.requester == q.requester && r.ctx == q.ctx && r.rsn.any past) }
    s.putRequester { q with
      watermark := w, next := if ahead (w + 1) q.next then w + 1 else q.next, skipped := q.skipped.filter fun r => ahead r w }
  else s

/-- A request or keepalive arrives from a generation of a requester context: none where the generation is older than one
seen; a newer one discards the entries of the older, of which a request in service makes the rest of its events (R162). -/
def State.greet (s : State) (m : Byte) (ctx : Nat) (gen : BitVec 16) (w : W32) : Option State :=
  let fresh : Requester :=
    { requester := m, ctx := ctx, gen := gen, watermark := w, next := w + 1, skipped := [], last := s.clock }
  match s.requester? m ctx with
  | none => some (s.putRequester fresh)
  | some q =>
    let d := (gen - q.gen).toNat
    let seen := { q with last := s.clock }
    if d = 0 then some ((s.putRequester seen).takeWatermark seen w)
    else if d < 2 ^ 15 then
      let s := s.endServing fun r => r.requester == m && r.ctx == ctx
      some ({ s with
        cache := s.cache.filter fun e => !(e.requester == m && e.ctx == ctx)
        heldReqs := s.heldReqs.filter fun r => !(r.requester == m && r.ctx == ctx) }.putRequester fresh)
    else none

/-- Whether a request is stamped with an older epoch than its partition's; 0 counts as current (R407). -/
def State.oldEpoch (s : State) (r : RemoteRequest) : Bool :=
  r.epoch != 0 && ahead (s.epochOf (partOf r.ownerCtx)) r.epoch

/-- Answer a request with OWNER_RESTARTED; a later one is not held for it (R163, R407). -/
def State.restarted (s : State) (r : RemoteRequest) : State :=
  let s := match r.rsn, s.requester? r.requester r.ctx with
    | some n, some q => if n = q.next || ahead n q.next then s.putRequester { q with skipped := n :: q.skipped } else s
    | _, _ => s
  s.sendAnswer r .ownerRestarted [] none

/-- A numbered request: a hit in the result cache, a duplicate, a refusal for a full slice, or one to apply in turn (R161,
R163). -/
def State.takeNumbered (s : State) (r : RemoteRequest) (rsn : W32) : State :=
  match s.cached r.requester r.ctx r.gen rsn with
  | some e => s.sendAnswer r e.status e.values none
  | none =>
    let same (x : RemoteRequest) : Bool := x.requester == r.requester && x.ctx == r.ctx && x.rsn == r.rsn
    let stale := (s.requester? r.requester r.ctx).any fun q => ahead q.next rsn
    if s.heldReqs.any same || (s.serving.any fun x => same x.request) || stale then s
    else
      if 1024 ≤ s.sliceFill (s.requestSlice r) then s.refuseFull r
      else State.drainHeld r.requester r.ctx (s.heldReqs.length + 1) { s with heldReqs := s.heldReqs ++ [r] }

/-- Whether a partition answers nothing (R398). -/
def State.partSilent (s : State) (part : Nat) : Bool := (s.part? part).any fun p => p.failed

/-- Whether a packet can arrive from a module: this module's own are among those it has sent, and a request only while its
operation is outstanding, so that it has no effect after what has seen it complete; another module's are the outside's (R334,
R335; notes/assumptions/35.md). -/
def State.arrives (s : State) (sender : Byte) (p : Packet) : Bool :=
  sender != Config.moduleId || (s.fabricOut.contains p && match p with
    | .request _ r => s.outRemote.any fun o => o.tag == r.tag && o.done.isNone
    | _ => true)

/-- REMOTE_REQUEST: the owner receives a request (R161 to R163, R407). -/
def execRemoteRequest (r : RemoteRequest) (s : State) : Host.Outcome State Fault Refusal :=
  if !s.up || s.partSilent (partOf r.ownerCtx) || !s.arrives r.requester (.request Config.moduleId r) then .next s
  else match s.greet r.requester r.ctx r.gen r.watermark with
    | none => .next s
    | some s =>
      if s.oldEpoch r then .next (State.drainHeld r.requester r.ctx s.heldReqs.length (s.restarted r))
      else match r.rsn with
        | none => .next (s.serve r)
        | some rsn => .next (s.takeNumbered r rsn)

/-- KEEPALIVE_RECEIVE: the owner takes the watermark and acknowledges it (R161, R162). -/
def execKeepaliveReceive (k : KeepAlive) (s : State) : Host.Outcome State Fault Refusal :=
  if !s.up || s.partSilent (partOf k.ownerCtx) || !s.arrives k.requester (.keepalive Config.moduleId k) then .next s
  else match s.greet k.requester k.ctx k.gen k.watermark with
    | none => .next s
    | some s =>
      let s := State.drainHeld k.requester k.ctx s.heldReqs.length s
      let part := partOf k.ownerCtx
      let a : KeepAliveAck :=
        { owner := Config.moduleId, ctx := k.ctx, gen := k.gen, part := part, epoch := s.epochOf part, watermark := k.watermark }
      .next { s with fabricOut := s.fabricOut ++ [.keepaliveAck k.requester a] }

/-- RESULT_CACHE_EXPIRY: 1 ms, 1,400,000 cluster cycles, without a request or keepalive of a requester context (R162). -/
def execResultCacheExpiry (m : Byte) (ctx : Nat) (s : State) : Host.Outcome State Fault Refusal :=
  match s.requester? m ctx with
  | some q =>
    if q.last + 1400000 ≤ s.clock then .next { s with cache := s.cache.filter fun e => !(e.requester == m && e.ctx == ctx) }
    else .next s
  | none => .next s

/-- What is in service for a partition's contexts makes the rest of its events and is answered; what is held for them stays held
(R390). -/
def State.finishPart (s : State) (part : Nat) : State :=
  let mine (r : RemoteRequest) : Bool := partOf r.ownerCtx == part
  let t := State.finishAll { s with heldReqs := s.heldReqs.filter fun r => !mine r } mine
  { t with heldReqs := t.heldReqs ++ s.heldReqs.filter mine }

/-- The held requests of a partition's contexts end with OWNER_RESTARTED (R390), in a new epoch (R407). -/
def State.restartEpoch (s : State) (part : Nat) : State :=
  let mine (r : RemoteRequest) : Bool := partOf r.ownerCtx == part
  let t := ({ s with heldReqs := s.heldReqs.filter fun r => !mine r }).newEpoch part
  (s.heldReqs.filter mine).foldl (fun s r => s.restarted r) t

/-- The owner side of an operation of this module that has completed here: its request, where it is still held, is held no longer,
and one in service makes the rest of its events now, before those of what sees it complete (R334, R335). -/
def State.withdraw (s : State) (r : RemoteRequest) : State :=
  let mine (x : RemoteRequest) : Bool := x.requester == r.requester && x.tag == r.tag
  State.finishAll { s with heldReqs := s.heldReqs.filter fun x => !mine x } mine

/-! ### The requester: completions (R161, R163, R164, R361) -/

/-- The bit of R164 for a status. -/
def statusBits : RemoteStatus → BitVec 5
  | .ok => 0
  | .ownerFault => 3
  | .ownerRestarted => 5
  | .ownerFailed => 9
  | .remoteLost => 17

/-- The watermark past completions that came ahead of it. -/
def retireTo (early : List W32) : Nat → W32 → W32
  | 0, w => w
  | k + 1, w => if early.contains (w + 1) then retireTo early k (w + 1) else w

/-- An RSN that has completed, retired in serial order (R361). -/
def Peer.retire (p : Peer) (rsn : W32) : Peer :=
  let early := rsn :: p.early
  let w := retireTo early early.length p.watermark
  { p with watermark := w, early := early.filter fun r => ahead r w }

/-- An outstanding operation completes: its RSN retires, its warp's status accumulates, and a waiting operation keeps what
its lanes receive (R163, R164). -/
def State.completeRemote (s : State) (tag : Nat) (st : RemoteStatus) (values : List W64) (bad : Option Nat) : State :=
  match s.outRemote.find? fun o => o.tag == tag && o.done.isNone with
  | none => s
  | some o =>
    let s := if o.owner == Config.moduleId then s.withdraw o.request else s
    let s := match o.request.rsn with
      | some n => s.mapCtx o.request.ctx fun c => c.mapPeer o.owner fun p => p.retire n
      | none => s
    let s := match o.agent with
      | .warp uid wid => s.mapWarp uid wid fun w => { w with remote := w.remote ||| statusBits st }
      | .leek _ => s
    if o.posted then { s with outRemote := s.outRemote.filter fun x => x.tag != tag }
    else { s with outRemote := s.outRemote.map fun (x : Outstanding) =>
        if x.tag == tag then { x with done := some (st, values, bad) } else x }

/-- Complete the outstanding operations that a test selects. -/
def State.completeWhere (s : State) (p : Outstanding → Bool) (st : RemoteStatus) : State :=
  ((s.outRemote.filter fun o => o.done.isNone && p o).map Outstanding.tag).foldl (fun s t => s.completeRemote t st [] none) s

/-- A packet from an owner module has arrived: its silence starts again (R161), and a newer epoch ends the operations
stamped with an older one (R407). -/
def State.hear (s : State) (owner : Byte) (part : Nat) (epoch : W32) : State :=
  let s := { s with lastPkt := (owner, s.clock) :: s.lastPkt.filter fun x => x.1 != owner }
  let old := s.peerEpoch owner part
  if old = 0 || ahead epoch old then
    let s := { s with peerEpochs := ((owner, part), epoch) :: s.peerEpochs.filter fun x => x.1 != (owner, part) }
    s.completeWhere (fun o => o.owner == owner && o.part == some part && o.request.epoch != 0 && ahead epoch o.request.epoch)
      .ownerRestarted
  else s

/-- Whether an answer or refusal is for an operation of this incarnation of its context. -/
def State.current? (s : State) (a : RemoteAnswer) : Option Outstanding :=
  s.outRemote.find? fun o => o.tag == a.tag && o.owner == a.owner && o.request.ctx == a.ctx && o.request.gen == a.gen && o.done.isNone

/-- REMOTE_ANSWER (R161, R163, R362). A second answer finds no operation. -/
def execRemoteAnswer (a : RemoteAnswer) (s : State) : Host.Outcome State Fault Refusal :=
  if !s.up || !s.arrives a.owner (.answer Config.moduleId a) then .next s
  else
    let s := s.hear a.owner a.part a.epoch
    match s.current? a with
    | some o => .next (s.completeRemote o.tag a.status a.values a.bad)
    | none => .next s

/-- REMOTE_REFUSAL: the owner's result cache was full (R161). -/
def execRemoteRefusal (a : RemoteAnswer) (s : State) : Host.Outcome State Fault Refusal :=
  if !s.up || !s.arrives a.owner (.refusal Config.moduleId a) then .next s
  else
    let s := s.hear a.owner a.part a.epoch
    match s.current? a with
    | some o =>
      let out := s.outRemote.map fun (x : Outstanding) => if x.tag == o.tag then { x with refusedAt := some s.clock } else x
      .next ({ s with outRemote := out }.perfAdd o.request.ctx 4 1)
    | none => .next s

/-- Send an operation's request again, with the watermark of now (R361). -/
def State.resend (s : State) (o : Outstanding) (tries : Nat) : State :=
  let w := ((s.ctx? o.request.ctx).map fun c => (c.peer o.owner).watermark).getD o.request.watermark
  { s with
    fabricOut := s.fabricOut ++ [.request o.owner { o.request with watermark := w }]
    outRemote := s.outRemote.map fun x =>
      if x.tag == o.tag then { x with tries := tries, sentAt := s.clock, refusedAt := none } else x }

/-- An outstanding operation by its name. -/
def State.outstanding? (s : State) (tag : Nat) : Option Outstanding := s.outRemote.find? fun o => o.tag == tag && o.done.isNone

/-- REFUSAL_RESEND: 8 microseconds, 11,200 cluster cycles, after a refusal (R161). -/
def execRefusalResend (tag : Nat) (s : State) : Host.Outcome State Fault Refusal :=
  match s.outstanding? tag with
  | some o => match o.refusedAt with
    | some t => if s.up && t + 11200 ≤ s.clock then .next (s.resend o o.tries) else .next s
    | none => .next s
  | none => .next s

/-- The interval after the transmission of a try: 8, 16, 32, then 64 microseconds (R161). -/
def tryInterval (tries : Nat) : Nat := min (8 * 2 ^ (tries - 1)) 64 * 1400

/-- RETRANSMISSION: the next try of an unanswered operation (R161), which counter 3 counts (R257). -/
def execRetransmission (tag : Nat) (s : State) : Host.Outcome State Fault Refusal :=
  match s.outstanding? tag with
  | some o =>
    if s.up && o.refusedAt.isNone && o.tries < 16 && o.sentAt + tryInterval o.tries ≤ s.clock then
      .next ((s.resend o (o.tries + 1)).perfAdd o.request.ctx 3 1)
    else .next s
  | none => .next s

/-- REMOTE_LOST: 64 microseconds, 89,600 cluster cycles, after the 16th try (R161). -/
def execRemoteLost (tag : Nat) (s : State) : Host.Outcome State Fault Refusal :=
  match s.outstanding? tag with
  | some o =>
    if s.up && o.refusedAt.isNone && 16 ≤ o.tries && o.sentAt + 89600 ≤ s.clock then
      .next (s.completeRemote tag .remoteLost [] none)
    else .next s
  | none => .next s

/-- OWNER_FAILED: 200 microseconds, 280,000 cluster cycles, of silence with operations outstanding (R161). -/
def execOwnerFailed (owner : Byte) (s : State) : Host.Outcome State Fault Refusal :=
  let last := ((s.lastPkt.find? fun x => x.1 == owner).map Prod.snd).getD 0
  if s.up && last + 280000 ≤ s.clock then .next (s.completeWhere (fun o => o.owner == owner) .ownerFailed) else .next s

/-- KEEPALIVE: every 10 microseconds, 14,000 cluster cycles, while an RSN lies above the acknowledged watermark (R162). -/
def execKeepalive (ctx : Nat) (owner : Byte) (s : State) : Host.Outcome State Fault Refusal :=
  match s.ctx? ctx with
  | none => .next s
  | some c =>
    match c.peers.find? fun p => p.owner == owner with
    | none => .next s
    | some p =>
      if s.up && ahead (p.next - 1) p.acked && p.kept + 14000 ≤ s.clock then
        let k : KeepAlive :=
          { requester := Config.moduleId, ctx := ctx, gen := c.gen, watermark := p.watermark
            ownerCtx := (s.remoteCtx c owner).getD 0 }
        .next ({ s with fabricOut := s.fabricOut ++ [Packet.keepalive owner k] }.mapCtx ctx fun c =>
          c.mapPeer owner fun p => { p with kept := s.clock })
      else .next s

/-- KEEPALIVE_ACK: the owner has taken a watermark (R161, R162). -/
def execKeepaliveAck (a : KeepAliveAck) (s : State) : Host.Outcome State Fault Refusal :=
  if !s.up || !s.arrives a.owner (.keepaliveAck Config.moduleId a) then .next s
  else
    let s := s.hear a.owner a.part a.epoch
    .next (s.mapCtx a.ctx fun c =>
      if c.gen == a.gen && c.peers.any fun p => p.owner == a.owner then
        c.mapPeer a.owner fun p => if ahead a.watermark p.acked then { p with acked := a.watermark } else p
      else c)

end Sys2Proof.Machine
end

