-- ==== Sys2Proof/Machine/Matrix.lean ====
section
/-!
DEFINITION. The matrix unit (R222 to R241): matrix operations as they issue, start and complete, the exact sums of the array
(R89, R232, R233), and the accumulator slots (R234 to R238).
-/

namespace Sys2Proof.Machine

/-! ### Scratch operands (R228) -/

/-- Bits [31:0] of a g register, or the trailing word; `dflt` for an absent field. -/
def LeekEnv.offset (e : LeekEnv) (r : Reg) (imm : Option W32) (dflt : Nat) : Nat :=
  match r with
  | .zero => dflt
  | r => (lo32 (e.l.src .n32 r imm)).toNat

/-- The fault of a range of scratch, at its lowest failing offset, with the address of an absent page (R228). -/
def State.scratchFault (s : State) (v : Viewer) (acc : Access) (offs : List Nat) : Option (AddrFault × Nat × Nat) :=
  offs.foldl (fun x o => worseAt x (match s.resolveScratch v o acc false with
    | .bad f va => some (f, o, va)
    | .ok _ _ _ => none)) none

/-- The places of a checked range. -/
def State.scratchPlaces (s : State) (v : Viewer) (acc : Access) (offs : List Nat) : List Nat :=
  offs.filterMap fun o => match s.resolveScratch v o acc false with
    | .ok p _ _ => some p
    | .bad _ _ => none

/-- A fault of a range as the Leek core reports it. -/
def rangeEffect (acc : Access) : AddrFault × Nat × Nat → Effect
  | (.absent, o, va) => .absent va acc (BitVec.ofNat 64 o) 1
  | (k, o, _) => .fault k.cause (BitVec.ofNat 64 o) 1

/-- Check a range, then go on. -/
def LeekEnv.withRange (e : LeekEnv) (acc : Access) (offs : List Nat) (k : Effect) : Effect :=
  match e.s.scratchFault e.viewer acc offs with
  | some x => rangeEffect acc x
  | none => k

/-! ### Issue (R225) -/

/-- The type that a format gives a slot (R231). -/
def slotTypeOf : Fmt → SlotType
  | .s8x4 | .n8x4 => .s32
  | _ => .f32

/-- The slot that a name is bound to (R26). -/
def Group.slotOf (g : Group) (n : Fin 16) : Option Nat := g.names[n]

/-- A held slot of a cluster. -/
def State.slot? (s : State) (cluster n : Nat) : Option AccSlot := (s.cluster cluster).slots.find? fun x => x.n == n

/-- Update a held slot. -/
def State.mapSlot (s : State) (cluster n : Nat) (f : AccSlot → AccSlot) : State :=
  s.mapCluster cluster fun k => { k with slots := k.slots.map fun x => if x.n == n then f x else x }

/-- Put an operation on the thread's queue; a full queue waits (R225). -/
def LeekEnv.enqueue (e : LeekEnv) (s : State) (kind : MatKind) (name : Option (Fin 16)) (k : Nat → State → Effect) : Effect :=
  if 8 ≤ e.l.pending then .wait e.s .matrixQueue
  else
    let (u, s) := s.newUid
    let o : MatOp := { id := u, kind := kind, name := name, started := false, events := 0, held := [], ovft := e.c.ovft, pc := e.l.pc }
    k u (s.mapLeek e.g.uid fun l => { l with queue := l.queue ++ [o] })

/-- An operation whose thread goes on at once (R226). -/
def LeekEnv.queued (e : LeekEnv) (s : State) (kind : MatKind) (name : Option (Fin 16)) : Effect :=
  e.enqueue s kind name fun _ s => .done s

/-- Bind a name to a slot if it has none: the lowest free one, starting at zero of type none (R26, R234; the choice of the
slot is notes/assumptions/26.md). -/
def LeekEnv.withSlot (e : LeekEnv) (n : Fin 16) (k : Nat → State → Effect) : Effect :=
  match e.g.slotOf n with
  | some x => k x e.s
  | none =>
    if e.s.accFull e.g then .fault .accfull 0 1
    else match e.s.freeSlotList e.g.cluster with
      | x :: _ =>
        if e.s.slotTurn e.g then
          let s := e.s.mapCluster e.g.cluster fun c => { c with
            slots := { n := x, group := e.g.uid, data := [], type := .none', release := false } :: c.slots
            slotWait := c.slotWait.filter fun u => u != e.g.uid }
          let s := s.mapGroup e.g.uid fun g => { g with names := g.names.set n (some x) }
          k x (s.mapLeek e.g.uid fun l => { l with bad := l.bad.filter fun b => match b.place with
            | .slot m => m.val != x
            | _ => true })
        else .wait (e.s.mapCluster e.g.cluster fun c => { c with slotWait := c.slotWait.filter (· != e.g.uid) ++ [e.g.uid] }) .slot
      | [] =>
        .wait (if (e.s.cluster e.g.cluster).slotWait.contains e.g.uid then e.s
          else e.s.mapCluster e.g.cluster fun c => { c with slotWait := c.slotWait ++ [e.g.uid] }) .slot

/-- The latch and tile that an instruction names. -/
def laOf (f : LForm) : Fin 2 := if f.sub.getLsbD 0 then 1 else 0
def tileOf : Reg → Fin 8
  | .t n => n
  | _ => 0
def accOf : Reg → Fin 16
  | .ac n => n
  | _ => 0

/-- The latch's element format: the tile's, or the other FP8 format under X (R231). -/
def latchFmt (f : LForm) : Fmt := if f.sub.getLsbD 1 then (if f.fmt == .e4m3x4 then .e5m2x4 else .e4m3x4) else f.fmt

/-! ### TLD and AGATH (R229, R230) -/

/-- TLD's issue. Of a misaligned offset and a misaligned pitch, the offset is reported: the spec gives no order (DESIGN CHOICE,
notes/assumptions/25.md). -/
def tldLeek (f : LForm) (e : LeekEnv) : Effect :=
  let a := e.offset f.src0 f.imm 0
  let pitch := e.offset f.src1 f.imm 64
  let t := tileOf f.dst
  if !e.l.takes f.pneg f.pred then .done e.s
  else if a % 64 ≠ 0 then .fault .misalign (BitVec.ofNat 64 a) 1
  else if pitch = 0 || pitch % 64 != 0 then .fault .misalign 0 1
  else e.withRange .read (pieces a pitch 128 64) <|
    e.queued (e.s.mapLeek e.g.uid fun l => { l with tiles := l.tiles.set t { (l.tiles[t]) with tag := f.fmt } }) (.tld t a pitch) none

def execTld (f : LForm) (s : State) : Host.Outcome State Fault Refusal := issue (.l .tld f) s noWarp (tldLeek f)

/-- The row offsets of a gather, from the bytes of its index vector. -/
def rowOffsets (base pitch : Nat) (index : List Byte) : List Nat :=
  (List.range 128).map fun r => base + ofBytesLE ((index.drop (2 * r)).take 2) * pitch

/-- The pieces of gathered rows. -/
def rowPieces (rows : List Nat) : List Nat := rows.flatMap fun o => [o, o + 32]

/-- Bytes at places of 32 bytes each. -/
def State.bytesAt32 (s : State) (ps : List Nat) : List Byte := ps.flatMap fun p => s.mem.read p 32

/-- AGATH's issue. Of a misaligned index offset and a misaligned row base, the index offset is reported: the spec gives no order
(DESIGN CHOICE, notes/assumptions/25.md). -/
def agathLeek (f : LForm) (e : LeekEnv) : Effect :=
  let idx := e.offset f.src0 f.imm 0
  let base := e.offset f.src1 f.imm 0
  let pitch := e.offset f.src2 f.imm 0
  if !e.l.takes f.pneg f.pred || e.l.wait == .gathered then .done e.s
  else if idx % 64 ≠ 0 then .fault .misalign (BitVec.ofNat 64 idx) 1
  else if base % 64 ≠ 0 then .fault .misalign (BitVec.ofNat 64 base) 1
  else if pitch % 64 ≠ 0 then .fault .misalign 0 1
  else e.withRange .read (pieces idx 0 1 256) <|
    e.enqueue e.s (.agath (laOf f) idx base pitch) none fun u s => .wait s (.gather u)

def execAgath (f : LForm) (s : State) : Host.Outcome State Fault Refusal := issue (.l .agath f) s noWarp (agathLeek f)

/-! ### MMA and MMAS (R231 to R233) -/

/-- Whether the tile's tag or the slot's tracked type differs from a format's (R231). -/
def LeekEnv.matTag (e : LeekEnv) (f : LForm) : Bool :=
  e.l.tiles[tileOf f.src0].tag != f.fmt ||
    (match (e.g.slotOf (accOf f.dst)).bind (e.s.slot? e.g.cluster) with
      | some x => x.type != .none' && x.type != slotTypeOf f.fmt
      | none => false)

def mmaLeek (f : LForm) (e : LeekEnv) : Effect :=
  let n := accOf f.dst
  if e.matTag f then .fault .tag 0 1
  else if !e.l.takes f.pneg f.pred then .done e.s
  else e.withSlot n fun x s =>
    e.queued (s.mapSlot e.g.cluster x fun a => { a with type := slotTypeOf f.fmt })
      (.mma f.fmt (latchFmt f) (laOf f) (tileOf f.src0) x) (some n)

def execMma (f : LForm) (s : State) : Host.Outcome State Fault Refusal := issue (.l .mma f) s noWarp (mmaLeek f)

def mmasLeek (f : LForm) (e : LeekEnv) : Effect :=
  let n := accOf f.dst
  let scales := e.offset f.src1 f.imm 0
  if e.matTag f then .fault .tag 0 1
  else if !e.l.takes f.pneg f.pred then .done e.s
  else if scales % 64 ≠ 0 then .fault .misalign (BitVec.ofNat 64 scales) 1
  else e.withRange .read (pieces scales 0 1 512) <| e.withSlot n fun x s =>
    e.queued (s.mapSlot e.g.cluster x fun a => { a with type := slotTypeOf f.fmt })
      (.mmas f.fmt (latchFmt f) (laOf f) (tileOf f.src0) x scales (BitVec.ofNat 32 (e.offset f.src2 f.imm 0))) (some n)

def execMmas (f : LForm) (s : State) : Host.Outcome State Fault Refusal := issue (.l .mmas f) s noWarp (mmasLeek f)

/-! ### Accumulator slots (R235 to R238) -/

def aczLeek (f : LForm) (e : LeekEnv) : Effect :=
  let n := accOf f.dst
  if !e.l.takes f.pneg f.pred then .done e.s
  else e.withSlot n fun x s =>
    e.queued (s.mapSlot e.g.cluster x fun a => { a with type := .none' }) (.acz x) (some n)

def execAcz (f : LForm) (s : State) : Host.Outcome State Fault Refusal := issue (.l .acz f) s noWarp (aczLeek f)

/-- The tracked type of a name's slot. -/
def LeekEnv.typeOf (e : LeekEnv) (n : Fin 16) : SlotType :=
  (((e.g.slotOf n).bind (e.s.slot? e.g.cluster)).map AccSlot.type).getD .none'

/-- ACDRN's issue. Of a misaligned offset and a misaligned pitch, the offset is reported: the spec gives no order (DESIGN CHOICE,
notes/assumptions/25.md). -/
def acdrnLeek (f : LForm) (e : LeekEnv) : Effect :=
  let n := accOf f.src0
  let a := e.offset f.src1 f.imm 0
  let pitch := e.offset f.src2 f.imm 0
  let bytes := acdrnRow f.fmt
  if e.typeOf n == .s32 && f.fmt != .f32 then .fault .tag 0 1
  else if !e.l.takes f.pneg f.pred then .done e.s
  else match e.g.slotOf n with
    | none => .fault .illegal 0 1
    | some x =>
      if pitch < bytes then .fault .illegal 0 1
      else if a % 32 ≠ 0 then .fault .misalign (BitVec.ofNat 64 a) 1
      else if pitch % 32 ≠ 0 then .fault .misalign 0 1
      else e.withRange .write (pieces a pitch 128 bytes) (e.queued e.s (.acdrn f.fmt (e.typeOf n) x a pitch) (some n))

def execAcdrn (f : LForm) (s : State) : Host.Outcome State Fault Refusal := issue (.l .acdrn f) s noWarp (acdrnLeek f)

def acrelLeek (f : LForm) (e : LeekEnv) : Effect :=
  let n := accOf f.dst
  if !e.l.takes f.pneg f.pred then .done e.s
  else match e.g.slotOf n with
    | none => .done e.s
    | some x =>
      let s := e.s.mapSlot e.g.cluster x fun a => { a with release := true }
      e.queued (s.mapGroup e.g.uid fun g => { g with names := g.names.set n none }) (.acrel x) (some n)

def execAcrel (f : LForm) (s : State) : Host.Outcome State Fault Refusal := issue (.l .acrel f) s noWarp (acrelLeek f)

/-- The code of a type in ACSTAT (R238). -/
def SlotType.code : SlotType → Nat
  | .none' => 0
  | .f32 => 1
  | .s32 => 2

/-- The word of ACSTAT (R238). -/
def LeekEnv.acstatWord (e : LeekEnv) (n : Fin 16) : W64 :=
  let k := e.s.cluster e.g.cluster
  let held := (e.g.names.toArray.toList.filter Option.isSome).length
  let pend := if e.l.queue.any fun o => o.name == some n then 1 else 0
  let slot := match e.g.slotOf n with
    | some x => x * 2 ^ 6 + (e.typeOf n).code * 2 ^ 4 + 1
    | none => 0
  BitVec.ofNat 64 ((16 - k.retired.length) * 2 ^ 20 + (e.s.freeSlotList e.g.cluster).length * 2 ^ 15 + held * 2 ^ 10
    + slot + pend * 2 ^ 3)

def acstatLeek (f : LForm) (e : LeekEnv) : Effect :=
  .done (if e.l.takes f.pneg f.pred then e.put (e.l.writeG f.dst (e.acstatWord (accOf f.src0))) else e.s)

def execAcstat (f : LForm) (s : State) : Host.Outcome State Fault Refusal := issue (.l .acstat f) s noWarp (acstatLeek f)

/-! ### MMWAIT and LKEXIT (R239, R240) -/

def mmwaitLeek (f : LForm) (e : LeekEnv) : Effect :=
  if e.l.takes f.pneg f.pred && !e.l.queue.isEmpty then .wait e.s .matrix else .done e.s

def execMmwait (f : LForm) (s : State) : Host.Outcome State Fault Refusal := issue (.l .mmwait f) s noWarp (mmwaitLeek f)

/-- LKEXIT; `leekEffect` has waited for the thread's operations (R227). -/
def lkexitLeek (f : LForm) (e : LeekEnv) : Effect :=
  if e.l.takes f.pneg f.pred then .gone (e.s.endLeek e.g e.l.pc) else .done e.s

def execLkexit (f : LForm) (s : State) : Host.Outcome State Fault Refusal := issue (.l .lkexit f) s noWarp (lkexitLeek f)

/-! ### The start of an operation (R225 to R227) -/

/-- The resource that an operation occupies (R226). -/
inductive MatRes where
  | load | array | none'
  deriving DecidableEq, Repr

/-- The resource of a kind. -/
def MatKind.res : MatKind → MatRes
  | .tld _ _ _ | .agath _ _ _ _ | .acdrn _ _ _ _ _ => .load
  | .mma _ _ _ _ _ | .mmas _ _ _ _ _ _ _ => .array
  | .acz _ | .acrel _ => .none'

/-- A slot as a place of the matrix unit. -/
def slotPlace (n : Nat) : MatPlace := .slot (Fin.ofNat 16 n)

/-- What an operation reads and writes of tiles, latches and slots; ACREL changes its slot and reads no data of it (R225,
R237). -/
def MatKind.reads : MatKind → List MatPlace
  | .tld _ _ _ | .agath _ _ _ _ | .acz _ | .acrel _ => []
  | .mma _ _ l t x => [.latch l, .tile t, slotPlace x]
  | .mmas _ _ l t x _ _ => [.latch l, .tile t, slotPlace x]
  | .acdrn _ _ x _ _ => [slotPlace x]
def MatKind.writes : MatKind → List MatPlace
  | .tld t _ _ => [.tile t]
  | .agath l _ _ _ => [.latch l]
  | .mma _ _ _ _ x => [slotPlace x]
  | .mmas _ _ _ _ x _ _ => [slotPlace x]
  | .acz x => [slotPlace x]
  | .acdrn _ _ _ _ _ => []
  | .acrel x => [slotPlace x]

/-- Whether an earlier operation that has not completed holds back a later one: by its dependencies (R225), or because an ACZ
occupies the slot that the later one changes (R226). -/
def MatKind.holds (earlier later : MatKind) : Bool :=
  earlier.writes.any (fun p => later.reads.contains p) || earlier.reads.any (fun p => later.writes.contains p) ||
    match earlier with
    | .acz x => later.writes.contains (slotPlace x)
    | _ => false

/-- The first operation of a thread that has not started, where its dependencies allow its start (R225). -/
def Leek.nextOp (l : Leek) : Option MatOp :=
  match l.queue.find? fun o => !o.started with
  | some o => if (l.queue.takeWhile fun x => x.id != o.id).any fun x => x.kind.holds o.kind then none else some o
  | none => none

/-- What occupies a resource of a cluster. -/
def Cluster.occupied (k : Cluster) : MatRes → Bool
  | .load => k.loadPath.isSome
  | .array => k.array.isSome
  | .none' => false

/-- Whether an operation of another thread of the cluster, issued earlier, is ready for the same resource (R225). -/
def State.earlierOp (s : State) (g : Group) (o : MatOp) : Bool :=
  (s.leeksOn g.cluster).any fun x => x.1.uid != g.uid && (match x.2.nextOp with
    | some p => p.kind.res == o.kind.res && decide (p.id < o.id)
    | none => false)

/-- Update an operation of a thread. -/
def State.mapOp (s : State) (uid op : Nat) (f : MatOp → MatOp) : State :=
  s.mapLeek uid fun l => { l with queue := l.queue.map fun o => if o.id == op then f o else o }

/-- An operation starts and occupies its resource. -/
def State.begin' (s : State) (g : Group) (o : MatOp) : State :=
  (s.mapOp g.uid o.id fun o => { o with started := true }).mapCluster g.cluster fun k =>
    match o.kind.res with
    | .load => { k with loadPath := some (g.uid, o.id) }
    | .array => { k with array := some (g.uid, o.id) }
    | .none' => k

/-- An operation leaves its queue and its resource. -/
def State.retireOp (s : State) (g : Group) (op : Nat) : State :=
  (s.mapLeek g.uid fun l => { l with queue := l.queue.filter fun o => o.id != op }).mapCluster g.cluster fun k => { k with
    loadPath := if k.loadPath == some (g.uid, op) then none else k.loadPath
    array := if k.array == some (g.uid, op) then none else k.array }

/-- An operation's error ends its thread, with the operation's instruction as the consuming one (R224). -/
def State.opError (s : State) (c : Context) (g : Group) (l : Leek) (o : MatOp) (source addr : Nat) : State :=
  s.killLeek c g { l with pc := o.pc } source (BitVec.ofNat 64 addr)

/-- The start of an operation that may start: an error in a tile, latch or slot that it reads ends its thread (R224). -/
def State.startOp (s : State) (c : Context) (g : Group) (l : Leek) (o : MatOp) : State :=
  if (l.bad.any fun b => o.kind.reads.contains b.place) then s.opError c g l o 7 0 else s.begin' g o

/-- MATRIX_OP_START: the next operation of a group's Leek thread starts where its dependencies and resource allow (R225). -/
def execMatrixOpStart (group : Nat) (s : State) : Host.Outcome State Fault Refusal :=
  match s.group? group with
  | none => .next s
  | some g =>
    match s.ctx? g.ctx, g.leek with
    | some c, some l =>
      match l.nextOp with
      | some o =>
        if (s.cluster g.cluster).occupied o.kind.res || (o.kind.res != .none' && s.earlierOp g o) then .next s
        else .next (s.startOp c g l o)
      | none => .next s
    | _, _ => .next s

/-! ### The array (R89) -/

/-- Memory as a list of bytes from an address up. -/
def Memory.dense : Memory → Nat → Nat → List Byte
  | _, _, 0 => []
  | [], _, n + 1 => 0 :: Memory.dense [] 0 n
  | (k, v) :: m, a, n + 1 => if k = a then v :: Memory.dense m (a + 1) n else 0 :: Memory.dense ((k, v) :: m) (a + 1) n

/-- A list of bytes as canonical memory from an address up. -/
def Memory.ofList : Nat → List Byte → Memory
  | _, [] => []
  | a, b :: bs => if b = 0 then Memory.ofList (a + 1) bs else (a, b) :: Memory.ofList (a + 1) bs

/-- A list cut into `n` pieces of `k` elements. -/
def cut {α : Type} (k : Nat) : Nat → List α → List (List α)
  | 0, _ => []
  | n + 1, l => l.take k :: cut k n (l.drop k)

/-- The elements of a row or column of 64 bytes (R231). -/
def rowEls (f : Fmt) (row : List Byte) : List Nat :=
  let k := (elemOf f).1 / 8
  (cut k (64 / k) row).map ofBytesLE

/-- The exact sum of the products of a row and a column (R89). -/
def exactSum : List FVal → FVal
  | [] => .fin false 0 0
  | x :: rest => rest.foldl (fun a b => a.add b .rne) x

/-- P of floating operands. -/
def productSum (fa fb : Fmt) (row col : List Nat) : FVal :=
  exactSum ((row.zip col).map fun x => (valueOf fa x.1).mul (valueOf fb x.2))

/-- P of integer operands. -/
def productInt (fa fb : Fmt) (row col : List Nat) : Int := ((row.zip col).map fun x => elInt fa x.1 * elInt fb x.2).sum

/-- `round(x, F32, RNE)` as a value again. -/
def roundF32 (ovft : BitVec 16) (x : FVal) : FVal := FFmt.f32.decode (FFmt.f32.round x .rne ovft).1

/-- The new code of an accumulator element: MMA, or MMAS with its scales (R89, R232, R233). -/
def accStep (ovft : BitVec 16) (fa fb : Fmt) (scale : Option (Nat × Nat)) (ac : Nat) (row col : List Nat) : Nat :=
  if slotTypeOf fb == .s32 then wrapTo 32 ((ac : Int) + productInt fa fb row col)
  else
    let p := productSum fa fb row col
    let t := match scale with
      | none => roundF32 ovft p
      | some (sa, sb) => roundF32 ovft ((roundF32 ovft (p.mul (FFmt.f32.decode sa))).mul (FFmt.f32.decode sb))
    (FFmt.f32.round ((FFmt.f32.decode ac).add t .rne) .rne ovft).1

/-- The slot after one K-step: rows of the latch against columns of the tile, `scales` by row. -/
def accAll (ovft : BitVec 16) (fa fb : Fmt) (scales : Option (List Nat × Nat)) (acs : List (List Nat)) (la tile : List Byte) :
    List (List Nat) :=
  let rows := (cut 64 128 la).map (rowEls fa)
  let cols := (cut 64 128 tile).map (rowEls fb)
  (rows.zip acs).zipIdx.map fun x =>
    (x.1.2.zip cols).map fun y => accStep ovft fa fb (scales.map fun sc => (sc.1.getD x.2 0, sc.2)) y.1 x.1.1 y.2

/-- A slot's contents as 128 rows of 128 codes. -/
def slotRows (data : Memory) : List (List Nat) :=
  (cut 512 128 (Memory.dense data 0 65536)).map fun r => (cut 4 128 r).map ofBytesLE

/-- Row `i` of a slot's contents. -/
def slotRow (data : Memory) (i : Nat) : List Nat :=
  (cut 4 128 (Memory.dense (data.slice (512 * i) (512 * i + 512)) (512 * i) 512)).map ofBytesLE

/-- A slot's contents from its rows. -/
def slotData (rows : List (List Nat)) : Memory := Memory.ofList 0 (rows.flatMap fun r => r.flatMap fun x => toBytesLE 4 x)

/-- The bytes that ACDRN writes of a row (R236). -/
def drainRow (ovft : BitVec 16) (f : Fmt) (type : SlotType) (row : List Nat) : List Byte :=
  let k := (elemOf f).1 / 8
  row.flatMap fun x => toBytesLE k (
    if type == .none' then 0 else if f == .f32 then x else ((ffmtOf f).round (FFmt.f32.decode x) .rne ovft).1)

/-! ### The memory events of an operation (R227) -/

/-- How many memory events an operation makes: one a sector, but one a row of a gather. -/
def MatKind.memEvents : MatKind → Nat
  | .tld _ _ _ => 256
  | .agath _ _ _ _ => 8 + 128
  | .mmas _ _ _ _ _ _ _ => 16
  | .acdrn f _ _ _ _ => 128 * (acdrnRow f / 32)
  | .mma _ _ _ _ _ | .acz _ | .acrel _ => 0

/-- Whether an operation has no memory event left to make. -/
def MatOp.quiet (o : MatOp) : Bool := o.kind.memEvents ≤ o.events

/-- The operation of a thread that makes its next memory event: the events keep the thread's issue order (R227, R330). -/
def Leek.memOp (l : Leek) : Option MatOp :=
  match l.queue.find? fun o => !o.quiet with
  | some o => if o.started then some o else none
  | none => none

/-- The scratch offset of an operation's next memory event. -/
def MatOp.nextAt (o : MatOp) : Nat :=
  match o.kind with
  | .tld _ a pitch => a + o.events / 2 * pitch + 32 * (o.events % 2)
  | .agath _ index base pitch =>
    if o.events < 8 then index + 32 * o.events else (rowOffsets base pitch (o.held.take 256)).getD (o.events - 8) 0
  | .mmas _ _ _ _ _ scales _ => scales + 32 * o.events
  | .acdrn f _ _ a pitch => a + o.events / (acdrnRow f / 32) * pitch + 32 * (o.events % (acdrnRow f / 32))
  | .mma _ _ _ _ _ | .acz _ | .acrel _ => 0

/-- The bytes that an operation's next memory event reads: a row of a gather, else a sector. -/
def MatOp.nextBytes (o : MatOp) : Nat :=
  match o.kind with
  | .agath _ _ _ _ => if o.events < 8 then 32 else 64
  | _ => 32

/-- The bytes of row `i` that a drain writes of a slot (R236). -/
def State.drained (s : State) (g : Group) (o : MatOp) (f : Fmt) (type : SlotType) (slot i : Nat) : List Byte :=
  drainRow o.ovft f type (slotRow (((s.slot? g.cluster slot).map AccSlot.data).getD []) i)

/-- The end of a gather's index cycle: its rows are checked, and its thread goes on or waits for a page (R228, R230). -/
def State.checkRows (s : State) (c : Context) (g : Group) (l : Leek) (o : MatOp) (base pitch : Nat) : State :=
  match s.scratchFault { ctx := c, grp := g } .read (rowPieces (rowOffsets base pitch (o.held.take 256))) with
  | some (.absent, off, va) =>
    ((s.retireOp g o.id).faultRing c.id va .read g.cluster).setWait (.leek g.uid)
      (.page (BitVec.ofNat 64 (va / 4096)) Access.read.code (BitVec.ofNat 64 (off - off % 64)) 1)
  | some (k, off, _) => s.leekFault c g l k.cause (BitVec.ofNat 64 (off - off % 64))
  | none => s.setWait (.leek g.uid) .gathered

/-- The read of an operation's next memory event; an error in what it reads ends its thread (R224). -/
def State.matRead (s : State) (c : Context) (g : Group) (l : Leek) (o : MatOp) (place : Nat) : State :=
  match s.errorAt place o.nextBytes with
  | some source => s.opError c g l o source o.nextAt
  | none =>
    let o := { o with events := o.events + 1, held := o.held ++ s.mem.read place o.nextBytes }
    let s := s.mapOp g.uid o.id fun _ => o
    match o.kind with
    | .agath _ _ base pitch => if o.events = 8 then s.checkRows c g l o base pitch else s
    | _ => s

/-- The store of a drain's next memory event: a sector of a row, whose bytes the datapath rounded (R236, R402). -/
def State.matStore (s : State) (g : Group) (o : MatOp) (f : Fmt) (type : SlotType) (slot place : Nat) : State :=
  let n := acdrnRow f / 32
  let bytes := ((s.drained g o f type slot (o.events / n)).drop (32 * (o.events % n))).take 32
  ((s.store (some (.leek g.uid)) place bytes).wrote [(place, 32)]).mapOp g.uid o.id fun o => { o with events := o.events + 1 }

/-- The next memory event of an operation; one whose page is away waits (R224, R227). -/
def State.matEvent (s : State) (c : Context) (g : Group) (l : Leek) (o : MatOp) : State :=
  match o.kind with
  | .acdrn f type slot _ _ =>
    match s.resolveScratch { ctx := c, grp := g } o.nextAt .write false with
    | .ok p _ fill => (s.fillTlb fill).matStore g o f type slot p
    | .bad _ _ => s
  | _ =>
    match s.resolveScratch { ctx := c, grp := g } o.nextAt .read false with
    | .ok p _ fill => (s.fillTlb fill).matRead c g l o p
    | .bad _ _ => s

/-- The matrix unit makes the next memory event of a group's Leek thread. -/
def State.matrixStep (s : State) (group : Nat) : State :=
  match s.group? group with
  | none => s
  | some g =>
    match s.ctx? g.ctx, g.leek with
    | some c, some l => match l.memOp with
      | some o => s.matEvent c g l o
      | none => s
    | _, _ => s

/-! ### The completion of an operation (R226) -/

/-- A write of a whole tile, latch or slot leaves no error in it (R405). -/
def Leek.cleared (l : Leek) (p : MatPlace) : Leek := { l with bad := l.bad.filter fun b => b.place != p }

/-- An array operation updates its slot. -/
def State.accumulate (s : State) (g : Group) (l : Leek) (o : MatOp) (fb fa : Fmt) (la : Fin 2) (t : Fin 8) (slot : Nat)
    (scales : Option (List Nat × Nat)) : State :=
  let rows (m : Memory) : Memory :=
    slotData (accAll o.ovft fa fb scales (slotRows m) (Memory.dense l.la[la].data 0 8192) (Memory.dense l.tiles[t].data 0 8192))
  ((s.mapSlot g.cluster slot fun a => { a with data := rows a.data }).perfAdd g.ctx 6 1).mapLeek g.uid fun l =>
    l.cleared (slotPlace slot)

/-- What an operation does when its cycles are over. -/
def State.finishOp (s : State) (g : Group) (l : Leek) (o : MatOp) : State :=
  match o.kind with
  | .tld t _ _ =>
    s.mapLeek g.uid fun l =>
      Leek.cleared { l with tiles := l.tiles.set t { (l.tiles[t]) with data := Memory.ofList 0 o.held } } (.tile t)
  | .agath la _ _ _ =>
    s.mapLeek g.uid fun l =>
      Leek.cleared { l with la := l.la.set la { (l.la[la]) with data := Memory.ofList 0 (o.held.drop 256) } } (.latch la)
  | .mma fb fa la t x => s.accumulate g l o fb fa la t x none
  | .mmas fb fa la t x _ sb => s.accumulate g l o fb fa la t x (some ((cut 4 128 o.held).map ofBytesLE, sb.toNat))
  | .acz x =>
    (s.mapSlot g.cluster x fun a => { a with data := [] }).mapLeek g.uid fun l => l.cleared (slotPlace x)
  | .acdrn _ _ _ _ _ => s
  | .acrel x => s.freeSlots g.cluster fun y => y.n == x

/-- MATRIX_OP_COMPLETE: a started operation that has made its memory events completes (R226). -/
def execMatrixOpComplete (group op : Nat) (s : State) : Host.Outcome State Fault Refusal :=
  match s.group? group with
  | none => .next s
  | some g =>
    match g.leek with
    | some l =>
      match l.queue.find? fun o => o.id == op && o.started && o.quiet with
      | some o => .next ((s.finishOp g l o).retireOp g op)
      | none => .next s
    | none => .next s

end Sys2Proof.Machine
end

