-- ==== Sys2Proof/Machine/System.lean ====
section
/-!
DEFINITION. The system and trap instructions (R242 to R258). Their modes are checked by `Shape.modeOk`.
-/

namespace Sys2Proof.Machine

/-! ### TRAP, TRET and HALT (R247 to R249) -/

/-- The code of TRAP and HALT: the trailing word, 0 in form L. -/
def codeOf (f : LForm) : W64 := zx64 (f.imm.getD 0)

def trapBody (f : LForm) (e : Env) : Effect := if e.eff = 0 then .done e.s else .fault .trap (codeOf f) e.eff

def execTrap (f : LForm) (s : State) : Host.Outcome State Fault Refusal := issue (.l .trap f) s (trapBody f) noLeek

/-- What a TRET finds at TPC when it resumes inside a repeat unit. -/
inductive Unit' where
  | repeat' (count : Nat)
  | other
  | refused
  | absent (va : Nat)
  deriving DecidableEq, Repr

/-- The unit at TPC (R248): all of it is fetched, the instruction that a prefix governs included (R34). -/
def Env.unitAt (e : Env) (pc : W64) : Unit' :=
  match e.s.fetchInstr e.c e.w.fetched false pc.toNat with
  | .absent va => .absent va
  | .perm _ => .refused
  | .ok bs s lines => match s.fetchUnit e.c lines false bs pc with
    | .absent va => .absent va
    | .perm _ => .refused
    | .ok _ _ _ => match decode bs with
      | .ok (.rep p, _) => .repeat' (repTimes p)
      | _ => .other

/-- TRET in trap mode ends the context with a record of kind 0x06. -/
def Env.tretEnds (e : Env) : Effect :=
  .gone ((e.s.perfAdd e.c.id 0 1).endsFrame e.c e.g e.w)

/-- TRET in trap mode leaves it; `wait` is the wait it leaves with. -/
def Env.tretLeaves (e : Env) (wait : Wait) : Effect :=
  .gone ((e.put { e.w.trapReturn with wait := wait }).perfAdd e.c.id 0 1)

/-- TRET (R248). Where TSW names an iteration, the unit at TPC is fetched. A page that refuses the fetch or is away is met at
TPC once trap mode is left: the warp waits there for an absent page, and its unit is checked when it comes
(`State.turnWarp`). -/
def tretBody (e : Env) : Effect :=
  let n := e.w.tsw.toNat
  let iter := bitsOf n 14 6
  if bitsOf n 24 7 ≠ 0 || bitsOf n 8 6 ≠ 0 then e.tretEnds
  else if iter = 0 then e.tretLeaves .ready
  else match e.unitAt e.w.tpc with
    | .repeat' count => if count ≤ iter then e.tretEnds else e.tretLeaves .ready
    | .other => e.tretEnds
    | .refused => e.tretLeaves .ready
    | .absent va =>
      match e.tretLeaves (.page (BitVec.ofNat 64 (va / 4096)) Access.fetch.code (BitVec.ofNat 64 va) e.live) with
      | .gone s => .gone (s.faultRing e.c.id va .fetch e.g.cluster)
      | x => x

def execTret (f : LForm) (s : State) : Host.Outcome State Fault Refusal := issue (.l .tret f) s tretBody noLeek

def haltBody (f : LForm) (e : Env) : Effect :=
  .gone (((e.s.perfAdd e.c.id 0 1).putRec e.c.id (e.w.record e.g 0x04 0 (codeOf f) e.live (pair64 0 e.w.tsw))).terminate
    e.c.id)

def execHalt (f : LForm) (s : State) : Host.Outcome State Fault Refusal := issue (.l .halt f) s (haltBody f) noLeek

/-! ### Special registers (R251, R252) -/

/-- A warp after a write to a special register; none for a value that is ILLEGAL (R27, R251). TM is not written. -/
def Warp.writeSpecial (w : Warp) (n : Nat) (x : W64) : Option Warp :=
  match n with
  | 0x0E => if x.toNat / 256 ≠ 0 then none else some { w with flags := x.setWidth 8 }
  | 0x0F => if x.toNat / 4 ≠ 0 then none else some { w with round := x.setWidth 2 }
  | 0x18 => some { w with tsw := (w.tsw &&& 0x80000000) ||| (lo32 x &&& 0x7FFFFFFF) }
  | 0x19 => if x.toNat % 4 ≠ 0 then none else some { w with tpc := x, noSpec := none }
  | _ => some w

/-- MOVSR: an error in its source kills its lanes and writes zero (R18, R242). -/
def movsrBody (f : LForm) (e : Env) : Effect :=
  let fmt : Fmt := if f.fmt.wide then .n64 else .n32
  let n := (f.imm.getD 0).toNat
  let kills := e.w.operandKills [Opnd.any f.src0 fmt] e.eff
  if e.eff = 0 then .done e.s
  else if kills.1 ≠ 0 then .done ((e.put ((e.w.writeSpecial n 0).getD e.w)).killLanes e.c e.g e.w kills.1 kills.2 0)
  else match e.w.writeSpecial n (e.w.uni f.src0 none fmt) with
    | none => .fault .illegal 0 e.eff
    | some w => .done (e.put w)

def execMovsr (f : LForm) (s : State) : Host.Outcome State Fault Refusal := issue (.l .movsr f) s (movsrBody f) noLeek

/-- An instruction that acts on the warp, group or context whatever EXEC holds, unless an operand's error kills its lanes
(R18, R242). OVFLD, RAILSET, TLBINV and WDSET then have no other effect, of which R18 says nothing (DESIGN CHOICE,
notes/assumptions/14.md). -/
def Env.anyway (e : Env) (os : List Opnd) (k : Effect) : Effect :=
  let kills := e.w.operandKills os e.eff
  if kills.1 ≠ 0 then .done (e.s.killLanes e.c e.g e.w kills.1 kills.2 0) else k

/-- The word operand of a system instruction. -/
def Env.word (e : Env) (f : LForm) : W32 := lo32 (e.w.uni f.src0 f.imm .n32)

def ovfldBody (f : LForm) (e : Env) : Effect :=
  e.anyway [Opnd.any f.src0 .n32] <|
    if ovftOk (e.word f) then .done (e.s.mapCtx e.c.id fun c => { c with ovft := (e.word f).setWidth 16 })
    else .fault .illegal 0 e.live

def execOvfld (f : LForm) (s : State) : Host.Outcome State Fault Refusal := issue (.l .ovfld f) s (ovfldBody f) noLeek

/-! ### RAILSET and SIGSEED (R253, R254) -/

def railsetBody (f : LForm) (e : Env) : Effect :=
  e.anyway [Opnd.any f.src0 .n32] <|
    let x := (e.word f).toNat
    if 7 < x then .fault .illegal 0 e.live
    else if x < (e.s.cluster e.g.cluster).level.toNat then .wait e.s (.rail x)
    else .done (e.s.mapGroup e.g.uid fun g => { g with level := BitVec.ofNat 3 x })

def execRailset (f : LForm) (s : State) : Host.Outcome State Fault Refusal := issue (.l .railset f) s (railsetBody f) noLeek

/-- The bytes of a form L or I instruction. -/
def lformBytes (f : LForm) : Nat := if f.imm.isSome then 12 else 8

/-- SIGSEED; its own words are not hashed, also where an error in its operand leaves the seed as it was (R18, R254). -/
def sigseedBody (f : LForm) (e : Env) : Effect :=
  let kills := e.w.operandKills [Opnd.any f.src0 .n32] e.eff
  let leave (w : Warp) : State :=
    (e.put { w with pc := e.next (lformBytes f), wait := .ready, rep := none }).perfAdd e.c.id 0 1
  if kills.1 ≠ 0 then .gone ((leave e.w).killLanes e.c e.g e.w kills.1 kills.2 0)
  else
    let x := e.word f
    if 65535 < x.toNat then .fault .illegal 0 e.live
    else .gone (leave { e.w with seed := x.setWidth 16, sigw := x.setWidth 16 })

def execSigseed (f : LForm) (s : State) : Host.Outcome State Fault Refusal := issue (.l .sigseed f) s (sigseedBody f) noLeek

/-! ### TLBINV (R255) -/

/-- Drop a context's entries in force: all, or those that cover an address, the tables of its walk among them (R255, R393). -/
def State.dropTlb (s : State) (ctx : Nat) (va : Option Nat) : State :=
  { s with tlb := s.tlb.filter fun t => !(t.ctx == ctx && (match va with
    | some a => t.covers a
    | none => true)) }

def tlbinvBody (f : LForm) (e : Env) : Effect :=
  e.anyway [Opnd.any f.src0 .n64] <|
    .done (e.s.dropTlb e.c.id (if f.sub = 1 then none else some (e.w.uni f.src0 none .n64).toNat))

def execTlbinv (f : LForm) (s : State) : Host.Outcome State Fault Refusal := issue (.l .tlbinv f) s (tlbinvBody f) noLeek

/-! ### WDSET (R256) -/

/-- The watchdog cap of a context (R391). -/
def Context.watchCap (c : Context) : Nat := if c.wdCap = 0 then 2 ^ 32 else c.wdCap.toNat

/-- The limit that a value selects (R256). -/
def Context.watchLimit (c : Context) (x : Nat) : Nat := min (if x = 0 then 2 ^ 32 else x) c.watchCap

/-- Where a piece of a diagnostic buffer lies: in scratch where the buffer begins in the scratch window, else in memory, also a
piece within the window (R148, R256). -/
def Env.diagPiece (e : Env) (a : W64) (ea : Nat) : Resolved :=
  if e.g.inWindow a.toNat then e.s.resolve e.viewer .generic ea 32 32 .write false
  else e.s.resolveGlobal e.viewer ea .write false

/-- The check of a diagnostic buffer: aligned to 64 bytes, and 256 bytes as one store (R148, R150); 0 removes it. The address
reported is that of the lowest of its 32-byte pieces that fails, an absent one included that the driver then fails, where R256 names
none (DESIGN CHOICE, notes/assumptions/19.md). -/
def Env.diagFault (e : Env) (a : W64) : Option Effect :=
  if a = 0 then none
  else if a.toNat % 64 ≠ 0 then some (.fault .misalign a e.live)
  else if e.g.inWindow a.toNat && !e.g.inWindow (a.toNat + 255) then some (.fault .window a e.live)
  else
    let worst := (List.range 8).foldl (fun x i => worseAt x (
      match e.diagPiece a (a.toNat + 32 * i) with
      | .bad k va => some (k, a.toNat + 32 * i, va)
      | .ok _ _ _ => none)) none
    match worst with
    | some (.absent, ea, va) => some (.absent va .write (BitVec.ofNat 64 ea) e.live)
    | some (k, ea, _) => some (.fault k.cause (BitVec.ofNat 64 ea) e.live)
    | none => none

def wdsetBody (f : LForm) (e : Env) : Effect :=
  e.anyway [Opnd.any f.src0 .n64, Opnd.any f.src1 .n64] <|
    let x : Nat := match f.imm with
      | some w => w.toNat
      | none => (e.w.uni f.src0 none .n64).toNat
    match f.src1 with
    | .zero => .done (e.s.mapCtx e.c.id fun c => { c with wdLimit := c.watchLimit x })
    | r =>
      let a := e.w.uni r none .n64
      match e.diagFault a with
      | some y => y
      | none => .done (e.s.mapCtx e.c.id fun c => { c with
          wdLimit := c.watchLimit x, diag := a, diagGroup := if e.g.inWindow a.toNat then some e.g.uid else none })

def execWdset (f : LForm) (s : State) : Host.Outcome State Fault Refusal := issue (.l .wdset f) s (wdsetBody f) noLeek

/-! ### PERFRD (R257) -/

def perfrdBody (f : LForm) (e : Env) : Effect :=
  let kills := e.w.operandKills [Opnd.any f.src0 .n32] e.eff
  if e.eff = 0 then .done e.s
  else if kills.1 ≠ 0 then .done ((e.put (e.w.putPair f.dst 0)).killLanes e.c e.g e.w kills.1 kills.2 0)
  else
    let n := (e.word f).toNat
    if h : n < 8 then .done (e.put (e.w.putPair f.dst e.c.perf[n])) else .fault .illegal 0 e.eff

def execPerfrd (f : LForm) (s : State) : Host.Outcome State Fault Refusal := issue (.l .perfrd f) s (perfrdBody f) noLeek

end Sys2Proof.Machine
end

