-- ==== Sys2Proof/Machine/Commands.lean ====
section
/-!
DEFINITION. The command ring and the commands of partitions and contexts (R242, R309, R310, R383 to R395, R398). A command is
accepted and begun by the event that carries it out (notes/assumptions/31.md).
-/

namespace Sys2Proof.Machine

/-! ### The ring (R384, R385) -/

/-- Fields of a command's words. -/
def Command.op (c : Command) : Nat := bitsOf c.w[0].toNat 0 8
def Command.part (c : Command) : Nat := bitsOf c.w[0].toNat 8 8
def Command.ctx (c : Command) : Nat := bitsOf c.w[0].toNat 16 16
def Command.arg1 (c : Command) : W64 := c.w[1]
def Command.arg2 (c : Command) : W64 := c.w[2]
def Command.arg3 (c : Command) : W64 := c.w[3]
def Command.arg4 (c : Command) : W64 := c.w[4]
def Command.arg5 (c : Command) : W64 := c.w[5]
def Command.arg6 (c : Command) : W64 := c.w[6]

/-- What commands run one at a time with: their partition, or the fabric ports (R385, R399). -/
inductive Lane' where
  | part (p : Nat)
  | links
  | alone
  deriving DecidableEq, Repr

/-- The lane of a command. -/
def Command.lane (c : Command) : Lane' :=
  if 1 ≤ c.op && c.op ≤ 5 then .part c.part
  else if 0x10 ≤ c.op && c.op ≤ 0x18 then .part (partOf c.ctx)
  else if c.op = 0x40 then .links
  else .alone

/-- The OP codes of R388 and R399. -/
def opKnown (op : Nat) : Bool := (1 ≤ op && op ≤ 5) || (0x10 ≤ op && op ≤ 0x18) || op == 0x20 || op == 0x30 || op == 0x40

/-- The ring entry at an index. -/
def State.entryAt (s : State) (i : Nat) : Command :=
  let w (k : Nat) : W64 := s.hostMem.read64 (s.ringEntry i + 8 * k)
  { index := i, w := #v[w 0, w 1, w 2, w 3, w 4, w 5, w 6], time := s.clock }

/-- Accept the entry at CMDHEAD; one with reserved bits or an unknown OP completes with BADARG (R384, R388). -/
def State.acceptOne (s : State) : State :=
  let c := s.entryAt s.hw.cmdHead.toNat
  let s := { s with hw := { s.hw with cmdHead := s.hw.cmdHead + 1 } }
  if bitsOf c.w[0].toNat 40 24 ≠ 0 || !opKnown c.op then s.complete c .badArg else { s with accepted := s.accepted ++ [c] }

/-- Accept every entry written (R384). -/
def State.accept (s : State) : State :=
  if s.hw.ready && s.alive && s.power && capOk s.hw.cmdCap.toNat then
    (List.range (min (s.hw.cmdTail - s.hw.cmdHead).toNat 4096)).foldl (fun s _ => s.acceptOne) s
  else s

/-- Whether a command overtakes a running one: PART_RESET and PART_DESTROY any of their partition (R390), CTX_RESET and
CTX_DESTROY a drain of their context (R394). -/
def Command.overtakes (c r : Command) : Bool :=
  (c.op == 3 || c.op == 4) || ((c.op == 0x13 || c.op == 0x14) && r.op == 0x11 && r.ctx == c.ctx)

/-- Whether an accepted command may begin: none of its lane is accepted before it or runs, but one that it overtakes. -/
def State.mayBegin (s : State) (c : Command) : Bool :=
  c.lane == .alone ||
    ((s.accepted.find? fun x => x.lane == c.lane).any (fun x => x.index == c.index)
      && s.running.all fun r => r.cmd.lane != c.lane || c.overtakes r.cmd)

/-- The command that an event carries out: the first accepted one that it fits and that may begin, taken from the accepted
ones. A module that has ended carries out none (R397). -/
def State.begin (s : State) (fits : Command → Bool) : Option Command × State :=
  let s := s.accept
  match (if s.alive && s.power then s.accepted.find? fun c => fits c && s.mayBegin c else none) with
  | none => (none, s)
  | some c => (some c, { s with accepted := s.accepted.filter fun x => x.index != c.index })

/-- Carry out the command that fits, where one may begin. -/
def State.command (s : State) (fits : Command → Bool) (run : Command → State → State) : State :=
  match s.begin fits with
  | (some c, s) => run c s
  | (none, s) => s

/-- A partition command on a partition that exists: BADARG where it does not, BUSY where it has failed (R388, R398). -/
def State.onPart (s : State) (c : Command) (k : Partition → State) : State :=
  match s.part? c.part with
  | none => s.complete c .badArg
  | some p => if p.failed then s.complete c .busy else k p

/-- A context command on a context that exists. -/
def State.onCtx (s : State) (c : Command) (k : Context → State) : State :=
  match s.ctx? c.ctx with
  | none => s.complete c .badArg
  | some x => if (s.part? (partOf c.ctx)).any fun p => p.failed then s.complete c .busy else k x

/-- A command runs on until an event ends it. -/
def State.runOn (s : State) (c : Command) (deadline : Nat) : State :=
  { s with running := s.running ++ [{ cmd := c, deadline := deadline }] }

/-- The cluster cycles of a time in microseconds (R2). -/
def microseconds (n : Nat) : Nat := 1400 * n

/-! ### Partitions (R386, R388 to R390) -/

/-- The tier-two range of a share, by 16 GiB units. -/
def shareOk (base units : Nat) : Bool := base % 2 ^ 34 == 0 && decide (base + units * 2 ^ 34 ≤ 2 ^ 41)

/-- Whether two tier-two shares overlap. -/
def shareMeets (base units : Nat) (p : Partition) : Bool :=
  decide (base < p.t2Base + p.t2Units * 2 ^ 34 && p.t2Base < base + units * 2 ^ 34)

/-- The quarters that no partition may take: held ones and those of failed dies (R388, R398). -/
def State.takenQuarters (s : State) (except : Nat) : BitVec 32 :=
  let held := (s.parts.filter fun p => p.id != except).foldl (fun m p => m ||| p.quarters) (0 : BitVec 32)
  let dead : BitVec 32 := maskBits (fun q => s.hw.dieFailed.getLsbD (q / 4)) 32
  held ||| dead

/-- PART_CREATE (R388). -/
def State.partCreate (c : Command) (s : State) : State :=
  let mask := BitVec.ofNat 32 c.arg1.toNat
  let base := c.arg2.toNat
  let units := c.arg3.toNat
  let credits := c.arg4.toNat
  if 31 < c.part || c.arg1.toNat / 2 ^ 32 ≠ 0 || mask = 0 || !shareOk base units || credits = 0 || 20 < credits
      || 7 < c.arg5.toNat then s.complete c .badArg
  else if (s.part? c.part).isSome || mask &&& s.takenQuarters 32 ≠ 0 then s.complete c .busy
  else if s.parts.any (fun p => shareMeets base units p) || 20 < credits + (s.parts.map Partition.credits).sum then
    s.complete c .noSpace
  else
    let p : Partition :=
      { id := c.part, quarters := mask, leaving := 0, prepared := false, t2Base := base, t2Units := units, credits := credits
        apxst := BitVec.ofNat 3 c.arg5.toNat, ring := c.arg6, failed := false }
    State.complete { s with parts := s.parts ++ [p], counts := s.counts.filter fun x => x.1 != c.part } c .ok

def execPartCreate (s : State) : Host.Outcome State Fault Refusal := .next (s.command (fun c => c.op == 1) State.partCreate)

/-- Whether a group that has not ended is on some quarters of a partition. -/
def State.residentOn (s : State) (quarters : BitVec 32) (part : Nat) : List Group :=
  s.groups.filter fun g => !g.ended && partOf g.ctx == part && quarters.getLsbD (quarterOf g.cluster)

/-- Every queue of a context emptied: HEAD := TAIL, FREE := CAPACITY (R309, R388). -/
def State.emptyQueues (s : State) (ctx : Nat) : State :=
  match s.ctx? ctx with
  | none => s
  | some c => c.queues.foldl (fun s q => match s.queue? c q with
    | some d => (s.setQueueWord c q 2 d.tail).setQueueWord c q 4 d.cap
    | none => s) s

/-- A forced reset with the context's queued pods discarded (R309). -/
def State.resetCtx (s : State) (ctx : Nat) (run : CtxRun) : State := (s.forceReset ctx run).emptyQueues ctx

/-- PART_RESIZE, step PREPARE: placement stops on the quarters that leave (R389). Another step is BADARG. -/
def State.resizePrepare (c : Command) (s : State) : State :=
  s.onPart c fun p =>
    let mask := BitVec.ofNat 32 c.arg1.toNat
    if c.arg1.toNat / 2 ^ 32 ≠ 0 || mask = 0 || c.arg2 ≠ 0 then s.complete c .badArg
    else (s.mapPart p.id fun p => { p with leaving := p.quarters &&& ~~~mask, prepared := false }).runOn c
      (s.clock + microseconds c.arg3.toNat)

def execPartResizePrepare (s : State) : Host.Outcome State Fault Refusal :=
  .next (s.command (fun c => c.op == 2 && c.arg2 != 1) State.resizePrepare)

/-- The running PREPARE of a partition. -/
def State.preparing (s : State) (part : Nat) : Option Running := s.running.find? fun r => r.cmd.op == 2 && r.cmd.part == part

/-- PREPARE_COMPLETE: no group remains on the leaving quarters (R389). -/
def execPrepareComplete (part : Nat) (s : State) : Host.Outcome State Fault Refusal :=
  match s.preparing part, s.part? part with
  | some _, some p =>
    if (s.residentOn p.leaving part).isEmpty then
      .next ((s.mapPart part fun p => { p with prepared := true }).finishRunning (fun c => c.op == 2 && c.part == part) .ok)
    else .next s
  | _, _ => .next s

/-- How a context stands, by its number; a reset that is no command of its own leaves it so (R309, R389). -/
def State.runOf (s : State) (ctx : Nat) : CtxRun := ((s.ctx? ctx).map Context.run).getD .running

/-- RESIZE_DEADLINE: every context with a group still on the leaving quarters is reset; one that drains drains on (R389). -/
def execResizeDeadline (part : Nat) (s : State) : Host.Outcome State Fault Refusal :=
  match s.preparing part, s.part? part with
  | some r, some p =>
    let left := ((s.residentOn p.leaving part).map Group.ctx).eraseDups
    if r.deadline ≤ s.clock && !left.isEmpty then
      let s := left.foldl (fun s c => s.resetCtx c (s.runOf c)) s
      .next ((s.mapPart part fun p => { p with prepared := true }).finishRunning (fun c => c.op == 2 && c.part == part) .deadline)
    else .next s
  | _, _ => .next s

/-- The DRAM and SRAM of some quarters zeroed, with valid check bits (R389, R390). -/
def State.zeroQuarters (s : State) (quarters : BitVec 32) : State :=
  (List.range 32).foldl (fun s q =>
    if quarters.getLsbD q then
      (s.zero (q * 2 ^ 34) ((q + 1) * 2 ^ 34)).zero (sramPlace (8 * q) 0 0) (sramPlace (8 * q + 8) 0 0)
    else s) s

/-- PART_RESIZE, step COMMIT; remote requests in service complete before the quarters leave (R389). -/
def State.resizeCommit (c : Command) (s : State) : State :=
  s.onPart c fun p =>
    let mask := BitVec.ofNat 32 c.arg1.toNat
    let leaving := p.quarters &&& ~~~mask
    if c.arg1.toNat / 2 ^ 32 ≠ 0 || mask = 0 then s.complete c .badArg
    else if !p.prepared || leaving &&& ~~~p.leaving ≠ 0 || mask &&& ~~~p.quarters &&& s.takenQuarters p.id ≠ 0 then
      s.complete c .busy
    else
      let s := s.finishAll fun r => partOf r.ownerCtx == p.id
      ((s.zeroQuarters leaving).mapPart p.id fun p => { p with quarters := mask, leaving := 0, prepared := false }).complete c .ok

def execPartResizeCommit (s : State) : Host.Outcome State Fault Refusal :=
  .next (s.command (fun c => c.op == 2 && c.arg2 == 1) State.resizeCommit)

/-- How a context stands after its partition's reset: a terminated one stays so until CTX_RESET, a drained one until CTX_RESUME,
with no saved state, and one whose drain the reset has ended runs (R309, R390, R394). -/
def CtxRun.afterReset : CtxRun → CtxRun
  | .terminated => .terminated
  | .drained _ => .drained false
  | .running | .draining _ => .running

/-- What PART_RESET does to a partition (R390): its running commands complete with RESET, the remote requests in service are
finished, its contexts are reset, its memory is zeroed, and a new epoch starts. -/
def State.resetPart (s : State) (p : Partition) : State :=
  let s := (s.finishRunning (fun c => c.lane == .part p.id) .reset).finishPart p.id
  let mine := (s.ctxs.filter fun c => partOf c.id == p.id).map Context.id
  let s := mine.foldl (fun s c => s.resetCtx c (s.runOf c).afterReset) s
  let s := s.zeroQuarters p.quarters
  let s := s.zero (tierTwoAt + p.t2Base) (tierTwoAt + p.t2Base + p.t2Units * 2 ^ 34)
  let s := mine.foldl (fun s c => s.mapCtx c fun c => { c with hidden := [], hiddenBad := [] }) s
  (s.mapPart p.id fun p => { p with leaving := 0, prepared := false }).restartEpoch p.id

def State.partReset (c : Command) (s : State) : State := s.onPart c fun p => (s.resetPart p).complete c .ok

def execPartReset (s : State) : Host.Outcome State Fault Refusal := .next (s.command (fun c => c.op == 3) State.partReset)

/-- Remove what names a context that is gone. -/
def State.forgetCtx (s : State) (ctx : Nat) : State :=
  { s with
    ctxs := s.ctxs.filter fun c => c.id != ctx
    held := s.held.filter fun h => h.item.ctx != ctx
    todo := s.todo.filter fun t => t.ctx != ctx
    tlb := s.tlb.filter fun t => t.ctx != ctx }

/-- PART_DESTROY, the one command that a failed partition takes, whose FAILED bit then changes (R388, R398, R400). -/
def State.partDestroy (c : Command) (s : State) : State :=
  match s.part? c.part with
  | none => s.complete c .badArg
  | some p =>
    let mine := (s.ctxs.filter fun x => partOf x.id == p.id).map Context.id
    let s := mine.foldl (fun s x => s.forgetCtx x) (s.resetPart p)
    let s := { s with parts := s.parts.filter fun x => x.id != p.id }
    (if p.failed then s.telemetry else s).complete c .ok

def execPartDestroy (s : State) : Host.Outcome State Fault Refusal := .next (s.command (fun c => c.op == 4) State.partDestroy)

/-- PART_SETAPX (R388). -/
def State.setApx (c : Command) (s : State) : State :=
  s.onPart c fun p =>
    if 7 < c.arg1.toNat then s.complete c .badArg
    else if s.groups.any fun g => !g.ended && partOf g.ctx == p.id then s.complete c .busy
    else (s.mapPart p.id fun p => { p with apxst := BitVec.ofNat 3 c.arg1.toNat }).complete c .ok

def execPartSetapx (s : State) : Host.Outcome State Fault Refusal := .next (s.command (fun c => c.op == 5) State.setApx)

/-! ### Contexts (R388, R391, R394) -/

/-- Whether a context descriptor passes its checks (R391). -/
def ctxDescOk (w : Nat → W64) (part cmdPart : Nat) : Bool :=
  let n (i : Nat) : Nat := (w i).toNat
  n 0 % 4096 == 0 && n 1 % 4 == 0 && n 2 % 64 == 0 && n 3 % 64 == 0 && (n 5 == 0 || n 4 % 64 == 0) && decide (n 5 ≤ 256)
    && n 6 % 2 ^ 15 == 0 && n 8 % 4096 == 0 && ovftOk (BitVec.ofNat 32 (bitsOf (n 11) 0 16)) && bitsOf (n 11) 19 5 == 0
    && n 13 % 64 == 0 && n 14 == 0 && n 15 == 0
    && (bitsOf (n 11) 17 1 == 0 || part == 0 || cmdPart == Config.driverPart)

/-- The watchdog cap of a descriptor (R391). -/
def capOf (w : W64) : Nat := if w = 0 then 2 ^ 32 else w.toNat

/-- A context as its descriptor's words give it (R391). -/
def Context.ofWords (id : Nat) (w : Nat → W64) : Context :=
  let n (i : Nat) : Nat := (w i).toNat
  { Context.blank id (w 0) with
    trapBase := w 1, eqBase := w 2, lqBase := w 3, edgeBase := w 4, nEdge := n 5, spillBase := w 6
    spillSlots := bitsOf (n 7) 0 16, gathBase := w 8, gathSize := w 9, remMap := w 10, deadline := bitsOf (n 11) 32 32
    vector := BitVec.ofNat 8 (bitsOf (n 11) 24 8), debug := (w 11).getLsbD 18, system := (w 11).getLsbD 17
    qbadEsc := (w 11).getLsbD 16, ovft := BitVec.ofNat 16 (n 11), wdCap := w 12, wdLimit := min (2 ^ 32) (capOf (w 12))
    saveArea := w 13 }

/-- CTX_CREATE: the descriptor lies at a physical address of the partition (R388, R391; notes/assumptions/8.md). -/
def State.ctxCreate (c : Command) (s : State) : State :=
  match s.part? (partOf c.ctx) with
  | none => s.complete c .badArg
  | some p =>
    let at' := c.arg1.toNat
    let w (i : Nat) : W64 := s.mem.read64 (at' + 8 * i)
    if p.failed then s.complete c .busy
    else if 2047 < c.ctx || at' % 64 ≠ 0 || 2 ^ 39 ≤ at' || !p.owns at' 128 || !ctxDescOk w p.id c.part then s.complete c .badArg
    else if (s.ctx? c.ctx).isSome then s.complete c .busy
    else (({ s with ctxs := s.ctxs ++ [Context.ofWords c.ctx w] }).nextGen c.ctx).complete c .ok

def execCtxCreate (s : State) : Host.Outcome State Fault Refusal := .next (s.command (fun c => c.op == 0x10) State.ctxCreate)

/-- Whether a context is idle: no group resident, no posted remote operation outstanding (R394). -/
def State.idle (s : State) (ctx : Nat) : Bool :=
  !(s.groups.any fun g => g.ctx == ctx && !g.ended)
    && !(s.outRemote.any fun o => o.request.ctx == ctx && o.posted && o.done.isNone)

/-- The requester state of a context toward each owner module, as SAVEAREA holds it (R394). A word on a page that refuses the
write is not written, the context keeps the state it holds, and the command completes: the spec is silent (R161; DESIGN CHOICE,
notes/assumptions/39.md). -/
def State.saveRequester (s : State) (c : Context) : State :=
  (List.range 256).foldl (fun s n =>
    let p := c.peer (BitVec.ofNat 8 n)
    (s.ctxWrite c (c.saveArea.toNat + 8 * n) (toBytesLE 8 (p.next.toNat + p.watermark.toNat * 2 ^ 32))).getD s) s

/-- A context whose drain has emptied it: its requester state is saved, and it stays drained (R394). -/
def State.emptied (s : State) (c : Context) : State := (s.saveRequester c).mapCtx c.id fun c => { c with run := .drained true }

/-- CTX_DRAIN: its timer starts at acceptance, and on a context that is idle already it completes at once (R310, R394). -/
def State.ctxDrain (c : Command) (s : State) : State :=
  s.onCtx c fun x =>
    let d := c.time + microseconds (if c.arg1 = 0 then x.deadline else c.arg1.toNat)
    if x.run == .terminated then s.complete c .ok
    else if s.idle x.id then (s.emptied x).complete c .ok
    else (s.mapCtx x.id fun x => { x with run := .draining d }).runOn c d

def execCtxDrain (s : State) : Host.Outcome State Fault Refusal := .next (s.command (fun c => c.op == 0x11) State.ctxDrain)

/-- DRAIN_COMPLETE (R394). -/
def execDrainComplete (ctx : Nat) (s : State) : Host.Outcome State Fault Refusal :=
  match s.ctx? ctx with
  | none => .next s
  | some c =>
    match c.run with
    | .draining _ =>
      if s.idle ctx then
        .next ((s.emptied c).finishRunning (fun x => x.op == 0x11 && x.ctx == ctx) .ok)
      else .next s
    | _ => .next s

/-- DRAIN_DEADLINE: a drain that is not idle at its deadline is a forced reset (R309, R310, R394). -/
def execDrainDeadline (ctx : Nat) (s : State) : Host.Outcome State Fault Refusal :=
  match s.ctx? ctx with
  | none => .next s
  | some c =>
    match c.run with
    | .draining d =>
      if d ≤ s.clock && !s.idle ctx then
        .next ((s.resetCtx ctx (.drained false)).finishRunning (fun x => x.op == 0x11 && x.ctx == ctx) .deadline)
      else .next s
    | _ => .next s

/-- A context with the requester state that SAVEAREA holds (R394). A word on a page that refuses the read leaves what the context
holds (R161; DESIGN CHOICE, notes/assumptions/39.md). -/
def State.reload (s : State) (c : Context) : Context :=
  (List.range 256).foldl (fun c n =>
    match s.ctxRead c (c.saveArea.toNat + 8 * n) with
    | none => c
    | some x =>
      let next := lo32 x
      let wm := BitVec.ofNat 32 (x.toNat / 2 ^ 32)
      let p := c.peer (BitVec.ofNat 8 n)
      if p.next = next && p.watermark = wm then c
      else c.mapPeer (BitVec.ofNat 8 n) fun p => { p with next := next, watermark := wm, early := p.early.filter fun r => ahead r wm })
    c

/-- CTX_RESUME: placement resumes, with the requester state reloaded where a drain saved it (R388, R394). -/
def State.ctxResume (c : Command) (s : State) : State :=
  s.onCtx c fun x =>
    (match x.run with
      | .drained true => s.mapCtx x.id fun x => { s.reload x with run := .running }
      | .drained false => s.mapCtx x.id fun x => { x with run := .running }
      | _ => s).complete c .ok

def execCtxResume (s : State) : Host.Outcome State Fault Refusal := .next (s.command (fun c => c.op == 0x12) State.ctxResume)

/-- A drain that another command overtakes completes with RESET (R394). -/
def State.overtakeDrain (s : State) (ctx : Nat) : State := s.finishRunning (fun c => c.op == 0x11 && c.ctx == ctx) .reset

/-- CTX_RESET (R309, R388). -/
def State.ctxReset (c : Command) (s : State) : State :=
  s.onCtx c fun x => ((s.overtakeDrain x.id).resetCtx x.id .running).complete c .ok

def execCtxReset (s : State) : Host.Outcome State Fault Refusal := .next (s.command (fun c => c.op == 0x13) State.ctxReset)

/-- CTX_DESTROY (R309, R388). -/
def State.ctxDestroy (c : Command) (s : State) : State :=
  s.onCtx c fun x => (((s.overtakeDrain x.id).forceReset x.id .terminated).forgetCtx x.id).complete c .ok

def execCtxDestroy (s : State) : Host.Outcome State Fault Refusal := .next (s.command (fun c => c.op == 0x14) State.ctxDestroy)

/-- CTX_TLBINV: every cluster acknowledges within the event (R388, R393; notes/assumptions/5.md). -/
def State.ctxTlbinv (c : Command) (s : State) : State :=
  s.onCtx c fun x =>
    if 1 < c.arg2.toNat then s.complete c .badArg
    else (s.dropTlb x.id (if c.arg2 = 1 then none else some c.arg1.toNat)).complete c .ok

def execCtxTlbinv (s : State) : Host.Outcome State Fault Refusal := .next (s.command (fun c => c.op == 0x15) State.ctxTlbinv)

/-! ### Replay (R388, R408) -/

/-- Change the waits of a context's agents. -/
def State.mapWaits (s : State) (ctx : Nat) (f : Wait → Wait) : State :=
  { s with groups := s.groups.map fun g =>
      if g.ctx == ctx then
        { g with
          warps := g.warps.map fun w => { w with wait := f w.wait }
          leek := g.leek.map fun l => { l with wait := f l.wait } }
      else g }

/-- Whether a held item of a context waits for a page. -/
def HeldItem.on (h : HeldItem) (ctx page : Nat) : Bool := h.item.ctx == ctx && h.page.any fun p => p.toNat / 4096 == page

/-- The entry of a page in the fault ring is answered. -/
def State.answered (s : State) (ctx page : Nat) : State :=
  { s with faultWait := s.faultWait.filter fun x => x != (ctx, page) }

/-- The counters of a context whose sequence waits for a page: its first item does. -/
def State.countersOn (s : State) (ctx page : Nat) : List W64 := (s.held.filter fun h => h.on ctx page).map fun h => h.item.addr

/-- The items of the sequences that wait for a page, in order, and the state without them (R408). -/
def State.takeHeld (s : State) (ctx page : Nat) : List HeldItem × State :=
  let mine (h : HeldItem) : Bool := (s.countersOn ctx page).any fun a => h.of ctx a
  (s.held.filter mine, { s with held := s.held.filter fun h => !mine h })

/-- CTX_REPLAY: agents that wait for the page go on, and each counter's sequence that waits for it is attempted again in order
(R388, R408). -/
def State.ctxReplay (c : Command) (s : State) : State :=
  s.onCtx c fun x =>
    let page := c.arg1.toNat / 4096
    let s := s.answered x.id page
    let s := s.mapWaits x.id fun w => match w with
      | .page n _ _ _ => if n.toNat = page then .ready else w
      | _ => w
    let (items, s) := s.takeHeld x.id page
    (items.foldl (fun s h => s.counterEvent h.item) s).complete c .ok

def execCtxReplay (s : State) : Host.Outcome State Fault Refusal := .next (s.command (fun c => c.op == 0x16) State.ctxReplay)

/-- The end of attempts on a page: the item of each sequence that waits for the page is dropped, with a record of that address,
and the later ones are attempted (R408). -/
def State.failHeld (s : State) (items : List HeldItem) : State :=
  items.foldl (fun s h => match h.page with
    | some a => s.dropHeld h.item a
    | none => s.counterEvent h.item) s

/-- CTX_FAULTFAIL: agents that wait for the page take PERM in their turn, at their stop (R243, R388, R408). -/
def State.ctxFaultfail (c : Command) (s : State) : State :=
  s.onCtx c fun x =>
    let page := c.arg1.toNat / 4096
    let s := s.answered x.id page
    let s := s.mapWaits x.id fun w => match w with
      | .page n k a l => if n.toNat = page then .refused n k a l else w
      | _ => w
    let (items, s) := s.takeHeld x.id page
    (s.failHeld items).complete c .ok

def execCtxFaultfail (s : State) : Host.Outcome State Fault Refusal :=
  .next (s.command (fun c => c.op == 0x17) State.ctxFaultfail)

/-! ### CTX_DEBUG (R395) -/

/-- The agent that a debug command names: its cluster, its slice and WARPID, or with slice 0xF the Leek thread by its number
(notes/assumptions/32.md). -/
def State.debugAgent (s : State) (c : Command) : Option AgentId :=
  let a := c.arg1.toNat
  let cluster := bitsOf a 8 8
  let slice := bitsOf a 4 4
  let gs := s.groups.filter fun g => g.ctx == c.ctx && g.cluster == cluster && !g.ended
  if slice = 15 then
    gs.findSome? fun g => g.leek.bind fun l =>
      if l.ended.isNone && l.index == c.arg2.toNat then some (AgentId.leek g.uid) else none
  else
    gs.findSome? fun g => (g.warps.find? fun w => w.ended.isNone && w.slice == slice && w.id == c.arg2.toNat).map fun w =>
      AgentId.warp g.uid w.id

/-- A debug command on its agent (R395). -/
def State.onAgent (s : State) (c : Command) (k : Context → AgentId → State) : State :=
  s.onCtx c fun x =>
    if !x.debug || c.arg1.toNat / 2 ^ 16 ≠ 0 || bitsOf c.arg1.toNat 0 4 ≠ 0 || 127 < c.arg2.toNat then s.complete c .badArg
    else match s.debugAgent c with
      | none => s.complete c .badArg
      | some a => k x a

/-- Halt or restart an agent. -/
def State.setHalted (s : State) (a : AgentId) (h : Bool) : State :=
  match a with
  | .warp u w => s.mapWarp u w fun w => { w with halted := h }
  | .leek u => s.mapLeek u fun l => { l with halted := h }

/-- Halt, as BRK does; an action outside the table is BADARG (R189, R388, R395). -/
def State.debugHalt (c : Command) (s : State) : State :=
  if 3 < c.arg3.toNat then s.complete c .badArg else s.onAgent c fun _ a => (s.setHalted a true).complete c .ok

def execCtxDebugHalt (s : State) : Host.Outcome State Fault Refusal :=
  .next (s.command (fun c => c.op == 0x18 && !(1 ≤ c.arg3.toNat && c.arg3.toNat ≤ 3)) State.debugHalt)

def State.debugResume (c : Command) (s : State) : State := s.onAgent c fun _ a => (s.setHalted a false).complete c .ok

def execCtxDebugResume (s : State) : Host.Outcome State Fault Refusal :=
  .next (s.command (fun c => c.op == 0x18 && c.arg3 == 1) State.debugResume)

/-- The bytes of a join-stack entry: its address, its mask, and 1 for a path entry (notes/assumptions/32.md). -/
def joinBytes (e : JoinEntry) : List Byte :=
  match e with
  | .rejoin a m => bytesOf [a, m, 0]
  | .path a m => bytesOf [a, m, 1]

/-- A block-map entry as R315 lays it out. -/
def BlockEntry.word (b : BlockEntry) : Nat :=
  let f (x : Bool) (i : Nat) : Nat := if x then 2 ^ i else 0
  b.slot.toNat * 2 ^ 16 + f b.valid 15 + f b.spill 14 + f b.apx 13 + f b.fifo 12 + b.bank.toNat

/-- The bytes of a group's block map. -/
def Group.mapBytes (g : Group) : List Byte := g.blocks.toArray.toList.flatMap fun b => toBytesLE 4 b.word

/-- The bytes that a state selector names in a warp (R395; notes/assumptions/32.md); k0 reads as all ones (R16). -/
def debugWarp (g : Group) (w : Warp) (sel : Nat) : Option (List Byte) :=
  if sel < 256 then
    let r := w.v.toArray.toList.getD sel { lanes := mkLanes fun _ => 0, tag := .b32 }
    some ((r.lanes.toArray.toList.flatMap fun x => toBytesLE 4 x.toNat) ++ toBytesLE 4 r.tag.code.toNat)
  else match sel with
    | 0x100 => some (w.s.toArray.toList.flatMap fun x => toBytesLE 4 x.toNat)
    | 0x101 => some (bytesOf (BitVec.allOnes 64 :: w.k.toArray.toList.drop 1 ++ [w.exec]))
    | 0x102 => some (toBytesLE 8 w.join.length ++ w.join.flatMap joinBytes)
    | 0x103 => some (toBytesLE 8 w.pc.toNat ++ toBytesLE 8 w.tsw.toNat)
    | 0x104 => some g.mapBytes
    | _ => none

/-- The bytes that a state selector names for a Leek thread; k0 reads as 1 (R24). -/
def debugLeek (g : Group) (l : Leek) (sel : Nat) : Option (List Byte) :=
  match sel with
  | 0x101 => some (bytesOf [(l.k ||| 1).setWidth 64])
  | 0x103 => some (toBytesLE 8 l.pc.toNat ++ toBytesLE 8 0)
  | 0x104 => some g.mapBytes
  | _ => none

/-- Bytes written to a buffer, one event for each sector (R395). -/
def State.writeBuffer (s : State) (c : Context) (va : Nat) (bs : List Byte) : State :=
  (piecesOf 32 bs.length va bs).foldl (fun s x => (s.ctxWrite c x.1 x.2).getD s) s

/-- Read of a halted agent's state (R395). -/
def State.debugRead (c : Command) (s : State) : State :=
  s.onAgent c fun x a =>
    let sel := c.arg5.toNat
    let put (halted : Bool) (bs : Option (List Byte)) : State :=
      if !halted then s.complete c .busy
      else match bs with
        | none => s.complete c .badArg
        | some bs => (s.writeBuffer x c.arg4.toNat bs).complete c .ok
    match a with
    | .warp u w => match (s.group? u).bind fun g => (g.warp? w).map fun w => (g, w) with
      | some (g, w) => put w.halted (debugWarp g w sel)
      | none => s.complete c .badArg
    | .leek u => match (s.group? u).bind fun g => g.leek.map fun l => (g, l) with
      | some (g, l) => put l.halted (debugLeek g l sel)
      | none => s.complete c .badArg

def execCtxDebugRead (s : State) : Host.Outcome State Fault Refusal :=
  .next (s.command (fun c => c.op == 0x18 && c.arg3 == 2) State.debugRead)

/-- Join-stack entries from their bytes. -/
def joinsOf (bs : List Byte) : Nat → List JoinEntry
  | 0 => []
  | n + 1 =>
    let a := BitVec.ofNat 64 (fieldAt bs 0 8)
    let m := BitVec.ofNat 64 (fieldAt bs 8 8)
    (if fieldAt bs 16 8 = 0 then JoinEntry.rejoin a m else .path a m) :: joinsOf (bs.drop 24) n

/-- A warp with the state that a selector names taken from bytes (R17, R395); a write to k0 is
discarded (R16), and check bits become clean (R405). A sleeping warp sleeps on at its new program counter (R191). The bits [1:0]
of a join-stack address are kept as written, and a JOIN or EXIT that goes there fetches there; the spec is silent on them (R33;
DESIGN CHOICE, notes/assumptions/32.md). -/
def debugSet (w : Warp) (sel : Nat) (bs : List Byte) : Option Warp :=
  let word (i : Nat) : W32 := BitVec.ofNat 32 (fieldAt bs (4 * i) 4)
  let dword (i : Nat) : W64 := BitVec.ofNat 64 (fieldAt bs (8 * i) 8)
  if sel < 256 then
    some { w with
      v := vmod w.v sel fun _ => { lanes := mkLanes fun l => word l.val, tag := Fmt.ofCode (BitVec.ofNat 4 (fieldAt bs 256 4)) }
      bad := w.bad.filter fun b => match b with
        | .v n _ => n != sel
        | _ => true }
  else match sel with
    | 0x100 => some { w with
        s := (List.range 64).foldl (fun v i => vmod v i fun _ => word i) w.s
        bad := w.bad.filter fun b => match b with
          | .s _ => false
          | _ => true }
    | 0x101 => some { w with
        k := (List.range 8).foldl (fun v i => if i = 0 then v else vmod v i fun _ => dword i) w.k, exec := dword 8 }
    | 0x102 => some { w with join := joinsOf (bs.drop 8) (min (fieldAt bs 0 8) 32) }
    | 0x103 => some { w with
        pc := dword 0 &&& ~~~3, tsw := lo32 (dword 1), rep := none, noSpec := none, progress := none
        wait := w.wait.afterRollback }
    | _ => none

/-- The bytes that a write of a selector takes from its buffer. -/
def debugSize (sel : Nat) : Nat :=
  if sel < 256 then 260
  else match sel with
    | 0x100 => 256
    | 0x101 => 72
    | 0x102 => 776
    | _ => 16

/-- Write of a halted warp's state, from a buffer that can be read; the block map cannot be written (R395). -/
def State.debugWrite (c : Command) (s : State) : State :=
  s.onAgent c fun x a =>
    let sel := c.arg5.toNat
    let read := s.partRead x c.arg4.toNat (debugSize sel)
    match a with
    | .warp u w => match (s.group? u).bind fun g => g.warp? w with
      | some w0 =>
        if !w0.halted then s.complete c .busy
        else match read with
          | .ok bs => match debugSet w0 sel bs with
            | some w1 => (s.mapWarp u w fun _ => w1).complete c .ok
            | none => s.complete c .badArg
          | _ => s.complete c .badArg
      | none => s.complete c .badArg
    | .leek u => match (s.group? u).bind Group.leek with
      | some l =>
        if !l.halted then s.complete c .busy
        else match read, sel with
          | .ok bs, 0x101 => (s.mapLeek u fun l => { l with k := BitVec.ofNat 8 (fieldAt bs 0 1 / 2 * 2) }).complete c .ok
          | .ok bs, 0x103 =>
            (s.mapLeek u fun l => { l with pc := BitVec.ofNat 64 (fieldAt bs 0 8) &&& ~~~3, wait := .ready }).complete c .ok
          | _, _ => s.complete c .badArg
      | none => s.complete c .badArg

def execCtxDebugWrite (s : State) : Host.Outcome State Fault Refusal :=
  .next (s.command (fun c => c.op == 0x18 && c.arg3 == 3) State.debugWrite)

/-! ### SLOT_RETIRE and ATTEST (R234, R383, R388) -/

/-- SLOT_RETIRE: at once when the slot is free, else when it next becomes free. -/
def State.slotRetire (c : Command) (s : State) : State :=
  let a := c.arg1.toNat
  let cluster := bitsOf a 0 8
  let n := bitsOf a 8 4
  if a / 2 ^ 12 ≠ 0 then s.complete c .badArg
  else
    let k := s.cluster cluster
    if k.retired.contains n then s.complete c .ok
    else if k.slots.any fun x => x.n == n then
      (s.mapCluster cluster fun k => { k with retiring := if k.retiring.contains n then k.retiring else n :: k.retiring }).runOn c 0
    else (s.mapCluster cluster fun k => { k with retired := n :: k.retired }).complete c .ok

def execSlotRetire (s : State) : Host.Outcome State Fault Refusal := .next (s.command (fun c => c.op == 0x20) State.slotRetire)

/-- The partition number of a quarter, 0xFF when it is free (R383). -/
def State.quarterOwner (s : State) (q : Nat) : Nat := ((s.parts.find? fun p => p.quarters.getLsbD q).map Partition.id).getD 0xFF

/-- The signed part of an attestation report (R383). -/
def State.report (s : State) (c : Command) : List Byte :=
  toBytesLE 4 0x5454414E ++ toBytesLE 4 s.hw.secVersion.toNat ++ toBytesLE 48 s.hw.fwDigest.toNat
    ++ bytesOf [c.arg2, c.arg3, c.arg4, c.arg5] ++ toBytesLE 48 Config.identityDigest.toNat
    ++ ((List.range 32).flatMap fun q => toBytesLE 4 (s.quarterOwner q)) ++ List.replicate 248 0

/-- A signature as exactly `n` bytes. -/
def signatureBytes (k n : Nat) (report : List Byte) : List Byte :=
  let sig := (Config.attestSignature k report).take n
  sig ++ List.replicate (n - sig.length) 0

/-- ATTEST: the report goes to a buffer of host memory (R383; notes/assumptions/8.md). -/
def State.attest (c : Command) (s : State) : State :=
  let r := s.report c
  let bytes := r ++ signatureBytes 0 384 r ++ signatureBytes 1 16224 r
  ({ s with hostMem := s.hostMem.write c.arg1.toNat bytes }).complete c .ok

def execAttest (s : State) : Host.Outcome State Fault Refusal := .next (s.command (fun c => c.op == 0x30) State.attest)

end Sys2Proof.Machine
end

