-- ==== Sys2Proof/Machine/Fleet.lean ====
section
/-!
DEFINITION. Containment, integrity and power (R253, R396 to R405): fabric ports, failed dies, power tokens and loans, the
rail and the slice ratios, soft errors, and the loss of power.
-/

namespace Sys2Proof.Machine

/-! ### Fabric ports (R397, R399) -/

/-- A byte with bit `p` set or cleared. -/
def putBit (b : Byte) (p : Nat) (v : Bool) : Byte := maskBits (fun i => if i = p then v else b.getLsbD i) 8

/-- The port registers with a port in one of its states. -/
def HwA.port (h : HwA) (p : Nat) (fenced up training : Bool) : HwA :=
  { h with fenced := putBit h.fenced p fenced, up := putBit h.up p up, training := putBit h.training p training }

/-- A port changes its state, which TELVEC reports (R400). -/
def State.setPort (s : State) (p : Nat) (fenced up training : Bool) : State :=
  let h := s.hw.port p fenced up training
  let changed := h.fenced != s.hw.fenced || h.up != s.hw.up || h.training != s.hw.training
  let s := { s with hw := h }
  if changed then s.telemetry else s

/-- PLENT and PBORROW as the loans make them (R404). -/
def State.settleLoans (s : State) : State :=
  let sum (side : LoanSide) : Nat := ((s.loans.filter fun l => l.side == side).map Loan.tokens).sum
  { s with hw := { s.hw with pLent := BitVec.ofNat 10 (sum .lender), pBorrow := BitVec.ofNat 10 (sum .borrower) } }

/-- The loans of a port when it is fenced: the borrower drops them, the lender ends them 2 ms later (R404). -/
def State.fenceLoans (s : State) (p : Nat) : State :=
  State.settleLoans { s with
    loans := (s.loans.filter fun l => !(l.port == p && l.side == .borrower)).map fun l =>
      if l.port == p && l.fenced.isNone then { l with fenced := some s.clock } else l }

/-- A port is fenced (R397, R399). -/
def State.fencePort (s : State) (p : Nat) : State := (s.setPort p true false false).fenceLoans p

/-- The port that a LINK_CTL command names; none when a bit outside its fields is set (R399). -/
def linkPort (c : Command) : Option Nat :=
  if c.arg1.toNat < 8 && c.arg2.toNat < 2 && c.arg3 == 0 && c.arg4 == 0 && c.arg5 == 0 && c.arg6 == 0 then some c.arg1.toNat
  else none

/-- LINK_CTL, action 0, or one that is BADARG (R399). -/
def State.linkFence (c : Command) (s : State) : State :=
  match linkPort c with
  | some p => if c.arg2 = 0 then (s.fencePort p).complete c .ok else s.complete c .badArg
  | none => s.complete c .badArg

def execLinkCtlFence (s : State) : Host.Outcome State Fault Refusal :=
  .next (s.command (fun c => c.op == 0x40 && !(c.arg2 == 1 && (linkPort c).isSome)) State.linkFence)

/-- LINK_CTL, action 1: the port trains, for up to 10 ms (R399). -/
def State.linkRetrain (c : Command) (s : State) : State :=
  match linkPort c with
  | some p => (s.setPort p false false true).runOn c (s.clock + microseconds 10000)
  | none => s.complete c .badArg

def execLinkCtlRetrain (s : State) : Host.Outcome State Fault Refusal :=
  .next (s.command (fun c => c.op == 0x40 && c.arg2 == 1 && (linkPort c).isSome) State.linkRetrain)

/-- Whether a command is the retrain of a port. -/
def retrains (p : Nat) (c : Command) : Bool := c.op == 0x40 && c.arg2 == 1 && linkPort c == some p

/-- LINK_TRAINING_PASS (R399). -/
def execLinkTrainingPass (p : Nat) (s : State) : Host.Outcome State Fault Refusal :=
  if s.up && p < 8 && s.hw.training.getLsbD p then .next ((s.setPort p false true false).finishRunning (retrains p) .ok)
  else .next s

/-- RETRAIN_DEADLINE: the port stays fenced (R399). -/
def execRetrainDeadline (p : Nat) (s : State) : Host.Outcome State Fault Refusal :=
  match s.running.find? fun r => retrains p r.cmd with
  | some r =>
    if r.deadline ≤ s.clock && s.hw.training.getLsbD p then .next ((s.fencePort p).finishRunning (retrains p) .deadline)
    else .next s
  | none => .next s

/-- LINK_FENCE: a link without an accepted flit for 1 microsecond (R397). -/
def execLinkFence (p : Nat) (s : State) : Host.Outcome State Fault Refusal :=
  if s.up && p < 8 && s.hw.up.getLsbD p then .next (s.fencePort p) else .next s

/-! ### Failed dies (R397, R398) -/

/-- A partition fails: what the part still had to write for its contexts is left, the remote requests that they hold stay
unanswered, as do those in service, which make the rest of their events, since a request's events are made once or not at all
(R336); and its running commands complete with RESET (R398). -/
def State.failPart (s : State) (id : Nat) : State :=
  let s := s.endServing fun r => partOf r.ownerCtx == id
  let s := { s with
    todo := s.todo.filter fun t => partOf t.ctx != id
    heldReqs := s.heldReqs.filter fun r => partOf r.ownerCtx != id }
  (s.mapPart id fun p => { p with failed := true }).finishRunning (fun c => c.lane == .part id) .reset

/-- DIE_FAILURE: the die is failed, and with it every partition that has a quarter on it (R397, R398). -/
def execDieFailure (die : Nat) (s : State) : Host.Outcome State Fault Refusal :=
  if s.up && die < 8 && !s.hw.dieFailed.getLsbD die then
    let s := { s with hw := { s.hw with dieFailed := putBit s.hw.dieFailed die true } }
    let hit := (s.parts.filter fun p => (List.range 4).any fun q => p.quarters.getLsbD (4 * die + q)).map Partition.id
    .next (hit.foldl (fun s p => s.failPart p) s).telemetry
  else .next s

/-- IO_DIE_FAILURE: the module ends (R397). -/
def execIoDieFailure (s : State) : Host.Outcome State Fault Refusal := .next { s with alive := false }

/-! ### Power (R396, R403, R404) -/

/-- POWER_GRANT: a coordinator grant (R403). -/
def execPowerGrant (tokens : BitVec 10) (s : State) : Host.Outcome State Fault Refusal :=
  if s.up then .next { s with hw := { s.hw with pGrant := tokens }, lastGrant := s.clock } else .next s

/-- SAFE_GRANT_FALLBACK: 500 ms, 700,000,000 cluster cycles, without a word of the coordinator (R403). -/
def execSafeGrantFallback (s : State) : Host.Outcome State Fault Refusal :=
  if s.up && s.lastGrant + 700000000 ≤ s.clock then .next { s with hw := { s.hw with pGrant := s.hw.safeGrant } } else .next s

/-- PTRADE fields (R400). -/
def HwA.trading (h : HwA) : Bool := h.pTrade.getLsbD 10
def HwA.lendMax (h : HwA) : Nat := h.pTrade.toNat % 2 ^ 10

/-- Send the news of a loan to the module at its port. -/
def State.tellLoan (s : State) (port : Nat) (tokens : Int) : State := { s with fabricOut := s.fabricOut ++ [.loan port tokens] }

/-- Clearing EN returns every loan that the module has borrowed, and recalls every one that it has lent and not yet recalled
(R404). -/
def State.stopTrading (s : State) : State :=
  let s := s.loans.foldl (fun s l => match l.side with
    | .borrower => s.tellLoan l.port (-(l.tokens : Int))
    | .lender => if l.recalled.isNone then s.tellLoan l.port 0 else s) s
  let mine := (s.loans.filter fun l => l.side == .lender).map fun l =>
    { l with recalled := some (l.recalled.getD s.clock) }
  State.settleLoans { s with loans := mine }

/-- The event of a write of PTRADE (R400, R404). -/
def State.writeTrade (s : State) (value : W64) : State :=
  if s.up && value.toNat < 2 ^ 11 then
    let s := { s with hw := { s.hw with pTrade := BitVec.ofNat 11 value.toNat } }
    if s.hw.trading then s else s.stopTrading
  else s

/-- The times of the last 10 ms, 14,000,000 cycles, between which the average that PDRAW shows rises or falls evenly: its ends, and
where the draw changes at either end of the 1 ms averaged. The average is highest at one of them (R404). -/
def State.drawTimes (s : State) : List Nat :=
  ([s.clock - 14000000, s.clock] ++ s.draws.flatMap fun d => [d.start, d.stop, d.start + 1400000, d.stop + 1400000]).filter fun t =>
    s.clock - 14000000 ≤ t && t ≤ s.clock

/-- Whether the module may lend k tokens now: its draw has stayed low for the whole of the last 10 ms (R404). -/
def State.mayLend (s : State) (k : Nat) : Bool :=
  decide (s.hw.pLent.toNat + k ≤ s.hw.lendMax)
    && s.drawTimes.all fun t => decide (s.drawAt t < 10 * (s.hw.pGrant.toNat - s.hw.pLent.toNat - k))

/-- LOAN_OFFER: a loan over an UP port, granted as one exchange (R404). -/
def execLoanOffer (side : LoanSide) (port tokens : Nat) (s : State) : Host.Outcome State Fault Refusal :=
  let ok := s.up && s.hw.trading && decide (port < 8) && s.hw.up.getLsbD port && decide (1 ≤ tokens) && match side with
    | .lender => s.mayLend tokens
    | .borrower => decide (s.hw.pBorrow.toNat + tokens < 2 ^ 10)
  if ok then
    let (u, s) := s.newUid
    let l : Loan :=
      { uid := u, side := side, port := port, tokens := tokens, since := s.clock, recalled := none, fenced := none }
    let s := State.settleLoans { s with loans := s.loans ++ [l] }
    .next (match side with
      | .lender => s.tellLoan port tokens
      | .borrower => s)
  else .next s

/-- A loan ends. -/
def State.endLoan (s : State) (uid : Nat) : State := State.settleLoans { s with loans := s.loans.filter fun l => l.uid != uid }

/-- A loan by its name. -/
def State.loan? (s : State) (uid : Nat) : Option Loan := s.loans.find? fun l => l.uid == uid

/-- A loan's 100 ms begin again; the lender tells the borrower (R404; notes/assumptions/41.md). -/
def State.renewLoan (s : State) (l : Loan) : State :=
  let loans := s.loans.map fun (x : Loan) => if x.uid == l.uid then { x with since := s.clock } else x
  match l.side with
  | .lender => { s with loans := loans }.tellLoan l.port l.tokens
  | .borrower => { s with loans := loans }

/-- LOAN_LAPSE: the end of a loan 100 ms, 140,000,000 cluster cycles, after its grant or its last renewal; or its renewal, which
a recalled loan and one of a fenced port do not have. The lender of a fenced port's loan ends it 2 ms after the fence and not before
(R404; notes/assumptions/41.md). -/
def execLoanLapse (x : LoanTurn) (s : State) : Host.Outcome State Fault Refusal :=
  match s.loan? x.loan with
  | some l =>
    if x.renewed then (if s.up && l.recalled.isNone && l.fenced.isNone then .next (s.renewLoan l) else .next s)
    else if l.since + 140000000 ≤ s.clock && !(l.side == .lender && l.fenced.isSome) then .next (s.endLoan x.loan)
    else .next s
  | none => .next s

/-- LOAN_RECALL: the lender recalls; the borrower lowers its cap and confirms (R404). -/
def execLoanRecall (uid : Nat) (s : State) : Host.Outcome State Fault Refusal :=
  match (if s.up then s.loan? uid else none) with
  | none => .next s
  | some l =>
    match l.side with
    | .lender =>
      if l.recalled.isSome then .next s
      else
        let loans := s.loans.map fun (x : Loan) => if x.uid == uid then { x with recalled := some s.clock } else x
        .next ({ s with loans := loans }.tellLoan l.port 0)
    | .borrower => .next ((s.endLoan uid).tellLoan l.port (-(l.tokens : Int)))

/-- RECALL_CONFIRM: the borrower has confirmed a recall, or has returned the loan on its own; nothing comes through a fenced port,
whose loan the lender ends 2 ms after the fence and not before (R404; notes/assumptions/41.md). -/
def execRecallConfirm (uid : Nat) (s : State) : Host.Outcome State Fault Refusal :=
  match s.loan? uid with
  | some l => if l.side == .lender && l.fenced.isNone then .next (s.endLoan uid) else .next s
  | none => .next s

/-- RECALL_TIMEOUT: 2 ms, 2,800,000 cluster cycles, after the port's fence, or after a recall where it is not fenced (R404;
notes/assumptions/41.md). -/
def execRecallTimeout (uid : Nat) (s : State) : Host.Outcome State Fault Refusal :=
  match s.loan? uid with
  | some l =>
    if l.side == .lender && (l.fenced.orElse fun _ => l.recalled).any fun t => t + 2800000 ≤ s.clock then .next (s.endLoan uid) else .next s
  | none => .next s

/-! ### Rails and ratios (R30, R253, R303, R396) -/

/-- The levels that a group asks for: its own, and those its warps' RAILSETs wait for (R253). -/
def Group.asks (g : Group) : List Nat :=
  g.level.toNat :: g.warps.filterMap fun w => match w.wait with
    | .rail l => some l
    | _ => none

/-- The level of a cluster's rail: the lowest-numbered one asked for by its resident groups (R253). -/
def State.railTarget (s : State) (cluster : Nat) : Nat :=
  ((s.groups.filter fun g => g.cluster == cluster && !g.ended).flatMap Group.asks).foldl min 7

/-- RAIL_SETTLE: the rail has settled at the level asked for (R253). -/
def execRailSettle (cluster : Nat) (level : BitVec 3) (s : State) : Host.Outcome State Fault Refusal :=
  if cluster < 256 && level.toNat = s.railTarget cluster then .next (s.mapCluster cluster fun k => { k with level := level })
  else .next s

/-- SLICE_RATIO_CHANGE: a ratio of 1 to 8 (R2, R30, R396). -/
def execSliceRatioChange (cluster slice : Nat) (n : BitVec 4) (s : State) : Host.Outcome State Fault Refusal :=
  if cluster < 256 && slice < 6 && 1 ≤ n.toNat && n.toNat ≤ 8 then
    .next (s.mapCluster cluster fun k => { k with slices := vmod k.slices slice fun x => { x with ratio := n } })
  else .next s

/-! ### Soft errors (R18, R401, R402, R405) -/

/-- An uncorrected error counted in SEUNC (R401). -/
def State.countUnc (s : State) (source : Nat) : State := { s with hw := { s.hw with seUnc := bump s.hw.seUnc source } }

/-- A check granule becomes uncorrectable; it is counted when it is first detected (R405). -/
def State.markGranule (s : State) (g : BadGranule) : State :=
  if s.poison.contains g then s else { s with poison := g :: s.poison }.countUnc g.source

/-- Whether a byte of the clusters' SRAM lies in a bank that is checked: 0 to 23 (R401, R402). -/
def preciseBank (loc : Nat) : Bool := decide (loc % 2 ^ 20 / 2 ^ 15 < 24)

/-- Whether an error of a source can fall on a line at a place, of which the memory-side cache holds those of either tier
(R401). -/
def lineSource (source place : Nat) : Bool :=
  match source with
  | 3 => decide (place < sramAt)
  | 4 => decide (place < 2 ^ 39)
  | 5 => decide (tierTwoAt ≤ place) && decide (place < sramAt)
  | _ => false

/-- The place of an address in a context's pages, precise or approximate as asked for (R312, R402). -/
def State.pagePlace (s : State) (ctx : Nat) (va : W64) (apx : Bool) : Option Nat :=
  match s.ctx? ctx with
  | none => none
  | some c => match s.translate c va.toNat with
    | .ok place leaf _ => if leafApx leaf == apx then some place else none
    | _ => none

/-- Mark a register place of a warp that has not ended, counted when it is first marked. -/
def State.markWarp (s : State) (group w : Nat) (b : BadReg) (source : Nat) : State :=
  match ((s.group? group).bind fun g => g.warp? w) with
  | some x =>
    if x.ended.isSome || x.bad.contains b then s
    else (s.mapWarp group w fun w => { w with bad := b :: w.bad }).countUnc source
  | none => s

/-- How many check granules of 32 bits a place of the matrix unit has (R25, R234, R405). -/
def granulesOf : MatPlace → Nat
  | .tile _ | .latch _ => 2048
  | .slot _ => 16384

/-- Mark a granule of a Leek thread that has not ended, counted when it is first marked. -/
def State.markLeek (s : State) (group : Nat) (b : MatGranule) : State :=
  match (s.group? group).bind Group.leek with
  | some l =>
    if l.ended.isSome || granulesOf b.place ≤ b.granule || l.bad.contains b then s
    else (s.mapLeek group fun l => { l with bad := b :: l.bad }).countUnc 7
  | none => s

/-- Mark a granule of a FIFO slot, counted when it is first marked (R319, R405). -/
def State.markFifo (s : State) (group block slot granule : Nat) : State :=
  match ((s.group? group).bind fun g => (g.fifo block)[slot]?) with
  | some x =>
    if x.bad.contains granule then s
    else (s.mapFifo group block fun q => q.modify slot fun y => { y with bad := granule :: y.bad }).countUnc 2
  | none => s

/-- Whether a bypass latch of a warp is valid. -/
def State.latchValid (s : State) (group w n : Nat) : Bool :=
  ((s.group? group).bind fun g => g.warp? w).any fun w => (w.latches.toArray.toList.getD n none).isSome

/-- SOFT_ERROR (R401, R402, R405). -/
def execSoftError (e : SoftError) (s : State) : Host.Outcome State Fault Refusal :=
  if !(s.alive && s.power) then .next s
  else match e with
    | .corrected source =>
      if 1 ≤ source && source ≤ 10 && source ≠ 6 then .next { s with hw := { s.hw with secErr := bump s.hw.secErr source } }
      else .next s
    | .sram loc => if loc < 2 ^ 28 && preciseBank loc then .next (s.markGranule (granuleOf 2 (sramAt + loc))) else .next s
    | .line source ctx va =>
      match s.pagePlace ctx va false with
      | some place => if lineSource source place then .next (s.markGranule (granuleOf source place)) else .next s
      | none => .next s
    | .cached cluster ctx va =>
      -- a precise bank in CACHE mode holds a copy of a line of either tier (R313)
      match s.pagePlace ctx va false with
      | some place => if cluster < 256 && decide (place < sramAt) then .next (s.markGranule (copyGranule cluster place)) else .next s
      | none => .next s
    | .fifo g block slot granule => if granule < 32 then .next (s.markFifo g block slot granule) else .next s
    | .vreg g w n lane => if n < 256 && lane < 64 then .next (s.markWarp g w (.v n lane) 1) else .next s
    | .sreg g w n => if n < 64 then .next (s.markWarp g w (.s n) 1) else .next s
    | .modulus g w n lane barrett high =>
      if n < 4 && lane < 64 then .next (s.markWarp g w (if barrett then .qb n lane high else .qm n lane high) 1) else .next s
    | .latch g w n lane => if s.latchValid g w n && lane < 64 then .next (s.markWarp g w (.latch n lane) 6) else .next s
    | .crossbar g w lane => if lane < 64 then .next (s.markWarp g w (.crossbar lane) 6) else .next s
    | .leek g b => .next (s.markLeek g b)
    | .bank loc value => if loc < 2 ^ 28 && !preciseBank loc then .next { s with mem := s.mem.set (sramAt + loc) value } else .next s
    | .apxLine ctx va value =>
      match s.pagePlace ctx va true with
      | some place => .next { s with mem := s.mem.set place value }
      | none => .next s
    | .result g w n lane value =>
      .next (s.mapWarp g w fun w => { w with v := vmod w.v n fun r => { r with lanes := vmod r.lanes lane fun _ => value } })
    | .uniform g w n value => .next (s.mapWarp g w fun w => { w with s := vmod w.s n fun _ => value })
    | .mask g w n value => .next (s.mapWarp g w fun w => if n = 0 then w else { w with k := vmod w.k n fun _ => value })
    | .modulusValue g w n lane barrett value =>
      .next (s.mapWarp g w fun w =>
        let put (v : Vector (Lanes W64) 4) : Vector (Lanes W64) 4 := vmod v n fun r => vmod r lane fun _ => value
        if barrett then { w with qb := put w.qb } else { w with qm := put w.qm })
    | .latched g w n lane value =>
      .next (s.mapWarp g w fun w =>
        { w with latches := vmod w.latches n fun x => x.map fun x => { x with lanes := vmod x.lanes lane fun _ => value } })
    | .general g n value => .next (s.mapLeek g fun l => { l with g := vmod l.g n fun _ => value })
    | .predicate g n value =>
      .next (s.mapLeek g fun l => if h : n < 8 then l.writeK ⟨n, h⟩ value else l)
    | .buffered g w entry byte value =>
      .next (s.mapWarp g w fun w => { w with spec := w.spec.map fun p => p.setByte entry byte value })
    | .stored place value =>
      if s.datapath.any fun x => x.1 ≤ place && place < x.1 + x.2 then .next { s with mem := s.mem.set place value } else .next s
    | .array cluster slot byte value =>
      if byte < 2 ^ 16 then .next (s.mapSlot cluster slot fun a => { a with data := a.data.set byte value }) else .next s
    | .copyData copy byte value =>
      .next { s with copies := s.copies.map fun c =>
        if c.uid == copy then { c with held := c.held.map fun bs => bs.set byte value } else c }

/-- POWER_LOSS: without its supplies the module holds no state (R377). -/
def execPowerLoss (s : State) : Host.Outcome State Fault Refusal := .next { s.resetModule with power := false }

end Sys2Proof.Machine
end

