-- ==== Sys2Proof/Machine/Port.lean ====
section
/-!
DEFINITION. The host port (R337): it turns each request that it accepts into events, in the order of acceptance, be it of HW-A
(R379, R400), a doorbell (R387) or HW-B (R380, R386).
-/

namespace Sys2Proof.Machine

/-- The host port makes the next event of the request that it accepted first (R337). -/
def State.portStep (s : State) : State :=
  match s.port with
  | [] => s
  | .write [] :: rest => { s with port := rest }
  | .write ((at', bs) :: todo) :: rest =>
    let (t, todo) := s.writeSector at' bs todo
    { t with port := if todo.isEmpty then rest else .write todo :: rest }
  | .read off [] got :: rest => { s with port := rest, hostReads := s.hostReads ++ [(.hwB off, got)] }
  | .read off ((at', n) :: todo) got :: rest =>
    let (bs, t, todo) := s.readSector at' n todo
    if todo.isEmpty then { t with port := rest, hostReads := t.hostReads ++ [(.hwB off, got ++ bs)] }
    else { t with port := .read off todo (got ++ bs) :: rest }
  | .doorbell ctx off v :: rest => { s.doorbell ctx off v with port := rest }
  | .register off v :: rest => { s.writeRegister off v with port := rest }
  | .fwgo x :: rest => { s.fwgo x with port := rest }
  | .trade v :: rest => { s.writeTrade v with port := rest }
  | .look off :: rest => { s with port := rest, hostReads := s.hostReads ++ [(.hwA off, toBytesLE 8 (s.readRegister off).toNat)] }

/-- The host port accepts a request behind those that it has not finished; an idle port makes its first event at once (R337). -/
def State.accepts (s : State) (r : PortRequest) : State :=
  let t := { s with port := s.port ++ [r] }
  if s.port.isEmpty then t.portStep else t

/-- A module that has not ended accepts a request (R397). -/
def State.takes (s : State) (r : PortRequest) : State := if s.alive && s.power then s.accepts r else s

/-- REGISTER_WRITE (R337, R379). -/
def execRegisterWrite (offset : Nat) (value : W64) (s : State) : Host.Outcome State Fault Refusal :=
  .next (s.takes (.register offset value))

/-- FWGO (R337, R377). -/
def execFwgo (x : FwgoWrite) (s : State) : Host.Outcome State Fault Refusal := .next (s.takes (.fwgo x))

/-- PTRADE_WRITE (R337, R404). -/
def execPtradeWrite (value : W64) (s : State) : Host.Outcome State Fault Refusal := .next (s.takes (.trade value))

/-- DOORBELL (R337, R387). -/
def execDoorbell (ctx offset : Nat) (tail : W64) (s : State) : Host.Outcome State Fault Refusal :=
  .next (s.takes (.doorbell ctx offset tail))

/-- The request of a write of HW-B: its sectors with their bytes (R337). -/
def writeOf (offset : Nat) (data : List Byte) : PortRequest := .write (piecesOf 32 data.length offset data)

/-- The request of a read of HW-B: its sectors with their lengths (R337). -/
def readOf (offset size : Nat) : PortRequest :=
  .read offset ((piecesOf 32 size offset (List.replicate size 0)).map fun x => (x.1, x.2.length)) []

/-- HOST_WRITE (R337, R380, R386). -/
def execHostWrite (offset : Nat) (data : List Byte) (s : State) : Host.Outcome State Fault Refusal :=
  .next (s.takes (writeOf offset data))

/-- HOST_READ (R337, R380, R386, R400); what it returns is noted when its last sector, or its register, has been read. -/
def execHostRead (offset : HostAddr) (size : Nat) (s : State) : Host.Outcome State Fault Refusal :=
  .next (s.takes (match offset with
    | .hwA o => .look o
    | .hwB o => readOf o size))

end Sys2Proof.Machine
end

