-- ==== Sys2Proof/Machine/Rep.lean ====
section
/-!
DEFINITION. Repeat units (R50 to R53): a prefix and the instruction that it governs, one iteration at a time.
-/

namespace Sys2Proof.Machine

/-- The meaning of an instruction that a prefix may govern (R51). -/
def followerBody (op : LOp) (f : LForm) (e : Env) : Effect :=
  match op with
  | .add => opAdd.body f e
  | .sub => opSub.body f e
  | .mul => opMul.body f e
  | .mulh => opMulh.body f e
  | .mad => opMad.body f e
  | .madw => opMadw.body f e
  | .min => opMin.body f e
  | .max => opMax.body f e
  | .abs => opAbs.body f e
  | .neg => opNeg.body f e
  | .and => opAnd.body f e
  | .or => opOr.body f e
  | .xor => opXor.body f e
  | .not => opNot.body f e
  | .andn => opAndn.body f e
  | .shl => opShl.body f e
  | .shr => opShr.body f e
  | .sar => opSar.body f e
  | .rot => opRot.body f e
  | .bfx => opBfx.body f e
  | .bfi => opBfi.body f e
  | .clz => opClz.body f e
  | .ffs => opFfs.body f e
  | .popc => opPopc.body f e
  | .brev => opBrev.body f e
  | .bytep => opBytep.body f e
  | .cmp => opCmp.body f e
  | .addc => addcBody f e
  | .sel => selBody f e
  | .mov => movBody f e
  | .movi => moviBody f e
  | .lea => leaBody f e
  | .fadd => faddBody f e
  | .fsub => fsubBody f e
  | .fmul => fmulBody f e
  | .fma => fmaBody f e
  | .fmin => fminBody f e
  | .fmax => fmaxBody f e
  | .fsgn => fsgnBody f e
  | .fcmp => fcmpBody f e
  | .fclass => fclassBody f e
  | .rcp => rcpBody f e
  | .rsq => rsqBody f e
  | .sqrt => sqrtBody f e
  | .exp2 => transBody .exp2 0 f e
  | .log2 => transBody .log2 1 f e
  | .sin => transBody .sin 2 f e
  | .cos => transBody .cos 3 f e
  | .cvt => cvtBody f e
  | .quant => quantBody f e
  | .scaleb => scalebBody f e
  | .frnd => frndBody f e
  | .qmul => qmulBody f e
  | .qmac => qmacBody f e
  | .qadd => qaddBody f e
  | .qsub => qsubBody f e
  | .qneg => qnegBody f e
  | .qred => qredBody f e
  | .qbfct => butterflyBody qbfctR f e
  | .qbfgs => butterflyBody qbfgsR f e
  | .qshoup => qshoupBody f e
  | _ => e.early .illegal

/-- The opcodes that a prefix may govern (R51). -/
def mayRepeat (op : LOp) : Bool :=
  let c := op.code.toNat
  (0x20 ≤ c && c ≤ 0x3F) || (0x50 ≤ c && c ≤ 0x63) || (0x81 ≤ c && c ≤ 0x89)

/-- The register distance of STRIDE (R50). -/
def strideOf (p : RepPrefix) : Nat := 2 ^ p.stride.toNat

/-- A field of iteration `i`: stepped where its bit is set; none where it is no v register or leaves the numbers (R51). -/
def stepReg (p : RepPrefix) (bit i : Nat) (r : Reg) : Option Reg :=
  if !p.step.getLsbD bit then some r
  else match r with
    | .v n => if h : n.val + i * strideOf p < 256 then some (.v ⟨n.val + i * strideOf p, h⟩) else none
    | _ => none

/-- The follower of iteration `i` (R52). -/
def stepForm (p : RepPrefix) (i : Nat) (f : LForm) : Option LForm := do
  let d ← stepReg p 0 i f.dst
  let s0 ← stepReg p 1 i f.src0
  let s1 ← stepReg p 2 i f.src1
  let s2 ← stepReg p 3 i f.src2
  return { f with dst := d, src0 := s0, src1 := s1, src2 := s2 }

/-- Whether a stepped 64-bit operand has a stride of 1 (R51). -/
def oddStep (p : RepPrefix) (op : LOp) (f : LForm) : Bool :=
  let w := op.widths f.fmt f.sub
  p.stride == 0 && ((p.step.getLsbD 0 && w.d) || (p.step.getLsbD 1 && w.s0) || (p.step.getLsbD 2 && w.s1)
    || (p.step.getLsbD 3 && w.s2))

/-- Whether a unit is legal in every iteration (R51). -/
def repLegal (p : RepPrefix) (op : LOp) (f : LForm) (vcount scount : Nat) : Bool :=
  mayRepeat op && !oddStep p op f && (List.range (repTimes p)).all fun i => match stepForm p i f with
    | some f' => legalL op f' false vcount scount
    | none => false

/-- What follows a prefix, where a prefix may govern it. -/
def followerOf (bs : List Byte) : Option (LOp × LForm) :=
  match decode bs with
  | .ok (i, _) => match i.shape with
    | some (.l op f) => some (op, f)
    | _ => none
  | .error _ => none

/-- How a fault at the prefix itself is reported; PRED and PNEG are those of its follower, where that was fetched (R245). -/
def prefixIssue (w : Warp) (i : Nat) (p : Bool × Nat := (false, 0)) : Issue :=
  { words := [], sig16 := 0, next := w.pc, pneg := p.1, pred := p.2, iter := i, rep := none }

/-- Iteration `i` of a unit whose follower has been fetched. The masks are those read at its first iteration, or at the one
that TRET resumed (R52, R53). -/
def repIteration (p : RepPrefix) (op : LOp) (f : LForm) (i : Nat) (s : State) (c : Context) (g : Group) (w : Warp) : State :=
  let masks := (w.rep.bind RepState.masks).getD (w.exec, w.predMask f.pneg f.pred)
  let w1 : Warp := { w with rep := some { iter := i, masks := some masks } }
  let last := repTimes p ≤ i + 1
  let words := (Shape.p p).encode ++ (Shape.l op f).encode
  let iss : Issue :=
    { words := if i = 0 then words else [], sig16 := 0
      next := if last then w.pc + BitVec.ofNat 64 (4 * words.length) else w.pc
      pneg := f.pneg, pred := f.pred.val, iter := i
      rep := if last then none else some { iter := i + 1, masks := some masks } }
  match stepForm p i f with
  | some f' => s.finishWarp c g w iss (followerBody op f' (Env.mk' s c g w1 f.pneg f.pred))
  | none => s.finishWarp c g w (prefixIssue w i (f.pneg, f.pred.val)) (.fault .illegal 0 (w.exec &&& ~~~w.dead))

/-- REP (R50 to R53): the follower is fetched, the unit checked, and one iteration executed. On the Leek core the word is
ILLEGAL (R67). -/
def execRep (p : RepPrefix) (s : State) : Host.Outcome State Fault Refusal :=
  match s.issuer with
  | none => .fault .noAgent
  | some (.leek c g l) => .next (s.finishLeek c g l l.pc (.fault .illegal 0 1))
  | some (.warp c g w) =>
    let i := (w.rep.map RepState.iter).getD 0
    let live := w.exec &&& ~~~w.dead
    match s.fetchInstr c w.fetched w.holds (w.pc + 4).toNat with
    | .perm va => .next (s.finishWarp c g w { prefixIssue w i with fetched := false } (.fault .perm (BitVec.ofNat 64 va) live))
    | .absent va => .next (s.finishWarp c g w { prefixIssue w i with fetched := false } (.absent va .fetch (BitVec.ofNat 64 va) live))
    | .ok bs t lines =>
      let w := { w with fetched := lines }
      let t := t.mapWarp g.uid w.id fun x => { x with fetched := lines }
      match followerOf bs with
      | some (op, f) =>
        if repLegal p op f g.desc.vcount g.desc.scount then .next (repIteration p op f i t c g w)
        else .next (t.finishWarp c g w (prefixIssue w i (rawPredicate bs)) (.fault .illegal 0 live))
      | none => .next (t.finishWarp c g w (prefixIssue w i (rawPredicate bs)) (.fault .illegal 0 live))

end Sys2Proof.Machine
end

