-- ==== Sys2Proof/Machine/Dispatch.lean ====
section
/-!
DEFINITION. The meaning of every instruction and event: one arm a constructor.
-/

namespace Sys2Proof.Machine

/-- The meaning of an instruction or event. -/
def exec (i : Instr) (s : State) : Host.Outcome State Fault Refusal :=
  match i with
  | .nop f => Sys2Proof.Machine.execNop f s
  | .nopShort => Sys2Proof.Machine.execNopShort s
  | .bra f => Sys2Proof.Machine.execBra f s
  | .braShort off pneg pred => Sys2Proof.Machine.execBraShort off pneg pred s
  | .brx f => Sys2Proof.Machine.execBrx f s
  | .call f => Sys2Proof.Machine.execCall f s
  | .callx f => Sys2Proof.Machine.execCallx f s
  | .ret f => Sys2Proof.Machine.execRet f s
  | .mark f => Sys2Proof.Machine.execMark f s
  | .markShort off => Sys2Proof.Machine.execMarkShort off s
  | .join f => Sys2Proof.Machine.execJoin f s
  | .joinShort => Sys2Proof.Machine.execJoinShort s
  | .exit f => Sys2Proof.Machine.execExit f s
  | .exitShort pneg pred => Sys2Proof.Machine.execExitShort pneg pred s
  | .blkend f => Sys2Proof.Machine.execBlkend f s
  | .getx f => Sys2Proof.Machine.execGetx f s
  | .setx f => Sys2Proof.Machine.execSetx f s
  | .brk f => Sys2Proof.Machine.execBrk f s
  | .spin f => Sys2Proof.Machine.execSpin f s
  | .sleep f => Sys2Proof.Machine.execSleep f s
  | .shfl f => Sys2Proof.Machine.execShfl f s
  | .vote f => Sys2Proof.Machine.execVote f s
  | .redlog f => Sys2Proof.Machine.execRedlog f s
  | .scanlog f => Sys2Proof.Machine.execScanlog f s
  | .matchLanes f => Sys2Proof.Machine.execMatchLanes f s
  | .add f => Sys2Proof.Machine.execAdd f s
  | .addShort imm a d => Sys2Proof.Machine.execAddShort imm a d s
  | .sub f => Sys2Proof.Machine.execSub f s
  | .addc f => Sys2Proof.Machine.execAddc f s
  | .mul f => Sys2Proof.Machine.execMul f s
  | .mulh f => Sys2Proof.Machine.execMulh f s
  | .mad f => Sys2Proof.Machine.execMad f s
  | .madw f => Sys2Proof.Machine.execMadw f s
  | .min f => Sys2Proof.Machine.execMin f s
  | .max f => Sys2Proof.Machine.execMax f s
  | .abs f => Sys2Proof.Machine.execAbs f s
  | .neg f => Sys2Proof.Machine.execNeg f s
  | .and f => Sys2Proof.Machine.execAnd f s
  | .or f => Sys2Proof.Machine.execOr f s
  | .xor f => Sys2Proof.Machine.execXor f s
  | .not f => Sys2Proof.Machine.execNot f s
  | .andn f => Sys2Proof.Machine.execAndn f s
  | .shl f => Sys2Proof.Machine.execShl f s
  | .shr f => Sys2Proof.Machine.execShr f s
  | .sar f => Sys2Proof.Machine.execSar f s
  | .rot f => Sys2Proof.Machine.execRot f s
  | .bfx f => Sys2Proof.Machine.execBfx f s
  | .bfi f => Sys2Proof.Machine.execBfi f s
  | .clz f => Sys2Proof.Machine.execClz f s
  | .ffs f => Sys2Proof.Machine.execFfs f s
  | .popc f => Sys2Proof.Machine.execPopc f s
  | .brev f => Sys2Proof.Machine.execBrev f s
  | .bytep f => Sys2Proof.Machine.execBytep f s
  | .cmp f => Sys2Proof.Machine.execCmp f s
  | .sel f => Sys2Proof.Machine.execSel f s
  | .plog f => Sys2Proof.Machine.execPlog f s
  | .mov f => Sys2Proof.Machine.execMov f s
  | .movShort a d => Sys2Proof.Machine.execMovShort a d s
  | .movi f => Sys2Proof.Machine.execMovi f s
  | .lea f => Sys2Proof.Machine.execLea f s
  | .movs f => Sys2Proof.Machine.execMovs f s
  | .fadd f => Sys2Proof.Machine.execFadd f s
  | .fsub f => Sys2Proof.Machine.execFsub f s
  | .fmul f => Sys2Proof.Machine.execFmul f s
  | .fma f => Sys2Proof.Machine.execFma f s
  | .fmin f => Sys2Proof.Machine.execFmin f s
  | .fmax f => Sys2Proof.Machine.execFmax f s
  | .fsgn f => Sys2Proof.Machine.execFsgn f s
  | .fcmp f => Sys2Proof.Machine.execFcmp f s
  | .fclass f => Sys2Proof.Machine.execFclass f s
  | .rcp f => Sys2Proof.Machine.execRcp f s
  | .rsq f => Sys2Proof.Machine.execRsq f s
  | .sqrt f => Sys2Proof.Machine.execSqrt f s
  | .exp2 f => Sys2Proof.Machine.execExp2 f s
  | .log2 f => Sys2Proof.Machine.execLog2 f s
  | .sin f => Sys2Proof.Machine.execSin f s
  | .cos f => Sys2Proof.Machine.execCos f s
  | .cvt f => Sys2Proof.Machine.execCvt f s
  | .quant f => Sys2Proof.Machine.execQuant f s
  | .scaleb f => Sys2Proof.Machine.execScaleb f s
  | .frnd f => Sys2Proof.Machine.execFrnd f s
  | .endorse f => Sys2Proof.Machine.execEndorse f s
  | .tagset f => Sys2Proof.Machine.execTagset f s
  | .tagget f => Sys2Proof.Machine.execTagget f s
  | .rand f => Sys2Proof.Machine.execRand f s
  | .qset f => Sys2Proof.Machine.execQset f s
  | .qmul f => Sys2Proof.Machine.execQmul f s
  | .qmac f => Sys2Proof.Machine.execQmac f s
  | .qadd f => Sys2Proof.Machine.execQadd f s
  | .qsub f => Sys2Proof.Machine.execQsub f s
  | .qneg f => Sys2Proof.Machine.execQneg f s
  | .qred f => Sys2Proof.Machine.execQred f s
  | .qbfct f => Sys2Proof.Machine.execQbfct f s
  | .qbfgs f => Sys2Proof.Machine.execQbfgs f s
  | .qshoup f => Sys2Proof.Machine.execQshoup f s
  | .nperm f => Sys2Proof.Machine.execNperm f s
  | .lbrev f => Sys2Proof.Machine.execLbrev f s
  | .ld f => Sys2Proof.Machine.execLd f s
  | .st f => Sys2Proof.Machine.execSt f s
  | .lds f => Sys2Proof.Machine.execLds f s
  | .sts f => Sys2Proof.Machine.execSts f s
  | .ldb f => Sys2Proof.Machine.execLdb f s
  | .stb f => Sys2Proof.Machine.execStb f s
  | .ldu f => Sys2Proof.Machine.execLdu f s
  | .stu f => Sys2Proof.Machine.execStu f s
  | .atom f => Sys2Proof.Machine.execAtom f s
  | .vatom f => Sys2Proof.Machine.execVatom f s
  | .acopy f => Sys2Proof.Machine.execAcopy f s
  | .publish f => Sys2Proof.Machine.execPublish f s
  | .winset f => Sys2Proof.Machine.execWinset f s
  | .pref f => Sys2Proof.Machine.execPref f s
  | .own f => Sys2Proof.Machine.execOwn f s
  | .waitr f => Sys2Proof.Machine.execWaitr f s
  | .bankset f => Sys2Proof.Machine.execBankset f s
  | .fpush f => Sys2Proof.Machine.execFpush f s
  | .fpop f => Sys2Proof.Machine.execFpop f s
  | .isync f => Sys2Proof.Machine.execIsync f s
  | .bararr f => Sys2Proof.Machine.execBararr f s
  | .barwait f => Sys2Proof.Machine.execBarwait f s
  | .barsync f => Sys2Proof.Machine.execBarsync f s
  | .barwaitt f => Sys2Proof.Machine.execBarwaitt f s
  | .barexp f => Sys2Proof.Machine.execBarexp f s
  | .barstat f => Sys2Proof.Machine.execBarstat f s
  | .emit f => Sys2Proof.Machine.execEmit f s
  | .joindec f => Sys2Proof.Machine.execJoindec f s
  | .evpop f => Sys2Proof.Machine.execEvpop f s
  | .evwait f => Sys2Proof.Machine.execEvwait f s
  | .clock f => Sys2Proof.Machine.execClock f s
  | .qstat f => Sys2Proof.Machine.execQstat f s
  | .tld f => Sys2Proof.Machine.execTld f s
  | .agath f => Sys2Proof.Machine.execAgath f s
  | .mma f => Sys2Proof.Machine.execMma f s
  | .mmas f => Sys2Proof.Machine.execMmas f s
  | .acz f => Sys2Proof.Machine.execAcz f s
  | .acdrn f => Sys2Proof.Machine.execAcdrn f s
  | .acrel f => Sys2Proof.Machine.execAcrel f s
  | .acstat f => Sys2Proof.Machine.execAcstat f s
  | .mmwait f => Sys2Proof.Machine.execMmwait f s
  | .lkexit f => Sys2Proof.Machine.execLkexit f s
  | .trap f => Sys2Proof.Machine.execTrap f s
  | .tret f => Sys2Proof.Machine.execTret f s
  | .movsr f => Sys2Proof.Machine.execMovsr f s
  | .ovfld f => Sys2Proof.Machine.execOvfld f s
  | .railset f => Sys2Proof.Machine.execRailset f s
  | .sigseed f => Sys2Proof.Machine.execSigseed f s
  | .tlbinv f => Sys2Proof.Machine.execTlbinv f s
  | .wdset f => Sys2Proof.Machine.execWdset f s
  | .perfrd f => Sys2Proof.Machine.execPerfrd f s
  | .halt f => Sys2Proof.Machine.execHalt f s
  | .rep p => Sys2Proof.Machine.execRep p s
  | .copySector copy => Sys2Proof.Machine.execCopySector copy s
  | .copyComplete copy => Sys2Proof.Machine.execCopyComplete copy s
  | .matrixOpStart group => Sys2Proof.Machine.execMatrixOpStart group s
  | .matrixOpComplete group op => Sys2Proof.Machine.execMatrixOpComplete group op s
  | .gatherTake ctx q => Sys2Proof.Machine.execGatherTake ctx q s
  | .gatherOffer gather => Sys2Proof.Machine.execGatherOffer gather s
  | .groupPlace src => Sys2Proof.Machine.execGroupPlace src s
  | .spanWaitLimit pod => Sys2Proof.Machine.execSpanWaitLimit pod s
  | .groupEnd group => Sys2Proof.Machine.execGroupEnd group s
  | .continuationEnqueue held => Sys2Proof.Machine.execContinuationEnqueue held s
  | .restartGroup request => Sys2Proof.Machine.execRestartGroup request s
  | .limiterAdmit => Sys2Proof.Machine.execLimiterAdmit s
  | .spinEnd group warp => Sys2Proof.Machine.execSpinEnd group warp s
  | .sleepEnd group warp => Sys2Proof.Machine.execSleepEnd group warp s
  | .barwaittTimeout agent => Sys2Proof.Machine.execBarwaittTimeout agent s
  | .bartimeout bar => Sys2Proof.Machine.execBartimeout bar s
  | .remoteRequest r => Sys2Proof.Machine.execRemoteRequest r s
  | .remoteAnswer a => Sys2Proof.Machine.execRemoteAnswer a s
  | .remoteRefusal a => Sys2Proof.Machine.execRemoteRefusal a s
  | .refusalResend op => Sys2Proof.Machine.execRefusalResend op s
  | .retransmission op => Sys2Proof.Machine.execRetransmission op s
  | .remoteLost op => Sys2Proof.Machine.execRemoteLost op s
  | .ownerFailed owner => Sys2Proof.Machine.execOwnerFailed owner s
  | .keepalive ctx owner => Sys2Proof.Machine.execKeepalive ctx owner s
  | .keepaliveReceive k => Sys2Proof.Machine.execKeepaliveReceive k s
  | .keepaliveAck a => Sys2Proof.Machine.execKeepaliveAck a s
  | .resultCacheExpiry requester ctx => Sys2Proof.Machine.execResultCacheExpiry requester ctx s
  | .fundamentalReset failure => Sys2Proof.Machine.execFundamentalReset failure s
  | .fwgo value => Sys2Proof.Machine.execFwgo value s
  | .registerWrite offset value => Sys2Proof.Machine.execRegisterWrite offset value s
  | .doorbell ctx offset tail => Sys2Proof.Machine.execDoorbell ctx offset tail s
  | .hostWrite offset data => Sys2Proof.Machine.execHostWrite offset data s
  | .hostRead offset size => Sys2Proof.Machine.execHostRead offset size s
  | .ptradeWrite value => Sys2Proof.Machine.execPtradeWrite value s
  | .partCreate => Sys2Proof.Machine.execPartCreate s
  | .partResizePrepare => Sys2Proof.Machine.execPartResizePrepare s
  | .prepareComplete part => Sys2Proof.Machine.execPrepareComplete part s
  | .resizeDeadline part => Sys2Proof.Machine.execResizeDeadline part s
  | .partResizeCommit => Sys2Proof.Machine.execPartResizeCommit s
  | .partReset => Sys2Proof.Machine.execPartReset s
  | .partDestroy => Sys2Proof.Machine.execPartDestroy s
  | .partSetapx => Sys2Proof.Machine.execPartSetapx s
  | .ctxCreate => Sys2Proof.Machine.execCtxCreate s
  | .ctxDrain => Sys2Proof.Machine.execCtxDrain s
  | .drainComplete ctx => Sys2Proof.Machine.execDrainComplete ctx s
  | .drainDeadline ctx => Sys2Proof.Machine.execDrainDeadline ctx s
  | .ctxResume => Sys2Proof.Machine.execCtxResume s
  | .ctxReset => Sys2Proof.Machine.execCtxReset s
  | .ctxDestroy => Sys2Proof.Machine.execCtxDestroy s
  | .ctxTlbinv => Sys2Proof.Machine.execCtxTlbinv s
  | .ctxReplay => Sys2Proof.Machine.execCtxReplay s
  | .ctxFaultfail => Sys2Proof.Machine.execCtxFaultfail s
  | .ctxDebugHalt => Sys2Proof.Machine.execCtxDebugHalt s
  | .ctxDebugResume => Sys2Proof.Machine.execCtxDebugResume s
  | .ctxDebugRead => Sys2Proof.Machine.execCtxDebugRead s
  | .ctxDebugWrite => Sys2Proof.Machine.execCtxDebugWrite s
  | .slotRetire => Sys2Proof.Machine.execSlotRetire s
  | .attest => Sys2Proof.Machine.execAttest s
  | .linkCtlFence => Sys2Proof.Machine.execLinkCtlFence s
  | .linkCtlRetrain => Sys2Proof.Machine.execLinkCtlRetrain s
  | .retrainDeadline port => Sys2Proof.Machine.execRetrainDeadline port s
  | .linkFence port => Sys2Proof.Machine.execLinkFence port s
  | .dieFailure die => Sys2Proof.Machine.execDieFailure die s
  | .ioDieFailure => Sys2Proof.Machine.execIoDieFailure s
  | .powerGrant tokens => Sys2Proof.Machine.execPowerGrant tokens s
  | .safeGrantFallback => Sys2Proof.Machine.execSafeGrantFallback s
  | .loanOffer side port tokens => Sys2Proof.Machine.execLoanOffer side port tokens s
  | .loanLapse loan => Sys2Proof.Machine.execLoanLapse loan s
  | .loanRecall loan => Sys2Proof.Machine.execLoanRecall loan s
  | .recallConfirm loan => Sys2Proof.Machine.execRecallConfirm loan s
  | .recallTimeout loan => Sys2Proof.Machine.execRecallTimeout loan s
  | .unassignedOp word => Sys2Proof.Machine.execUnassignedOp word s
  | .railSettle cluster level => Sys2Proof.Machine.execRailSettle cluster level s
  | .sliceRatioChange cluster slice n => Sys2Proof.Machine.execSliceRatioChange cluster slice n s
  | .linkTrainingPass port => Sys2Proof.Machine.execLinkTrainingPass port s
  | .softError e => Sys2Proof.Machine.execSoftError e s
  | .bankDrainComplete cluster bank => Sys2Proof.Machine.execBankDrainComplete cluster bank s
  | .powerLoss => Sys2Proof.Machine.execPowerLoss s

end Sys2Proof.Machine
end

