-- ==== Sys2Proof/Machine/Step.lean ====
section
/-!
DEFINITION. The step: the next move of the schedule, or of a ready agent where it names none (notes/assumptions/1.md). An
agent's move fetches and decodes the instruction at its program counter and executes it; an event's move executes the
event.
-/

namespace Sys2Proof.Machine

/-- An agent's move: its instruction executed, or the outcome of its fetch. -/
def stepAgent (a : AgentId) (s : State) : Host.Outcome State Fault Refusal :=
  match s.turn a with
  | .run i t => exec i t
  | .stop t => .next t

/-- The events that a module without its supplies, or one that has ended, still has (R377, R397). -/
def resets (i : Instr) : Bool :=
  match i with
  | .fundamentalReset _ | .powerLoss => true
  | _ => false

/-- One move. -/
def stepMove (m : Move) (s : State) : Host.Outcome State Fault Refusal :=
  match m with
  | .tick n => .next (s.tick n)
  | .event i => if i.isEvent && ((s.alive && s.power) || resets i) then exec i s else .next s
  | .warp g w =>
    match (s.group? g).bind fun x => (x.warp? w).map fun y => (x, y) with
    | some (x, y) => if s.goesOn x y then stepAgent (.warp g w) s else .next s
    | none => .next s
  | .matrix g => if s.alive && s.power then .next (s.matrixStep g) else .next s
  | .part c => if s.alive && s.power then .next (s.partStep c) else .next s
  | .port => if s.alive && s.power then .next s.portStep else .next s
  | .owner r c => if s.up then .next (s.ownerStep r c) else .next s
  | .slice c k =>
    match s.pickWarp c k with
    | some (g, w) => stepAgent (.warp g.uid w.id) (s.noteIssue c k g.uid w.id)
    | none => .next s
  | .leekCore c =>
    match s.pickLeek c with
    | some (g, l) => stepAgent (.leek g.uid) (s.mapCluster c fun k => { k with lastLeek := l.index })
    | none => .next s

/-- One step of the module. With nothing that can move, nothing changes. -/
def step (s : State) : Host.Outcome State Fault Refusal :=
  match s.nextMove with
  | some (m, rest) => stepMove m { s with schedule := rest, cur := none }
  | none => .next s

/-- The state in which the next step fetches and runs the instruction whose bits are `w` (notes/assumptions/9.md): a ready
warp of a group of one, in a context whose page table maps the instruction. -/
def State.withFetchWord (s : State) (nbits w : Nat) : State :=
  { s with
    schedule := [.slice 0 0], power := true, alive := true
    mem := placedMem s.mem (toBytesLE 12 (w % 2 ^ nbits))
    parts := [Partition.blank 0 0]
    ctxs := [Context.blank 0 (BitVec.ofNat 64 placedTables)]
    groups := [Group.blank 0 KDesc.plain [Warp.launch 0 0 (BitVec.ofNat 64 placedCode)]]
    tlb := [] }

end Sys2Proof.Machine
end

