-- ==== Sys2Proof/Safety.lean ====
section
/-!
DEFINITION. What counts as a safe step, the invariant that the model keeps, and the terms in which claims speak of an issue:
when a warp or a Leek thread issues an instruction in the ordinary way, and the state once that instruction is complete.
-/

namespace Sys2Proof.Machine

/-- A step is safe when it answers a next state: no fault and no refusal. -/
def safe (s : State) : Prop := ∃ t, step s = .next t

/-- Both memories are in canonical form, so that equal memories are equal data. -/
def State.Inv (s : State) : Prop := s.mem.wf = true ∧ s.hostMem.wf = true

/-- Warp `w` of group `g` in context `c` issues an instruction that the encoding, the descriptor and the mode allow (R57,
R242), does not speculate past a barrier (R211), and meets no failing check value (R55). -/
structure WarpIssues (s : State) (c : Context) (g : Group) (w : Warp) (sh : Shape) : Prop where
  issuer : s.issuer = some (.warp c g w)
  calm   : w.spec = none
  legal  : sh.legal false g.desc.vcount g.desc.scount = true
  mode   : sh.modeOk w.trapMode c.system = true
  sig    : w.sigBad (issueOf sh w) = false

/-- The Leek thread `l` of group `g` in context `c` issues an instruction that the encoding allows and that waits for none of
its matrix operations (R227). -/
structure LeekIssues (s : State) (c : Context) (g : Group) (l : Leek) (sh : Shape) : Prop where
  issuer : s.issuer = some (.leek c g l)
  legal  : sh.legal true g.desc.vcount g.desc.scount = true
  free   : sh.drains = true → l.queue = []

/-- The lanes that execute an instruction of a shape: EXEC and its predicate, without the dead ones (R16, R18, R45). -/
def Warp.eff (w : Warp) (sh : Shape) : Mask := w.selected sh.predicate.1 sh.predicate.2 &&& ~~~w.dead

/-- The lanes that an instruction of a shape selects, dead ones included (R16). -/
def Warp.sel (w : Warp) (sh : Shape) : Mask := w.selected sh.predicate.1 sh.predicate.2

/-- The machine `t` once the instruction of warp `w` is complete: counted (R257), its words hashed into SIGW (R54), the warp
at the next instruction. -/
def State.completed (t : State) (c : Context) (g : Group) (w : Warp) (sh : Shape) : State :=
  (t.perfAdd c.id 0 1).mapWarp g.uid w.id fun x => x.retire (issueOf sh w) (w.pc + BitVec.ofNat 64 (4 * sh.encode.length)) []

/-- The machine `t` once the instruction of Leek thread `l` is complete. -/
def State.leekCompleted (t : State) (g : Group) (l : Leek) (sh : Shape) : State :=
  t.retireLeek g (l.pc + BitVec.ofNat 64 (4 * sh.encode.length))

/-- The machine in which warp `w` of group `g` stands as `w'`. -/
def State.putWarp (s : State) (g : Group) (w w' : Warp) : State := s.mapWarp g.uid w.id fun _ => w'

/-- The machine in which the Leek thread of group `g` stands as `l`. -/
def State.putLeek (s : State) (g : Group) (l : Leek) : State := s.mapLeek g.uid fun _ => l

/-- The environment in which the instruction of a shape runs. -/
def envOf (s : State) (c : Context) (g : Group) (w : Warp) (sh : Shape) : Env :=
  Env.mk' s c g w sh.predicate.1 sh.predicate.2

/-- The environment in which a Leek thread's instruction runs. -/
def leekEnvOf (s : State) (c : Context) (g : Group) (l : Leek) : LeekEnv := { s := s, c := c, g := g, l := l }

end Sys2Proof.Machine
end

