-- ==== Sys2Proof/Certificates/Slice0/Obligations.lean ====
section
/-!
DEFINITION. The statements for the provers: encoding, the step and its invariant, taking an exception and returning from one, and
for every instruction and event of the opcode table where it completes and what it leaves.

The first section holds the terms that several statements share.
-/

open Sys2Proof Sys2Proof.Machine

/-! ## Shared terms -/

namespace Sys2Proof.Says

/-- TSW as a fault writes it (R245): TM, SPNEG, SPRED, ITER, CAUSE. -/
def trapWordAt (pneg : Bool) (pred iter : Nat) (cause : Byte) : W32 :=
  1#1 ++ 0#7 ++ BitVec.ofBool pneg ++ BitVec.ofNat 3 pred ++ BitVec.ofNat 6 iter ++ 0#6 ++ cause

/-- TSW as a fault at an instruction of a shape, outside a repeat unit, writes it. -/
def trapWord (sh : Shape) (cause : Byte) : W32 := trapWordAt sh.predicate.1 sh.predicate.2.val 0 cause

/-- A warp after trap entry (R244 to R246): the frame, trap mode, fetch at the handler, no latch, nothing left of the instruction; all
else as it was. -/
def trapped (x : Warp) (base : W64) (tsw : W32) (addr : W64) (lanes : Mask) (tpc : W64) : Warp :=
  { x with
    tsw := tsw, tpc := tpc, taddr := addr, tfirst := x.pc, tlanes := lanes, pc := base, latches := Vector.replicate 4 none
    rep := none, wait := .ready, progress := none }

/-- The machine after warp `w` has entered its context's handler, which counter 7 counts (R243, R244). -/
def enters (s : State) (c : Context) (g : Group) (w : Warp) (tsw : W32) (addr : W64) (lanes : Mask) (tpc : W64) : State :=
  (s.mapWarp g.uid w.id fun x => trapped x c.trapBase tsw addr lanes tpc).perfAdd c.id 7 1

/-- The machine after warp `w` has entered its context's handler: the instruction has issued and is counted (R257; that a
faulting instruction counts as issued is notes/assumptions/11.md). -/
def trapsWith (s : State) (c : Context) (g : Group) (w : Warp) (sh : Shape) (cause : Byte) (addr : W64) (lanes : Mask)
    (tpc : W64) : State :=
  enters (s.perfAdd c.id 0 1) c g w (trapWord sh cause) addr lanes tpc

/-- The live lanes of a warp: EXEC and not DEAD. -/
def live (w : Warp) : Mask := w.exec &&& ~~~w.dead

/-- The integer operations that write one destination, by opcode: their sources and values (R93 to R102). -/
def intOps : List (LOp × IntOp) :=
  [(.add, opAdd), (.sub, opSub), (.mul, opMul), (.mulh, opMulh), (.mad, opMad), (.madw, opMadw), (.min, opMin), (.max, opMax)]
    ++ [(.abs, opAbs), (.neg, opNeg), (.and, opAnd), (.or, opOr), (.xor, opXor), (.not, opNot), (.andn, opAndn)]
    ++ [(.shl, opShl), (.shr, opShr), (.sar, opSar), (.rot, opRot), (.bfx, opBfx), (.bfi, opBfi), (.clz, opClz)]
    ++ [(.ffs, opFfs), (.popc, opPopc), (.brev, opBrev), (.bytep, opBytep)]

/-- What an integer operation writes in a lane of a warp. -/
def intValue (o : IntOp) (f : LForm) (w : Warp) (l : Fin 64) : W64 :=
  o.value f (srcAt w f.imm (o.os f) 0 l) (srcAt w f.imm (o.os f) 1 l) (srcAt w f.imm (o.os f) 2 l)

/-- What an integer operation writes on the Leek core. -/
def intLeekValue (o : IntOp) (f : LForm) (l : Leek) : W64 :=
  o.value f (leekAt l f.imm (o.os f) 0) (leekAt l f.imm (o.os f) 1) (leekAt l f.imm (o.os f) 2)

/-- The destination of a form L instruction written with a value a lane, in a width and tag: the register, scalar or mask after
it, with zero in the lanes of `kill`, and in a scalar where they are all that execute (R14, R18, R45 to R47), or the warp as it was
where there is no such destination. -/
def writesIn (w : Warp) (eff sel kill : Mask) (f : LForm) (wide : Bool) (tag : Fmt) (vals : Fin 64 → W64) : Warp :=
  match f.dst with
  | .v n => (w.commitVec n.val
      { eff := eff, sel := sel, kill := kill, vals := vals, wide := wide, tag := tag, a := f.a, nw := f.nw }).getD w
  | .s n => if eff = 0 || f.nw then w else w.writeS n.val wide (if eff &&& ~~~kill = 0 then 0 else vals 0)
  | .k n => w.writeK n eff (maskOf fun l => if h : l < 64 then (vals ⟨l, h⟩).getLsbD 0 && !kill.getLsbD l else false)
  | _ => w

/-- The same in the lanes that execute an instruction of a shape, none of which is killed. -/
def writes (w : Warp) (sh : Shape) (f : LForm) (wide : Bool) (tag : Fmt) (vals : Fin 64 → W64) : Warp :=
  writesIn w (w.eff sh) (w.sel sh) 0 f wide tag vals

/-- The machine after a Leek instruction that writes one g register where it takes effect (R45, R92). -/
def leekWrites (s : State) (g : Group) (l : Leek) (f : LForm) (x : W64) : State :=
  if l.takes f.pneg f.pred && !f.nw then s.putLeek g (l.writeG f.dst (leekResult f.fmt x)) else s

end Sys2Proof.Says

open Sys2Proof.Says

/-! ## Encoding -/

/-- R33, R39 to R44, R50, R56: decoding the bytes of any well-formed instruction gives that instruction and the bytes after it. Of
a word with an unassigned opcode only the first word is kept; its length class says how far it reaches. -/
def Obligations.DecodingGivesBackWhatWasEncoded : Prop :=
  ∀ (i : Instr) (rest : List Byte), i.isEvent = false → i.wf = true →
    match i with
    | .unassignedOp w => lengthOf w ≤ 4 + rest.length →
        decode (encodeBytes i ++ rest) = .ok (i, rest.drop (lengthOf w - 4))
    | _ => decode (encodeBytes i ++ rest) = .ok (i, rest)

/-- R33, R35 to R44, R56, R57: no two byte strings mean one instruction. Whatever bytes decode to an assigned instruction are its
encoding, bit by bit, so that no reserved bit is ignored; the instruction is well-formed and no event. A word whose major opcode
is unassigned decodes to UNASSIGNED_OP whatever its other bits are; with the rest of its bytes missing it is truncated. -/
def Obligations.EachInstructionHasOneEncoding : Prop :=
  (∀ (bytes rest : List Byte) (i : Instr), decode bytes = .ok (i, rest) →
     i.isEvent = false ∧ i.wf = true ∧
       ((∃ w, i = .unassignedOp w ∧ bytes.take 4 = bytesOfWord w) ∨ bytes = encodeBytes i ++ rest)) ∧
  (∀ (w : W32) (rest : List Byte), unassignedWord w = true →
     decode (bytesOfWord w ++ rest) =
       if 4 + rest.length < lengthOf w then .error .truncated else .ok (.unassignedOp w, rest.drop (lengthOf w - 4)))

/-! ## The step -/

/-- A STEP RUNS THE DECODED INSTRUCTION (R33, R34, R223, R303). When the next move is a slice's, or a Leek core's, and the agent it
picks fetches bytes that decode to an instruction, the step is that instruction's meaning, in the state in which the agent is the
issuing one, its issue is noted, and it holds the lines it fetched; so it is for the next event of a warp whose instruction has
events to come, and TRET's resumed warp is first held to R248. One whose page a CTX_FAULTFAIL has refused takes PERM instead, at its
stop, with no access made again (R388). A byte in a page that is away is waited for, with an entry in the fault ring, and one in a page
without X is PERM, the instruction's address in TFIRST and that of the lowest byte that could not be fetched in TADDR, before
anything is decoded; bytes that do not decode are ILLEGAL at their own address, once the rest of their unit has been fetched; neither is
a fault of a warp that speculates, which stalls, and a Leek thread's ends its context. That a fetch fault's SPNEG and SPRED are 0 is the
model's choice (DESIGN CHOICE, notes/assumptions/34.md), that an ILLEGAL's are read where form L has them another (notes/assumptions/15.md),
and so is what counts as issued (notes/assumptions/11.md). An event runs as its meaning says in a module that is on, a tick
lets its cluster cycles pass, the matrix unit, the part, the host port and the owner make their next event; with nothing that can
move, nothing changes (the moves are the model's choice, notes/assumptions/1.md). -/
def Obligations.StepRunsTheDecodedInstruction : Prop :=
  (∀ (s u0 t : State) (m k : Nat) (rest : List Move) (g g' : Group) (w w' : Warp) (c : Context) (bs r : List Byte)
     (lines : List (Nat × List Byte)) (i : Instr),
     let s' : State := { s with schedule := rest, cur := none }
     ((s.nextMove = some (.slice m k, rest) ∧ s'.pickWarp m k = some (g, w) ∧ u0 = s'.noteIssue m k g.uid w.id) ∨
       (s.nextMove = some (.warp g.uid w.id, rest) ∧ s'.group? g.uid = some g ∧ g.warp? w.id = some w ∧ s'.goesOn g w = true ∧
         u0 = s')) →
     let u : State := { u0 with cur := some (.warp g.uid w.id) }
     u.issuer = some (.warp c g' w') →
     (∀ n acc addr lanes, w'.wait = .refused n acc addr lanes → step s = .next (u.refuseWarp c g' w' acc addr lanes)) ∧
     ((∀ n acc addr lanes, w'.wait ≠ .refused n acc addr lanes) →
     u.fetchInstr c w'.fetched w'.holds w'.pc.toNat = .ok bs t lines →
     decode bs = .ok (i, r) →
     let v := t.mapWarp g'.uid w'.id fun x => { x with fetched := lines }
     w'.resumeBad (some i) = false → step s = exec i v) ∧
     -- what is not fetched, or does not decode
     ((∀ n acc addr lanes, w'.wait ≠ .refused n acc addr lanes) →
     let fetch := u.fetchInstr c w'.fetched w'.holds w'.pc.toNat
     let iter := (w'.rep.map RepState.iter).getD 0
     let stalls := step s = .next (u.setWait (.warp g'.uid w'.id) .speculation)
     let waits (x : State) (va : Nat) : State := (x.faultRing c.id va .fetch g'.cluster).mapWarp g'.uid w'.id fun x =>
       { x with wait := .page (BitVec.ofNat 64 (va / 4096)) 2 (BitVec.ofNat 64 va) (live w'), progress := none }
     (∀ va, fetch = .absent va → if w'.spec = none then step s = .next (waits u va) else stalls) ∧
     (∀ va, fetch = .perm va → (w'.spec ≠ none → stalls) ∧ (w'.spec = none → w'.trapMode = false → c.trapBase ≠ 0 →
       step s = .next (enters u c g' w' (trapWordAt false 0 iter 0x08) (BitVec.ofNat 64 va) (live w') w'.pc))) ∧
     (fetch = .ok bs t lines →
       let v := t.mapWarp g'.uid w'.id fun x => { x with fetched := lines }
       let bad := match decode bs with
         | .ok (j, _) => w'.resumeBad (some j)
         | .error _ => w'.resumeBad none
       let rest := v.fetchUnit c lines w'.holds bs w'.pc
       ((∃ e, decode bs = .error e) ∨ bad = true) → w'.spec = none →
       (∀ va, rest = .absent va → step s = .next (waits v va)) ∧
       (∀ va, rest = .perm va → w'.trapMode = false → c.trapBase ≠ 0 →
         step s = .next (enters v c g' w' (trapWordAt false 0 iter 0x08) (BitVec.ofNat 64 va) (live w') w'.pc)) ∧
       (∀ bs' t' lines', rest = .ok bs' t' lines' →
         (bad = true → step s = .next (t'.endsFrame c g' w')) ∧
         (bad = false → w'.trapMode = false → c.trapBase ≠ 0 →
           step s = .next (enters ((t'.mapWarp g'.uid w'.id fun x => { x with fetched := lines' }).perfAdd c.id 0 1) c g' w'
             (trapWordAt (rawPredicate bs').1 (rawPredicate bs').2 iter 0x01) 0 (live w') w'.pc)))))) ∧
  (∀ (s t : State) (m : Nat) (rest : List Move) (g g' : Group) (l l' : Leek) (c : Context) (bs r : List Byte)
     (lines : List (Nat × List Byte)) (i : Instr),
     s.nextMove = some (.leekCore m, rest) →
     State.pickLeek { s with schedule := rest, cur := none } m = some (g, l) →
     let u : State :=
       { State.mapCluster { s with schedule := rest, cur := none } m fun k => { k with lastLeek := l.index } with
         cur := some (.leek g.uid) }
     u.issuer = some (.leek c g' l') →
     (∀ n acc addr lanes, l'.wait = .refused n acc addr lanes → step s = .next (u.leekFault c g' l' .perm addr)) ∧
     ((∀ n acc addr lanes, l'.wait ≠ .refused n acc addr lanes) →
     u.fetchInstr c l'.fetched l'.wait.holds l'.pc.toNat = .ok bs t lines →
     decode bs = .ok (i, r) →
     step s = exec i (t.mapLeek g'.uid fun x => { x with fetched := lines })) ∧
     ((∀ n acc addr lanes, l'.wait ≠ .refused n acc addr lanes) →
     let fetch := u.fetchInstr c l'.fetched l'.wait.holds l'.pc.toNat
     (∀ va, fetch = .absent va → step s = .next ((u.faultRing c.id va .fetch g'.cluster).setWait (.leek g'.uid)
       (.page (BitVec.ofNat 64 (va / 4096)) 2 (BitVec.ofNat 64 va) 1))) ∧
     (∀ va, fetch = .perm va → step s = .next (u.leekFault c g' l' .perm (BitVec.ofNat 64 va))) ∧
     (∀ e, fetch = .ok bs t lines → decode bs = .error e →
       step s = .next ((t.mapLeek g'.uid fun x => { x with fetched := lines }).leekFault c g' l' .illegal 0)))) ∧
  (∀ (s : State) (c : Context) (hold : Bool) (a : Nat),
     let line := a - a % 64
     (s.freshLine c line = .absent → s.fetchInstr c [] hold a = .absent a) ∧ (s.freshLine c line = .perm → s.fetchInstr c [] hold a = .perm a) ∧
     (∀ bs fill, s.freshLine c line = .ok bs fill 0 → (bs.drop (a % 64)).length < lengthOf (wordOfBytes (bs.drop (a % 64))) →
       ((s.fillTlb fill).freshLine c (line + 64) = .absent → s.fetchInstr c [] hold a = .absent (line + 64)) ∧
       ((s.fillTlb fill).freshLine c (line + 64) = .perm → s.fetchInstr c [] hold a = .perm (line + 64)))) ∧
  ((∀ (s : State) (i : Instr) (rest : List Move), s.nextMove = some (.event i, rest) → i.isEvent = true →
     (s.alive = true ∧ s.power = true) ∨ resets i = true →
     step s = exec i { s with schedule := rest, cur := none }) ∧
   (∀ (s : State) (rest : List Move), s.up = true →
     let s' : State := { s with schedule := rest, cur := none }
     (∀ u, s.nextMove = some (.matrix u, rest) → step s = .next (s'.matrixStep u)) ∧
     (∀ c, s.nextMove = some (.part c, rest) → step s = .next (s'.partStep c)) ∧
     (s.nextMove = some (.port, rest) → step s = .next s'.portStep) ∧
     (∀ m c, s.nextMove = some (.owner m c, rest) → step s = .next (s'.ownerStep m c))) ∧
   (∀ (s : State) (n : Nat) (rest : List Move), s.nextMove = some (.tick n, rest) →
     ∃ t, step s = .next t ∧ t.clock = s.clock + n ∧ t.mem = s.mem ∧ t.ctxs = s.ctxs ∧ t.schedule = rest) ∧
   (∀ s : State, s.nextMove = none → step s = .next s))

/-- AN INVARIANT THAT EVERY STEP KEEPS: the memory of the module and that of the host stay in canonical form, from every state
that has it, whatever the step is. -/
def Obligations.EveryStepKeepsMemoryCanonical : Prop :=
  ∀ s t : State, s.Inv → step s = .next t → t.Inv

/-- R377, R379: after reset the module is in STAGE 0 without READY; STATUS and every other HW-A register read 0, every byte of
memory reads 0 (the zero of memory is the model's choice until R377's stage 2, notes/assumptions/4.md), and both memories have the
canonical form that every step keeps. -/
def Obligations.ResetReadsAsZero : Prop :=
  State.Inv State.reset ∧ (∀ offset, State.reset.readRegister offset = 0) ∧ (∀ a, State.reset.mem.get a = 0) ∧
    State.reset.ctxs = [] ∧ State.reset.parts = [] ∧ State.reset.groups = []

/-! ## Terms: instructions that write a register -/

namespace Sys2Proof.Says

/-- No register holds an uncorrectable error, and the operands raise none of the faults of R57 items 3 to 5. -/
abbrev readable (g : Group) (w : Warp) (a : Bool) (os : List Opnd) (never dsts : List Reg) : Prop :=
  w.bad = [] ∧ w.operandFault g.desc.apxFrom a os never dsts = none

/-- The flags that an instruction with a destination raises in the lanes of a mask: one lane's for a scalar (R83, R91). -/
def raised (dst : Reg) (m : Mask) (x : Fin 64 → W64 × Byte) : Byte := orFlags (flagMask dst m) (mkLanes x)

/-- An instruction of form L that writes one destination: its operands, those never approximate, the width and tag of its
result, the conditions on values under which it faults nowhere, its result and flags a lane, the free values it draws, and its
fault of R57 items 3 to 5, if any. -/
structure Row where
  op     : LOp
  os     : LForm → Warp → List Opnd
  never  : LForm → List Reg := fun _ => []
  wide   : LForm → Warp → Bool := fun f _ => f.fmt.wide
  tag    : LForm → Warp → Fmt := fun f _ => f.fmt
  ok     : LForm → Env → Prop := fun _ _ => True
  result : LForm → Env → Fin 64 → W64 × Byte
  draws  : LForm → Nat := fun _ => 0
  fault  : LForm → Group → Warp → Option Cause := fun f g w => w.operandFault g.desc.apxFrom f.a (os f w) (never f) [f.dst]

/-- The machine once a row's instruction is complete: its destination holds the result in the executing lanes, its flags are
set, and the warp is at the next instruction. Nothing else differs. -/
def Row.next (r : Row) (f : LForm) (s : State) (c : Context) (g : Group) (w : Warp) : State :=
  let sh : Shape := .l r.op f
  let x := r.result f (envOf s c g w sh)
  let w' := writes w sh f (r.wide f w) (r.tag f w) fun l => (x l).1
  ((s.putWarp g w (w'.setFlags (raised f.dst (w.eff sh) x))).drawn (r.draws f)).completed c g w sh

/-- Where a row's instruction completes, and with what. -/
def Row.Completes (r : Row) : Prop :=
  ∀ (f : LForm) (s : State) (c : Context) (g : Group) (w : Warp), WarpIssues s c g w (.l r.op f) →
    readable g w f.a (r.os f w) (r.never f) [f.dst] → r.ok f (envOf s c g w (.l r.op f)) →
    exec (r.op.toInstr f) s = .next (r.next f s c g w)

/-- The row of an integer operation. -/
def intRow (p : LOp × IntOp) : Row :=
  { op := p.1, os := fun f _ => p.2.os f, result := fun f e l => (intValue p.2 f e.w l, 0) }

/-- The row of MOV (R106). -/
def movRow : Row :=
  { op := .mov, os := fun f _ => [Opnd.any f.src0 f.fmt], tag := fun f w => w.moveTag f, draws := fun f => Machine.draws f.a
    result := fun f e l => (e.moved f l (e.w.src (Opnd.any f.src0 f.fmt) f.imm l), 0) }

/-- The row of MOVI (R107). -/
def moviRow : Row :=
  { op := .movi, os := fun _ _ => [], result := fun f _ _ => (widenImm f.fmt (f.imm.getD 0), 0) }

/-- The row of MOVS (R109). -/
def movsRow : Row :=
  { op := .movs, os := fun _ _ => [], tag := fun f _ => if f.fmt.wide then .n64 else .n32
    result := fun f e l => (e.special (f.imm.getD 0).toNat l, 0) }

/-- The row of LEA (R108). -/
def leaRow : Row :=
  { op := .lea, os := fun f _ => [Opnd.of f.src0 .n64, Opnd.any f.src1 .b32]
    ok := fun f e => e.w.indexTagBad f.src1 = false
    fault := fun f g w => if w.indexTagBad f.src1 then some .tag
      else w.operandFault g.desc.apxFrom f.a [Opnd.of f.src0 .n64, Opnd.any f.src1 .b32] [] [f.dst]
    result := fun f e l => (e.w.src (Opnd.of f.src0 .n64) f.imm l
      + (extIndex (e.w.indexSigned f.src1) (e.w.src (Opnd.any f.src1 .b32) f.imm l) <<< f.sub.toNat), 0) }

/-- The row of SEL (R104). -/
def selRow : Row :=
  { op := .sel, os := fun f _ => [Opnd.of f.src0 f.fmt, Opnd.of f.src1 f.fmt]
    result := fun f e l =>
      let k := match f.src2 with
        | .k n => e.w.kmask n
        | _ => 0
      (e.w.src (Opnd.of (if k.getLsbD l then f.src0 else f.src1) f.fmt) f.imm l, 0) }

/-- The row of TAGGET (R128). -/
def taggetRow : Row :=
  { op := .tagget, os := fun _ _ => [], wide := fun _ _ => false, tag := fun _ _ => .n32
    ok := fun f e => (e.w.tagOf f.src0).isSome = true ∧ e.w.tagBad (taggetOpnd f) = false
    fault := fun f g w => if w.tagBad (taggetOpnd f) then some .tag else if (w.tagOf f.src0).isNone then some .latch
      else w.operandFault g.desc.apxFrom f.a [] [] [f.dst]
    result := fun f e _ => ((((e.w.tagOf f.src0).getD .b32).code).setWidth 64, 0) }

/-- The row of VOTE (R194). -/
def voteRow : Row :=
  { op := .vote, os := fun _ _ => [], wide := fun f _ => f.sub.toNat = 3
    result := fun f e _ =>
      let k := match f.src0 with
        | .k n => e.w.kmask n &&& e.eff
        | _ => 0
      (match f.sub.toNat with
       | 0 => if k = e.eff then 1 else 0
       | 1 => if k = 0 then 0 else 1
       | 2 => if k = 0 ∨ k = e.eff then 1 else 0
       | _ => k, 0) }

/-- The rows of MOV, MOVI, MOVS, LEA, SEL, TAGGET and VOTE (R104, R106 to R109, R128, R194). -/
def moveRows : List Row := [movRow, moviRow, movsRow, leaRow, selRow, taggetRow, voteRow]

/-- The tag code of TAGSET, whether its destination is a pair, and the operand that it copies (R127). -/
def tagsetCode (f : LForm) (w : Warp) : Nat := (w.uni f.src1 f.imm .b32).toNat % 2 ^ 32
def tagsetWide (f : LForm) (w : Warp) : Bool := 12 ≤ tagsetCode f w % 16 && !oddReg f.dst
def tagsetOpnd (f : LForm) (w : Warp) : Opnd :=
  { reg := f.src0, fmt := if tagsetWide f w then .n64 else .b32, wide := tagsetWide f w, tag := none }

/-- The row of TAGSET: a code up to 15, and even registers for a 64-bit tag (R127). A latch of another width than a scalar's tag asks
for is met as a value, where a lane executes. -/
def tagsetRow : Row :=
  { op := .tagset, os := fun f w => tagsetOpnd f w :: tagOs f, wide := tagsetWide
    tag := fun f w => Fmt.ofCode (BitVec.ofNat 4 (tagsetCode f w))
    ok := fun f e => tagsetCode f e.w ≤ 15 ∧ (12 ≤ tagsetCode f e.w → oddReg f.dst = false ∧ oddReg f.src0 = false)
    fault := fun f g w =>
      let o := tagsetOpnd f w
      w.operandFault g.desc.apxFrom f.a
        ((if f.src1 ≠ .imm ∧ w.tagBad o then { o with wide := !o.wide } else o) :: tagOs f) [] [f.dst]
    result := fun f e l => (e.w.src (tagsetOpnd f e.w) f.imm l, 0) }

/-- The floating operations on FMT's elements, each with its value and flags before the A bit (R114 to R116, R119, R125). -/
def floatOps : List (LOp × (LForm → BitVec 16 → Nat → Nat → Nat → FRes)) :=
  [(.fadd, fun f t a b _ => (ffmtOf f.fmt).addC a b (rmOf f) t), (.fsub, fun f t a b _ => (ffmtOf f.fmt).subC a b (rmOf f) t),
   (.fmul, fun f t a b _ => (ffmtOf f.fmt).mulC a b (rmOf f) t), (.fma, fun f t a b c => (ffmtOf f.fmt).fmaC a b c (rmOf f) t),
   (.fmin, fun f _ a b _ => ((ffmtOf f.fmt).minC a b, 0)), (.fmax, fun f _ a b _ => ((ffmtOf f.fmt).maxC a b, 0)),
   (.fsgn, fun f _ a b _ => ((ffmtOf f.fmt).sgnC f.sub.toNat a b, 0)), (.rcp, fun f t a _ _ => (ffmtOf f.fmt).rcpC a t),
   (.rsq, fun f t a _ _ => (ffmtOf f.fmt).rsqC a t), (.sqrt, fun f t a _ _ => (ffmtOf f.fmt).sqrtC a (rmOf f) t),
   (.frnd, fun f t a _ _ => (ffmtOf f.fmt).frndC a (rmOf f) t)]

/-- The row of a floating operation: elements delivered under the A bit (R112, R340). -/
def floatRow (p : LOp × (LForm → BitVec 16 → Nat → Nat → Nat → FRes)) : Row :=
  { op := p.1, os := fun f _ => tagged f, draws := fun f => Machine.draws f.a
    result := fun f e l => gather f.fmt fun j => e.deliver (ffmtOf f.fmt) f.a l j
      (p.2 f e.ovft (el f.fmt (e.w.src (Opnd.of f.src0 f.fmt) f.imm l) j) (el f.fmt (e.w.src (Opnd.of f.src1 f.fmt) f.imm l) j)
        (el f.fmt (e.w.src (Opnd.of f.src2 f.fmt) f.imm l) j)) }

/-- The row of EXP2, LOG2, SIN or COS: the device's candidate where it meets the bound (R119, R120, R341). -/
def transRow (p : LOp × TransFn × Nat) : Row :=
  { op := p.1, os := fun f _ => [Opnd.of f.src0 f.fmt], draws := fun f => Machine.draws f.a
    result := fun f e l => gather f.fmt fun j =>
      let x := el f.fmt (e.w.src (Opnd.of f.src0 f.fmt) f.imm l) j
      let ff := ffmtOf f.fmt
      ff.transC p.2.1 f.a x (e.candidate p.2.2 ff f.a l j x) (if f.a then e.dOf ff else 0) e.ovft }

/-- The fault of a stream of a format that `takes` admits: TAG of the stream, else of R57 items 3 to 5; of an invalid latch TAG only
where SRC1 raises it in every format, else APXFLOW of SRC1 or the destination, else LATCH (R48, R121, R123;
notes/assumptions/15.md). -/
def streamFault (takes : Fmt → Bool) (f : LForm) (g : Group) (w : Warp) : Option Cause :=
  match w.streamFmt f.src0 with
  | none => some (if w.streamTag1 takes f then .tag
      else if (f.a = false ∧ w.isApx g.desc.apxFrom f.src1) ∨ (f.a = true ∧ preciseDst g.desc.apxFrom f.dst) then .apxflow else .latch)
  | some t => if w.streamTag takes f then some .tag else w.operandFault g.desc.apxFrom f.a (streamOs t f) [] [f.dst]

/-- The row of CVT (R121, R122). -/
def cvtRow : Row :=
  { op := .cvt, os := fun f w => streamOs ((w.streamFmt f.src0).getD .b32) f, draws := fun f => Machine.draws f.a
    ok := fun f e => e.w.streamTag (cvtTakes f.a) f = false
    fault := fun f g w => streamFault (cvtTakes f.a) f g w
    result := fun f e l => gather f.fmt fun j =>
      let src := (e.w.streamFmt f.src0).getD .b32
      match e.w.streamEl src f l ((f.imm.getD 0).toNat + j) with
      | some x => e.deliver (ffmtOf f.fmt) f.a l j
          (intoFmt f.fmt (valueOf src x) (if f.sub.toNat = 4 then Rm.of e.w.round.toNat else Rm.of f.sub.toNat) e.ovft)
      | none => (0, 0) }

/-- The row of SCALEB (R124). -/
def scalebRow : Row :=
  { op := .scaleb, os := fun f _ => [Opnd.of f.src0 f.fmt, Opnd.of f.src1 .s32]
    result := fun f e l => gather f.fmt fun j => (ffmtOf f.fmt).scalebC (el f.fmt (e.w.src (Opnd.of f.src0 f.fmt) f.imm l) j)
      (signed 32 ((e.w.src (Opnd.of f.src1 .s32) f.imm l).toNat % 2 ^ 32)) (rmOf f) e.ovft }

/-- The row of FCMP (R117). -/
def fcmpRow : Row :=
  { op := .fcmp, os := fun f _ => [Opnd.of f.src0 f.fmt, Opnd.of f.src1 f.fmt]
    result := fun f e l => (if (List.range (elemOf f.fmt).2).all fun j => (ffmtOf f.fmt).relC f.sub.toNat
        (el f.fmt (e.w.src (Opnd.of f.src0 f.fmt) f.imm l) j) (el f.fmt (e.w.src (Opnd.of f.src1 f.fmt) f.imm l) j)
      then 1 else 0, 0) }

/-- The row of FCLASS (R118). -/
def fclassRow : Row :=
  { op := .fclass, os := fun f _ => [Opnd.of f.src0 f.fmt], tag := fun f _ => classTag f.fmt
    result := fun f e l =>
      (ofEls f.fmt fun j => (ffmtOf f.fmt).classC (el f.fmt (e.w.src (Opnd.of f.src0 f.fmt) f.imm l) j), 0) }

/-- The rows of CVT, SCALEB, FCMP and FCLASS (R117, R118, R121, R124). -/
def conversionRows : List Row := [cvtRow, scalebRow, fcmpRow, fclassRow]

/-- The modular operations with one destination: their operands and the residue of q, m and three sources (R137 to R140). -/
def modOps : List (LOp × (LForm → List Opnd) × (Nat → Nat → Nat → Nat → Nat → QRes)) :=
  [(.qmul, qOs, fun q m a b _ => qred128 q m (a * b)), (.qmac, qOs, fun q m a b c => qred128 q m (a * b + c)),
   (.qadd, qOs, fun q _ a b _ => qaddR q a b), (.qsub, qOs, fun q _ a b _ => qsubR q a b),
   (.qneg, qOs, fun q _ a _ _ => qsubR q 0 a), (.qred, fun f => [Opnd.of f.src0 .n64], fun q _ a _ _ => (a % q, false)),
   (.qshoup, fun f => [Opnd.of f.src0 .q64, Opnd.of f.src1 .q64, Opnd.of f.src2 .n64], fun q _ a w wc => qshoupR q a w wc)]

/-- The residue of a modular operation in a lane. -/
def modAt (p : LOp × (LForm → List Opnd) × (Nat → Nat → Nat → Nat → Nat → QRes)) (f : LForm) (e : Env) (l : Fin 64) : QRes :=
  p.2.2 (e.qAt f l) (e.muAt f l) (srcAt e.w f.imm (p.2.1 f) 0 l).toNat (srcAt e.w f.imm (p.2.1 f) 1 l).toNat
    (srcAt e.w f.imm (p.2.1 f) 2 l).toNat

/-- The row of a modular operation: a modulus of at least 2 in each executing lane and, under escalation, no QBAD (R131, R133). -/
def modRow (p : LOp × (LForm → List Opnd) × (Nat → Nat → Nat → Nat → Nat → QRes)) : Row :=
  { op := p.1, os := fun f _ => p.2.1 f, wide := fun _ _ => true, tag := fun _ _ => .q64
    ok := fun f e => ∀ l : Fin 64, e.eff.getLsbD l → 2 ≤ e.qAt f l ∧ (e.c.qbadEsc → (modAt p f e l).2 = false)
    result := fun f e l => (BitVec.ofNat 64 (modAt p f e l).1, if (modAt p f e l).2 then flagQBAD else 0) }

/-- The row of SHFL (R193). -/
def shflRow : Row :=
  { op := .shfl, os := fun f _ => [Opnd.any f.src0 f.fmt, Opnd.any f.src1 .b32], never := fun f => [f.src1]
    tag := fun f w => (w.tagOf f.src0).getD f.fmt, draws := fun f => Machine.draws f.a
    ok := fun f e => f.sub.toNat = 4 → e.eff ≠ 0 →
      let d := (e.w.src (Opnd.any f.src1 .b32) f.imm 0).toNat
      1 ≤ d ∧ d ≤ 6
    result := fun f e l =>
      let p := shflLane f.sub.toNat (e.w.src (Opnd.any f.src1 .b32) f.imm l).toNat l
      if e.w.dead.getLsbD p then (0, flagSHDEAD) else (e.moved f l (e.w.src (Opnd.any f.src0 f.fmt) f.imm p), 0) }

/-- The row of REDLOG: a floating reduction brings a NaN in as the canonical one (R72, R195). -/
def redlogRow : Row :=
  { op := .redlog, os := fun f _ => [Opnd.of f.src0 f.fmt], draws := fun f => if f.a then 768 else 0
    result := fun f e l =>
      let r := e.reduce f (mkLanes fun i =>
        if e.eff.getLsbD i then some (treeIn f (e.w.src (Opnd.of f.src0 f.fmt) f.imm i)) else none).toList
      ((atLane r.1 l.val).getD 0, r.2) }

/-- The row of SCANLOG, with its NaNs as REDLOG has them (R72, R195). -/
def scanlogRow : Row :=
  { op := .scanlog, os := fun f _ => [Opnd.of f.src0 f.fmt], draws := fun f => if f.a then 1536 else 0
    result := fun f e l =>
      let r := e.scan f (mkLanes fun i =>
        if e.eff.getLsbD i then some (treeIn f (e.w.src (Opnd.of f.src0 f.fmt) f.imm i)) else none).toList
      ((atLane r.1 l.val).getD 0, r.2) }

/-- The row of MATCH (R196). -/
def matchRow : Row :=
  { op := .matchLanes, os := fun f _ => [Opnd.any f.src0 f.fmt], wide := fun _ _ => true, tag := fun _ _ => .n64
    ok := fun f e => e.w.widthBad f.src0 f.fmt.wide = false
    fault := fun f g w => if w.widthBad f.src0 f.fmt.wide then some .tag
      else w.operandFault g.desc.apxFrom f.a [Opnd.any f.src0 f.fmt] [] [f.dst]
    result := fun f e l => (maskOf fun j => if h : j < 64 then
      e.eff.getLsbD j && e.w.src (Opnd.any f.src0 f.fmt) f.imm ⟨j, h⟩ == e.w.src (Opnd.any f.src0 f.fmt) f.imm l else false, 0) }

/-- The row of LBREV (R144, R145). -/
def lbrevRow : Row :=
  { op := .lbrev, os := fun f _ => [Opnd.of f.src0 f.fmt, Opnd.any f.src1 .n32]
    ok := fun f e => e.eff ≠ 0 → isPow64 (e.w.uni f.src1 f.imm .n32).toNat = true
    result := fun f e l =>
      let p := brevLane (e.w.uni f.src1 f.imm .n32).toNat l
      if e.w.dead.getLsbD p then (0, flagSHDEAD) else (e.w.src (Opnd.of f.src0 f.fmt) f.imm p, 0) }

/-- The rows of the cross-lane instructions SHFL, REDLOG, SCANLOG, MATCH and LBREV (R144, R193, R195, R196). -/
def laneRows : List Row := [shflRow, redlogRow, scanlogRow, matchRow, lbrevRow]

/-- The row of CMP (R103). -/
def cmpRow : Row :=
  { op := .cmp, os := fun f _ => [Opnd.of f.src0 f.fmt, Opnd.of f.src1 f.fmt], result := fun f e l => (intValue opCmp f e.w l, 0) }

/-- EXP2, LOG2, SIN and COS, each with its function and its number in Config (R120). -/
def transOps : List (LOp × TransFn × Nat) := [(.exp2, .exp2, 0), (.log2, .log2, 1), (.sin, .sin, 2), (.cos, .cos, 3)]

/-- The rows of all instructions of form L that write one destination. -/
def allRows : List Row :=
  intOps.map intRow ++ [cmpRow, tagsetRow] ++ moveRows ++ floatOps.map floatRow ++ transOps.map transRow ++ conversionRows
    ++ modOps.map modRow ++ laneRows

/-- The faults of R57 items 3 to 5 of the other instructions of form L that write registers: ADDC, ENDORSE, RAND, QSET, the
butterflies, NPERM and QUANT (R94, R123, R126, R129, R136, R141, R143). -/
def otherFaults : List (LOp × (LForm → Group → Warp → Option Cause)) :=
  let check (os : LForm → List Opnd) (dsts : LForm → List Reg) (f : LForm) (g : Group) (w : Warp) : Option Cause :=
    w.operandFault g.desc.apxFrom f.a (os f) [] (dsts f)
  let both (f : LForm) : List Reg := [f.dst, f.src0]
  let three (f : LForm) : List Opnd := [Opnd.of f.dst .q64, Opnd.of f.src0 .q64, Opnd.of f.src1 .q64]
  [(.addc, check (fun f => [Opnd.of f.src0 f.fmt, Opnd.of f.src1 f.fmt]) fun f => [f.dst]),
   (.endorse, fun f g w => if w.tagBad (Opnd.of f.src0 f.fmt) then some .tag else if w.isApx g.desc.apxFrom f.dst then some .apxflow
      else if w.latchBad f.src0 then some .latch else none),
   (.rand, check (fun _ => []) fun f => [f.dst]), (.qset, check (fun f => [Opnd.of f.src0 .n64, Opnd.of f.src1 .n64]) fun _ => []),
   (.qbfct, check three both), (.qbfgs, check three both),
   (.nperm, check (fun f => [Opnd.of f.dst f.fmt, Opnd.of f.src0 f.fmt]) both), (.quant, streamFault quantTakes)]

end Sys2Proof.Says

/-! ## Taking an exception and returning from one -/

/-- R57 items 3 to 5, R243 to R246: an integer, move, floating, modular, conversion or cross-lane instruction, long or short, whose
operands raise TAG, APXFLOW or LATCH does nothing else and takes that program fault, with its own address in TFIRST and TPC and no
TADDR. That TLANES is EXEC and not DEAD, as R246 says, also of a predicated instruction, where R14 and R48 speak of the executing
lanes, is the model's reading (DEDUCED, notes/assumptions/34.md), and so is the fault of a CVT or QUANT of an invalid latch (DEDUCED,
notes/assumptions/15.md). -/
def Obligations.OperandFaultEntersTheHandler : Prop :=
  (∀ p ∈ allRows.map (fun r => (r.op, r.fault)) ++ otherFaults, ∀ (f : LForm) (s : State) (c : Context) (g : Group) (w : Warp) (k : Cause),
    WarpIssues s c g w (.l p.1 f) → w.trapMode = false → c.trapBase ≠ 0 → p.2 f g w = some k →
    (k = .tag ∨ k = .apxflow ∨ k = .latch) ∧
    exec (p.1.toInstr f) s = .next (trapsWith s c g w (.l p.1 f) (BitVec.ofNat 8 k.code) 0 (live w) w.pc)) ∧
  (∀ (s : State) (c : Context) (g : Group) (w : Warp) (d a : Fin 256), w.trapMode = false → c.trapBase ≠ 0 →
    (∀ (imm : BitVec 6) k, WarpIssues s c g w (.sr .add imm a d) →
      w.operandFault g.desc.apxFrom false [Opnd.of (.v a) .s32] [] [.v d] = some k →
      exec (.addShort imm a d) s = .next (trapsWith s c g w (.sr .add imm a d) (BitVec.ofNat 8 k.code) 0 (live w) w.pc)) ∧
    (∀ k, WarpIssues s c g w (.sr .mov 0 a d) → w.operandFault g.desc.apxFrom false [Opnd.any (.v a) .b32] [] [.v d] = some k →
      exec (.movShort a d) s = .next (trapsWith s c g w (.sr .mov 0 a d) (BitVec.ofNat 8 k.code) 0 (live w) w.pc)))

/-- R56, R57, R242, R243: an instruction that its encoding, the descriptor or the mode forbids is ILLEGAL whatever its predicate and
EXEC hold, where the warp does not speculate: stated for every instruction that has an encoding but the repeat prefix, of which
RepeatUnitsRunTheirIterations says where its unit is ILLEGAL. An unassigned opcode is ILLEGAL on a warp, and ends the context of a
Leek thread with a record of kind 0x03; that SPNEG and SPRED are then 0 is the model's choice (DESIGN CHOICE,
notes/assumptions/15.md). -/
def Obligations.ForbiddenInstructionsAreIllegal : Prop :=
  (∀ (i : Instr) (sh : Shape) (s : State) (c : Context) (g : Group) (w : Warp),
     i.shape = some sh → (∀ r, sh ≠ .p r) → s.issuer = some (.warp c g w) → w.spec = none → w.trapMode = false → c.trapBase ≠ 0 →
     (sh.legal false g.desc.vcount g.desc.scount = false ∨ sh.modeOk false c.system = false) →
     exec i s = .next (trapsWith s c g w sh 0x01 0 (live w) w.pc)) ∧
  (∀ (word : W32) (s : State) (c : Context) (g : Group),
     (∀ w : Warp, s.issuer = some (.warp c g w) → w.spec = none → w.trapMode = false → c.trapBase ≠ 0 →
       exec (.unassignedOp word) s = .next (trapsWith s c g w (.word word) 0x01 0 (live w) w.pc)) ∧
     (∀ l : Leek, s.issuer = some (.leek c g l) →
       exec (.unassignedOp word) s = .next (s.leekFault c g l .illegal 0)))

/-- R243, R309: a program fault of a warp in trap mode, or in a context with TRAPBASE 0, terminates the context: no agent, pod
work or copy of it is left, and one record of kind 0x05 or 0x01 goes to its error queue before. -/
def Obligations.FaultWithoutHandlerTerminates : Prop :=
  ∀ (s : State) (c : Context) (g : Group) (w : Warp) (p : Stop), (w.trapMode = true ∨ c.trapBase = 0) →
    let kind := if w.trapMode then 0x05 else 0x01
    let t := s.takeFault c g w p
    t = (s.putRec c.id { kind := kind, cause := p.cause.code, cluster := g.cluster, agent := w.slice, warp := w.id, pc := w.pc
                         addr := p.addr, lanes := p.lanes, pod := g.podAddr, word5 := pair64 0 (p.tsw w.trapMode) }).terminate c.id
    ∧ (∀ x ∈ t.groups, x.ctx ≠ c.id) ∧ (∀ x ∈ t.pods, x.ctx ≠ c.id) ∧ (∀ x ∈ t.copies, x.ctx ≠ c.id)
    ∧ ∀ x ∈ t.ctxs, x.id = c.id → x.run = .terminated

/-- R243, R247, R249, R309: TRAP with an executing lane takes the program fault of cause 0x10 with its code in TADDR; TPC is the next
instruction, TFIRST the TRAP itself. Without an executing lane it does nothing; in trap mode, or without a handler, it terminates
the context. HALT terminates the context with a record of kind 0x04 whose TADDR word holds the code; that the record's lanes are
EXEC and not DEAD is the model's choice (notes/assumptions/34.md), as is that both count as issued (notes/assumptions/11.md). -/
def Obligations.TrapAndHaltActAsTheirRulesSay : Prop :=
  (∀ (f : LForm) (s : State) (c : Context) (g : Group) (w : Warp), WarpIssues s c g w (.l .trap f) →
     (w.eff (.l .trap f) = 0 → exec (.trap f) s = .next (s.completed c g w (.l .trap f))) ∧
     (w.eff (.l .trap f) ≠ 0 → w.trapMode = false → c.trapBase ≠ 0 →
       exec (.trap f) s = .next (trapsWith s c g w (.l .trap f) 0x10 (zx64 (f.imm.getD 0)) (w.eff (.l .trap f))
         (w.pc + BitVec.ofNat 64 (4 * (Shape.l .trap f).encode.length)))) ∧
    (w.eff (.l .trap f) ≠ 0 → (w.trapMode = true ∨ c.trapBase = 0) → ∃ t, exec (.trap f) s = .next t ∧
      (∀ x ∈ t.groups, x.ctx ≠ c.id) ∧ ∀ x ∈ t.ctxs, x.id = c.id → x.run = .terminated)) ∧
  (∀ (f : LForm) (s : State) (c : Context) (g : Group) (w : Warp), WarpIssues s c g w (.l .halt f) →
     exec (.halt f) s = .next (((s.perfAdd c.id 0 1).putRec c.id
       { kind := 0x04, cluster := g.cluster, agent := w.slice, warp := w.id, pc := w.pc, addr := zx64 (f.imm.getD 0), lanes := live w
         pod := g.podAddr, word5 := pair64 0 w.tsw }).terminate c.id))

/-- R248: TRET leaves trap mode and resumes at TPC with no latch, inside a repeat unit at the iteration that TSW names; EXEC, registers,
tags, moduli and SIGW are as the handler left them, and the instruction is counted. With a reserved field of TSW set, or an
iteration for a unit that has no such iteration or is no repeat unit, it terminates the context with a record of kind 0x06. That
this record's lanes are EXEC and not DEAD and its address is 0, and that a unit of which some byte cannot be fetched is met at TPC
after trap mode has been left, are the model's choice (notes/assumptions/34.md). -/
def Obligations.TretResumesOrRefusesItsFrame : Prop :=
  (∀ (f : LForm) (s : State) (c : Context) (g : Group) (w : Warp), WarpIssues s c g w (.l .tret f) →
     bitsOf w.tsw.toNat 24 7 = 0 → bitsOf w.tsw.toNat 8 6 = 0 → bitsOf w.tsw.toNat 14 6 = 0 →
     exec (.tret f) s = .next ((s.putWarp g w { w with
       tsw := w.tsw &&& 0x7FFFFFFF, pc := w.tpc, latches := Vector.replicate 4 none, rep := none, wait := .ready }).perfAdd c.id 0 1)) ∧
  (∀ (f : LForm) (s : State) (c : Context) (g : Group) (w : Warp), WarpIssues s c g w (.l .tret f) →
     bitsOf w.tsw.toNat 24 7 = 0 → bitsOf w.tsw.toNat 8 6 = 0 →
     let n := bitsOf w.tsw.toNat 14 6
     let resumed (wt : Wait) : State := (s.putWarp g w { w with
       tsw := w.tsw &&& 0x7FFFFFFF, pc := w.tpc, latches := Vector.replicate 4 none, rep := some { iter := n, masks := none }
       wait := wt }).perfAdd c.id 0 1
     n ≠ 0 →
     (∀ k, (envOf s c g w (.l .tret f)).unitAt w.tpc = .repeat' k → n < k → exec (.tret f) s = .next (resumed .ready)) ∧
     ((envOf s c g w (.l .tret f)).unitAt w.tpc = .refused → exec (.tret f) s = .next (resumed .ready)) ∧
     (∀ va, (envOf s c g w (.l .tret f)).unitAt w.tpc = .absent va → exec (.tret f) s =
       .next ((resumed (.page (BitVec.ofNat 64 (va / 4096)) 2 (BitVec.ofNat 64 va) (live w))).faultRing c.id va .fetch g.cluster))) ∧
  (∀ (f : LForm) (s : State) (c : Context) (g : Group) (w : Warp), WarpIssues s c g w (.l .tret f) →
     (bitsOf w.tsw.toNat 24 7 ≠ 0 ∨ bitsOf w.tsw.toNat 8 6 ≠ 0 ∨
       (bitsOf w.tsw.toNat 14 6 ≠ 0 ∧
         ((envOf s c g w (.l .tret f)).unitAt w.tpc = .other ∨
           ∃ n, (envOf s c g w (.l .tret f)).unitAt w.tpc = .repeat' n ∧ n ≤ bitsOf w.tsw.toNat 14 6))) →
     exec (.tret f) s = .next (((s.perfAdd c.id 0 1).putRec c.id
       { kind := 0x06, cluster := g.cluster, agent := w.slice, warp := w.id, pc := w.pc, lanes := live w, pod := g.podAddr
         word5 := pair64 0 w.tsw }).terminate c.id))

/-! ## Instructions that write a register -/

/-- R14, R45 to R47, R57, R90, R91, R93 to R103: every integer, shift, bit and byte instruction and CMP completes, writes what its
operation gives in the executing lanes, and changes no other register, flag or byte of memory. -/
def Obligations.IntegerInstructionsComplete : Prop :=
  (∀ p ∈ intOps, (intRow p).Completes) ∧ cmpRow.Completes

/-- R92: on the Leek core the integer instructions, MOV, MOVI, MOVS, LEA, SEL write one g register, sign-extended under S32 and
zero-extended under another 32-bit format, where their predicate holds; CMP writes one k bit, ADDC a register and a k bit. -/
def Obligations.LeekRegisterInstructionsComplete : Prop :=
  ∀ (f : LForm) (s : State) (c : Context) (g : Group) (l : Leek),
    (∀ p ∈ intOps, LeekIssues s c g l (.l p.1 f) →
      exec (p.1.toInstr f) s = .next ((leekWrites s g l f (intLeekValue p.2 f l)).leekCompleted g l (.l p.1 f))) ∧
    (LeekIssues s c g l (.l .mov f) →
      exec (.mov f) s = .next ((leekWrites s g l f (l.src f.fmt f.src0 f.imm)).leekCompleted g l (.l .mov f))) ∧
    (LeekIssues s c g l (.l .movi f) →
      exec (.movi f) s = .next ((leekWrites s g l f (widenImm f.fmt (f.imm.getD 0))).leekCompleted g l (.l .movi f))) ∧
    (LeekIssues s c g l (.l .movs f) →
      exec (.movs f) s =
        .next ((leekWrites s g l f ((leekEnvOf s c g l).special (f.imm.getD 0).toNat)).leekCompleted g l (.l .movs f))) ∧
    (LeekIssues s c g l (.l .lea f) →
      exec (.lea f) s = .next ((leekWrites s g l f
        (l.src .n64 f.src0 f.imm + (extIndex true (l.src .b32 f.src1 f.imm) <<< f.sub.toNat))).leekCompleted g l (.l .lea f))) ∧
    (∀ k, f.src2 = .k k → LeekIssues s c g l (.l .sel f) →
      exec (.sel f) s = .next ((leekWrites s g l f
        (l.src f.fmt (if l.kbit k then f.src0 else f.src1) f.imm)).leekCompleted g l (.l .sel f))) ∧
    (∀ k, f.dst = .k k → LeekIssues s c g l (.l .cmp f) →
      exec (.cmp f) s = .next ((if l.takes f.pneg f.pred then s.putLeek g
        (l.writeK k (cmpAll f.fmt f.sub.toNat (l.src f.fmt f.src0 f.imm) (l.src f.fmt f.src1 f.imm))) else s).leekCompleted
          g l (.l .cmp f))) ∧
    (∀ k, f.src2 = .k k → LeekIssues s c g l (.l .addc f) →
      let sum := carrySum (l.src f.fmt f.src0 f.imm) (l.src f.fmt f.src1 f.imm) (l.kbit k)
      exec (.addc f) s = .next ((if l.takes f.pneg f.pred then
        let l' := l.writeK k (2 ^ 32 ≤ sum)
        s.putLeek g (if f.nw then l' else l'.writeG f.dst (leekResult f.fmt (BitVec.ofNat 64 (sum % 2 ^ 32)))) else s).leekCompleted
          g l (.l .addc f)))

/-- R40, R93, R104, R106 to R109, R127, R128, R194: MOV, MOVI, MOVS, LEA, SEL, TAGGET, TAGSET and VOTE complete and write one
destination; the short ADD and MOV do what the long forms of their fields do, and take four bytes. That MOV of a pair carries the even
register's tag is the model's choice (notes/assumptions/15.md). -/
def Obligations.MovesAndTagsComplete : Prop :=
  (∀ r ∈ moveRows, r.Completes) ∧
  (tagsetRow.Completes) ∧
  (∀ (s : State) (c : Context) (g : Group) (w : Warp) (d a : Fin 256),
     (∀ imm : BitVec 6, WarpIssues s c g w (.sr .add imm a d) →
       let f := addShortForm imm a d
       readable g w false [Opnd.of (.v a) .s32] [] [.v d] →
       exec (.addShort imm a d) s = .next ((s.putWarp g w (writes w (.sr .add imm a d) f false .s32 fun l =>
         zx64 ((w.vreg a.val).lanes[l] + imm.signExtend 32))).completed c g w (.sr .add imm a d))) ∧
     (WarpIssues s c g w (.sr .mov 0 a d) →
       let f := movShortForm a d
       readable g w false [Opnd.any (.v a) .b32] [] [.v d] →
       exec (.movShort a d) s = .next ((s.putWarp g w (writes w (.sr .mov 0 a d) f false (w.vreg a.val).tag fun l =>
         zx64 ((w.vreg a.val).lanes[l]))).completed c g w (.sr .mov 0 a d))))

/-- R82, R83, R111 to R120, R125: the floating instructions complete, deliver one rounded result an element, and OR what the
executing lanes raise into FLAGS; under A = 1 each element is a permissible result (R340, R341).
Which result within R120's bound EXP2, LOG2, SIN and COS deliver is an opaque constant's choice (notes/assumptions/7.md). -/
def Obligations.FloatingInstructionsComplete : Prop :=
  (∀ p ∈ floatOps, (floatRow p).Completes) ∧
  ∀ p ∈ transOps, (transRow p).Completes

/-- R131, R133, R137 to R140: the modular instructions with one destination complete where each executing lane has a modulus, QBAD
set in FLAGS where a residue is left at or above q. With a modulus below 2 in an executing lane they write nothing and take ILLEGAL
with those lanes; with escalation and a QBAD, the QBAD fault with its lanes. -/
def Obligations.ModularInstructionsComplete : Prop :=
  (∀ p ∈ modOps, (modRow p).Completes) ∧
  (∀ p ∈ modOps, ∀ (f : LForm) (s : State) (c : Context) (g : Group) (w : Warp),
     WarpIssues s c g w (.l p.1 f) → readable g w f.a (p.2.1 f) [] [f.dst] → w.trapMode = false → c.trapBase ≠ 0 →
     let e := envOf s c g w (.l p.1 f)
     let low : Mask := maskOf fun l => if h : l < 64 then e.eff.getLsbD l && e.qAt f ⟨l, h⟩ < 2 else false
     let bad : Mask := maskOf fun l => if h : l < 64 then e.eff.getLsbD l && (modAt p f e ⟨l, h⟩).2 else false
     (low ≠ 0 → exec (p.1.toInstr f) s = .next (trapsWith s c g w (.l p.1 f) 0x01 0 low w.pc)) ∧
     (low = 0 → c.qbadEsc = true → bad ≠ 0 → exec (p.1.toInstr f) s = .next (trapsWith s c g w (.l p.1 f) 0x0D 0 bad w.pc)))

/-- R144, R145, R192 to R196: SHFL, REDLOG, SCANLOG, MATCH and LBREV complete; a dead partner delivers zero and sets SHDEAD. That SHFL
of a pair carries the even register's tag is the model's choice (notes/assumptions/15.md), and so is that the two totals of a pair
draw one value in SCANLOG under A = 1 (DESIGN CHOICE, notes/assumptions/2.md). -/
def Obligations.CrossLaneInstructionsComplete : Prop := ∀ r ∈ laneRows, r.Completes

/-! ## Instructions that write more than one register -/

namespace Sys2Proof.Says

/-- The number of the k register that a field names; 0 for another field. -/
def kOf : Reg → Fin 8
  | .k n => n
  | _ => 0

/-- What an in-place instruction leaves: SRC0's register with `b`, DST's with `a`, one shift of the latches (R142). -/
def writesBoth (w : Warp) (sh : Shape) (f : LForm) (a b : Fin 64 → W64) : Warp :=
  match f.dst, f.src0 with
  | .v da, .v db =>
    let wr (x : Fin 64 → W64) : VecWrite :=
      { eff := w.eff sh, sel := w.sel sh, kill := 0, vals := x, wide := f.fmt.wide, tag := f.fmt, a := f.a, nw := f.nw }
    ((w.writeVec db.val (wr b)).bind fun x => x.commitVec da.val (wr a)).getD w
  | _, _ => w

/-- What NPERM leaves: a lane of `low` writes SRC0's register with `b`, another lane DST's with `a`, and each keeps its other
register; one shift of the latches (R142, R143). -/
def writesSplit (w : Warp) (sh : Shape) (f : LForm) (low : Mask) (a b : Fin 64 → W64) : Warp :=
  match f.dst, f.src0 with
  | .v da, .v db =>
    let wr (m : Mask) (x : Fin 64 → W64) : VecWrite :=
      { eff := w.eff sh &&& m, sel := w.sel sh &&& m, kill := 0, vals := x, wide := f.fmt.wide, tag := f.fmt, a := f.a, nw := f.nw }
    ((w.writeVec db.val (wr low b)).bind fun x => x.commitVec da.val (wr (~~~low) a)).getD w
  | _, _ => w

/-- The helpers of a butterfly (R141) by opcode. -/
def butterflies : List (LOp × (Nat → Nat → Nat → Nat → Nat → QRes × QRes)) := [(.qbfct, qbfctR), (.qbfgs, qbfgsR)]

/-- The operands of a butterfly and what it computes in a lane. -/
def butterflyOs (f : LForm) : List Opnd := [Opnd.of f.dst .q64, Opnd.of f.src0 .q64, Opnd.of f.src1 .q64]
def butterflyAt (p : LOp × (Nat → Nat → Nat → Nat → Nat → QRes × QRes)) (f : LForm) (e : Env) (l : Fin 64) : QRes × QRes :=
  p.2 (e.qAt f l) (e.muAt f l) (e.w.src (Opnd.of f.dst .q64) f.imm l).toNat (e.w.src (Opnd.of f.src0 .q64) f.imm l).toNat
    (e.w.src (Opnd.of f.src1 .q64) f.imm l).toNat

/-- The block scales and the elements of QUANT with the lanes of `part` present (R84, R123). -/
def quantScale (f : LForm) (w : Warp) (part : Mask) (l : Fin 64) : Int :=
  let size := (f.imm.getD 1).toNat
  let s := (w.streamFmt f.src0).getD .f32
  blockScale (ffmtOf f.fmt) ((List.range size).flatMap fun i =>
    let j := l.val / size * size + i
    if h : j < 64 then (if part.getLsbD j then w.quantEls s f ⟨j, h⟩ else []) else [])
def quantAt (f : LForm) (e : Env) (l : Fin 64) : W64 × Byte :=
  let s := (e.w.streamFmt f.src0).getD .f32
  gather f.fmt fun j => match (if e.eff.getLsbD l then e.w.quantEls s f l else [])[j]? with
    | some x => (ffmtOf f.fmt).scaled x (quantScale f e.w e.eff l) (Rm.of f.sub.toNat) e.ovft
    | none => (0, 0)

end Sys2Proof.Says

/-- R94, R105, R126, R129, R136: ADDC writes the sum and the carry of the executing lanes; PLOG a k register through its truth table;
ENDORSE copies a value bit for bit into a precise register; RAND advances the executing lanes' states once; QSET writes the
modulus and constant of the executing lanes, each from 2 up to 2^62. -/
def Obligations.PairedWritesComplete : Prop :=
  ∀ (f : LForm) (s : State) (c : Context) (g : Group) (w : Warp),
    (∀ k, f.src2 = .k k → WarpIssues s c g w (.l .addc f) →
      readable g w f.a [Opnd.of f.src0 f.fmt, Opnd.of f.src1 f.fmt] [] [f.dst] →
      let sum (l : Fin 64) : Nat := carrySum (w.src (Opnd.of f.src0 f.fmt) f.imm l) (w.src (Opnd.of f.src1 f.fmt) f.imm l)
        ((w.kmask k).getLsbD l)
      exec (.addc f) s = .next ((s.putWarp g w (writesIn
        (w.writeK k (w.eff (.l .addc f)) (maskOf fun l => if h : l < 64 then 2 ^ 32 ≤ sum ⟨l, h⟩ else false))
        (w.eff (.l .addc f)) (w.sel (.l .addc f)) 0 f f.fmt.wide f.fmt
        fun l => BitVec.ofNat 64 (sum l % 2 ^ 32))).completed c g w (.l .addc f))) ∧
    (∀ d a b, f.dst = .k d → f.src0 = .k a → f.src1 = .k b → WarpIssues s c g w (.l .plog f) →
      exec (.plog f) s = .next ((s.putWarp g w (w.writeK d (w.eff (.l .plog f)) (maskOf fun l =>
        f.sub.getLsbD (2 * ((w.kmask a).getLsbD l).toNat + ((w.kmask b).getLsbD l).toNat)))).completed c g w (.l .plog f))) ∧
    (∀ d : Fin 256, f.dst = .v d → WarpIssues s c g w (.l .endorse f) → w.bad = [] →
      w.tagBad (Opnd.of f.src0 f.fmt) = false → d.val < g.desc.apxFrom → w.latchBad f.src0 = false →
      exec (.endorse f) s = .next ((s.putWarp g w (writes w (.l .endorse f) f false f.fmt fun l =>
        w.src (Opnd.of f.src0 f.fmt) f.imm l)).completed c g w (.l .endorse f))) ∧
    (WarpIssues s c g w (.l .rand f) → readable g w f.a [] [] [f.dst] →
      exec (.rand f) s = .next ((s.putWarp g w (writes
        { w with rng := mkLanes fun l => if (w.eff (.l .rand f)).getLsbD l then rngNext (w.rng[l]) else w.rng[l] }
        (.l .rand f) f f.fmt.wide f.fmt fun l => rngOut f.fmt (rngNext (w.rng[l])))).completed c g w (.l .rand f))) ∧
    (WarpIssues s c g w (.l .qset f) → readable g w f.a [Opnd.of f.src0 .n64, Opnd.of f.src1 .n64] [] [] →
      let q (l : Fin 64) : W64 := w.src (Opnd.of f.src0 .n64) f.imm l
      let m (l : Fin 64) : W64 := w.src (Opnd.of f.src1 .n64) f.imm l
      (∀ l : Fin 64, (w.eff (.l .qset f)).getLsbD l → 2 ≤ (q l).toNat ∧ (q l).toNat < 2 ^ 62) →
      exec (.qset f) s = .next ((s.putWarp g w { w with
        qm := w.qm.set (modNo f) (mkLanes fun l => if (w.eff (.l .qset f)).getLsbD l then q l else (w.qm[modNo f])[l])
        qb := w.qb.set (modNo f) (mkLanes fun l => if (w.eff (.l .qset f)).getLsbD l then m l else (w.qb[modNo f])[l])
        }).completed c g w (.l .qset f)))

/-- R141 to R143, R145: the butterflies and NPERM complete from the values held at issue, and shift the latches once. A butterfly
writes both registers; it needs a modulus of at least 2 in each executing lane and, under escalation, no QBAD. NPERM writes one of
them in a lane, its partner's element of the other register, and leaves the lane's other register. That a selected dead lane, or a
killed one, takes its zero only in the register that the lane would write is the model's choice (DESIGN CHOICE, R18 beside R142 and
R145, notes/assumptions/12.md). -/
def Obligations.InPlaceInstructionsComplete : Prop :=
  ∀ (f : LForm) (s : State) (c : Context) (g : Group) (w : Warp),
    (∀ p ∈ butterflies, WarpIssues s c g w (.l p.1 f) → readable g w f.a (butterflyOs f) [] [f.dst, f.src0] →
      (∃ a b, f.dst = .v a ∧ f.src0 = .v b) →
      let e := envOf s c g w (.l p.1 f)
      let r := butterflyAt p f e
      (∀ l : Fin 64, e.eff.getLsbD l → 2 ≤ e.qAt f l ∧ (c.qbadEsc → (r l).1.2 = false ∧ (r l).2.2 = false)) →
      exec (p.1.toInstr f) s = .next ((s.putWarp g w ((writesBoth w (.l p.1 f) f (fun l => BitVec.ofNat 64 (r l).1.1)
        fun l => BitVec.ofNat 64 (r l).2.1).setFlags (orFlags e.eff (mkLanes fun l =>
          (0, if (r l).1.2 || (r l).2.2 then flagQBAD else 0))))).completed c g w (.l p.1 f))) ∧
    (WarpIssues s c g w (.l .nperm f) → readable g w f.a [Opnd.of f.dst f.fmt, Opnd.of f.src0 f.fmt] [] [f.dst, f.src0] →
      (∃ a b, f.dst = .v a ∧ f.src0 = .v b) →
      let dd := 64 >>> f.sub.toNat
      let far (r : Reg) (l : Fin 64) : W64 :=
        if w.dead.getLsbD (laneXor l dd) then 0 else w.src (Opnd.of r f.fmt) f.imm (laneXor l dd)
      exec (.nperm f) s = .next ((s.putWarp g w ((writesSplit w (.l .nperm f) f (maskOf fun i => i &&& dd == 0) (far f.src0)
        (far f.dst)).setFlags (orFlags (w.eff (.l .nperm f)) (mkLanes fun l =>
          (0, if w.dead.getLsbD (laneXor l dd) then flagSHDEAD else 0))))).completed c g w (.l .nperm f)))

/-- R84, R117, R118, R121 to R124: CVT, SCALEB, FCMP and FCLASS complete and write one destination. QUANT completes, writes each block's
power-of-two scale into the register after its destination and the four codes of each executing lane into its destination, and
raises the flags of the executing lanes. That both registers receive zero in the selected dead lanes is the model's choice
(notes/assumptions/12.md). -/
def Obligations.ConversionsAndClassesComplete : Prop :=
  (∀ r ∈ conversionRows, r.Completes) ∧
  (∀ (f : LForm) (s : State) (c : Context) (g : Group) (w : Warp) (d : Fin 256), WarpIssues s c g w (.l .quant f) →
     f.dst = .v d → w.streamTag quantTakes f = false →
     readable g w f.a (streamOs ((w.streamFmt f.src0).getD .f32) f) [] [f.dst] →
     let e := envOf s c g w (.l .quant f)
     let wr (t : Fmt) (v : Fin 64 → W64) : VecWrite :=
       { eff := e.eff, sel := e.sel, kill := 0, vals := v, wide := false, tag := t, a := false, nw := f.nw }
     ∃ w1 w2, w.writeVec (d.val + 1) (wr .f32 fun l => zx64 (f32Pow (quantScale f w e.eff l))) = some w1 ∧
       w1.commitVec d.val (wr f.fmt fun l => (quantAt f e l).1) = some w2 ∧
       exec (.quant f) s = .next ((s.putWarp g w (w2.setFlags (orFlags e.eff (mkLanes (quantAt f e))))).completed c g w (.l .quant f)))

/-! ## What a destination receives -/

/-- R14, R18, R46, R47: a vector destination receives the results in the executing lanes, zero in the selected dead lanes, and keeps
its other lanes; its tag changes where some lane executes; under NW no register changes. The latches shift once, and nothing
else of the warp changes. -/
def Obligations.VectorDestinationsReceiveTheirLanes : Prop :=
  ∀ (w w' : Warp) (n : Nat) (x : VecWrite), w.spec = none → n < 256 → (x.wide = true → n + 1 < 256) → w.commitVec n x = some w' →
    w' = { w with v := w'.v, latches := w'.latches, bad := w'.bad } ∧
    (x.nw = true → w'.v = w.v) ∧
    (∀ k, k ≠ n → (x.wide = true → k ≠ n + 1) → w'.vreg k = w.vreg k) ∧
    (x.nw = false → (w'.vreg n).tag = (if x.eff = 0 then (w.vreg n).tag else x.tag) ∧
      (∀ l : Fin 64, (w'.vreg n).lanes[l] =
        if x.eff.getLsbD l && !x.kill.getLsbD l then lo32 (x.vals l)
        else if x.sel.getLsbD l && (w.dead.getLsbD l || x.kill.getLsbD l) then 0 else (w.vreg n).lanes[l]) ∧
      (x.wide = true → ∀ l : Fin 64, (w'.vreg (n + 1)).lanes[l] =
        if x.eff.getLsbD l && !x.kill.getLsbD l then hi32 (x.vals l)
        else if x.sel.getLsbD l && (w.dead.getLsbD l || x.kill.getLsbD l) then 0 else (w.vreg (n + 1)).lanes[l])) ∧
    (∃ r : Latch, w'.latches = #v[some r, w.latches[0], w.latches[1], w.latches[2]] ∧ r.wide = x.wide ∧ r.apx = x.a ∧
      ∀ l : Fin 64, x.eff.getLsbD l = true → x.kill.getLsbD l = false →
        r.lanes[l] = if x.wide then x.vals l else zx64 (lo32 (x.vals l)))

/-- R18, R308: the lanes in which an operand of an integer instruction holds an uncorrectable error write zero and are killed at the
end of the instruction; a lane that was dead makes no event. -/
def Obligations.ErrorsInOperandsKillTheirLanes : Prop :=
  ∀ p ∈ intOps, ∀ (f : LForm) (s : State) (c : Context) (g : Group) (w : Warp), WarpIssues s c g w (.l p.1 f) →
    w.operandFault g.desc.apxFrom f.a (p.2.os f) [] [f.dst] = none →
    let e := envOf s c g w (.l p.1 f)
    let kills := w.operandKills (p.2.os f) e.eff
    exec (p.1.toInstr f) s = .next (((s.putWarp g w (writesIn w e.eff e.sel kills.1 f f.fmt.wide f.fmt (intValue p.2 f w))).killLanes
        c g w kills.1 kills.2 0).completed c g w (.l p.1 f)) ∧
      (kills.1 &&& ~~~w.dead = 0 → ∀ t : State, t.killLanes c g w kills.1 kills.2 0 = t)

/-! ## Values -/

/-- R90, R93, R95, R98 to R101: ADD, SUB, MUL and MAD are taken modulo 2^w an element, MULH is the high half of the exact product whose
low half is MUL; with SUB 1, ADD and SUB are limited to the range of their format. On 32-bit elements the shifts are those of a
32-bit word, with 0 or the sign at counts from 32 on, and ROT rotates by the count modulo 32. BREV moves bit i of an element to bit
w - 1 - i; FFS and CLZ give the place of the lowest and highest set bit, w where there is none; BFI followed by BFX at one control
word gives back the field inserted. -/
def Obligations.IntegerValuesAreThoseOfTheirRules : Prop :=
  (∀ (f : LForm) (a b c : W64) (j : Nat), j < (elemOf f.fmt).2 →
     let w := (elemOf f.fmt).1
     let at' (x : W64) : Nat := el f.fmt x j
     let int (x : W64) : Int := elInt f.fmt (el f.fmt x j)
     (f.sub ≠ 1 → at' (opAdd.value f a b c) = (at' a + at' b) % 2 ^ w) ∧
     (f.sub ≠ 1 → at' (opSub.value f a b c) = (at' a + (2 ^ w - at' b)) % 2 ^ w) ∧
     (f.sub = 1 → int (opAdd.value f a b c) = min (max (int a + int b) (minOf f.fmt)) (maxOf f.fmt)) ∧
     (f.sub = 1 → int (opSub.value f a b c) = min (max (int a - int b) (minOf f.fmt)) (maxOf f.fmt)) ∧
     at' (opMul.value f a b c) = (at' a * at' b) % 2 ^ w ∧
     at' (opMad.value f a b c) = (at' a * at' b + at' c) % 2 ^ w ∧
     int a * int b = 2 ^ w * int (opMulh.value f a b c) + at' (opMul.value f a b c)) ∧
  (∀ (f : LForm) (a n c : W64), elemOf f.fmt = (32, 1) →
     lo32 (opShl.value f a n c) = lo32 a <<< (lo32 n).toNat ∧
     lo32 (opShr.value f a n c) = lo32 a >>> (lo32 n).toNat ∧
     lo32 (opSar.value f a n c) = (lo32 a).sshiftRight (lo32 n).toNat ∧
     lo32 (opRot.value f a n c) = (lo32 a).rotateLeft ((lo32 n).toNat % 32)) ∧
  (∀ (f : LForm) (a b c : W64) (j : Nat), j < (elemOf f.fmt).2 →
     let w := (elemOf f.fmt).1
     let x := el f.fmt a j
     (∀ i, i < w → (el f.fmt (opBrev.value f a b c) j).testBit i = x.testBit (w - 1 - i)) ∧
     (x = 0 → el f.fmt (opFfs.value f a b c) j = w ∧ el f.fmt (opClz.value f a b c) j = w) ∧
     (x ≠ 0 → let n := el f.fmt (opFfs.value f a b c) j
       n < w ∧ x.testBit n = true ∧ ∀ i, i < n → x.testBit i = false) ∧
     (x ≠ 0 → let n := el f.fmt (opClz.value f a b c) j
       n < w ∧ 2 ^ (w - 1 - n) ≤ x ∧ x < 2 ^ (w - n)) ∧
     ((elemOf f.fmt).2 = 1 → f.fmt.isSigned = false →
       opBfx.value f (opBfi.value f a b c) b 0 = BitVec.ofNat 64 (bitsOf a.toNat 0 (bfCtl w b).2)))

/-- R70, R72, R75, R79, R82, R86, R115, R119: `round` gives every code that is no NaN back, with no flag, in every format and mode; a
NaN becomes the canonical one, and 0 with NANZ in E2M1. A NaN operand gives the canonical NaN and raises nothing; infinity minus
infinity, zero times infinity and the root of a negative number give it with INV; the reciprocal of a zero is an infinity with DZ. -/
def Obligations.RoundingAndSpecialOperandsAreCanonical : Prop :=
  (∀ (f : FFmt) (code : Nat) (rm : Rm) (ovft : BitVec 16), code < 2 ^ f.width →
    ((f.decode code).isNan = false → f.round (f.decode code) rm ovft = (code, 0)) ∧
    f.round .nan rm ovft = if f = .e2m1 then (0, flagNANZ) else (f.canon, 0)) ∧
  ∀ (f : FFmt) (a b d : Nat) (rm : Rm) (ovft : BitVec 16), f ≠ .e2m1 →
    ((f.decode a).isNan ∨ (f.decode b).isNan →
      f.addC a b rm ovft = (f.canon, 0) ∧ f.subC a b rm ovft = (f.canon, 0) ∧ f.mulC a b rm ovft = (f.canon, 0) ∧
      f.fmaC a b d rm ovft = (f.canon, 0) ∧ f.minC a b = f.canon ∧ f.maxC a b = f.canon) ∧
    (∀ n, f.decode a = .inf n → f.decode b = .inf (!n) → f.addC a b rm ovft = (f.canon, flagINV)) ∧
    (∀ n m e, f.decode a = .inf n → f.decode b = .fin m 0 e → (f.decode d).isNan = false →
      f.mulC a b rm ovft = (f.canon, flagINV) ∧ f.fmaC a b d rm ovft = (f.canon, flagINV)) ∧
    (∀ m e, f.decode a = .fin true m e → m ≠ 0 → f.sqrtC a rm ovft = (f.canon, flagINV)) ∧
    (∀ n e, f.decode a = .fin n 0 e → f.rcpC a ovft = (f.infCode n, flagDZ))

/-- R135, R137, R139, R141: with the Barrett constant of its modulus, `qred128` gives x mod q exactly and no QBAD for every x below
q 2^bq; the sum, difference and butterflies of residues below q are the residues that arithmetic modulo q gives. -/
def Obligations.ModularReductionIsExact : Prop :=
  ∀ q m : Nat, 2 ≤ q → q < 2 ^ 62 → m = 2 ^ (2 * bitLen q) / q →
    (∀ x, x < q * 2 ^ bitLen q → qred128 q m x = (x % q, false)) ∧
    ∀ a b w, a < q → b < q → w < q →
      qred128 q m (a * b) = (a * b % q, false) ∧ qred128 q m (a * b + w) = ((a * b + w) % q, false) ∧
      qaddR q a b = ((a + b) % q, false) ∧ qsubR q a b = ((a + (q - b)) % q, false) ∧
      qbfctR q m a b w = (((a + b * w % q) % q, false), ((a + (q - b * w % q)) % q, false)) ∧
      qbfgsR q m a b w = (((a + b) % q, false), ((a + (q - b)) % q * w % q, false))

/-! ## Control flow -/

namespace Sys2Proof.Says

/-- The machine `t` once a control instruction of warp `w` is complete: counted, its words and stack bytes hashed, the warp at `pc`,
its latches invalid where that is not the next instruction (R49, R54, R257). -/
def flowsTo (t : State) (c : Context) (g : Group) (w : Warp) (sh : Shape) (pc : W64) (marks : List Byte) : State :=
  let next := w.pc + BitVec.ofNat 64 (4 * sh.encode.length)
  let t := if pc = next then t else t.mapWarp g.uid w.id Warp.dropLatches
  (t.perfAdd c.id 0 1).mapWarp g.uid w.id fun x => x.retire (issueOf sh w) pc marks

/-- The instruction after one of a shape. -/
def nextOf (w : Warp) (sh : Shape) : W64 := w.pc + BitVec.ofNat 64 (4 * sh.encode.length)
def leekNextOf (l : Leek) (sh : Shape) : W64 := l.pc + BitVec.ofNat 64 (4 * sh.encode.length)

/-- The live lanes that take a transfer, and whether all of them do: none where they differ (R179). With no live lane, an
unconditional transfer goes. -/
def takers (w : Warp) (pneg : Bool) (pred : Fin 8) : Mask := live w &&& w.predMask pneg pred
def goes (w : Warp) (pneg : Bool) (pred : Fin 8) : Option Bool :=
  if live w = 0 then some (pred = 0 && !pneg)
  else if takers w pneg pred = live w then some true
  else if takers w pneg pred = 0 then some false
  else none

/-- What BRA in either form does (R179): `i` is the instruction, `sh` its shape, `u` whether it must be uniform. -/
def branches (i : Instr) (sh : Shape) (target : W64) (u pneg : Bool) (pred : Fin 8) (s : State) (c : Context) (g : Group)
    (w : Warp) : Prop :=
  (∀ go, goes w pneg pred = some go → exec i s = .next (flowsTo s c g w sh (if go then target else nextOf w sh) [])) ∧
  (goes w pneg pred = none → u = false → w.join.length < 32 →
    exec i s = .next (flowsTo (s.putWarp g w { w with
      exec := w.exec &&& ~~~(takers w pneg pred), join := .path target (takers w pneg pred) :: w.join })
      c g w sh (nextOf w sh) [0x01])) ∧
  (w.trapMode = false → c.trapBase ≠ 0 → goes w pneg pred = none →
    (u = true → exec i s = .next (trapsWith s c g w sh 0x01 0 (takers w pneg pred) w.pc)) ∧
    (u = false → 32 ≤ w.join.length → exec i s = .next (trapsWith s c g w sh 0x09 0 (live w) w.pc)))

/-- What a uniform transfer does (R180): `link` says whether it writes s14 and s15. -/
def transfers (i : Instr) (sh : Shape) (target : W64) (link pneg : Bool) (pred : Fin 8) (s : State) (c : Context) (g : Group)
    (w : Warp) : Prop :=
  (goes w pneg pred = some true → target.toNat % 4 = 0 → w.bad = [] →
    exec i s = .next (flowsTo (s.putWarp g w (if link then w.writeS 14 true (w.pc + 8) else w)) c g w sh target [])) ∧
  (goes w pneg pred = some false → exec i s = .next (flowsTo s c g w sh (w.pc + 8) [])) ∧
  (w.trapMode = false → c.trapBase ≠ 0 →
    (goes w pneg pred = none → exec i s = .next (trapsWith s c g w sh 0x01 0 (takers w pneg pred) w.pc)) ∧
    (goes w pneg pred = some true → target.toNat % 4 ≠ 0 → exec i s = .next (trapsWith s c g w sh 0x07 target (live w) w.pc)))

/-- What a transfer does on the Leek core (R181): the link is g31. -/
def leekTransfers (i : Instr) (target : W64) (link pneg : Bool) (pred : Fin 8) (s : State) (g : Group) (l : Leek) : Prop :=
  (l.takes pneg pred = true → target.toNat % 4 = 0 →
    exec i s = .next ((if link then s.putLeek g { l with g := l.g.set 31 (l.pc + 8) } else s).retireLeek g target)) ∧
  (l.takes pneg pred = false → exec i s = .next (s.retireLeek g (l.pc + 8)))

/-- What MARK in either form does (R182). -/
def marks (i : Instr) (sh : Shape) (target : W64) (s : State) (c : Context) (g : Group) (w : Warp) : Prop :=
  (w.join.length < 32 → exec i s = .next (flowsTo
    (s.putWarp g w { w with join := .rejoin target w.exec :: w.join }) c g w sh (nextOf w sh) [0x01])) ∧
  (32 ≤ w.join.length → w.trapMode = false → c.trapBase ≠ 0 → exec i s = .next (trapsWith s c g w sh 0x09 0 (live w) w.pc))

/-- What JOIN in either form does (R183). -/
def joins (i : Instr) (sh : Shape) (s : State) (c : Context) (g : Group) (w : Warp) : Prop :=
  (∀ x rest, w.join = x :: rest → exec i s = .next (flowsTo
    (s.putWarp g w { w with exec := x.mask, join := rest, latches := Vector.replicate 4 none }) c g w sh x.addr [0x02])) ∧
  (w.join = [] → w.trapMode = false → c.trapBase ≠ 0 → exec i s = .next (trapsWith s c g w sh 0x09 0 (live w) w.pc))

/-- What EXIT in either form does (R184, R185): its lanes leave EXEC and every entry; entries pop while no live lane remains; with
none left the warp ends. -/
def exits (i : Instr) (sh : Shape) (pneg : Bool) (pred : Fin 8) (s : State) (c : Context) (g : Group) (w : Warp) : Prop :=
  let x := takers w pneg pred
  let r := unwind w.dead (w.exec &&& ~~~x) (nextOf w sh) (w.join.map (JoinEntry.without x))
  (∀ exec' pc join', r.2 = some (exec', pc, join') → exec i s = .next (flowsTo
    (s.putWarp g w { w with exec := exec', join := join' }) c g w sh pc (List.replicate r.1 0x02))) ∧
  (r.2 = none → exec i s = .next (State.endWarp (flowsTo (s.putWarp g w { w with exec := 0, join := [] }) c g w sh (nextOf w sh)
    (List.replicate r.1 0x02)) g w.id w.pc))

end Sys2Proof.Says

/-- R42, R179, R181: BRA in both forms goes where its live lanes agree; where they differ it pushes a path entry and the other lanes
go on, is ILLEGAL with U, and JOINOVF with a full stack; that JOINOVF names all live lanes, and not those that branch, is the
model's choice (notes/assumptions/34.md). A Leek thread goes where its predicate holds. -/
def Obligations.BranchesGoWhereLanesAgree : Prop :=
  (∀ (f : BForm) (s : State) (c : Context) (g : Group) (w : Warp), WarpIssues s c g w (.b .bra f) →
    branches (.bra f) (.b .bra f) (w.pc + (f.offset.signExtend 64 <<< 2)) f.u f.pneg f.pred s c g w) ∧
  (∀ (off : BitVec 18) (pneg : Bool) (pred : Fin 8) (s : State) (c : Context) (g : Group) (w : Warp),
    WarpIssues s c g w (.sb .bra off pneg pred) →
    branches (.braShort off pneg pred) (.sb .bra off pneg pred) (w.pc + (off.signExtend 64 <<< 2)) false pneg pred s c g w) ∧
  (∀ (f : BForm) (s : State) (c : Context) (g : Group) (l : Leek), LeekIssues s c g l (.b .bra f) →
    exec (.bra f) s = .next (s.retireLeek g
      (if l.takes f.pneg f.pred then l.pc + (f.offset.signExtend 64 <<< 2) else l.pc + 8))) ∧
  ∀ (off : BitVec 18) (pneg : Bool) (pred : Fin 8) (s : State) (c : Context) (g : Group) (l : Leek),
    LeekIssues s c g l (.sb .bra off pneg pred) →
    exec (.braShort off pneg pred) s = .next (s.retireLeek g
      (if l.takes pneg pred then l.pc + (off.signExtend 64 <<< 2) else l.pc + 4))

/-- R180, R181: BRX, CALL, CALLX and RET go to their target where every live lane agrees, CALL and CALLX writing the link where they
go; they are ILLEGAL where the live lanes differ and MISALIGN where they would go to a misaligned target. -/
def Obligations.TransfersAreUniform : Prop :=
  ∀ (s : State) (c : Context) (g : Group) (w : Warp) (l : Leek),
    (∀ f, WarpIssues s c g w (.l .brx f) →
      transfers (.brx f) (.l .brx f) (w.uni f.src0 none .n64) false f.pneg f.pred s c g w) ∧
    (∀ f, WarpIssues s c g w (.l .callx f) →
      transfers (.callx f) (.l .callx f) (w.uni f.src0 none .n64) true f.pneg f.pred s c g w) ∧
    (∀ f, WarpIssues s c g w (.b .call f) →
      transfers (.call f) (.b .call f) (w.pc + (f.offset.signExtend 64 <<< 2)) true f.pneg f.pred s c g w) ∧
    (∀ f, WarpIssues s c g w (.b .ret f) → transfers (.ret f) (.b .ret f) (w.spair 14) false f.pneg f.pred s c g w) ∧
    (∀ f, LeekIssues s c g l (.l .brx f) → leekTransfers (.brx f) (l.src .n64 f.src0 none) false f.pneg f.pred s g l) ∧
    (∀ f, LeekIssues s c g l (.l .callx f) → leekTransfers (.callx f) (l.src .n64 f.src0 none) true f.pneg f.pred s g l) ∧
    (∀ f, LeekIssues s c g l (.b .call f) →
      leekTransfers (.call f) (l.pc + (f.offset.signExtend 64 <<< 2)) true f.pneg f.pred s g l) ∧
    (∀ f, LeekIssues s c g l (.b .ret f) → leekTransfers (.ret f) (l.g[(31 : Fin 32)]) false f.pneg f.pred s g l)

/-- R182 to R185: MARK pushes a rejoin entry, JOIN pops one and takes its mask and address, EXIT ends its lanes, and the warp with its
last live lane; each in both forms. JOINOVF at a full or an empty stack. -/
def Obligations.JoinStackInstructionsComplete : Prop :=
  ∀ (s : State) (c : Context) (g : Group) (w : Warp),
    (∀ f, WarpIssues s c g w (.b .mark f) → marks (.mark f) (.b .mark f) (w.pc + (f.offset.signExtend 64 <<< 2)) s c g w) ∧
    (∀ off : BitVec 18, WarpIssues s c g w (.sb .mark off false 0) →
      marks (.markShort off) (.sb .mark off false 0) (w.pc + (off.signExtend 64 <<< 2)) s c g w) ∧
    (∀ f, WarpIssues s c g w (.b .join f) → joins (.join f) (.b .join f) s c g w) ∧
    (WarpIssues s c g w (.sb .join 0 false 0) → joins .joinShort (.sb .join 0 false 0) s c g w) ∧
    (∀ f, WarpIssues s c g w (.b .exit f) → exits (.exit f) (.b .exit f) f.pneg f.pred s c g w) ∧
    (∀ pneg pred, WarpIssues s c g w (.sb .exit 0 pneg pred) →
      exits (.exitShort pneg pred) (.sb .exit 0 pneg pred) pneg pred s c g w)

/-- R187 to R191: NOP in both forms ignores its predicate and BLKEND makes only its check: each changes nothing but the warp's place,
count and hash. BRK does the same with no debugger attached or no executing lane, else it also halts the warp. GETX writes EXEC
whatever its predicate, SETX sets it, from a k register, a pair or zero. SPIN gives spinning status for 256 x c slice cycles and
SLEEP rests for d cluster cycles, or yields once at 0; SPIN_END and SLEEP_END end that when the time has passed. -/
def Obligations.FillersMasksAndRestsComplete : Prop :=
  (∀ (s : State) (c : Context) (g : Group) (w : Warp) (l : Leek),
     (∀ f, WarpIssues s c g w (.l .nop f) → exec (.nop f) s = .next (s.completed c g w (.l .nop f))) ∧
     (WarpIssues s c g w (.sb .nop 0 false 0) → exec .nopShort s = .next (s.completed c g w (.sb .nop 0 false 0))) ∧
     (∀ f, WarpIssues s c g w (.b .blkend f) → exec (.blkend f) s = .next (s.completed c g w (.b .blkend f))) ∧
     (∀ f, LeekIssues s c g l (.l .nop f) → exec (.nop f) s = .next (s.leekCompleted g l (.l .nop f))) ∧
     (LeekIssues s c g l (.sb .nop 0 false 0) → exec .nopShort s = .next (s.leekCompleted g l (.sb .nop 0 false 0))) ∧
     (∀ f, WarpIssues s c g w (.l .brk f) → exec (.brk f) s = .next
       ((if c.debug && w.eff (.l .brk f) != 0 then s.putWarp g w { w with halted := true } else s).completed c g w (.l .brk f)))) ∧
  (∀ (f : LForm) (s : State) (c : Context) (g : Group) (w : Warp),
     (∀ n, f.dst = .k n → WarpIssues s c g w (.l .getx f) → exec (.getx f) s =
       .next ((s.putWarp g w (w.writeK n (BitVec.allOnes 64) w.exec)).completed c g w (.l .getx f))) ∧
     (∀ n, f.dst = .s n → WarpIssues s c g w (.l .getx f) → exec (.getx f) s =
       .next ((s.putWarp g w (w.writeS n.val true w.exec)).completed c g w (.l .getx f))) ∧
     (∀ n, f.src0 = .k n → WarpIssues s c g w (.l .setx f) → exec (.setx f) s =
       .next ((s.putWarp g w { w with exec := w.kmask n }).completed c g w (.l .setx f))) ∧
     ((∃ n, f.src0 = .s n) ∨ f.src0 = .zero → w.bad = [] → WarpIssues s c g w (.l .setx f) → exec (.setx f) s =
       .next ((s.putWarp g w { w with exec := w.uni f.src0 none .n64 }).completed c g w (.l .setx f))) ∧
     (WarpIssues s c g w (.l .spin f) → exec (.spin f) s = .next ((if w.eff (.l .spin f) = 0 then s else s.putWarp g w
       { w with spinUntil := s.sliceCycles g.cluster w.slice + 256 * (f.imm.getD 1).toNat }).completed c g w (.l .spin f))) ∧
     (WarpIssues s c g w (.l .sleep f) → w.bad = [] →
       let d := (w.uni f.src0 f.imm .n32).toNat % 2 ^ 32
       (w.eff (.l .sleep f) = 0 → exec (.sleep f) s = .next (s.completed c g w (.l .sleep f))) ∧
       (w.eff (.l .sleep f) ≠ 0 → d = 0 → exec (.sleep f) s =
         .next ((s.mapWarp g.uid w.id fun x => { x with yield := true }).completed c g w (.l .sleep f))) ∧
       (w.eff (.l .sleep f) ≠ 0 → d ≠ 0 → exec (.sleep f) s =
         .next ((s.completed c g w (.l .sleep f)).setWait (.warp g.uid w.id) (.sleep (s.clock + d)))))) ∧
  (∀ (s : State) (u k : Nat) (g : Group), s.group? u = some g →
     exec (.spinEnd u k) s = .next (s.mapWarp u k fun w =>
       if w.spinUntil ≤ s.sliceCycles g.cluster w.slice then { w with spinUntil := 0 } else w) ∧
     exec (.sleepEnd u k) s = .next (s.mapWarp u k fun w => match w.wait with
       | .sleep t => if t ≤ s.clock then { w with wait := .ready } else w
       | _ => w))

namespace Sys2Proof.Says

/-- A warp outside trap mode issues an allowed instruction whose check value is not its SIGW (R55). -/
structure Mismatch (s : State) (c : Context) (g : Group) (w : Warp) (sh : Shape) : Prop where
  issuer : s.issuer = some (.warp c g w)
  calm   : w.spec = none
  legal  : sh.legal false g.desc.vcount g.desc.scount = true
  mode   : sh.modeOk false c.system = true
  normal : w.trapMode = false
  value  : sh.sig16 ≠ 0
  wrong  : w.sigw ≠ sh.sig16

/-- The machine `t` once an instruction that would go to `pc` has killed its warp: a record of kind 0x02 with both values, PWARPS,
the fault of the end event, and the warp ended (R55, R297, R400). -/
def killedBy (t : State) (c : Context) (g : Group) (w : Warp) (sh : Shape) (pc : W64) : State :=
  let t := if pc = nextOf w sh then t else t.mapWarp g.uid w.id Warp.dropLatches
  let t := (t.perfAdd c.id 0 1).putRec c.id
    { kind := 0x02, cluster := g.cluster, agent := w.slice, warp := w.id, pc := w.pc, addr := 0, lanes := live w, pod := g.podAddr
      word5 := pair64 (BitVec.ofNat 32 (sh.sig16.toNat * 2 ^ 16 + w.sigw.toNat)) w.tsw }
  State.endWarp ((t.mapCount (partOf c.id) fun k => { k with warps := k.warps + 1 }).mapGroup g.uid fun g => { g with fault := true })
    g w.id w.pc

/-- The machine `t` once an instruction with nothing else to do is complete, and SIGW is `sig` of the warp. -/
def stepsOver (t : State) (c : Context) (g : Group) (w : Warp) (sh : Shape) (sig : Warp → BitVec 16) : State :=
  (t.perfAdd c.id 0 1).mapWarp g.uid w.id fun x =>
    { x with sigw := if x.trapMode then x.sigw else sig x, pc := nextOf w sh, rep := none, wait := .ready, progress := none }

/-- The bytes of a shape's words, in ascending order. -/
def wordBytes (sh : Shape) : List Byte := sh.encode.flatMap fun w => toBytesLE 4 w.toNat

end Sys2Proof.Says

/-- R54, R55, R257: the words of an instruction without a check value are hashed into SIGW when it completes; after one with a check
value SIGW is the seed; stack bytes follow, and in trap mode SIGW does not move: what `completed` and `flowsTo` do to a warp in the
statements of every instruction, said outright of NOP and BLKEND. An instruction of form B whose check value differs from SIGW
kills its warp when it completes, wherever it would have gone: BLKEND, BRA, CALL, RET, MARK, JOIN and EXIT. That LANES of its record
is EXEC and not DEAD is the model's choice (DESIGN CHOICE, notes/assumptions/34.md). -/
def Obligations.SignaturesAreChecked : Prop :=
  (∀ (w x : Warp) (sh : Shape) (pc : W64) (m : List Byte), x.retire (issueOf sh w) pc m =
     { x with
       sigw := if x.trapMode then x.sigw
         else crcBytes (if sh.sig16 = 0 then crcBytes x.sigw (wordBytes sh) else x.seed) m
       pc := pc, rep := none, wait := .ready, progress := none }) ∧
  (∀ (s : State) (c : Context) (g : Group) (w : Warp),
     (∀ f, WarpIssues s c g w (.l .nop f) → exec (.nop f) s =
       .next (stepsOver s c g w (.l .nop f) fun x => crcBytes x.sigw (wordBytes (.l .nop f)))) ∧
     (WarpIssues s c g w (.sb .nop 0 false 0) → exec .nopShort s =
       .next (stepsOver s c g w (.sb .nop 0 false 0) fun x => crcBytes x.sigw (wordBytes (.sb .nop 0 false 0)))) ∧
     (∀ f, f.sig16 = 0 → WarpIssues s c g w (.b .blkend f) → exec (.blkend f) s =
       .next (stepsOver s c g w (.b .blkend f) fun x => crcBytes x.sigw (wordBytes (.b .blkend f)))) ∧
     (∀ f, f.sig16 ≠ 0 → w.sigw = f.sig16 → WarpIssues s c g w (.b .blkend f) → exec (.blkend f) s =
       .next (stepsOver s c g w (.b .blkend f) Warp.seed))) ∧
  (∀ (f : BForm) (s : State) (c : Context) (g : Group) (w : Warp),
     let there : W64 := w.pc + (f.offset.signExtend 64 <<< 2)
     (Mismatch s c g w (.b .blkend f) → exec (.blkend f) s = .next (killedBy s c g w (.b .blkend f) (w.pc + 8))) ∧
     (∀ go, Mismatch s c g w (.b .bra f) → goes w f.pneg f.pred = some go →
       exec (.bra f) s = .next (killedBy s c g w (.b .bra f) (if go then there else w.pc + 8))) ∧
     (Mismatch s c g w (.b .bra f) → goes w f.pneg f.pred = none → f.u = false → w.join.length < 32 →
       exec (.bra f) s = .next (killedBy (s.putWarp g w { w with
         exec := w.exec &&& ~~~(takers w f.pneg f.pred), join := .path there (takers w f.pneg f.pred) :: w.join })
         c g w (.b .bra f) (w.pc + 8))) ∧
     (Mismatch s c g w (.b .call f) → goes w f.pneg f.pred = some true → there.toNat % 4 = 0 →
       exec (.call f) s = .next (killedBy (s.putWarp g w (w.writeS 14 true (w.pc + 8))) c g w (.b .call f) there)) ∧
     (Mismatch s c g w (.b .ret f) → goes w f.pneg f.pred = some true → (w.spair 14).toNat % 4 = 0 → w.bad = [] →
       exec (.ret f) s = .next (killedBy s c g w (.b .ret f) (w.spair 14))) ∧
     (∀ op ∈ [(BOp.call, Instr.call f), (.ret, .ret f)], Mismatch s c g w (.b op.1 f) → goes w f.pneg f.pred = some false →
       exec op.2 s = .next (killedBy s c g w (.b op.1 f) (w.pc + 8))) ∧
     (Mismatch s c g w (.b .mark f) → w.join.length < 32 →
       exec (.mark f) s = .next (killedBy (s.putWarp g w { w with join := .rejoin there w.exec :: w.join })
         c g w (.b .mark f) (w.pc + 8))) ∧
     (∀ x rest, Mismatch s c g w (.b .join f) → w.join = x :: rest →
       exec (.join f) s = .next (killedBy (s.putWarp g w { w with
         exec := x.mask, join := rest, latches := Vector.replicate 4 none }) c g w (.b .join f) x.addr)) ∧
     (Mismatch s c g w (.b .exit f) →
       let x := takers w f.pneg f.pred
       let r := unwind w.dead (w.exec &&& ~~~x) (w.pc + 8) (w.join.map (JoinEntry.without x))
       (∀ exec' pc join', r.2 = some (exec', pc, join') → exec (.exit f) s =
         .next (killedBy (s.putWarp g w { w with exec := exec', join := join' }) c g w (.b .exit f) pc)) ∧
       (r.2 = none → exec (.exit f) s =
         .next (killedBy (s.putWarp g w { w with exec := 0, join := [] }) c g w (.b .exit f) (w.pc + 8)))))

/-! ## Memory instructions -/

namespace Sys2Proof.Says

/-- The parts of a checked address. -/
def placeIn : Resolved → Nat
  | .ok p _ _ => p
  | .bad _ _ => 0
def apxIn : Resolved → Bool
  | .ok _ a _ => a
  | .bad _ _ => false
def fillIn : Resolved → List TlbEntry
  | .ok _ _ fill => fill
  | .bad _ _ => []

/-- The check of a lane's access of `n` bytes, the index counting `scale` bytes (R147 to R150). -/
def target (e : Env) (f : MForm) (scale n : Nat) (acc : Access) (l : Fin 64) : Resolved :=
  e.s.resolve e.viewer f.space (e.ea f scale l).toNat n n acc f.a

/-- Every executing lane's address is allowed and meets no granule with an uncorrectable error, be it of a cluster's copy. -/
def reachable (e : Env) (f : MForm) (scale n : Nat) (acc : Access) : Prop :=
  ∀ l : Fin 64, e.eff.getLsbD l → ∃ place apx fill, target e f scale n acc l = .ok place apx fill ∧ e.s.marked place n = false

/-- The translations that the executing lanes' accesses fill. -/
def fills (e : Env) (f : MForm) (scale n : Nat) (acc : Access) : List TlbEntry :=
  (Mask.lanes e.eff).flatMap fun l => fillIn (target e f scale n acc l)

/-- The accesses of the executing lanes: lane, address, place, and whether it is approximate storage. -/
def accesses (e : Env) (f : MForm) (scale n : Nat) (acc : Access) : List (Fin 64 × W64 × Nat × Bool) :=
  (Mask.lanes e.eff).map fun l =>
    (l, e.ea f scale l, placeIn (target e f scale n acc l), apxIn (target e f scale n acc l))

/-- The addresses, data and result of a memory instruction are readable. -/
abbrev addressable (g : Group) (w : Warp) (f : MForm) (data : List Opnd) (dsts : List Reg) : Prop :=
  w.bad = [] ∧ w.indexTagBad f.index = false ∧
    w.operandFault g.desc.apxFrom f.a (addrOs f ++ data) [f.base, f.index] dsts = none

/-- The little-endian value of bytes. -/
def valueOfBytes (bs : List Byte) : W64 := BitVec.ofNat 64 (ofBytesLE bs)

/-- What a lane loads: the value at its place, with free low bits from approximate storage (R328). -/
def loadedAt (e : Env) (f : MForm) (scale : Nat) (l : Fin 64) : W64 :=
  if e.eff.getLsbD l then
    let r := target e f scale (accBytes f.fmt) .read l
    e.lossy f.fmt (apxIn r) l (valueOfBytes (e.s.mem.read (placeIn r) (accBytes f.fmt)))
  else 0

/-- A warp whose data register has received a value a lane (R46, R47). -/
def loadsInto (w : Warp) (sh : Shape) (f : MForm) (vals : Fin 64 → W64) : Warp :=
  match f.data with
  | .v n => (w.commitVec n.val
      { eff := w.eff sh, sel := w.sel sh, kill := 0, vals := vals, wide := f.fmt.wide, tag := f.fmt, a := f.a, nw := false }).getD w
  | _ => w

/-- The bytes of memory outside some ranges read as before. -/
def unchangedOutside (s t : State) (ranges : List (Nat × Nat)) : Prop :=
  ∀ a, (∀ r ∈ ranges, a < r.1 ∨ r.1 + r.2 ≤ a) → t.mem.get a = s.mem.get a

/-- The loads with the bytes that their index counts. -/
def loadOps : List (MOp × (MForm → Nat)) := [(.ld, fun _ => 1), (.lds, fun f => accBytes f.fmt)]

/-- The stores with the bytes that their index counts. -/
def storeOps : List (MOp × (MForm → Nat)) := [(.st, fun _ => 1), (.sts, fun f => accBytes f.fmt)]

/-- The store events of a store: its executing lanes in ascending order (R151). -/
def storesOf (e : Env) (f : MForm) (scale : Nat) : List (Nat × List Byte) :=
  (Mask.lanes e.eff).map fun l =>
    (placeIn (target e f scale (accBytes f.fmt) .write l), toBytesLE (accBytes f.fmt) (e.w.src (Opnd.any f.data f.fmt) none l).toNat)

end Sys2Proof.Says

/-- R46, R147 to R151, R328: a local LD or LDS whose lanes' addresses are all allowed completes and writes the little-endian value at
each executing lane's place into its data register; as a touch (NW) it writes nothing. Memory is unchanged. -/
def Obligations.LoadsComplete : Prop :=
  ∀ p ∈ loadOps, ∀ (f : MForm) (s : State) (c : Context) (g : Group) (w : Warp), WarpIssues s c g w (.m p.1 f) →
    f.space ≠ .remote → addressable g w f [] [f.data] → (∃ n, f.data = .v n) →
    let e := envOf s c g w (.m p.1 f)
    let n := accBytes f.fmt
    reachable e f (p.2 f) n .read →
    let s1 := s.fillTlb (fills e f (p.2 f) n .read)
    (f.nw = true → exec (p.1.toInstr f) s = .next (s1.completed c g w (.m p.1 f))) ∧
    (f.nw = false → exec (p.1.toInstr f) s = .next (((s1.drawn
        (if (Mask.lanes e.eff).any fun l => apxIn (target e f (p.2 f) n .read l) then 512 else 0)).putWarp g w
      (loadsInto w (.m p.1 f) f (loadedAt e f (p.2 f)))).completed c g w (.m p.1 f))) ∧
    ∀ t, exec (p.1.toInstr f) s = .next t → t.mem = s.mem

/-- R147 to R151, R212: a local ST or STS whose lanes' addresses are all allowed completes: its lanes store in ascending order, so that
the highest lane's value stays where places meet, and every byte outside the places stored to reads as before. -/
def Obligations.StoresComplete : Prop :=
  ∀ p ∈ storeOps, ∀ (f : MForm) (s : State) (c : Context) (g : Group) (w : Warp), WarpIssues s c g w (.m p.1 f) →
    f.space ≠ .remote → addressable g w f [Opnd.any f.data f.fmt] [] → s.mem.wf = true →
    let e := envOf s c g w (.m p.1 f)
    let n := accBytes f.fmt
    (∀ l : Fin 64, e.eff.getLsbD l → ∃ place apx fill, target e f (p.2 f) n .write l = .ok place apx fill) →
    ∃ t, exec (p.1.toInstr f) s = .next t ∧
      t = ((s.fillTlb (fills e f (p.2 f) n .write)).storeAll (some (.warp g.uid w.id)) (storesOf e f (p.2 f))).completed c g w (.m p.1 f) ∧
      unchangedOutside s t ((storesOf e f (p.2 f)).map fun x => (x.1, n)) ∧
      ∀ (l : Fin 64) (before after : List (Fin 64)), Mask.lanes e.eff = before ++ l :: after →
        let at' (k : Fin 64) : Nat := placeIn (target e f (p.2 f) n .write k)
        (∀ k ∈ after, at' k + n ≤ at' l ∨ at' l + n ≤ at' k) →
        t.mem.read (at' l) n = toBytesLE n (w.src (Opnd.any f.data f.fmt) none l).toNat

/-- R152, R153: LDU and STU make one access for the warp, or for the Leek thread, where it executes: LDU writes its scalar (or g)
register, STU stores the register's bytes and leaves every other byte of memory. -/
def Obligations.UniformAccessesComplete : Prop :=
  ∀ (f : MForm) (s : State) (c : Context) (g : Group) (w : Warp) (l : Leek), w.bad = [] →
    let n := accBytes f.fmt
    let at' (e : Env) (acc : Access) : Resolved := target e f 1 n acc 0
    let leekAt' (acc : Access) : Resolved :=
      s.resolve (leekEnvOf s c g l).viewer f.space ((leekEnvOf s c g l).ea f).toNat n n acc f.a
    (∀ op ∈ [MOp.ldu, .stu], WarpIssues s c g w (.m op f) → w.eff (.m op f) = 0 →
      exec (op.toInstr f) s = .next (s.completed c g w (.m op f))) ∧
    (∀ r place apx fill, WarpIssues s c g w (.m .ldu f) → w.eff (.m .ldu f) ≠ 0 → f.data = .s r →
      at' (envOf s c g w (.m .ldu f)) .read = .ok place apx fill → s.marked place n = false →
      exec (.ldu f) s = .next ((if f.nw then s.fillTlb fill
        else (s.fillTlb fill).putWarp g w (w.writeS r.val f.fmt.wide (valueOfBytes (s.mem.read place n)))).completed c g w (.m .ldu f))) ∧
    (∀ place apx fill, WarpIssues s c g w (.m .stu f) → w.eff (.m .stu f) ≠ 0 → s.mem.wf = true →
      at' (envOf s c g w (.m .stu f)) .write = .ok place apx fill →
      let bs := toBytesLE n (w.uni f.data none f.fmt).toNat
      ∃ t, exec (.stu f) s = .next t ∧
        t = ((s.fillTlb fill).store (some (.warp g.uid w.id)) place bs).completed c g w (.m .stu f) ∧
        t.mem.read place n = bs ∧ unchangedOutside s t [(place, n)]) ∧
    (∀ op ∈ [MOp.ldu, .stu], LeekIssues s c g l (.m op f) → l.takes f.pneg f.pred = false →
      exec (op.toInstr f) s = .next (s.leekCompleted g l (.m op f))) ∧
    (∀ place apx fill, LeekIssues s c g l (.m .ldu f) → l.takes f.pneg f.pred = true → leekAt' .read = .ok place apx fill →
      s.marked place n = false →
      exec (.ldu f) s = .next ((if f.nw then s.fillTlb fill else (s.fillTlb fill).mapLeek g.uid fun x =>
        x.writeG f.data (valueOfBytes (s.mem.read place n))).leekCompleted g l (.m .ldu f))) ∧
    (∀ place apx fill, LeekIssues s c g l (.m .stu f) → l.takes f.pneg f.pred = true → leekAt' .write = .ok place apx fill →
      s.mem.wf = true →
      let bs := toBytesLE n (l.src .n64 f.data none).toNat
      ∃ t, exec (.stu f) s = .next t ∧ t = ((s.fillTlb fill).store (some (.leek g.uid)) place bs).leekCompleted g l (.m .stu f) ∧
        t.mem.read place n = bs ∧ unchangedOutside s t [(place, n)])

namespace Sys2Proof.Says

/-- An instruction between two of its events, with no lane killed and no error met, and the overflow table of its issue. -/
def clean (ovft : BitVec 16) (n : Nat) (stage : Stage) : Progress := { kills := (0, n), errs := [], ovft := ovft, stage := stage }

/-- The machine `t` when an event of warp `w`'s instruction has taken place and others are to come (R158, R332). -/
def paused (t : State) (g : Group) (w : Warp) (p : Progress) : State :=
  (t.mapWarp g.uid w.id fun x => { x with progress := some p }).setWait (.warp g.uid w.id) .events

/-- The machine `t` when the elements `todo` of an atomic are to come and those of `got` have been read: it goes on, or completes
with the words that each lane found, unless it is posted. -/
def atomGoesOn (t : State) (c : Context) (g : Group) (w : Warp) (sh : Shape) (f : MForm) (posted : Bool) (n : Nat)
    (todo : List AtomEvent) (got : List (Nat × Nat × Nat)) : State :=
  if todo = [] then
    (if posted then t else t.putWarp g w (loadsInto w sh f fun l =>
      if (w.eff sh).getLsbD l then gotWord f.fmt got l else 0)).completed c g w sh
  else paused t g w (clean (envOf t c g w sh).ovft n (.atoms todo got))

/-- One event of an atomic, and what follows it. -/
def atomEventThen (t : State) (c : Context) (g : Group) (w : Warp) (sh : Shape) (f : MForm) (posted : Bool) (n : Nat) (a : AtomEvent)
    (rest : List AtomEvent) (got : List (Nat × Nat × Nat)) : State :=
  let r := t.atomEvent (some (.warp g.uid w.id)) (atomOf f.sub) f.fmt (envOf t c g w sh).ovft a
  atomGoesOn r.2 c g w sh f posted n rest (got ++ [(a.lane, a.el, r.1)])

/-- What an ATOM or VATOM does whose elements are separate events: `words` gives a lane's operand words and `k` its bytes. -/
def elementwise (op : MOp) (f : MForm) (posted : Bool) (k : Nat) (words : Fin 64 → List W64) (s : State) (c : Context) (g : Group)
    (w : Warp) : Prop :=
  let sh : Shape := .m op f
  let e := envOf s c g w sh
  let events := (accesses e f 1 k .atomic).flatMap fun x => atomEvents f.fmt x.1 x.2.2.1 (words x.1)
  let s1 := s.fillTlb (fills e f 1 k .atomic)
  (w.progress = none → reachable e f 1 k .atomic →
    (events = [] → exec (op.toInstr f) s = .next (atomGoesOn s1 c g w sh f posted 1 [] [])) ∧
    (∀ a rest, events = a :: rest → exec (op.toInstr f) s = .next (atomEventThen s1 c g w sh f posted 1 a rest []))) ∧
  (∀ o n a rest got, w.progress = some (clean o n (.atoms (a :: rest) got)) → s.errorAt a.place (elBytes f.fmt) = none →
    exec (op.toInstr f) s = .next (atomEventThen s c g w sh f posted n a rest got))

end Sys2Proof.Says

/-- R156 to R159, R332: local ATOM and VATOM complete. The steps of an ATOM on one element follow one another in ascending lane order, one
event each; on a pair of halves, and of a VATOM, each element is an event of its own, in ascending order, between which other agents'
events may fall; all use the overflow table of the issue (R31, R252). ATOM without NW writes each lane's old value. One event reads its
bytes, writes the operation's result, and leaves every other byte. That the lanes of one instruction follow each other lane by lane is the
model's choice (notes/assumptions/10.md). -/
def Obligations.AtomicsComplete : Prop :=
  (∀ (f : MForm) (s : State) (c : Context) (g : Group) (w : Warp), WarpIssues s c g w (.m .atom f) → f.space ≠ .remote →
    addressable g w f (atomOs f) [] → (∃ n, f.data = .v n) →
    let e := envOf s c g w (.m .atom f)
    let n := accBytes f.fmt
    let r := e.atomSteps f (s.fillTlb (fills e f 1 n .atomic)) (accesses e f 1 n .atomic)
    (pairFmt f.fmt = false → w.progress = none → reachable e f 1 n .atomic →
      let t := r.2.wrote ((accesses e f 1 n .atomic).map fun x => (x.2.2.1, n))
      exec (.atom f) s = .next ((if f.nw then t else t.putWarp g w (loadsInto w (.m .atom f) f (laneVal r.1))).completed
        c g w (.m .atom f))) ∧
    (pairFmt f.fmt = true → elementwise .atom f f.nw n (fun l => [srcAt w none (atomOs f) 0 l]) s c g w)) ∧
  (∀ (f : MForm) (s : State) (c : Context) (g : Group) (w : Warp), WarpIssues s c g w (.m .vatom f) → f.space ≠ .remote →
    addressable g w f (vatomOs f) [] →
    elementwise .vatom f true 32 (fun l => ((vatomOs f).map fun o => lo32 (w.src o none l)).map zx64) s c g w) ∧
  (∀ (s : State) (who : Option AgentId) (op : AtomOp) (f : Fmt) (ovft : BitVec 16) (a : AtomEvent), s.mem.wf = true →
    let old := ofBytesLE (s.mem.read a.place (elBytes f))
    (s.atomEvent who op f ovft a).1 = old ∧
    (s.atomEvent who op f ovft a).2.mem.read a.place (elBytes f) = toBytesLE (elBytes f) (atomEl op f ovft old a.v) ∧
    unchangedOutside s (s.atomEvent who op f ovft a).2 [(a.place, elBytes f)]) ∧
  ∀ (s : State) (who : Option AgentId) (place : Nat) (op : AtomOp) (f : Fmt) (ovft : BitVec 16) (v swp : W64), s.mem.wf = true →
    let old := valueOfBytes (s.mem.read place (accBytes f))
    (s.atomStep who place op f ovft v swp).1 = old ∧
    (s.atomStep who place op f ovft v swp).2.mem.read place (accBytes f) =
      toBytesLE (accBytes f) (atomNew op f ovft old v swp).toNat ∧
    unchangedOutside s (s.atomStep who place op f ovft v swp).2 [(place, accBytes f)]

/-- R148, R160, R161, R406: a remote store, touch or NW atomic completes once its requests, one for each address, are sent; a remote load
or atomic sends its requests and waits, and when all have been answered it issues again and delivers their values. Without an executing
lane it sends nothing and completes, with zero in the selected dead lanes. -/
def Obligations.RemoteAccessesComplete : Prop :=
  ∀ (op : MOp) (f : MForm) (s : State) (c : Context) (g : Group) (w : Warp), WarpIssues s c g w (.m op f) → f.space = .remote →
    w.progress = none →
    let sh : Shape := .m op f
    let e := envOf s c g w sh
    let me := AgentId.warp g.uid w.id
    let sends (what : List (Fin 64) → RemoteOp) (numbered posted : Bool) : State :=
      s.sendAll c.id me what numbered posted (mergeLanes (Mask.lanes e.eff) (e.ea f 1))
    let free (n : Nat) (numbered : Bool) : Prop :=
      e.checkRemote e.eff (e.ea f 1) n = none ∧
        (numbered = true → e.fullWindow (mergeLanes (Mask.lanes e.eff) (e.ea f 1)) = none)
    let n := accBytes f.fmt
    let reqs := mergeLanes (Mask.lanes e.eff) (e.ea f 1)
    let tags := (List.range reqs.length).map fun i => s.nextUid + i
    let waits (t : State) : Prop := exec (op.toInstr f) s = .next (t.setWait me (.remote tags)) ∧
      t.outRemote.map Outstanding.tag = s.outRemote.map Outstanding.tag ++ tags
    (op = .st → addressable g w f [Opnd.any f.data f.fmt] [] → free n true →
      exec (op.toInstr f) s = .next
        ((sends (fun ls => .store ((ls.getLast?.map (e.storeBytes f)).getD []) f.a) true true).completed c g w sh)) ∧
    (op = .ld → f.nw = true → addressable g w f [] [f.data] → free n false →
      exec (op.toInstr f) s = .next ((sends (fun _ => .touch f.fmt f.a) false true).completed c g w sh)) ∧
    (op = .vatom → addressable g w f (vatomOs f) [] → free 32 true →
      exec (op.toInstr f) s = .next ((sends (fun ls => .vatom (atomOf f.sub) f.fmt (ls.map (e.vatomWords f)) (e.ovfOf f.fmt))
        true true).completed c g w sh)) ∧
    (op = .atom → f.nw = true → addressable g w f (atomOs f) [] → free n true →
      exec (op.toInstr f) s = .next ((sends (fun ls => .atom (atomOf f.sub) f.fmt
        (ls.map fun l => (srcAt w none (atomOs f) 0 l, srcAt w none (atomOs f) 1 l)) (e.ovfOf f.fmt)) true true).completed c g w sh)) ∧
    (op = .atom → f.nw = false → addressable g w f (atomOs f) [] → free n true → e.eff ≠ 0 → (∀ tags, w.wait ≠ .remote tags) →
      waits (sends (fun ls => .atom (atomOf f.sub) f.fmt
        (ls.map fun l => (srcAt w none (atomOs f) 0 l, srcAt w none (atomOs f) 1 l)) (e.ovfOf f.fmt)) true false)) ∧
    (op = .ld → f.nw = false → addressable g w f [] [f.data] → free n false → e.eff ≠ 0 →
      (∀ tags, w.wait ≠ .remote tags) →
      waits (sends (fun _ => .load f.fmt f.a) false false)) ∧
    (op = .ld ∨ op = .atom → f.nw = false → (∃ d, f.data = .v d) →
      addressable g w f (if op = .atom then atomOs f else []) (if op = .atom then [] else [f.data]) →
      e.eff = 0 → (∀ tags, w.wait ≠ .remote tags) →
      exec (op.toInstr f) s = .next ((s.putWarp g w (loadsInto w sh f fun _ => 0)).completed c g w sh)) ∧
    (op = .ld ∨ op = .atom → f.nw = false → (∃ d, f.data = .v d) →
      addressable g w f (if op = .atom then atomOs f else []) (if op = .atom then [] else [f.data]) →
      ∀ tags, w.wait = .remote tags → (∀ t ∈ tags, ∃ o ∈ s.outRemote, o.tag = t ∧ o.done.isSome) →
      (∀ l : Fin 64, e.eff.getLsbD l → (s.answerOf tags l).2 = none) →
      exec (op.toInstr f) s = .next ((State.putWarp { s with outRemote := s.outRemote.filter fun o => !tags.contains o.tag } g w
        (loadsInto w sh f (laneVal ((Mask.lanes e.eff).map fun l => (l, (s.answerOf tags l).1))))).completed c g w sh))

namespace Sys2Proof.Says

/-- The machine `t` once the bytes of a buffer record that lie in one sector with the first of `todo` have been read: an LDB or STB
has the rest of them to read, or its record (R154). -/
def recordThen (t : State) (c : Context) (g : Group) (w : Warp) (sh : Shape) (todo : List (W64 × Nat × Bool)) (got : List Byte) : State :=
  let here (b : W64 × Nat × Bool) : Bool := todo.head?.any fun a => b.2.1 / 32 == a.2.1 / 32
  paused t g w (clean (envOf t c g w sh).ovft 1
    (.record (todo.dropWhile here) (got ++ (todo.takeWhile here).map fun b => t.mem.get b.2.1)))

/-- The machine once an LDB has read everything and appended what it had to: its result and flags are written. -/
def ldbEnds (t : State) (c : Context) (g : Group) (w : Warp) (sh : Shape) (f : MForm) (vals : Fin 64 → W64 × Byte) : State :=
  (t.putWarp g w ((loadsInto w sh f fun l => (vals l).1).setFlags (orFlags (w.eff sh) (mkLanes vals)))).completed c g w sh

/-- The machine `t` when an LDB has read `x`: it reads on, or appends the indexes of its NaNs, or is complete (R79, R81, R154). -/
def ldbGoesOn (t : State) (c : Context) (g : Group) (w : Warp) (sh : Shape) (f : MForm) (n : Nat) (x : RecLoad) : State :=
  let r := BRec.ofBytes x.record
  let vals := laneOf f.fmt x.got
  let nans := if r.xl then (x.got.filter fun k => (w.eff sh).getLsbD k.lane).filterMap Converted.nan else []
  let o := (envOf t c g w sh).ovft
  if x.over = false then paused t g w (clean o n (.load x))
  else if nans = [] then ldbEnds t c g w sh f vals
  else paused t g w (clean o n (.appends (mkLanes vals) nans r.xhdr))

/-- One read of an LDB, and what follows it. -/
def ldbReadThen (t : State) (c : Context) (g : Group) (w : Warp) (sh : Shape) (f : MForm) (n : Nat) (x : RecLoad) : State :=
  let read := if x.nextTable.isSome then [] else x.todo.head?.toList.flatMap ElemRead.places
  ldbGoesOn (t.drawnFor read) c g w sh f n ((envOf t c g w sh).loadEvent f t x).1

/-- The machine `t` once an STB has stored an element. -/
def storesThen (t : State) (g : Group) (w : Warp) (x : List (Nat × List Byte)) : State :=
  (t.storeAll (some (.warp g.uid w.id)) x).wrote (x.map fun y => (y.1, y.2.length))

/-- The machine `t` when the elements `stores` of an STB are still to be stored and the NaNs `nans` to be appended. -/
def stbGoesOn (t : State) (c : Context) (g : Group) (w : Warp) (sh : Shape) (n : Nat) (stores : List (List (Nat × List Byte)))
    (fl : Byte) (nans : List Nat) (hdr : W64) : State :=
  if stores = [] ∧ nans = [] then (t.mapWarp g.uid w.id fun x => x.setFlags fl).completed c g w sh
  else paused t g w (clean (envOf t c g w sh).ovft n (.stores stores fl nans hdr))

end Sys2Proof.Says

/-- R78, R79, R81, R154, R155, R322 to R326, R332: LDB and STB where the record is readable, well-formed and every byte they touch is
allowed. LDB reads the tables of its blocks, a sector an event, then its elements, an event each, and converts them; STB converts its
elements and stores each as an event; then each index of a NaN that became 0 is appended to the record's list, an event each. LDB then
writes its register, and both raise the flags of their elements. The record itself is read first, a sector an event. Other agents'
events may fall between. LDB as a touch reads its record alone. That the NaNs appended are those that become 0
(notes/assumptions/17.md) is the model's choice. -/
def Obligations.BufferRecordAccessesComplete : Prop :=
  (∀ (f : MForm) (s : State) (c : Context) (g : Group) (w : Warp) (load : Bool),
    let op : MOp := if load then .ldb else .stb
    let sh : Shape := .m op f
    WarpIssues s c g w sh → (∃ d, f.data = .v d) →
    addressable g w f (if load then [] else [Opnd.any f.data f.fmt]) (if load then [f.data] else []) → s.poison = [] →
    let e := envOf s c g w sh
    e.eff ≠ 0 →
    (∀ bytes fill, w.progress = none → f.brec.toNat < g.desc.nbrec → e.recordBytes f = .ok (bytes, fill) →
      exec (op.toInstr f) s = .next (recordThen (s.fillTlb fill) c g w sh bytes [])) ∧
    (∀ o n b todo got, w.progress = some (clean o n (.record (b :: todo) got)) →
      exec (op.toInstr f) s = .next (recordThen s c g w sh (b :: todo) got)) ∧
    ∀ o n record, w.progress = some (clean o n (.record [] record)) →
    let r := BRec.ofBytes record
    let es := r.elems f.fmt load e.eff (e.ea f 1)
    let rs := e.recChecks f r load es e.eff
    r.tagBad f.fmt = false → reportFault (if load then .read else .write) rs = none →
    let s1 := s.fillTlb (fillsOf rs)
    (load = true → f.nw = true → exec (.ldb f) s = .next (s1.completed c g w sh)) ∧
    (load = true → f.nw = false → exec (.ldb f) s = .next (ldbReadThen s1 c g w sh f 1
      { record := record, bytes := [], got := []
        tables := (r.blocks es).map fun b =>
          { block := b.1, lanes := laneMask b.2, places := (r.tableBytes b.1).map fun va => e.placeOf va .read f.a }
        todo := es.filterMap fun x => match x.use with
          | .move i => some { lane := x.lane, e := x.e, index := i, places := e.elemPlaces f r .read i }
          | _ => none })) ∧
    (load = false → r.storeIllegal = false →
      let xs := es.filterMap (e.stbStore f r)
      let fl := xs.foldl (fun a x => a ||| x.2.flags) 0
      let nans := if r.xl then xs.filterMap fun x => x.2.nan else []
      (xs = [] → exec (.stb f) s = .next (stbGoesOn s1 c g w sh 1 [] fl [] r.xhdr)) ∧
      (∀ x rest, xs = x :: rest → exec (.stb f) s =
        .next (stbGoesOn (storesThen s1 g w x.1) c g w sh 1 (rest.map Prod.fst) fl nans r.xhdr)))) ∧
  (∀ (f : MForm) (s : State) (c : Context) (g : Group) (w : Warp) (o : BitVec 16) (n : Nat),
    (WarpIssues s c g w (.m .ldb f) → (∃ d, f.data = .v d) → f.nw = false → s.poison = [] →
      let sh : Shape := .m .ldb f
      let e := envOf s c g w sh
      (∀ x, w.progress = some (clean o n (.load x)) → exec (.ldb f) s = .next (ldbReadThen s c g w sh f n x)) ∧
      (∀ vals i rest hdr, w.progress = some (clean o n (.appends vals (i :: rest) hdr)) → exec (.ldb f) s = .next
        (if rest = [] then ldbEnds (e.append s hdr.toNat i) c g w sh f fun l => vals[l]
         else paused (e.append s hdr.toNat i) g w (clean o n (.appends vals rest hdr)))) ∧
      (∀ x sector, x.nextTable = some sector → (e.loadEvent f s x).1 = { x with
        bytes := x.bytes ++ ((x.tables.flatMap TableRead.places).filter fun p => sectorOf p.1 == sector).map fun p =>
          (p.1, s.mem.get p.1) }) ∧
      (∀ x y rest, x.nextTable = none → x.todo = y :: rest → (e.loadEvent f s x).1 = { x with
        todo := rest
        got := x.got ++ [e.loadElem f (BRec.ofBytes x.record) (x.table (y.index / 2 ^ (BRec.ofBytes x.record).blk)) y
          (y.places.map fun p => s.mem.get p.1)] })) ∧
    (WarpIssues s c g w (.m .stb f) →
      let sh : Shape := .m .stb f
      (∀ x rest fl nans hdr, w.progress = some (clean o n (.stores (x :: rest) fl nans hdr)) → exec (.stb f) s =
        .next (stbGoesOn (storesThen s g w x) c g w sh n rest fl nans hdr)) ∧
      (∀ fl i rest hdr, w.progress = some (clean o n (.stores [] fl (i :: rest) hdr)) → exec (.stb f) s =
        .next (stbGoesOn ((envOf s c g w sh).append s hdr.toNat i) c g w sh n [] fl rest hdr))))

/-- R164, R171, R174: PREF and OWN change nothing but the warp's place; ISYNC makes every line fetch fresh, where its effective mask is not
empty, which is the model's reading (DEDUCED, notes/assumptions/11.md); WAITR completes when the
warp has no outstanding remote operation and delivers, then clears, what their statuses gathered. -/
def Obligations.HintsAndRemoteWaitsComplete : Prop :=
  ∀ (f : MForm) (s : State) (c : Context) (g : Group) (w : Warp),
    (WarpIssues s c g w (.m .pref f) → addressable g w f [] [] → exec (.pref f) s = .next (s.completed c g w (.m .pref f))) ∧
    (WarpIssues s c g w (.m .own f) → addressable g w f [] [] → exec (.own f) s = .next (s.completed c g w (.m .own f))) ∧
    (WarpIssues s c g w (.m .isync f) → exec (.isync f) s = .next (State.completed
      (if w.eff (.m .isync f) = 0 then s else s.putWarp g w { w with fetched := [] }) c g w (.m .isync f))) ∧
    (WarpIssues s c g w (.m .waitr f) → (∀ o ∈ s.outRemote, o.agent = .warp g.uid w.id → o.done ≠ none) →
      (∀ n, f.data = .s n → w.eff (.m .waitr f) ≠ 0 → exec (.waitr f) s = .next ((s.putWarp g w
        { w.writeS n.val false (w.remote.setWidth 64) with remote := 0 }).completed c g w (.m .waitr f))) ∧
      ((f.data = .zero ∨ w.eff (.m .waitr f) = 0) → exec (.waitr f) s = .next (s.completed c g w (.m .waitr f))))

namespace Sys2Proof.Says

/-- The kind of address fault that a check has met, if any. -/
def faultIn : Resolved → Option AddrFault
  | .ok _ _ _ => none
  | .bad k _ => some k

/-- Which fault of an instruction's checks is reported (R150): the first kind of the order that any lane meets, of the lowest lane that
meets it, at that lane's lowest address. -/
def reports (rs : List (Fin 64 × W64 × Resolved)) (k : AddrFault) (l : Fin 64) (ea : W64) : Prop :=
  (∃ x ∈ rs, x.1 = l ∧ x.2.1 = ea ∧ faultIn x.2.2 = some k) ∧
    ∀ y ∈ rs, ∀ k', faultIn y.2.2 = some k' →
      k.rank < k'.rank ∨ (k' = k ∧ (l < y.1 ∨ (l = y.1 ∧ ea.toNat ≤ y.2.1.toNat)))

/-- The lanes whose checks meet a kind of fault. -/
def meeting (rs : List (Fin 64 × W64 × Resolved)) (k : AddrFault) : Mask :=
  maskOf fun i => rs.any fun y => y.1.val == i && faultIn y.2.2 == some k

/-- The wait of an agent for a page (R243). -/
def pageWait (va : Nat) (acc : Access) (ea : W64) (lanes : Mask) : Wait := .page (BitVec.ofNat 64 (va / 4096)) acc.code ea lanes

/-- What an instruction of a warp does whose checks are `rs` and report a fault: it traps with the kind's cause, the address in TADDR
and `lanes` in TLANES, or waits for the page, with an entry in the fault ring (R150, R392); nothing but a buffer record has been read, and the
instruction is to issue again (R243). -/
def stopsOn (i : Instr) (sh : Shape) (acc : Access) (rs : List (Fin 64 × W64 × Resolved)) (lanes : AddrFault → Mask) (s : State)
    (c : Context) (g : Group) (w : Warp) : Prop :=
  ∀ k l ea, reports rs k l ea →
    (k ≠ .absent → w.trapMode = false → c.trapBase ≠ 0 →
      exec i s = .next (trapsWith s c g w sh (BitVec.ofNat 8 k.cause.code) ea (lanes k) w.pc)) ∧
    (k = .absent → ∃ va, (l, ea, Resolved.bad .absent va) ∈ rs ∧
      exec i s = .next ((s.faultRing c.id va acc g.cluster).mapWarp g.uid w.id fun x =>
        { x with wait := pageWait va acc ea (lanes k), progress := none }))

/-- The instructions whose lanes each make one access: how the index counts, the bytes, the data and the destinations. -/
structure LaneAccess where
  op    : MOp
  acc   : Access
  scale : MForm → Nat
  bytes : MForm → Nat := fun f => accBytes f.fmt
  data  : MForm → List Opnd
  dsts  : MForm → List Reg := fun _ => []

/-- The loads and the stores of that kind. -/
def loadsAndStores : List LaneAccess :=
  (loadOps.map fun p => { op := p.1, acc := .read, scale := p.2, data := fun _ => [], dsts := fun f => [f.data] }) ++
    storeOps.map fun p => { op := p.1, acc := .write, scale := p.2, data := fun f => [Opnd.any f.data f.fmt] }

/-- All of that kind. -/
def laneAccesses : List LaneAccess :=
  loadsAndStores ++ [{ op := .atom, acc := .atomic, scale := fun _ => 1, data := atomOs },
    { op := .vatom, acc := .atomic, scale := fun _ => 1, bytes := fun _ => 32, data := vatomOs }]

/-- The checks of their executing lanes. -/
def LaneAccess.checks (x : LaneAccess) (e : Env) (f : MForm) : List (Fin 64 × W64 × Resolved) :=
  (Mask.lanes e.eff).map fun l => (l, e.ea f (x.scale f) l, target e f (x.scale f) (x.bytes f) x.acc l)

/-- The place of a check of a global address in a page, by the rights and the APX attribute of its leaf (R312, R344). -/
def pageAllows (acc : Access) (a : Bool) (leaf : W64) : Option AddrFault :=
  if acc.allowed leaf = false then some .perm
  else if a = false ∧ leafApx leaf = true ∨ a = true ∧ acc = .write ∧ leafApx leaf = false then some .apxflow
  else none

end Sys2Proof.Says

/-- R148 to R150, R152, R154, R344, R392: where memory instructions stop on their addresses. A misaligned address is MISALIGN, an access
that leaves the scratch window WINDOW, one beyond the scratchpad or in an unmapped block BOUNDS, one without a right PERM, one against
a page's attribute APXFLOW, and a page that is not present is waited for. Local LD, LDS, ST, STS, ATOM and VATOM report the first kind of
this order over their executing lanes, with the lanes that meet it in TLANES and the lowest such lane's address in TADDR; LDU and STU
report theirs with all executing lanes, and on the Leek core end the context; LDB and STB report a fault of their record with all
executing lanes, then, when it has been read, an illegal or reserved record, then the faults of their elements. None has accessed
memory beyond its record. That the record and its table are checked with the instruction's own A bit, and the order in which the
faults of a record's elements are reported, are DEDUCED (notes/assumptions/19.md), and so is TAG, and not ILLEGAL, for an STB whose
MENC or BLK is reserved (notes/assumptions/14.md). An absent page gets one
entry in its partition's fault ring while the entry is not answered, or counts as dropped where the ring is full. That the instruction
counts as issued is the model's choice (notes/assumptions/11.md). -/
def Obligations.AddressFaultsStopBeforeAnyAccess : Prop :=
  (∀ (s : State) (v : Viewer) (sp : Space) (ea n : Nat) (acc : Access) (a : Bool),
    let r := s.resolve v sp ea n n acc a
    (ea % n ≠ 0 → faultIn r = some .misalign) ∧
    (ea % n = 0 → sp ≠ .scratch → v.grp.inWindow ea = true → v.grp.inWindow (ea + n - 1) = false → faultIn r = some .window) ∧
    (∀ off, ea % n = 0 →
      (sp = .scratch ∧ off = ea ∨
        sp ≠ .scratch ∧ v.grp.inWindow ea = true ∧ v.grp.inWindow (ea + n - 1) = true ∧ off = ea - v.grp.scrBase.toNat) →
      (v.grp.desc.scrSize ≤ off ∨ (v.grp.block (off / 2 ^ 15)).valid = false → faultIn r = some .bounds)) ∧
    (ea % n = 0 → sp ≠ .scratch → v.grp.inWindow ea = false →
      (s.translate v.ctx ea = .perm → r = .bad .perm ea) ∧
      (s.translate v.ctx ea = .absent → r = .bad .absent ea) ∧
      (∀ place leaf fill, s.translate v.ctx ea = .ok place leaf fill → faultIn r = pageAllows acc a leaf ∧
        (pageAllows acc a leaf = none → r = .ok place (leafApx leaf) fill)))) ∧
  (∀ x ∈ laneAccesses, ∀ (f : MForm) (s : State) (c : Context) (g : Group) (w : Warp),
    let sh : Shape := .m x.op f
    WarpIssues s c g w sh → f.space ≠ .remote → w.progress = none → addressable g w f (x.data f) (x.dsts f) →
    let rs := x.checks (envOf s c g w sh) f
    stopsOn (x.op.toInstr f) sh x.acc rs (meeting rs) s c g w) ∧
  (∀ (f : MForm) (s : State) (c : Context) (g : Group) (w : Warp) (l : Leek), ∀ p ∈ [(MOp.ldu, Access.read), (.stu, .write)],
    let sh : Shape := .m p.1 f
    let e := envOf s c g w sh
    (WarpIssues s c g w sh → w.bad = [] → e.eff ≠ 0 →
      stopsOn (p.1.toInstr f) sh p.2 [(0, e.ea f 1 0, target e f 1 (accBytes f.fmt) p.2 0)] (fun _ => e.eff) s c g w) ∧
    (∀ k va, LeekIssues s c g l sh → l.takes f.pneg f.pred = true →
      let ea := (leekEnvOf s c g l).ea f
      s.resolve (leekEnvOf s c g l).viewer f.space ea.toNat (accBytes f.fmt) (accBytes f.fmt) p.2 f.a = .bad k va →
      exec (p.1.toInstr f) s = .next (if k = .absent then (s.faultRing c.id va p.2 g.cluster).setWait (.leek g.uid) (pageWait va p.2 ea 1)
        else s.leekFault c g l k.cause ea))) ∧
  (∀ (f : MForm) (s : State) (c : Context) (g : Group) (w : Warp) (load : Bool),
    let op : MOp := if load then .ldb else .stb
    let sh : Shape := .m op f
    let i := op.toInstr f
    let e := envOf s c g w sh
    let traps (cause : Byte) (lanes : Mask) : Prop := w.trapMode = false → c.trapBase ≠ 0 →
      exec i s = .next (trapsWith s c g w sh cause 0 lanes w.pc)
    WarpIssues s c g w sh →
    (w.progress = none → g.desc.nbrec ≤ f.brec.toNat → traps 0x01 (live w)) ∧
    (addressable g w f (if load then [] else [Opnd.any f.data f.fmt]) (if load then [f.data] else []) →
      (w.progress = none → f.brec.toNat < g.desc.nbrec → e.eff ≠ 0 →
        let at' := g.desc.brecBase + BitVec.ofNat 64 (40 * f.brec.toNat)
        stopsOn i sh .read ((List.range 40).map fun k => (0, byteAt at' k, e.checkByte (byteAt at' k) .read f.a))
          (fun _ => e.eff) s c g w) ∧
      ∀ o n record, w.progress = some (clean o n (.record [] record)) →
        let r := BRec.ofBytes record
        let illegal := load = false ∧ r.storeIllegal = true
        let rs := e.recChecks f r load (r.elems f.fmt load e.eff (e.ea f 1)) e.eff
        (illegal → traps 0x01 e.eff) ∧
        (¬ illegal → r.tagBad f.fmt = true → traps 0x02 e.eff) ∧
        (¬ illegal → r.tagBad f.fmt = false → stopsOn i sh (if load then .read else .write) rs (meeting rs) s c g w))) ∧
  ∀ (s : State) (ctx va cluster : Nat) (acc : Access) (p : Partition), s.part? (partOf ctx) = some p → s.mem.wf = true →
    let ring := p.ring.toNat
    let cap := (s.mem.read64 ring).toNat
    let written := s.mem.read64 (ring + 8)
    let used := (written - s.mem.read64 (ring + 16)).toNat
    let at' := ring + 64 + 32 * (written.toNat % cap)
    let t := s.faultRing ctx va acc cluster
    ((ctx, va / 4096) ∈ s.faultWait → t = s) ∧
    ((ctx, va / 4096) ∉ s.faultWait → used + 1 ≤ cap →
      t.mem.read64 at' = BitVec.ofNat 64 va ∧
      t.mem.read64 (at' + 8) = BitVec.ofNat 64 (ctx % 2048 + acc.code * 2 ^ 12 + cluster * 2 ^ 16) ∧
      t.mem.read64 (at' + 16) = BitVec.ofNat 64 s.clock ∧ t.mem.read64 (at' + 24) = 0 ∧ t.mem.read64 (ring + 8) = written + 1 ∧
      t.faultWait = (ctx, va / 4096) :: s.faultWait ∧ unchangedOutside s t [(at', 32), (ring + 8, 8)]) ∧
    ((ctx, va / 4096) ∉ s.faultWait → cap < used + 1 →
      t.mem.read64 (ring + 24) = s.mem.read64 (ring + 24) + 1 ∧ t.faultWait = s.faultWait ∧
      unchangedOutside s t [(ring + 24, 8)])

/-! ## Copies, windows and banks -/

namespace Sys2Proof.Says

/-- Whether a copy of `n` bytes may start (R165, R166, R169, R344). -/
abbrev copyAllowed (s : State) (v : Viewer) (f : MForm) (dst src : W64) (n : Nat) (ctl : W32) : Prop :=
  ctlBad ctl v.grp = false ∧ dst.toNat % 32 = 0 ∧ src.toNat % 32 = 0 ∧ n % 32 = 0 ∧
    (f.sub = 1 → n ≠ 0 → (v.ctx.windowOf dst.toNat n).isSome) ∧
    s.rangeFault v f.space .read src.toNat (n / 32) = none ∧ s.rangeFault v .generic .write dst.toNat (n / 32) = none ∧
    s.kindClash v f.space src.toNat dst.toNat (n / 32) = none

/-- The machine after a copy has started. -/
def copyStarted (s : State) (v : Viewer) (who : AgentId) (f : MForm) (dst src : W64) (n : Nat) (ctl : W32) : State :=
  s.startCopy fun u =>
    { uid := u, ctx := v.ctx.id, group := v.grp.uid, cluster := v.grp.cluster, agent := who, shadow := f.sub == 1, publish := false
      scratch := f.space == .scratch, src := src, dst := dst, count := n, done := 0, written := 0, ctl := ctl, status := 0
      held := none }

end Sys2Proof.Says

/-- R165 to R168: an ACOPY that passes its checks completes at once with its copy under way, from a warp and from a Leek thread; one
with no executing lane does nothing. COPY_SECTOR reads the next sector of a copy, and then writes it, two events, the write of a SHADOW
copy going to its window's invisible backing; a sector with an uncorrectable error is passed by and sets STATUS 2. COPY_COMPLETE, when
all have moved, takes the copy away, posts its record and gives its bytes to its barrier. -/
def Obligations.CopiesRunToCompletion : Prop :=
  ∀ (f : MForm) (s : State) (c : Context) (g : Group) (w : Warp) (l : Leek),
    let x (r : Reg) : W64 := w.uni r none .n64
    let y (r : Reg) : W64 := l.src .n64 r none
    (WarpIssues s c g w (.m .acopy f) → w.eff (.m .acopy f) = 0 → exec (.acopy f) s = .next (s.completed c g w (.m .acopy f))) ∧
    (WarpIssues s c g w (.m .acopy f) → w.eff (.m .acopy f) ≠ 0 → w.bad = [] →
      copyAllowed s { ctx := c, grp := g } f (x f.data) (x f.base + offOf f) (lo32 (x f.index)).toNat (hi32 (x f.index)) →
      exec (.acopy f) s = .next ((copyStarted s { ctx := c, grp := g } (.warp g.uid w.id) f (x f.data) (x f.base + offOf f)
        (lo32 (x f.index)).toNat (hi32 (x f.index))).completed c g w (.m .acopy f))) ∧
    (LeekIssues s c g l (.m .acopy f) → l.takes f.pneg f.pred = true →
      copyAllowed s { ctx := c, grp := g } f (y f.data) (y f.base + offOf f) (lo32 (y f.index)).toNat (hi32 (y f.index)) →
      exec (.acopy f) s = .next ((copyStarted s { ctx := c, grp := g } (.leek g.uid) f (y f.data) (y f.base + offOf f)
        (lo32 (y f.index)).toNat (hi32 (y f.index))).leekCompleted g l (.m .acopy f))) ∧
    (∀ (u : Nat) (k : Copy), s.copies.find? (fun k => k.uid == u) = some k →
      (k.over = false → s.ctx? k.ctx = some c → s.group? k.group = some g →
        let v : Viewer := { ctx := c, grp := g }
        (∀ p a fp, k.held = none →
          s.resolveAny v (if k.scratch then .scratch else .generic) ((k.src.toNat + k.done) % 2 ^ 64) .read = .ok p a fp →
          (a = true ∨ s.poisoned p 32 = false → exec (.copySector u) s = .next ((s.fillTlb fp).mapCopy k.uid fun k =>
            { k with held := some (s.mem.read p 32) })) ∧
          (a = false → s.poisoned p 32 = true → exec (.copySector u) s = .next ((s.fillTlb fp).mapCopy k.uid fun k =>
            { k with done := k.done + 32, status := 2 }))) ∧
        (∀ bs q b fq, k.held = some bs →
          let dst := (k.dst.toNat + k.done) % 2 ^ 64
          s.resolveAny v .generic dst .write = .ok q b fq →
          let s1 := s.fillTlb fq
          exec (.copySector u) s = .next ((if k.shadow then s1.mapCtx k.ctx fun x =>
              { x with hidden := x.hidden.write dst bs, hiddenBad := cleanGranules x.hiddenBad dst bs.length }
            else s1.store none q bs).mapCopy k.uid fun k =>
              { k with done := k.done + 32, written := k.written + 32, held := none }))) ∧
      (k.over = true → exec (.copySector u) s = .next s) ∧
      (k.over = true → (ctlEv k.ctl = true → (s.cluster k.cluster).events.length < 64) →
        exec (.copyComplete u) s = .next (
          let s := { s with copies := s.copies.filter fun x => x.uid != k.uid }
          let s := if ctlEv k.ctl then
              s.mapCluster k.cluster fun z => { z with events := z.events ++ [{ group := k.group, record := k.record }] }
            else s
          if ctlBd k.ctl then s.addBytes (.gb k.group (ctlBar k.ctl)) (-(k.written : Int)) else s)))

/-- R169, R170: WINSET binds, rebinds or, with size 0, frees a window of its context; PUBLISH exchanges the backings of its window as
one event and posts a completion. Both complete where no SHADOW copy still writes the window, and wait while one does; a PUBLISH that
issues again waits for no copy that was issued after it. -/
def Obligations.WindowInstructionsComplete : Prop :=
  ∀ (f : MForm) (s : State) (c : Context) (g : Group) (w : Warp), w.bad = [] →
    (WarpIssues s c g w (.m .winset f) → w.eff (.m .winset f) ≠ 0 →
      let e := envOf s c g w (.m .winset f)
      let n := (w.uni f.data none .n32).toNat
      let base := w.uni f.base none .n64 + offOf f
      let size := (w.uni f.index none .n32).toNat
      e.winsetBad n base.toNat size = false →
      (e.shadowRange ((base.toNat, base.toNat + size) ::
        (c.windows.filter fun x => x.n == n).map fun x => (x.base.toNat, x.base.toNat + x.size)) = none →
      exec (.winset f) s = .next ((s.mapCtx c.id fun k => { k with windows :=
        let rest := k.windows.filter fun x => x.n != n
        if size = 0 then rest else { n := n, base := base, size := size } :: rest }).completed c g w (.m .winset f))) ∧
      (∀ r, e.shadowRange ((base.toNat, base.toNat + size) ::
        (c.windows.filter fun x => x.n == n).map fun x => (x.base.toNat, x.base.toNat + x.size)) = some r →
      exec (.winset f) s = .next (s.setWait (.warp g.uid w.id) (.shadows r.1 r.2 s.nextUid)))) ∧
    (∀ win bound, WarpIssues s c g w (.m .publish f) → w.eff (.m .publish f) ≠ 0 →
      ((∀ lo hi b, w.wait ≠ .shadows lo hi b) ∧ bound = s.nextUid ∨ ∃ lo hi, w.wait = .shadows lo hi bound) →
      let va := w.uni f.base none .n64 + offOf f
      let ctl := lo32 (w.uni f.index none .n32)
      ctlBad ctl g = false → c.windowOf va.toNat 1 = some win →
      (s.shadowInto c.id win.base.toNat (win.base.toNat + win.size) bound = false →
        exec (.publish f) s = .next (((s.swapWindow c win (.warp g.uid w.id)).startCopy fun u =>
          { uid := u, ctx := c.id, group := g.uid, cluster := g.cluster, agent := .warp g.uid w.id, shadow := false, publish := true
            scratch := false, src := 0, dst := win.base, count := 0, done := 0, written := 0, ctl := ctl, status := 0
            held := none }).completed c g w (.m .publish f))) ∧
      (s.shadowInto c.id win.base.toNat (win.base.toNat + win.size) bound = true →
        exec (.publish f) s = .next (s.setWait (.warp g.uid w.id)
          (.shadows win.base.toNat (win.base.toNat + win.size) bound)))) ∧
    ∀ op ∈ [MOp.winset, .publish], WarpIssues s c g w (.m op f) → w.eff (.m op f) = 0 →
      exec (op.toInstr f) s = .next (s.completed c g w (.m op f))

/-- R172, R173, R317 to R319: BANKSET gives a block its mode once its bank has drained, or, to free a spilled block, once the
accesses issued before it are over, those begun during the drain among them, and waits until then; that a warp which has read or
buffered a sector of the block by speculation rolls back then is the model's choice (notes/assumptions/24.md). It is ILLEGAL on an
invalid block, and on a spilled one in another mode. BANK_DRAIN_COMPLETE ends a placement's drain, which zeroes the bank, or that of
a BANKSET. FPUSH appends a register's slots to a FIFO with room and FPOP takes its oldest, from a warp and from a Leek thread; FPUSH
waits for room, FPOP for data. -/
def Obligations.BanksAndFifosComplete : Prop :=
  ∀ (f : MForm) (s : State) (c : Context) (g : Group) (w : Warp) (l : Leek), w.bad = [] →
    let n := (w.uni f.data none .n32).toNat
    let k := (w.uni f.index none .n32).toNat
    let lk := (lo32 (l.src .n32 f.index none)).toNat
    let count := if f.fmt.wide then 2 else 1
    let fifoOk (n : Nat) : Prop := n ≤ 31 ∧ (g.block n).valid = true ∧ (g.block n).fifo = true ∧ (g.block n).apx = false
    (WarpIssues s c g w (.m .bankset f) → w.eff (.m .bankset f) ≠ 0 → n ≤ 31 → (g.block n).valid = true →
      let sets : State := ((s.rollBlock c g n).setBank g f.sub.toNat n).completed c g w (.m .bankset f)
      ((g.block n).spill = false → w.wait = .drain (g.block n).bank.toNat ∨ w.wait = .quiet n →
        (s.blockBusy g n = false → exec (.bankset f) s = .next sets) ∧
        (s.blockBusy g n = true → exec (.bankset f) s = .next (s.setWait (.warp g.uid w.id) (.quiet n)))) ∧
      ((g.block n).spill = false → w.wait ≠ .drain (g.block n).bank.toNat → w.wait ≠ .quiet n → exec (.bankset f) s =
        .next ((s.mapCluster g.cluster fun z =>
          { z with drains := (g.block n).bank.toNat :: z.drains }).setWait (.warp g.uid w.id) (.drain (g.block n).bank.toNat))) ∧
      ((g.block n).spill = true → f.sub = 0 → s.blockBusy g n = false → exec (.bankset f) s = .next sets) ∧
      ((g.block n).spill = true → f.sub = 0 → s.blockBusy g n = true → exec (.bankset f) s =
        .next (s.setWait (.warp g.uid w.id) (.quiet n)))) ∧
    (WarpIssues s c g w (.m .bankset f) → w.eff (.m .bankset f) ≠ 0 → w.trapMode = false → c.trapBase ≠ 0 →
      (31 < n ∨ (g.block n).valid = false ∨ ((g.block n).spill = true ∧ f.sub ≠ 0)) →
      exec (.bankset f) s = .next (trapsWith s c g w (.m .bankset f) 0x01 0 (w.eff (.m .bankset f)) w.pc)) ∧
    (∀ cluster bank,
      let mine (x : Group) : Bool := x.cluster == cluster && x.draining.contains bank
      ((∃ x ∈ s.groups, mine x = true) → exec (.bankDrainComplete cluster bank) s =
        .next { (s.zero (bankRange cluster bank).1 (bankRange cluster bank).2) with
          groups := s.groups.map fun x => if mine x then { x with draining := x.draining.filter fun b => b != bank } else x }) ∧
      ((∀ x ∈ s.groups, mine x = false) → bank ∈ (s.cluster cluster).drains → s.bankBusy cluster bank = false →
        exec (.bankDrainComplete cluster bank) s =
          .next (s.mapCluster cluster fun z => { z with drains := z.drains.filter fun b => b != bank })) ∧
      ((∀ x ∈ s.groups, mine x = false) → s.bankBusy cluster bank = true →
        exec (.bankDrainComplete cluster bank) s = .next s)) ∧
    (∀ r, WarpIssues s c g w (.m .fpush f) → f.data = .v r → w.eff (.m .fpush f) ≠ 0 → fifoOk k →
      w.operandFault g.desc.apxFrom f.a [Opnd.of f.data f.fmt] [] [] = none →
      let m := w.eff (.m .fpush f)
      let words (r : Nat) : List Byte :=
        (List.finRange 64).flatMap fun (l : Fin 64) => toBytesLE 4 (if m.getLsbD l then ((w.vreg r).lanes[l]).toNat else 0)
      let slot (r : Nat) : FifoSlot := { bytes := words r, bad := [] }
      ((g.fifo k).length + count ≤ 128 → exec (.fpush f) s = .next ((s.mapFifo g.uid k fun q =>
        q ++ slot r.val :: if f.fmt.wide then [slot (r.val + 1)] else []).completed c g w (.m .fpush f))) ∧
      (128 < (g.fifo k).length + count → exec (.fpush f) s = .next (s.setWait (.warp g.uid w.id) (.fifoRoom k count)))) ∧
    (∀ r, WarpIssues s c g w (.m .fpop f) → f.data = .v r → w.eff (.m .fpop f) ≠ 0 → fifoOk k →
      w.operandFault g.desc.apxFrom f.a [] [] [f.data] = none →
      let lo := (g.fifo k).getD 0 { bytes := [], bad := [] }
      let hi := if f.fmt.wide then (g.fifo k).getD 1 { bytes := [], bad := [] } else { bytes := [], bad := [] }
      ((g.fifo k).length < count → exec (.fpop f) s = .next (s.setWait (.warp g.uid w.id) (.fifoData k count))) ∧
      (count ≤ (g.fifo k).length → lo.bad = [] → hi.bad = [] → exec (.fpop f) s = .next (((s.mapFifo g.uid k fun q => q.drop count).putWarp g w (loadsInto w (.m .fpop f) f
        (laneVal ((List.finRange 64).map fun i => (i, BitVec.ofNat 64 (slotWord lo i + slotWord hi i * 2 ^ 32)))))).completed
          c g w (.m .fpop f)))) ∧
    (LeekIssues s c g l (.m .fpush f) → l.takes f.pneg f.pred = true → fifoOk lk →
      ((g.fifo lk).length < 128 → exec (.fpush f) s = .next ((s.mapFifo g.uid lk fun q =>
        q ++ [{ bytes := toBytesLE 8 (l.src .n64 f.data none).toNat ++ List.replicate 248 0, bad := [] }]).leekCompleted
          g l (.m .fpush f))) ∧
      (128 ≤ (g.fifo lk).length → exec (.fpush f) s = .next (s.setWait (.leek g.uid) (.fifoRoom lk 1)))) ∧
    (LeekIssues s c g l (.m .fpop f) → l.takes f.pneg f.pred = true → fifoOk lk →
      (g.fifo lk = [] → exec (.fpop f) s = .next (s.setWait (.leek g.uid) (.fifoData lk 1))) ∧
      (∀ x rest, g.fifo lk = x :: rest → x.bad.contains 0 = false →
        exec (.fpop f) s = .next (((s.mapFifo g.uid lk List.tail).mapLeek g.uid fun l =>
          l.writeG f.data (valueOfBytes (x.bytes.take 8))).leekCompleted g l (.m .fpop f))))

/-! ## Barriers -/

namespace Sys2Proof.Says

/-- A barrier instruction of warp `w` names the barrier `id`, and no register holds an error. -/
abbrev names (s : State) (c : Context) (g : Group) (w : Warp) (sh : Shape) (f : LForm) (item gbOnly : Bool) (id : BarId) : Prop :=
  w.bad = [] ∧ barOf g false item gbOnly ((envOf s c g w sh).bsel f) = some id

/-- A barrier instruction of a Leek thread names the barrier `id`. -/
abbrev leekNames (s : State) (c : Context) (g : Group) (l : Leek) (f : LForm) (item : Bool) (id : BarId) : Prop :=
  barOf g true item false ((leekEnvOf s c g l).bsel f) = some id

/-- The machine `t` after a wait of warp `w` is over: a wait that a roll-back left is forgotten (R213). -/
def waited (t : State) (g : Group) (w : Warp) : State :=
  t.mapWarp g.uid w.id fun x => if x.noSpec == some w.pc then { x with noSpec := none } else x

/-- The machine after the latches of warp `w` have become invalid (R49). -/
def dropped (s : State) (g : Group) (w : Warp) : State := s.putWarp g w w.dropLatches

/-- The machine after an agent has met a stopped phase: OVERDELIVERY of every live lane, with the selector in TADDR (R206). -/
def overdelivers (s : State) (c : Context) (g : Group) (w : Warp) (op : LOp) (f : LForm) : State :=
  trapsWith s c g w (.l op f) 0x0B (zx64 ((envOf s c g w (.l op f)).bsel f)) (live w) w.pc

/-- A timed wait at its limit: of a phase that is not over by then, with whether a member is debug-blocked (R204). -/
def expired (s : State) : Wait → Wait
  | .timed id n d => if d ≤ s.clock ∧ s.phaseOver id n = false then .expired id n d (s.someBlocked id) else .timed id n d
  | x => x

/-- A barrier's number is one of its group's 16 or its span's 8. -/
def inRange : BarId → Prop
  | .gb _ n => n < 16
  | .sb _ n => n < 8

end Sys2Proof.Says

/-- R201: a phase completes at the moment when every member has arrived and the byte count is 0, be it by an arrival or by a change
of the count: the phase number rises by one, and the next phase has no arrival, no byte and a watchdog count of 0. Before, an
arrival is noted in the set and as the agent's latest, and the count changes. A member that ends is taken out of the set, so that
the phase waits for it in vain. -/
def Obligations.PhasesCompleteWhenAllHaveArrived : Prop :=
  ∀ (s : State) (id : BarId) (a : AgentId) (b : Barrier), inRange id → s.bar? id = some b → b.stopped = false →
    let b' : Barrier := { b with arrived := a :: b.arrived, latest := (a, b.phase) :: b.latest.filter fun x => x.1 != a }
    ((∃ m ∈ s.members id, m.agent ∉ b'.arrived) ∨ s.members id = [] ∨ 0 < b.bytes → (s.arrive id a).bar? id = some b') ∧
    (s.members id ≠ [] → (∀ m ∈ s.members id, m.agent ∈ b'.arrived) → b.bytes = 0 →
      (s.arrive id a).bar? id =
        some { b' with phase := b.phase + 1, arrived := [], bytes := 0, count := 0, doneAt := s.clock }) ∧
    b'.latestOf a = some b.phase ∧
    (∀ n : Int, -2 ^ 63 ≤ b.bytes + n → b.bytes + n < 2 ^ 63 →
      ((∃ m ∈ s.members id, m.agent ∉ b.arrived) ∨ s.members id = [] ∨ 0 < b.bytes + n →
        (s.addBytes id n).bar? id = some { b with bytes := b.bytes + n }) ∧
      (s.members id ≠ [] → (∀ m ∈ s.members id, m.agent ∈ b.arrived) → b.bytes + n = 0 →
        (s.addBytes id n).bar? id =
          some { b with phase := b.phase + 1, arrived := [], bytes := 0, count := 0, doneAt := s.clock })) ∧
    ∀ (g : Group) (k : Nat), id = .gb g.uid k ∨ id = .sb g.span k →
      (s.depart g a).bar? id = some { b with arrived := b.arrived.filter fun x => x != a }

/-- R199, R203, R206, R209, R213: BARARR of an agent that has not arrived arrives and completes; of one that has, it waits for the
next phase. BARWAIT completes where the phase of the agent's latest arrival is over, waits where it is not, and with .S under
SPEC goes on speculatively from a checkpoint. BARSYNC arrives, then waits, with .S and without; issued again after its arrival it is
the wait alone. An agent that meets a stopped phase, at a second arrival or at a wait, takes OVERDELIVERY and never speculates;
BARSYNC whose own arrival stops the phase, or that arrives at a stopped one, waits and meets it when it issues again. What an arrival
that stops the phase, or meets a stopped one, does, and that a warp which never arrived passes a stopped phase, are the model's
reading (DEDUCED, notes/assumptions/20.md). -/
def Obligations.BarrierArrivalsAndWaits : Prop :=
  ∀ (f : LForm) (s : State) (c : Context) (g : Group) (w : Warp) (id : BarId) (b : Barrier), s.bar? id = some b →
    let me := AgentId.warp g.uid w.id
    let d := dropped s g w
    (WarpIssues s c g w (.l .bararr f) → names s c g w (.l .bararr f) f false false id →
      (me ∉ b.arrived → exec (.bararr f) s = .next ((s.arrive id me).completed c g w (.l .bararr f))) ∧
      (me ∈ b.arrived → b.stopped = false → exec (.bararr f) s = .next (s.setWait me (.rearrive id b.phase))) ∧
      (me ∈ b.arrived → b.stopped = true → w.trapMode = false → c.trapBase ≠ 0 →
        exec (.bararr f) s = .next (overdelivers s c g w .bararr f))) ∧
    (∀ b', WarpIssues s c g w (.l .barwait f) → names s c g w (.l .barwait f) f false (f.sub == 1) id → d.bar? id = some b' →
      ((∀ n, b'.latestOf me = some n → n < b'.phase) →
        exec (.barwait f) s = .next ((waited d g w).completed c g w (.l .barwait f))) ∧
      (∀ n, b'.latestOf me = some n → b'.phase ≤ n → b'.stopped = false →
        (f.sub ≠ 1 ∨ g.desc.spec = false ∨ w.noSpec = some w.pc → exec (.barwait f) s = .next (d.setWait me (.phase id n))) ∧
        (∀ u k, id = .gb u k → f.sub = 1 → g.desc.spec = true → w.noSpec ≠ some w.pc →
          exec (.barwait f) s = .next ((d.mapWarp g.uid w.id fun x =>
            { x with spec := some (w.checkpoint k n) }).completed c g w (.l .barwait f)))) ∧
      (∀ n, b'.latestOf me = some n → b'.phase ≤ n → b'.stopped = true → w.trapMode = false → c.trapBase ≠ 0 →
        exec (.barwait f) s = .next (overdelivers s c g w .barwait f))) ∧
    (∀ b', WarpIssues s c g w (.l .barsync f) → names s c g w (.l .barsync f) f false (f.sub == 1) id →
      w.wait.afterArrival = false → w.noSpec ≠ some w.pc → d.bar? id = some b' →
      (me ∈ b'.arrived → b'.stopped = false → exec (.barsync f) s = .next (d.setWait me (.rearrive id b'.phase))) ∧
      (me ∈ b'.arrived → b'.stopped = true → w.trapMode = false → c.trapBase ≠ 0 →
        exec (.barsync f) s = .next (overdelivers s c g w .barsync f)) ∧
      (me ∉ b'.arrived → ∀ b2, (d.arrive id me).bar? id = some b2 → ∀ n, b2.latestOf me = some n →
        (n < b2.phase → exec (.barsync f) s = .next ((waited (d.arrive id me) g w).completed c g w (.l .barsync f))) ∧
        (b2.phase ≤ n → b2.stopped = false →
          (f.sub ≠ 1 ∨ g.desc.spec = false → exec (.barsync f) s = .next ((d.arrive id me).setWait me (.phase id n))) ∧
          (∀ u k, id = .gb u k → f.sub = 1 → g.desc.spec = true →
            exec (.barsync f) s = .next (((d.arrive id me).mapWarp g.uid w.id fun x =>
              { x with spec := some (w.checkpoint k n) }).completed c g w (.l .barsync f)))) ∧
        (b2.phase ≤ n → b2.stopped = true →
          exec (.barsync f) s = .next ((d.arrive id me).setWait me (.phase id b2.phase))))) ∧
    (∀ b', WarpIssues s c g w (.l .barsync f) → names s c g w (.l .barsync f) f false (f.sub == 1) id →
      w.wait.afterArrival = true ∨ w.noSpec = some w.pc → d.bar? id = some b' →
      ((∀ n, b'.latestOf me = some n → n < b'.phase) →
        exec (.barsync f) s = .next ((waited d g w).completed c g w (.l .barsync f))) ∧
      (∀ n, b'.latestOf me = some n → b'.phase ≤ n → b'.stopped = false → f.sub ≠ 1 ∨ g.desc.spec = false ∨ w.noSpec = some w.pc →
        exec (.barsync f) s = .next (d.setWait me (.phase id n))) ∧
      (∀ n, b'.latestOf me = some n → b'.phase ≤ n → b'.stopped = true → w.trapMode = false → c.trapBase ≠ 0 →
        exec (.barsync f) s = .next (overdelivers s c g w .barsync f)))

/-- R203 to R208, R222, R307, R373: BARWAITT with a phase that is over writes 0, or all ones in a k register, at once; with limit 0 and
a phase that is not it writes 1, or 3 where a member is debug-blocked; otherwise it waits until its limit. BARWAITT_TIMEOUT at the
limit lets it issue again, and it writes 0 where the phase was completed by then, else 1 or 3. BAREXP adds to the bytes expected,
BARSTAT writes the chosen item of the barrier's state. The Leek core has the same arrival, wait, synchronisation, snapshot, byte count
and timed wait. BARTIMEOUT at a watchdog's limit writes its record and terminates the context: the record, the diagnostic buffers and
the kills of its counters are left to the part, step by step, in this order (said of a context with no counter event held); that a
buffer in a scratch bank is written at once is the model's choice (notes/assumptions/39.md). What BARARR and BARSYNC do at a stopped
phase, that BARWAIT, BARSYNC and BARWAITT of an agent that never arrived pass one, and which members count as debug-blocked for code
3, are the model's reading (DEDUCED, notes/assumptions/20.md). -/
def Obligations.TimedWaitsAndBarrierStateComplete : Prop :=
  (∀ (f : LForm) (s : State) (c : Context) (g : Group) (w : Warp) (id : BarId) (b : Barrier), s.bar? id = some b →
     let me := AgentId.warp g.uid w.id
     let limit := (lo32 (w.uni f.src1 none .n32)).toNat
     let writes' (n : Nat) : State := s.putWarp g w (w.dropLatches.putCode f.dst n)
     (WarpIssues s c g w (.l .barwaitt f) → names s c g w (.l .barwaitt f) f false false id →
       (∀ y n d x, w.wait ≠ .expired y n d x) → (∀ y n d, w.wait ≠ .timed y n d) →
       ((∀ n, b.latestOf me = some n → n < b.phase) →
         exec (.barwaitt f) s = .next ((writes' 0).completed c g w (.l .barwaitt f))) ∧
       (∀ n, b.latestOf me = some n → b.phase ≤ n → b.stopped = false →
         (limit = 0 → exec (.barwaitt f) s =
           .next ((writes' (if s.someBlocked id then 3 else 1)).completed c g w (.l .barwaitt f))) ∧
         (limit ≠ 0 → exec (.barwaitt f) s = .next ((dropped s g w).setWait me (.timed id n (s.clock + limit))))) ∧
       (∀ n, b.latestOf me = some n → b.phase ≤ n → b.stopped = true → w.trapMode = false → c.trapBase ≠ 0 →
         exec (.barwaitt f) s = .next (overdelivers s c g w .barwaitt f))) ∧
     (∀ y n d blocked, WarpIssues s c g w (.l .barwaitt f) → names s c g w (.l .barwaitt f) f false false id →
       w.wait = .expired y n d blocked →
       exec (.barwaitt f) s = .next ((writes' (if n < b.phase ∧ b.doneAt ≤ d then 0 else if blocked then 3 else 1)).completed
         c g w (.l .barwaitt f))) ∧
     (∀ y n d, WarpIssues s c g w (.l .barwaitt f) → names s c g w (.l .barwaitt f) f false false id → w.wait = .timed y n d →
       (n < b.phase → exec (.barwaitt f) s = .next ((writes' 0).completed c g w (.l .barwaitt f))) ∧
       (b.phase ≤ n → b.stopped = false → exec (.barwaitt f) s = .next ((dropped s g w).setWait me (.timed id n d)))) ∧
     (WarpIssues s c g w (.l .barexp f) → names s c g w (.l .barexp f) f false true id →
       exec (.barexp f) s = .next ((s.addBytes id limit).completed c g w (.l .barexp f))) ∧
     (WarpIssues s c g w (.l .barstat f) → names s c g w (.l .barstat f) f true false id →
       exec (.barstat f) s = .next ((s.putWarp g w (w.putPair f.dst (s.barSnapshot g.uid id
         (bitsOf ((envOf s c g w (.l .barstat f)).bsel f).toNat 8 3)))).completed c g w (.l .barstat f))) ∧
     exec (.barwaittTimeout me) s = .next (s.mapWarp g.uid w.id fun x => { x with wait := expired s x.wait })) ∧
  (∀ (f : LForm) (s : State) (c : Context) (g : Group) (l : Leek) (id : BarId) (b : Barrier), s.bar? id = some b →
     let me := AgentId.leek g.uid
     let overdelivers : State := s.leekFault c g l .overdelivery (zx64 ((leekEnvOf s c g l).bsel f))
     let writes' (n : Nat) : State := s.putLeek g (match f.dst with
       | .k k => l.writeK k (n == 0)
       | r => l.writeG r (BitVec.ofNat 64 n))
     (LeekIssues s c g l (.l .bararr f) → leekNames s c g l f false id →
       (me ∉ b.arrived → exec (.bararr f) s = .next ((s.arrive id me).leekCompleted g l (.l .bararr f))) ∧
       (me ∈ b.arrived → b.stopped = false → exec (.bararr f) s = .next (s.setWait me (.rearrive id b.phase))) ∧
       (me ∈ b.arrived → b.stopped = true → exec (.bararr f) s = .next overdelivers)) ∧
     (LeekIssues s c g l (.l .barwait f) → leekNames s c g l f false id →
       ((∀ n, b.latestOf me = some n → n < b.phase) → exec (.barwait f) s = .next (s.leekCompleted g l (.l .barwait f))) ∧
       (∀ n, b.latestOf me = some n → b.phase ≤ n →
         exec (.barwait f) s = .next (if b.stopped then overdelivers else s.setWait me (.phase id n)))) ∧
     (LeekIssues s c g l (.l .barsync f) → leekNames s c g l f false id → l.wait.afterArrival = false →
       (me ∈ b.arrived → exec (.barsync f) s =
         .next (if b.stopped then overdelivers else s.setWait me (.rearrive id b.phase))) ∧
       (me ∉ b.arrived → ∀ b2, (s.arrive id me).bar? id = some b2 → ∀ n, b2.latestOf me = some n →
         (n < b2.phase → exec (.barsync f) s = .next ((s.arrive id me).leekCompleted g l (.l .barsync f))) ∧
         (b2.phase ≤ n → b2.stopped = false → exec (.barsync f) s = .next ((s.arrive id me).setWait me (.phase id n))))) ∧
     (LeekIssues s c g l (.l .barsync f) → leekNames s c g l f false id → l.wait.afterArrival = true →
       ((∀ n, b.latestOf me = some n → n < b.phase) → exec (.barsync f) s = .next (s.leekCompleted g l (.l .barsync f))) ∧
       (∀ n, b.latestOf me = some n → b.phase ≤ n →
         exec (.barsync f) s = .next (if b.stopped then overdelivers else s.setWait me (.phase id n)))) ∧
     (LeekIssues s c g l (.l .barexp f) → leekNames s c g l f false id →
       exec (.barexp f) s = .next ((s.addBytes id (lo32 (l.src .n32 f.src1 none)).toNat).leekCompleted g l (.l .barexp f))) ∧
     (LeekIssues s c g l (.l .barstat f) → leekNames s c g l f true id →
       exec (.barstat f) s = .next ((s.putLeek g (l.writeG f.dst (s.barSnapshot g.uid id
         (bitsOf ((leekEnvOf s c g l).bsel f).toNat 8 3)))).leekCompleted g l (.l .barstat f))) ∧
     (LeekIssues s c g l (.l .barwaitt f) → leekNames s c g l f false id →
       let limit := (lo32 (l.src .n32 f.src1 none)).toNat
       ((∀ y n d x, l.wait ≠ .expired y n d x) → (∀ y n d, l.wait ≠ .timed y n d) →
         ((∀ n, b.latestOf me = some n → n < b.phase) →
           exec (.barwaitt f) s = .next ((writes' 0).leekCompleted g l (.l .barwaitt f))) ∧
         (∀ n, b.latestOf me = some n → b.phase ≤ n →
           (b.stopped = true → exec (.barwaitt f) s = .next overdelivers) ∧
           (b.stopped = false → limit = 0 → exec (.barwaitt f) s =
             .next ((writes' (if s.someBlocked id then 3 else 1)).leekCompleted g l (.l .barwaitt f))) ∧
           (b.stopped = false → limit ≠ 0 → exec (.barwaitt f) s = .next (s.setWait me (.timed id n (s.clock + limit)))))) ∧
       (∀ y n d blocked, l.wait = .expired y n d blocked → exec (.barwaitt f) s =
         .next ((writes' (if n < b.phase ∧ b.doneAt ≤ d then 0 else if blocked then 3 else 1)).leekCompleted g l (.l .barwaitt f))) ∧
       (∀ y n d, l.wait = .timed y n d →
         (n < b.phase → exec (.barwaitt f) s = .next ((writes' 0).leekCompleted g l (.l .barwaitt f))) ∧
         (b.phase ≤ n → b.stopped = false → exec (.barwaitt f) s = .next (s.setWait me (.timed id n d))))) ∧
     exec (.barwaittTimeout me) s = .next (s.mapLeek g.uid fun x => { x with wait := expired s x.wait })) ∧
  (∀ (s : State) (id : BarId) (b : Barrier) (g : Group) (c : Context), s.bar? id = some b → s.barGroup id = some g →
     s.ctx? g.ctx = some c → watchLimit c g.desc ≤ b.count → s.partRuns (partOf c.id) = true →
     let ws := s.watchRecord id b g (watchLimit c g.desc)
     let r := (s.wdsetPieces c ws ++ s.diagPieces c none g.desc.watchBuf ws).partition fun x => sramAt ≤ x.1
     let then' : List Todo := .record c.id (fourEntries ws) :: r.2.map fun x => .piece c.id x.1 x.2
     ∃ t, exec (.bartimeout id) s = .next t ∧ t = (s.storeAll none r.1).terminate c.id then' ∧
       ((∀ h ∈ s.held, h.item.ctx ≠ c.id) → t.todo = s.todo ++ then' ++
         (((s.openJoins c.id).filter fun j => j.1 != 0).map fun j => .count (.kill c.id j.1 j.2))) ∧
       (∀ x ∈ t.groups, x.ctx ≠ c.id) ∧ ∀ x ∈ t.ctxs, x.id = c.id → x.run = .terminated)

/-! ## Speculation -/

namespace Sys2Proof.Says

/-- Warp `w` of group `g` in context `c`, which speculates with `p`, issues an instruction that the encoding, the descriptor and the
mode allow and that does not stall by its opcode (R57, R211). -/
structure Speculates (s : State) (c : Context) (g : Group) (w : Warp) (p : Spec) (sh : Shape) : Prop where
  issuer : s.issuer = some (.warp c g w)
  spec   : w.spec = some p
  legal  : sh.legal false g.desc.vcount g.desc.scount = true
  mode   : sh.modeOk w.trapMode c.system = true
  sig    : w.sigBad (issueOf sh w) = false
  goes   : sh.stalls = false

/-- The machine once the speculating warp has stalled for its phase (R211). -/
def stalled (t : State) (g : Group) (w : Warp) : State := t.setWait (.warp g.uid w.id) .speculation

/-- The memory opcodes that stall while the warp speculates, in every space (R211). -/
def stallingMem : List MOp := [.atom, .vatom, .acopy, .publish, .winset, .bankset, .fpush, .fpop, .waitr]

/-- The opcodes of form L that stall, besides those from 0xE0 up (R211). -/
def stallingOps : List LOp :=
  [.emit, .joindec, .evpop, .evwait, .bararr, .barwait, .barsync, .barwaitt, .barexp, .barstat, .rand, .qset, .brk]

/-- Whether a first write of a register takes a shadow (R210). -/
def unsaved (p : Spec) (n : Nat) : Nat := if p.shadows.any fun x => x.1 == n then 0 else 1

/-- Whether the shadows have room for a write of a register, or of a pair (R210). -/
abbrev hasShadows (p : Spec) (n : Nat) (wide : Bool) : Prop :=
  p.shadows.length + unsaved p n + (if wide then unsaved p (n + 1) else 0) ≤ 32

/-- What a lane of a speculating warp loads: its own buffered bytes, and memory's where it has none (R210). -/
def seenAt (e : Env) (f : MForm) (scale : Nat) (l : Fin 64) : W64 :=
  if e.eff.getLsbD l then
    let r := target e f scale (accBytes f.fmt) .read l
    e.lossy f.fmt (apxIn r) l (valueOfBytes (e.s.loadBytes e.w (placeIn r) (accBytes f.fmt)))
  else 0

/-- The speculation after reads of some sectors, and after stores (R210). -/
def readsMore (p : Spec) (sectors : List Nat) : Spec := { p with reads := (p.reads ++ sectors).eraseDups }
def storesMore (p : Spec) (xs : List (Nat × List Byte)) : Spec := { p with stores := p.stores ++ xs }

/-- Whether the store buffer holds a speculation's stores: at most 128 sectors (R210). -/
abbrev bufferFits (p : Spec) : Prop := (p.stores.flatMap fun x => sectorsOf x.1 x.2.length).eraseDups.length ≤ 128

/-- Warp `w` of group `g` as it stands in a state. -/
def warpIn (t : State) (g : Group) (w : Warp) : Option Warp := (t.group? g.uid).bind fun x => x.warp? w.id

end Sys2Proof.Says

/-- R209 to R215: what a warp that speculates past a barrier may do and change. The opcodes of R211, every remote access, what the
encoding or the mode forbids, what would fault, an EXIT, long or short, that would end the warp, an LDB or STB through a record with XL = 1,
and what finds no shadow, buffer or read-set entry free stall, with nothing done but translations filled. An integer instruction completes as ever, its destination's first write saved. LD
and LDS take their own buffered bytes, the last store first, and else memory's, and note their sectors. ST, STS and STU go into the
buffer and change no memory. A store of another agent into a sector of the read set rolls the warp back at once, to the checkpoint, its
shadows and its wait, with no latch; another store leaves it as it is. When the phase completes, the warps that speculate past it commit
in ascending order, each with its stores as its own events. That a warp asleep sleeps on across a roll-back is the model's reading of
R191 (DEDUCED, notes/assumptions/21.md). -/
def Obligations.SpeculationBuffersStallsAndRollsBack : Prop :=
  ∀ (s : State) (c : Context) (g : Group) (w : Warp) (p : Spec), s.issuer = some (.warp c g w) → w.spec = some p →
    let me := AgentId.warp g.uid w.id
    let stalls (i : Instr) : Prop := exec i s = .next (stalled s g w)
    let u := w.rollback
    -- what stalls
    (∀ op f, op ∈ stallingMem ∨ f.space = .remote → stalls (MOp.toInstr op f)) ∧
    (∀ op f, op ∈ stallingOps ∨ 0xE0 ≤ (LOp.code op).toNat → stalls (op.toInstr f)) ∧
    (∀ i sh, i.shape = some sh → (∀ r, sh ≠ .p r) →
      (sh.legal false g.desc.vcount g.desc.scount = false ∨ sh.modeOk w.trapMode c.system = false) → stalls i) ∧
    (∀ f, Speculates s c g w p (.b .exit f) →
      (unwind w.dead (w.exec &&& ~~~(takers w f.pneg f.pred)) (w.pc + 8) (w.join.map (JoinEntry.without (takers w f.pneg f.pred)))).2
        = none → stalls (.exit f)) ∧
    (∀ pneg pred, Speculates s c g w p (.sb .exit 0 pneg pred) →
      (unwind w.dead (w.exec &&& ~~~(takers w pneg pred)) (w.pc + 4) (w.join.map (JoinEntry.without (takers w pneg pred)))).2
        = none → stalls (.exitShort pneg pred)) ∧
    (∀ (load : Bool) (f : MForm) bytes fill, let op : MOp := if load then .ldb else .stb
      let e := envOf s c g w (.m op f)
      Speculates s c g w p (.m op f) → w.progress = none → f.brec.toNat < g.desc.nbrec → s.poison = [] →
      addressable g w f (if load then [] else [Opnd.any f.data f.fmt]) (if load then [f.data] else []) → e.eff ≠ 0 →
      e.recordBytes f = .ok (bytes, fill) → (BRec.ofBytes (s.bytesAt w (bytes.map fun b => b.2.1))).xl = true →
      stalls (op.toInstr f) ∨ exec (op.toInstr f) s = .next (stalled (s.fillTlb fill) g w)) ∧
    -- registers
    (∀ x ∈ intOps, ∀ f, Speculates s c g w p (.l x.1 f) →
      (∀ k, w.operandFault g.desc.apxFrom f.a (x.2.os f) [] [f.dst] = some k → stalls (x.1.toInstr f)) ∧
      (readable g w f.a (x.2.os f) [] [f.dst] →
        ((∀ d, f.dst = .v d → f.nw = false → hasShadows p d.val f.fmt.wide) →
          exec (x.1.toInstr f) s = .next ((intRow x).next f s c g w)) ∧
        (∀ d, f.dst = .v d → f.nw = false → ¬ hasShadows p d.val f.fmt.wide → stalls (x.1.toInstr f)))) ∧
    (∀ n x w', x.nw = false → x.wide = false → w.writeVec n x = some w' → ∃ q, w'.spec = some q ∧
      q.shadows = (if unsaved p n = 1 then [(n, w.vreg n)] else []) ++ p.shadows) ∧
    -- memory
    (∀ x ∈ loadsAndStores, ∀ f, Speculates s c g w p (.m x.op f) → addressable g w f (x.data f) (x.dsts f) →
      ∀ k l ea, reports (x.checks (envOf s c g w (.m x.op f)) f) k l ea → stalls (x.op.toInstr f)) ∧
    (∀ x ∈ loadOps, ∀ (f : MForm) (d : Fin 256), let sh : Shape := .m x.1 f
      Speculates s c g w p sh → addressable g w f [] [f.data] → f.data = .v d → f.nw = false → s.poison = [] →
      let e := envOf s c g w sh
      let n := accBytes f.fmt
      reachable e f (x.2 f) n .read →
      let s1 := s.fillTlb (fills e f (x.2 f) n .read)
      let q := readsMore p ((accesses e f (x.2 f) n .read).flatMap fun y => sectorsOf y.2.2.1 n)
      (q.reads.length ≤ 256 → hasShadows p d.val f.fmt.wide → exec (x.1.toInstr f) s = .next (((s1.drawn
          (if (Mask.lanes e.eff).any fun l => apxIn (target e f (x.2 f) n .read l) then 512 else 0)).putWarp g w
        (loadsInto { w with spec := some q } sh f (seenAt e f (x.2 f)))).completed c g w sh)) ∧
      (q.reads.length ≤ 256 → ¬ hasShadows p d.val f.fmt.wide → stalls (x.1.toInstr f)) ∧
      (256 < q.reads.length → exec (x.1.toInstr f) s = .next (stalled s1 g w))) ∧
    (∀ place n i, i < n → ∃ b, (s.loadBytes w place n)[i]? = some b ∧
      ((∀ y ∈ p.stores, place + i < y.1 ∨ y.1 + y.2.length ≤ place + i) → b = s.mem.get (place + i)) ∧
      (∀ before y after, p.stores = before ++ y :: after → y.1 ≤ place + i → place + i < y.1 + y.2.length →
        (∀ z ∈ after, place + i < z.1 ∨ z.1 + z.2.length ≤ place + i) → y.2[place + i - y.1]? = some b)) ∧
    (∀ x ∈ storeOps, ∀ f, let sh : Shape := .m x.1 f
      Speculates s c g w p sh → addressable g w f [Opnd.any f.data f.fmt] [] →
      let e := envOf s c g w sh
      let n := accBytes f.fmt
      (∀ l : Fin 64, e.eff.getLsbD l → ∃ place apx fill, target e f (x.2 f) n .write l = .ok place apx fill) →
      let s1 := s.fillTlb (fills e f (x.2 f) n .write)
      let q := storesMore p (storesOf e f (x.2 f))
      let t := (s1.mapWarp g.uid w.id fun y => { y with spec := some q }).completed c g w sh
      (bufferFits q → exec (x.1.toInstr f) s = .next t ∧ t.mem = s.mem) ∧
      (¬ bufferFits q → exec (x.1.toInstr f) s = .next (stalled s1 g w))) ∧
    (∀ (f : MForm) place apx fill, let sh : Shape := .m .stu f
      Speculates s c g w p sh → w.bad = [] → w.eff sh ≠ 0 → target (envOf s c g w sh) f 1 (accBytes f.fmt) .write 0 = .ok place apx fill →
      let q := storesMore p [(place, toBytesLE (accBytes f.fmt) (w.uni f.data none f.fmt).toNat)]
      (bufferFits q → exec (.stu f) s = .next (((s.fillTlb fill).putWarp g w { w with spec := some q }).completed c g w sh)) ∧
      (¬ bufferFits q → exec (.stu f) s = .next (stalled (s.fillTlb fill) g w))) ∧
    -- roll-back
    (u = { w with
        v := u.v, s := p.sregs, k := p.ks, exec := p.exec, join := p.join, sigw := p.sigw, flags := p.flags, pc := p.pc
        spec := none, noSpec := some p.pc, latches := Vector.replicate 4 none, rep := none, progress := none, bad := u.bad
        wait := (match w.wait with
          | .sleep t => .sleep t
          | _ => .ready) } ∧
      (∀ n, n < 256 → (∀ r, (n, r) ∉ p.shadows) → u.vreg n = w.vreg n) ∧
      (∀ n r, n < 256 → (n, r) ∈ p.shadows → (∀ r', (n, r') ∈ p.shadows → r' = r) → u.vreg n = r)) ∧
    (∀ who place bs,
      let t := s.store who place bs
      t.mem = s.mem.write place bs ∧
      ((∃ x ∈ sectorsOf place bs.length, x ∈ p.reads) → who ≠ some me → warpIn t g w = some w.rollback ∧
        (t.ctx? c.id).map (fun x => x.perf[1]) =
          some (c.perf[1] + BitVec.ofNat 64 (conflictCount s.groups c.id who (sectorsOf place bs.length)))) ∧
      ((∀ x ∈ sectorsOf place bs.length, x ∉ p.reads) ∨ who = some me → warpIn t g w = some w)) ∧
    -- commit
    (∀ b n, s.bar? (.gb g.uid n) = some b → b.stopped = false → b.bytes = 0 → s.members (.gb g.uid n) ≠ [] →
      (∀ m ∈ s.members (.gb g.uid n), m.agent ∈ b.arrived) →
      s.settle (.gb g.uid n) = (s.mapBar (.gb g.uid n) (Barrier.next s.clock)).commitAll g.uid n (g.warps.map Warp.id)) ∧
    (∀ rest, s.commitAll g.uid p.bar (w.id :: rest) = State.commitAll (((s.mapWarp g.uid w.id fun x =>
        { x with spec := none, wait := if x.wait = .speculation then .ready else x.wait }).storeAll (some me) p.stores).perfAdd
          g.ctx 2 1) g.uid p.bar rest) ∧
    (∀ n rest, n ≠ p.bar → s.commitAll g.uid n (w.id :: rest) = s.commitAll g.uid n rest)

/-! ## Pods, counters and events -/

/-- R217, R218, R408: EMIT with room in its queues counts each pod in its counter, enqueues them in lane order and sets its mask in
the executing lanes; without room it waits (.BLOCK) or clears its mask. While events of a counter that it names wait for a page, EMIT
waits too, and so does JOINDEC. JOINDEC subtracts from its counter only what it holds, keeps
the counter's other half, writes the old count, and releases the continuation where the count becomes 0; without an executing lane it
does nothing. That both wait at issue while events of their counter are held is the model's reading of R408's 'nothing overtakes'
(DEDUCED, notes/assumptions/22.md). -/
def Obligations.EmissionAndJoinsComplete : Prop :=
  ∀ (f : LForm) (s : State) (c : Context) (g : Group) (w : Warp), w.bad = [] →
    (WarpIssues s c g w (.l .emit f) → (podOs f).all (fun o => !w.isApx g.desc.apxFrom o.reg) = true →
      let e := envOf s c g w (.l .emit f)
      let qsel := lo32 (w.uni f.src1 f.imm .n32)
      let pods := e.pods f e.eff
      let needs := emitNeeds qsel pods
      let s1 := s.stopBroken c (needs.map Prod.fst)
      let room := needs.all fun x => x.2 ≤ s1.roomIn ((s1.ctx? c.id).getD c) x.1
      (e.eff = 0 → exec (.emit f) s = .next (s.completed c g w (.l .emit f))) ∧
      (e.eff ≠ 0 → pods ≠ [] → e.emitFault f qsel pods e.eff = none →
        let held (p : Fin 64 × List Byte) : Bool := (Pod.ofBytes p.2).join != 0 && s.counterHeld c.id (Pod.ofBytes p.2).join
        (∀ p, pods.find? held = some p →
          exec (.emit f) s = .next (s.setWait (.warp g.uid w.id) (.counter (Pod.ofBytes p.2).join))) ∧
        (pods.find? held = none →
        (room = true → exec (.emit f) s = .next (((pods.foldl (fun t p => t.emitPod c.id qsel p.2) s1).mapWarp g.uid w.id fun x =>
          (x.putFlagK f.dst 0 false).putFlagK f.dst e.eff true).completed c g w (.l .emit f))) ∧
        (room = false → f.sub ≠ 0 → exec (.emit f) s =
          .next ((s1.mapWarp g.uid w.id fun x => x.putFlagK f.dst e.eff false).completed c g w (.l .emit f))) ∧
        (room = false → f.sub = 0 → exec (.emit f) s = .next (s1.setWait (.warp g.uid w.id) (.queues needs)))))) ∧
    (WarpIssues s c g w (.l .joindec f) → w.eff (.l .joindec f) = 0 →
      exec (.joindec f) s = .next (s.completed c g w (.l .joindec f))) ∧
    (∀ place apx fill, WarpIssues s c g w (.l .joindec f) → w.eff (.l .joindec f) ≠ 0 →
      let a := w.uni f.src0 none .n64
      let n := lo32 (w.uni f.src1 f.imm .n32)
      s.resolveCounter { ctx := c, grp := g } a = .ok place apx fill →
      (s.counterHeld c.id a = true → exec (.joindec f) s = .next (s.setWait (.warp g.uid w.id) (.counter a))) ∧
      (s.counterHeld c.id a = false → s.poisoned place 8 = false →
      let x := s.mem.read64 place
      let s1 := s.fillTlb fill
      let puts (t : State) : State := t.mapWarp g.uid w.id fun y => y.putWord f.dst (lo32 x)
      (lo32 x < n → exec (.joindec f) s = .next ((puts s1).completed c g w (.l .joindec f))) ∧
      (n ≤ lo32 x →
        let t := s1.store (some (.warp g.uid w.id)) place (toBytesLE 8 (pair64 (lo32 x - n) (hi32 x)).toNat)
        exec (.joindec f) s = .next ((puts (if lo32 x = n && n ≠ 0 && !x.getLsbD 63 then t.releaseRead c.id a else t)).completed
          c g w (.l .joindec f)))))

/-- R219, R220: EVPOP takes the oldest event record of its group, or zero, into four s registers or two g registers; EVWAIT completes
once its count of records waits, and waits until then; CLOCK writes the cluster-cycle counter; QSTAT writes FREE and CAPACITY of a
queue whose descriptor holds no uncorrectable error. -/
def Obligations.EventAndClockInstructionsComplete : Prop :=
  ∀ (f : LForm) (s : State) (c : Context) (g : Group) (w : Warp) (l : Leek),
    let r := s.popRecord g
    let lo := BitVec.ofNat 64 (r.1.toNat % 2 ^ 64)
    let hi := BitVec.ofNat 64 (r.1.toNat / 2 ^ 64)
    (∀ n, WarpIssues s c g w (.l .evpop f) → w.eff (.l .evpop f) ≠ 0 → f.dst = .s n →
      exec (.evpop f) s = .next ((r.2.mapWarp g.uid w.id fun x =>
        (x.writeS n.val true lo).writeS (n.val + 2) true hi).completed c g w (.l .evpop f))) ∧
    (LeekIssues s c g l (.l .evpop f) → l.takes f.pneg f.pred = true →
      exec (.evpop f) s = .next ((r.2.mapLeek g.uid fun x =>
        (x.writeG f.dst lo).writeG (nextG f.dst) hi).leekCompleted g l (.l .evpop f))) ∧
    (WarpIssues s c g w (.l .evwait f) → w.eff (.l .evwait f) ≠ 0 → w.bad = [] →
      let m := (lo32 (w.uni f.src0 f.imm .n32)).toNat
      1 ≤ m → m ≤ 64 →
      (m ≤ (s.recordsOf g).length → exec (.evwait f) s = .next (s.completed c g w (.l .evwait f))) ∧
      ((s.recordsOf g).length < m → exec (.evwait f) s = .next (s.setWait (.warp g.uid w.id) (.records m)))) ∧
    (LeekIssues s c g l (.l .evwait f) → l.takes f.pneg f.pred = true →
      let m := (lo32 (l.src .n32 f.src0 f.imm)).toNat
      1 ≤ m → m ≤ 64 →
      (m ≤ (s.recordsOf g).length → exec (.evwait f) s = .next (s.leekCompleted g l (.l .evwait f))) ∧
      ((s.recordsOf g).length < m → exec (.evwait f) s = .next (s.setWait (.leek g.uid) (.records m)))) ∧
    (WarpIssues s c g w (.l .clock f) → exec (.clock f) s = .next ((if w.eff (.l .clock f) = 0 then s
      else s.putWarp g w (w.putPair f.dst (BitVec.ofNat 64 s.clock))).completed c g w (.l .clock f))) ∧
    (LeekIssues s c g l (.l .clock f) → exec (.clock f) s = .next ((if l.takes f.pneg f.pred
      then s.putLeek g (l.writeG f.dst (BitVec.ofNat 64 s.clock)) else s).leekCompleted g l (.l .clock f))) ∧
    (∀ x place apx, WarpIssues s c g w (.l .qstat f) → w.eff (.l .qstat f) ≠ 0 → w.bad = [] →
      let qsel := lo32 (w.uni f.src0 f.imm .n32)
      qselValid qsel c.nEdge = true →
      (envOf s c g w (.l .qstat f)).queueFill (c.queueAddr (qselQueue qsel g.prio)) = some (x, place, apx) →
      s.errorFor g.cluster place 64 apx = none →
      exec (.qstat f) s = .next ((s.putWarp g w (w.putPair f.dst x)).completed c g w (.l .qstat f)))

/-! ## System instructions -/

/-- R251 to R257: MOVSR, OVFLD, RAILSET, SIGSEED, TLBINV, WDSET and PERFRD complete with the effect of their rules, in the mode that
allows them, on values that are legal: a register or context field written, a request noted, translations dropped, a counter
read. RAILSET waits while its level is below the rail's. A value that is not legal is ILLEGAL, in the executing lanes of MOVSR and
PERFRD and in the live lanes of the others; with OVFLD, which needs trap mode, it terminates the context (R243). -/
def Obligations.SystemInstructionsComplete : Prop :=
  ∀ (f : LForm) (s : State) (c : Context) (g : Group) (w : Warp), w.bad = [] →
    let x := lo32 (w.uni f.src0 f.imm .n32)
    (∀ w', WarpIssues s c g w (.l .movsr f) → w.eff (.l .movsr f) ≠ 0 →
      w.writeSpecial (f.imm.getD 0).toNat (w.uni f.src0 none (if f.fmt.wide then .n64 else .n32)) = some w' →
      exec (.movsr f) s = .next ((s.putWarp g w w').completed c g w (.l .movsr f))) ∧
    (WarpIssues s c g w (.l .ovfld f) → ovftOk x = true → exec (.ovfld f) s =
      .next ((s.mapCtx c.id fun k => { k with ovft := x.setWidth 16 }).completed c g w (.l .ovfld f))) ∧
    (WarpIssues s c g w (.l .railset f) → x.toNat ≤ 7 →
      ((s.cluster g.cluster).level.toNat ≤ x.toNat → exec (.railset f) s =
        .next ((s.mapGroup g.uid fun k => { k with level := BitVec.ofNat 3 x.toNat }).completed c g w (.l .railset f))) ∧
      (x.toNat < (s.cluster g.cluster).level.toNat →
        exec (.railset f) s = .next (s.setWait (.warp g.uid w.id) (.rail x.toNat)))) ∧
    (WarpIssues s c g w (.l .sigseed f) → x.toNat ≤ 65535 → exec (.sigseed f) s = .next ((s.putWarp g w { w with
      seed := x.setWidth 16, sigw := x.setWidth 16, pc := w.pc + BitVec.ofNat 64 (if f.imm.isSome then 12 else 8)
      wait := .ready, rep := none }).perfAdd c.id 0 1)) ∧
    (WarpIssues s c g w (.l .tlbinv f) → exec (.tlbinv f) s = .next (State.completed { s with tlb := s.tlb.filter fun t =>
      !(t.ctx == c.id && (f.sub == 1 || t.page * 4096 / 2 ^ t.size == (w.uni f.src0 none .n64).toNat / 2 ^ t.size))
      } c g w (.l .tlbinv f))) ∧
    (WarpIssues s c g w (.l .wdset f) →
      let v := match f.imm with
        | some y => y.toNat
        | none => (w.uni f.src0 none .n64).toNat
      (f.src1 = .zero → exec (.wdset f) s =
        .next ((s.mapCtx c.id fun k => { k with wdLimit := k.watchLimit v }).completed c g w (.l .wdset f))) ∧
      (∀ n, f.src1 = .s n → (envOf s c g w (.l .wdset f)).diagFault (w.uni f.src1 none .n64) = none → exec (.wdset f) s =
        .next ((s.mapCtx c.id fun k => { k with
          wdLimit := k.watchLimit v, diag := w.uni f.src1 none .n64
          diagGroup := if g.inWindow (w.uni f.src1 none .n64).toNat then some g.uid else none }).completed c g w (.l .wdset f)))) ∧
    (w.trapMode = false → c.trapBase ≠ 0 →
      let refuses (op : LOp) (m : Mask) : State := trapsWith s c g w (.l op f) 0x01 0 m w.pc
      (WarpIssues s c g w (.l .movsr f) → w.eff (.l .movsr f) ≠ 0 →
        w.writeSpecial (f.imm.getD 0).toNat (w.uni f.src0 none (if f.fmt.wide then .n64 else .n32)) = none →
        exec (.movsr f) s = .next (refuses .movsr (w.eff (.l .movsr f)))) ∧
      (WarpIssues s c g w (.l .railset f) → 7 < x.toNat → exec (.railset f) s = .next (refuses .railset (live w))) ∧
      (WarpIssues s c g w (.l .sigseed f) → 65535 < x.toNat → exec (.sigseed f) s = .next (refuses .sigseed (live w))) ∧
      (WarpIssues s c g w (.l .perfrd f) → w.eff (.l .perfrd f) ≠ 0 → 8 ≤ x.toNat →
        exec (.perfrd f) s = .next (refuses .perfrd (w.eff (.l .perfrd f))))) ∧
    (WarpIssues s c g w (.l .ovfld f) → ovftOk x = false → ∃ t, exec (.ovfld f) s = .next t ∧
      (∀ x ∈ t.groups, x.ctx ≠ c.id) ∧ ∀ x ∈ t.ctxs, x.id = c.id → x.run = .terminated) ∧
    (∀ h : x.toNat < 8, WarpIssues s c g w (.l .perfrd f) → w.eff (.l .perfrd f) ≠ 0 → exec (.perfrd f) s =
      .next ((s.putWarp g w (w.putPair f.dst (c.perf[x.toNat]))).completed c g w (.l .perfrd f)))

namespace Sys2Proof.Says

/-- A register field of form L by its STEP bit (R50). -/
def steppedField (f : LForm) : Nat → Reg
  | 0 => f.dst
  | 1 => f.src0
  | 2 => f.src1
  | _ => f.src2

/-- Whether the operand of a field is one of 64 bits. -/
def wideField (op : LOp) (f : LForm) : Nat → Bool
  | 0 => (op.widths f.fmt f.sub).d
  | 1 => (op.widths f.fmt f.sub).s0
  | 2 => (op.widths f.fmt f.sub).s1
  | _ => (op.widths f.fmt f.sub).s2

/-- The conditions of R51 under which a unit is ILLEGAL: its follower, read from `bs`, is a prefix, short or of another form than L, or no
instruction; its opcode is outside the ranges; or a stepped field is no v register, or holds 64 bits with a stride of 1, or
reaches VCOUNT in some iteration. -/
def breaksUnit (p : RepPrefix) (vcount : Nat) (bs : List Byte) : Prop :=
  (∀ i rest op f, decode bs = .ok (i, rest) → i.shape ≠ some (.l op f)) ∨
  ∃ i rest op f, decode bs = .ok (i, rest) ∧ i.shape = some (.l op f) ∧
    ((let n := (LOp.code op).toNat; n < 0x20 ∨ (0x3F < n ∧ n < 0x50) ∨ (0x63 < n ∧ n < 0x81) ∨ 0x89 < n) ∨
      ∃ j < 4, p.step.getLsbD j = true ∧ ((∀ n, steppedField f j ≠ .v n) ∨ (p.stride = 0 ∧ wideField op f j = true) ∨
        ∃ n : Fin 256, ∃ k < repTimes p, steppedField f j = .v n ∧ vcount ≤ n.val + k * 2 ^ p.stride.toNat))

end Sys2Proof.Says

/-- R50 to R53: a repeat unit whose follower is a legal integer instruction executes one iteration at a step: the follower with its
stepped registers, under the masks that the first iteration read. Until its last iteration the warp stays at the prefix, the
next iteration noted; after the last it is behind the follower. The first iteration hashes the unit's words. A TAG, APXFLOW or LATCH
of an iteration is taken with the earlier ones standing and nothing of it written: TSW holds the iteration, TFIRST and TPC the address of
the prefix. A unit that breaks R51 is ILLEGAL at its prefix, with no iteration executed; a prefix with bits [31:14] not zero or STEP 0000
does not decode, so that StepRunsTheDecodedInstruction makes it ILLEGAL. That the ILLEGAL has the follower's PNEG and PRED, and that TLANES
is EXEC and not DEAD, are DEDUCED (notes/assumptions/34.md). -/
def Obligations.RepeatUnitsRunTheirIterations : Prop :=
  (∀ (x : W32) (rest : List Byte), x.extractLsb' 0 2 = 3 → (x.extractLsb' 14 18 ≠ 0 ∨ x.extractLsb' 8 4 = 0) →
    ∃ e, decode (bytesOfWord x ++ rest) = .error e) ∧
  (∀ (p : RepPrefix) (s t : State) (c : Context) (g : Group) (w : Warp) (bs : List Byte) (lines : List (Nat × List Byte)),
    s.issuer = some (.warp c g w) → w.spec = none → w.trapMode = false → c.trapBase ≠ 0 →
    s.fetchInstr c w.fetched w.holds (w.pc + 4).toNat = .ok bs t lines → breaksUnit p g.desc.vcount bs →
    exec (.rep p) s = .next (enters ((t.mapWarp g.uid w.id fun x => { x with fetched := lines }).perfAdd c.id 0 1) c g w
      (trapWordAt (rawPredicate bs).1 (rawPredicate bs).2 ((w.rep.map RepState.iter).getD 0) 0x01) 0 (live w) w.pc)) ∧
  ∀ q ∈ intOps, ∀ (p : RepPrefix) (f f' : LForm) (s t : State) (c : Context) (g : Group) (w : Warp) (bs : List Byte)
    (lines : List (Nat × List Byte)),
    s.issuer = some (.warp c g w) → w.spec = none →
    s.fetchInstr c w.fetched w.holds (w.pc + 4).toNat = .ok bs t lines → followerOf bs = some (q.1, f) →
    repLegal p q.1 f g.desc.vcount g.desc.scount = true →
    let i := (w.rep.map RepState.iter).getD 0
    let masks := (w.rep.bind RepState.masks).getD (w.exec, w.predMask f.pneg f.pred)
    let w1 : Warp := { w with fetched := lines, rep := some { iter := i, masks := some masks } }
    let sel := masks.1 &&& masks.2
    let words := (Shape.p p).encode ++ (Shape.l q.1 f).encode
    let last := decide (repTimes p ≤ i + 1)
    let iss : Issue :=
      { words := if i = 0 then words else [], sig16 := 0
        next := if last then w.pc + BitVec.ofNat 64 (4 * words.length) else w.pc
        pneg := f.pneg, pred := f.pred.val, iter := i
        rep := if last then none else some { iter := i + 1, masks := some masks } }
    let v := t.mapWarp g.uid w.id fun x => { x with fetched := lines }
    stepForm p i f = some f' →
    (readable g w1 f'.a (q.2.os f') [] [f'.dst] →
      exec (.rep p) s = .next (((v.putWarp g w
        (writesIn w1 (sel &&& ~~~w.dead) sel 0 f' f'.fmt.wide f'.fmt (intValue q.2 f' w1))).perfAdd c.id 0 1).mapWarp g.uid w.id fun x =>
          x.retire iss iss.next [])) ∧
    (∀ k, w1.operandFault g.desc.apxFrom f'.a (q.2.os f') [] [f'.dst] = some k → w.trapMode = false → c.trapBase ≠ 0 →
      exec (.rep p) s = .next (enters (v.perfAdd c.id 0 1) c g w (trapWordAt f.pneg f.pred.val i (BitVec.ofNat 8 k.code)) 0 (live w) w.pc))

/-! ## The matrix unit -/

namespace Sys2Proof.Says

/-- The machine after the Leek thread of group `g` has put an operation on its queue (R225, R226). -/
def queues (t : State) (s : State) (c : Context) (g : Group) (l : Leek) (kind : MatKind) (name : Option (Fin 16)) : State :=
  State.mapLeek { t with nextUid := s.nextUid + 1 } g.uid fun x => { x with queue := x.queue ++
    [{ id := s.nextUid, kind := kind, name := name, started := false, events := 0, held := [], ovft := c.ovft, pc := l.pc }] }

/-- A word operand of a matrix instruction. -/
def offsetOf (l : Leek) (r : Reg) (imm : Option W32) (dflt : Nat) : Nat :=
  if r = .zero then dflt else (lo32 (l.src .n32 r imm)).toNat

/-- The matrix instructions. -/
def matOps : List LOp := [.tld, .agath, .mma, .mmas, .acz, .acdrn, .acrel]

end Sys2Proof.Says

/-- R225 to R231, R233 to R240: a matrix instruction that passes its checks, with a free place in its thread's queue and its name bound
where it has one, queues its operation and goes on; AGATH goes on when its index cycle has ended. One whose predicate does not
hold does nothing, but MMA, MMAS and ACDRN first check their tags, which end the context whatever the predicate is. That the queue's
bound of 8 counts the operations not started, and that a tile takes its tag at TLD's issue, are the model's reading (DEDUCED,
notes/assumptions/25.md). A name without a slot takes a free one on its thread's turn (the lowest is the model's choice,
notes/assumptions/26.md); ACSTAT writes the state of a name; MMWAIT completes when no operation is left; LKEXIT ends the Leek
thread. -/
def Obligations.MatrixInstructionsQueueTheirOperation : Prop :=
  (∀ (f : LForm) (s : State) (c : Context) (g : Group) (l : Leek),
     let v : Viewer := { ctx := c, grp := g }
     let free (sh : Shape) : Prop := LeekIssues s c g l sh ∧ l.takes f.pneg f.pred = true ∧ l.pending < 8
     (∀ op ∈ matOps, LeekIssues s c g l (.l op f) →
       let tag : Prop := (op = .mma ∨ op = .mmas) ∧ (leekEnvOf s c g l).matTag f = true ∨
         op = .acdrn ∧ (leekEnvOf s c g l).typeOf (accOf f.src0) = .s32 ∧ f.fmt ≠ .f32
       (tag → exec (op.toInstr f) s = .next (s.leekFault c g l .tag 0)) ∧
       (¬ tag → l.takes f.pneg f.pred = false → exec (op.toInstr f) s = .next (s.leekCompleted g l (.l op f)))) ∧
     (free (.l .tld f) →
       let a := offsetOf l f.src0 f.imm 0
       let pitch := offsetOf l f.src1 f.imm 64
       a % 64 = 0 → pitch % 64 = 0 → pitch ≠ 0 → s.scratchFault v .read (pieces a pitch 128 64) = none →
       let tagged (x : Leek) : Leek :=
         { x with tiles := x.tiles.set (tileOf f.dst) { (x.tiles[tileOf f.dst]) with tag := f.fmt } }
       exec (.tld f) s = .next
         ((queues (s.mapLeek g.uid tagged) s c g l (.tld (tileOf f.dst) a pitch) none).leekCompleted g l (.l .tld f))) ∧
     (free (.l .agath f) →
       let idx := offsetOf l f.src0 f.imm 0
       let base := offsetOf l f.src1 f.imm 0
       let pitch := offsetOf l f.src2 f.imm 0
       (l.wait = .gathered → exec (.agath f) s = .next (s.leekCompleted g l (.l .agath f))) ∧
       (l.wait = .ready → idx % 64 = 0 → base % 64 = 0 → pitch % 64 = 0 → s.scratchFault v .read (pieces idx 0 1 256) = none →
         exec (.agath f) s = .next ((queues s s c g l (.agath (laOf f) idx base pitch) none).setWait (.leek g.uid)
           (.gather s.nextUid)))) ∧
     (∀ x, free (.l .mma f) → (leekEnvOf s c g l).matTag f = false → g.names[accOf f.dst] = some x →
       exec (.mma f) s = .next ((queues (s.mapSlot g.cluster x fun a => { a with type := slotTypeOf f.fmt }) s c g l
         (.mma f.fmt (latchFmt f) (laOf f) (tileOf f.src0) x) (some (accOf f.dst))).leekCompleted g l (.l .mma f))) ∧
     (∀ x, free (.l .mmas f) → (leekEnvOf s c g l).matTag f = false → g.names[accOf f.dst] = some x →
       let scales := offsetOf l f.src1 f.imm 0
       scales % 64 = 0 → s.scratchFault v .read (pieces scales 0 1 512) = none →
       exec (.mmas f) s = .next ((queues (s.mapSlot g.cluster x fun a => { a with type := slotTypeOf f.fmt }) s c g l
         (.mmas f.fmt (latchFmt f) (laOf f) (tileOf f.src0) x scales (BitVec.ofNat 32 (offsetOf l f.src2 f.imm 0)))
         (some (accOf f.dst))).leekCompleted g l (.l .mmas f))) ∧
     (∀ x, free (.l .acz f) → g.names[accOf f.dst] = some x →
       exec (.acz f) s = .next ((queues (s.mapSlot g.cluster x fun a => { a with type := .none' }) s c g l (.acz x)
         (some (accOf f.dst))).leekCompleted g l (.l .acz f))) ∧
     (∀ x, free (.l .acdrn f) → g.names[accOf f.src0] = some x →
       let type := (leekEnvOf s c g l).typeOf (accOf f.src0)
       let a := offsetOf l f.src1 f.imm 0
       let pitch := offsetOf l f.src2 f.imm 0
       (type = .s32 → f.fmt = .f32) → acdrnRow f.fmt ≤ pitch → a % 32 = 0 → pitch % 32 = 0 →
       s.scratchFault v .write (pieces a pitch 128 (acdrnRow f.fmt)) = none →
       exec (.acdrn f) s = .next ((queues s s c g l (.acdrn f.fmt type x a pitch) (some (accOf f.src0))).leekCompleted
         g l (.l .acdrn f))) ∧
     (free (.l .acrel f) →
       (∀ x, g.names[accOf f.dst] = some x → exec (.acrel f) s = .next ((queues
         ((s.mapSlot g.cluster x fun a => { a with release := true }).mapGroup g.uid fun k =>
           { k with names := k.names.set (accOf f.dst) none }) s c g l (.acrel x) (some (accOf f.dst))).leekCompleted g l (.l .acrel f))) ∧
       (g.names[accOf f.dst] = none → exec (.acrel f) s = .next (s.leekCompleted g l (.l .acrel f))))) ∧
  (∀ (f : LForm) (s : State) (c : Context) (g : Group) (l : Leek),
     (LeekIssues s c g l (.l .acstat f) → exec (.acstat f) s = .next ((if l.takes f.pneg f.pred
       then s.putLeek g (l.writeG f.dst ((leekEnvOf s c g l).acstatWord (accOf f.src0))) else s).leekCompleted g l (.l .acstat f))) ∧
     (LeekIssues s c g l (.l .mmwait f) → (l.takes f.pneg f.pred = false ∨ l.queue = []) →
       exec (.mmwait f) s = .next (s.leekCompleted g l (.l .mmwait f))) ∧
     (LeekIssues s c g l (.l .mmwait f) → l.takes f.pneg f.pred = true → l.queue ≠ [] →
       exec (.mmwait f) s = .next (s.setWait (.leek g.uid) .matrix)) ∧
     (LeekIssues s c g l (.l .lkexit f) → l.takes f.pneg f.pred = true → exec (.lkexit f) s = .next (s.endLeek g l.pc)) ∧
     (LeekIssues s c g l (.l .lkexit f) → l.takes f.pneg f.pred = false →
       exec (.lkexit f) s = .next (s.leekCompleted g l (.l .lkexit f))) ∧
     (∀ x rest, LeekIssues s c g l (.l .acz f) → l.takes f.pneg f.pred = true → g.names[accOf f.dst] = none →
       s.accFull g = false → s.freeSlotList g.cluster = x :: rest → s.slotTurn g = true → l.pending < 8 →
       ∃ t, exec (.acz f) s = .next t ∧ (∀ k ∈ t.groups, k.uid = g.uid → k.names[accOf f.dst] = some x) ∧
         ∃ y ∈ (t.cluster g.cluster).slots, y.n = x ∧ y.group = g.uid ∧ y.type = .none' ∧ y.data = [] ∧ y.release = false))

namespace Sys2Proof.Says

/-- The machine once operation `o` of group `g`'s thread has started: it occupies its resource (R225, R226). -/
def opStarted (s : State) (g : Group) (o : MatOp) : State :=
  (s.mapLeek g.uid fun x => { x with queue := x.queue.map fun y => if y.id == o.id then { y with started := true } else y
    }).mapCluster g.cluster fun k => match o.kind.res with
      | .load => { k with loadPath := some (g.uid, o.id) }
      | .array => { k with array := some (g.uid, o.id) }
      | .none' => k

/-- The machine once operation `o` has made a memory event that read `bs` (R227). -/
def opRead (s : State) (g : Group) (o : MatOp) (bs : List Byte) : State :=
  s.mapLeek g.uid fun x => { x with queue := x.queue.map fun y =>
    if y.id == o.id then { o with events := o.events + 1, held := o.held ++ bs } else y }

/-- The machine `t` once operation `o` has left its queue and its resource. -/
def opGone (t : State) (g : Group) (o : MatOp) : State :=
  (t.mapLeek g.uid fun x => { x with queue := x.queue.filter fun y => y.id != o.id }).mapCluster g.cluster fun k => { k with
    loadPath := if k.loadPath == some (g.uid, o.id) then none else k.loadPath
    array := if k.array == some (g.uid, o.id) then none else k.array }

/-- The machine `t` once a tile, latch or slot of group `g`'s thread has been written whole: no error is left in it (R405). -/
def wroteWhole (t : State) (g : Group) (p : MatPlace) : State :=
  t.mapLeek g.uid fun x => { x with bad := x.bad.filter fun b => b.place != p }

/-- The machine once an MMA or MMAS has updated its slot: each element by R89, R232 and R233; counter 6 counts it (R257). -/
def opSums (s : State) (g : Group) (l : Leek) (o : MatOp) (fb fa : Fmt) (la : Fin 2) (t : Fin 8) (x : Nat)
    (scales : Option (List Nat × Nat)) : State :=
  wroteWhole ((s.mapSlot g.cluster x fun a => { a with data := slotData (accAll o.ovft fa fb scales (slotRows a.data)
    (Memory.dense l.la[la].data 0 8192) (Memory.dense l.tiles[t].data 0 8192)) }).perfAdd g.ctx 6 1) g (slotPlace x)

end Sys2Proof.Says

/-- R89, R224 to R227, R229, R230, R232, R233, R235 to R237, R308: MATRIX_OP_START starts a thread's next operation where its resource is
free, and ends the thread where a tile, latch or slot that the operation reads holds an uncorrectable error. The memory events of the
operations come one by one in issue order: a read adds its bytes to what the operation holds, a store of ACDRN writes 32 bytes of a
row of its slot; after the last event of its index vector AGATH lets its thread go on. MATRIX_OP_COMPLETE takes an operation that has
made all its events off the queue with its effect: TLD fills its tile, AGATH its latch, MMA and MMAS add the sums of products to their
slot, MMAS's scaled by row and by tile, ACZ zeroes its slot, ACREL frees it, and ACDRN has nothing left to do. The record of an error
has source 7 and ADDR 0 (R308). That an operation consumes the errors of its tile, latch and slot at its start, and that ACREL and an
ACDRN without a type consume none, are the model's reading (DEDUCED, notes/assumptions/14.md and notes/assumptions/25.md). -/
def Obligations.MatrixOperationsRun : Prop :=
  (∀ (u : Nat) (s : State) (c : Context) (g : Group) (l : Leek) (o : MatOp),
    s.group? u = some g → s.ctx? g.ctx = some c → g.leek = some l →
    (l.nextOp = some o → (s.cluster g.cluster).occupied o.kind.res = false → o.kind.res = .none' ∨ s.earlierOp g o = false →
      ((∀ b ∈ l.bad, b.place ∉ o.kind.reads) → exec (.matrixOpStart u) s = .next (opStarted s g o)) ∧
      ((∃ b ∈ l.bad, b.place ∈ o.kind.reads) → exec (.matrixOpStart u) s = .next (s.killLeek c g { l with pc := o.pc } 7 0))) ∧
    (l.memOp = some o →
      let v : Viewer := { ctx := c, grp := g }
      (∀ p apx fill, s.resolveScratch v o.nextAt .read false = .ok p apx fill → s.poisoned p o.nextBytes = false →
        (∀ f type x a pitch, o.kind ≠ .acdrn f type x a pitch) →
        let bs := s.mem.read p o.nextBytes
        ((∀ la idx base pitch, o.kind = .agath la idx base pitch → o.events ≠ 7) → s.matrixStep u = opRead (s.fillTlb fill) g o bs) ∧
        (∀ la idx base pitch, o.kind = .agath la idx base pitch → o.events = 7 →
          (s.fillTlb fill).scratchFault v .read (rowPieces (rowOffsets base pitch ((o.held ++ bs).take 256))) = none →
          s.matrixStep u = (opRead (s.fillTlb fill) g o bs).setWait (.leek g.uid) .gathered)) ∧
      (∀ f type x a pitch p apx fill, o.kind = .acdrn f type x a pitch →
        let n := acdrnRow f / 32
        s.resolveScratch v (a + o.events / n * pitch + 32 * (o.events % n)) .write false = .ok p apx fill → s.mem.wf = true →
        let data := ((s.slot? g.cluster x).map AccSlot.data).getD []
        let bs := ((drainRow o.ovft f type (slotRow data (o.events / n))).drop (32 * (o.events % n))).take 32
        let t := s.matrixStep u
        t = (((s.fillTlb fill).store (some (.leek g.uid)) p bs).wrote [(p, 32)]).mapLeek g.uid (fun x => { x with queue := x.queue.map fun y =>
          if y.id == o.id then { y with events := y.events + 1 } else y }) ∧
        t.mem.read p bs.length = bs ∧ unchangedOutside s t [(p, 32)])) ∧
    (l.queue.find? (fun x => x.id == o.id && x.started && x.quiet) = some o →
      let ends (t : State) : Prop := exec (.matrixOpComplete u o.id) s = .next (opGone t g o)
      (∀ t a pitch, o.kind = .tld t a pitch → ends (wroteWhole (s.mapLeek g.uid fun l => { l with
        tiles := l.tiles.set t { (l.tiles[t]) with data := Memory.ofList 0 o.held } }) g (.tile t))) ∧
      (∀ la idx base pitch, o.kind = .agath la idx base pitch → ends (wroteWhole (s.mapLeek g.uid fun l => { l with
        la := l.la.set la { (l.la[la]) with data := Memory.ofList 0 (o.held.drop 256) } }) g (.latch la))) ∧
      (∀ fb fa la t x, o.kind = .mma fb fa la t x → ends (opSums s g l o fb fa la t x none)) ∧
      (∀ fb fa la t x a sb, o.kind = .mmas fb fa la t x a sb → ends
        (opSums s g l o fb fa la t x (some ((List.range 128).map fun i => ofBytesLE ((o.held.drop (4 * i)).take 4), sb.toNat)))) ∧
      (∀ x, o.kind = .acz x → ends (wroteWhole (s.mapSlot g.cluster x fun a => { a with data := [] }) g (slotPlace x))) ∧
      (∀ f type x a pitch, o.kind = .acdrn f type x a pitch → ends s) ∧
      (∀ x, o.kind = .acrel x → ends (s.freeSlots g.cluster fun y => y.n == x) ∧
        ∀ y ∈ ((opGone (s.freeSlots g.cluster fun y => y.n == x) g o).cluster g.cluster).slots, y.n ≠ x))) ∧
  (∀ (ovft : BitVec 16) (fa fb : Fmt) (scales : Option (List Nat × Nat)) (acs : List (List Nat)) (la tile : List Byte) (i j : Nat),
    i < acs.length → i < 128 → j < (acs.getD i []).length → j < 128 →
    let row := rowEls fa ((la.drop (64 * i)).take 64)
    let col := rowEls fb ((tile.drop (64 * j)).take 64)
    let old := (acs.getD i []).getD j 0
    let rounds (x : FVal) : FVal := FFmt.f32.decode (FFmt.f32.round x .rne ovft).1
    let plus (x : FVal) : Nat := (FFmt.f32.round ((FFmt.f32.decode old).add x .rne) .rne ovft).1
    let new := ((accAll ovft fa fb scales acs la tile).getD i []).getD j 0
    (slotTypeOf fb = .s32 → new = wrapTo 32 ((old : Int) + productInt fa fb row col)) ∧
    (slotTypeOf fb ≠ .s32 → scales = none → new = plus (rounds (productSum fa fb row col))) ∧
    (∀ sa sb, slotTypeOf fb ≠ .s32 → scales = some (sa, sb) →
      new = plus (rounds ((rounds ((productSum fa fb row col).mul (FFmt.f32.decode (sa.getD i 0)))).mul (FFmt.f32.decode sb)))))

/-! ## Events: pods and groups -/

/-- R294, R297, R298, R300 to R302, R306, R308: GATHER_TAKE moves the thread pod at the head of a queue into the open group of its
key, or opens one; GATHER_OFFER and SPAN_WAIT_LIMIT act when their times have passed; GROUP_PLACE places the next span of a
queue's pod, or an offered group, when its turn has come and it fits, and RESTART_GROUP a restart group with the descriptor as it
reads now, unless a span that has waited 1 ms holds it back; GROUP_END frees what a group holds and ends its span, and its pod's
work with its last span; CONTINUATION_ENQUEUE puts a pod into a queue with room. That a span's millisecond counts from its pod's last
placement, and a group's from its offer, is the model's choice (notes/assumptions/27.md), and so are which groups a waiting span
holds back and that a restart group reads its descriptor again. The pod of CONTINUATION_ENQUEUE is counted on no counter, though R218
has the continuation enqueued as EMIT.BLOCK enqueues it (DESIGN CHOICE, notes/assumptions/22.md). -/
def Obligations.PodsAreGatheredPlacedAndEnded : Prop :=
  ∀ (s : State) (c : Context) (p : Partition) (id : Nat), s.ctx? id = some c → s.part? (partOf id) = some p → c.id = id →
    (∀ q h, s.places c = true → s.head c q = .pod h → h.pod.kind = 1 → h.pod.refusal = none →
      let opened := s.gathers.find? fun g =>
        g.ctx == id && g.queue == q && !g.offered && g.pod.entry == h.pod.entry && g.pod.shape == h.pod.shape
      let takes (t : State) (g : Gather) : State := ((t.fillLane c g h).takeHead c q h.index).freeSlot id q
      (∀ g, opened = some g → exec (.gatherTake id q) s = .next (takes s g)) ∧
      (∀ g t, opened = none → s.openGather c q h = some (g, t) → exec (.gatherTake id q) s = .next (takes t g))) ∧
    (∀ u, exec (.gatherOffer u) s = .next { s with gathers := s.gathers.map fun g =>
      if g.uid = u ∧ g.offered = false ∧ g.since + 5600 ≤ s.clock then { g with offered := true, since := s.clock } else g }) ∧
    (∀ u, exec (.spanWaitLimit u) s = .next { s with
      pods := s.pods.map fun w =>
        if w.uid = u ∧ w.next < w.pod.spans ∧ w.since + 1400000 ≤ s.clock then { w with limit := true } else w
      gathers := s.gathers.map fun g =>
        if g.uid = u ∧ g.offered = true ∧ g.since + 1400000 ≤ s.clock then { g with limit := true } else g }) ∧
    (∀ q w d x t, s.places c = true → s.current id q = some w → s.readDesc c w.pod (w.addr + 24) = .ok d →
      (s.candidates p.id).find? (fun x => x.1.src == .queue id q) = some x → s.yields p x.1 = false →
      s.placeSpan p w d (64 * d.gwarps) = some t →
      exec (.groupPlace (.queue id q)) s = .next (t.mapPod w.uid fun w =>
        { w with next := w.next + 1, open' := w.open' + 1, since := t.clock, limit := false })) ∧
    (∀ u g d x t, s.gathers.find? (fun g => g.uid == u) = some g → g.ctx = id → s.places c = true → g.offered = true →
      s.mustWait g = false → s.readDesc c g.pod (g.base + 24) = .ok d →
      (s.candidates p.id).find? (fun x => x.1.src == .gathered u) = some x → s.yields p x.1 = false →
      s.placed p c (.gathered u) = some t → exec (.groupPlace (.gathered u)) s = .next t) ∧
    (∀ u r, s.restarts.find? (fun r => r.uid == u) = some r → r.orig.ctx = id → s.places c = true →
      (∀ d t, s.heldBack p r.orig.prio = false → s.readDesc c r.pod (r.orig.podAddr + 24) = .ok d →
        s.placeRestart p c r d = some t → exec (.restartGroup u) s = .next t) ∧
      (s.heldBack p r.orig.prio = true → exec (.restartGroup u) s = .next s)) ∧
    (∀ u g, s.group? u = some g → s.groupOver g = true → g.restart = none →
      let t := (s.freeGroup g).mapPod g.pod fun w => { w with fault := w.fault || g.fault, lost := w.lost ++ g.lost }
      let last := (t.groups.filter fun x => x.span == g.span).all fun x => x.ended
      (last = false → exec (.groupEnd u) s = .next t) ∧
      (last = true → exec (.groupEnd u) s = .next ((State.mapPod { t with
        groups := t.groups.filter fun x => x.span != g.span
        spans := t.spans.filter fun x => x.uid != g.span } g.pod fun w => { w with open' := w.open' - 1 }).settleWork g.pod))) ∧
    (∀ u page q bs, s.held.find? (fun h => h.uid == u) = some { uid := u, item := .enqueue id q bs, page := page } →
      1 ≤ s.roomIn c q → exec (.continuationEnqueue u) s =
        .next (State.enqueue { s with held := s.held.filter fun h => h.uid != u } c q bs))

/-- R15 to R17, R19, R23 to R25, R32, R301: a group that a placement launches has its descriptor and exactly the warps of the launch,
in order, each with its number, its EXEC and its seat's slice. Each starts at the pod's ENTRY with the arguments in s0 to s7 and the
frame in s8 and s9, every other scalar and vector register 0 and tagged B32, every mask, modulus and Barrett constant 0, no dead lane,
its random states as R23 says, and none of them 0; its Leek thread has the same in g0 to g8, and tiles and latches that are zero with
tag B32. -/
def Obligations.LaunchSetsTheRegisters : Prop :=
  ∀ (s t : State) (c : Context) (l : Launch) (seat : Seat), s.launch c l seat = some t →
    ∃ g ∈ t.groups, g.uid = s.nextUid ∧ g.desc = l.desc ∧ g.cluster = seat.cluster ∧ g.ctx = l.ctx ∧ g.ended = false ∧
      (l.warps.length = seat.slices.length → (g.warps.map fun w => (w.id, w.exec)) = l.warps ∧ g.warps.map Warp.slice = seat.slices) ∧
      (g.leek.map Leek.index) = seat.leek ∧
      (∀ w ∈ g.warps, w.pc = l.pod.entry ∧ (l.warps.any fun x => x.1 == w.id && x.2 == w.exec) = true ∧
        (∀ i : Fin 8, w.k[i] = 0) ∧ (∀ (n : Fin 4) (i : Fin 64), (w.qm[n])[i] = 0 ∧ (w.qb[n])[i] = 0) ∧
        (∀ i : Fin 8, w.s[i.val] = l.pod.args[i]) ∧ w.s[8] = lo32 l.pod.frame ∧ w.s[9] = hi32 l.pod.frame ∧
        (∀ i : Fin 64, 10 ≤ i.val → w.s[i] = 0) ∧
        (∀ n : Fin 256, w.v[n].tag = .b32 ∧ ∀ i : Fin 64, (w.v[n]).lanes[i] = 0) ∧
        w.dead = 0 ∧ w.join = [] ∧ w.flags = 0 ∧ w.sigw = 0xFFFF ∧ w.latches = Vector.replicate 4 none ∧ w.ended = none ∧
        (∀ i : Fin 64, w.rng[i] = rngSeed l.groupId w.id i.val ∧ w.rng[i] ≠ 0)) ∧
      ∀ x, g.leek = some x → x.pc = l.desc.lkEntry ∧ (∀ i : Fin 8, x.g[i.val] = zx64 l.pod.args[i]) ∧ x.g[8] = l.pod.frame ∧
        (∀ i : Fin 32, 9 ≤ i.val → x.g[i] = 0) ∧ x.k = 0 ∧ x.queue = [] ∧
        (∀ i : Fin 8, x.tiles[i] = { data := [], tag := .b32 }) ∧ ∀ i : Fin 2, x.la[i] = { data := [], tag := .b32 }

/-! ## Events: the fabric -/

/-- R158, R161 to R163, R407: the owner carries out an unnumbered request and answers it; one whose RSN is in its result cache it
answers again from there and changes no byte of memory, and one behind its turn that is not there it drops. A request in service that the
watermark of what arrives has passed first makes the rest of its events, so that what arrives finds it applied (R335; DEDUCED,
notes/assumptions/36.md). The request whose turn it
is it carries out once: the memory is what its events make it, the answer goes out, and the cache keeps it; where the elements are
separate events, they come one at a time, and the last one brings the answer. A full slice refuses it. One of an older epoch is
answered OWNER_RESTARTED; that the epoch is looked at before the cache is the model's reading, and so is that an error which comes
into a granule of a request in service changes nothing of it (notes/assumptions/36.md). It
acknowledges a keepalive, and forgets answers after 1 ms of silence. A store request writes its bytes at the place of its address
and no other byte. -/
def Obligations.OwnersAnswerExactlyOnce : Prop :=
  ∀ s : State, s.up = true →
    (∀ (r : RemoteRequest) (u : State), s.partSilent (partOf r.ownerCtx) = false →
      s.arrives r.requester (.request Config.moduleId r) = true → s.greet r.requester r.ctx r.gen r.watermark = some u →
      (u.oldEpoch r = true →
        exec (.remoteRequest r) s = .next (State.drainHeld r.requester r.ctx u.heldReqs.length (u.restarted r))) ∧
      (u.oldEpoch r = false → r.rsn = none → exec (.remoteRequest r) s = .next (u.serve r)) ∧
      (∀ n e, u.oldEpoch r = false → r.rsn = some n → u.cached r.requester r.ctx r.gen n = some e →
        ∃ t, exec (.remoteRequest r) s = .next t ∧ t = u.sendAnswer r e.status e.values none ∧
          ((∀ x ∈ s.serving, x.is r.requester r.ctx = false) → t.mem = s.mem)) ∧
      -- the watermark it carries has passed the request in service
      (∀ x q n, s.serving = [x] → x.is r.requester r.ctx = true → s.requester? r.requester r.ctx = some q → q.gen = r.gen →
        x.request.rsn = some n → (n = r.watermark ∨ ahead r.watermark n = true) →
        (r.watermark = q.watermark ∨ ahead r.watermark q.watermark = true) →
        u.serving = [] ∧ u.mem = ((s.putRequester { q with last := s.clock }).serveEvents x x.todo.length).2.mem) ∧
      (∀ n q, u.oldEpoch r = false → r.rsn = some n → u.cached r.requester r.ctx r.gen n = none → u.heldReqs = [] →
        u.serving = [] → u.requester? r.requester r.ctx = some q →
        let fill := (u.cache.filter fun e => e.slice == u.requestSlice r).length
        let a := (u.putRequester { q with next := n + 1 }).applyRemote r
        (ahead q.next n = true → exec (.remoteRequest r) s = .next u) ∧
        (ahead q.next n = false → 1024 ≤ fill → ∃ x, exec (.remoteRequest r) s =
          .next { u with fabricOut := u.fabricOut ++ [.refusal r.requester x] } ∧ x.tag = r.tag) ∧
        (ahead q.next n = false → fill < 1024 → skipTo q.skipped q.skipped.length q.next = n →
          (∀ x, u.startServing r = some x → exec (.remoteRequest r) s = .next { u.ownerFill r with serving := [x] }) ∧
          (u.startServing r = none → ∃ t e x, exec (.remoteRequest r) s = .next t ∧
            t.cached r.requester r.ctx r.gen n = some e ∧ e.status = a.status ∧ e.values = a.values ∧ t.mem = a.state.mem ∧
            t.fabricOut = a.state.fabricOut ++ [.answer r.requester x] ∧ x.status = a.status ∧ x.values = a.values ∧
            x.tag = r.tag)))) ∧
    (∀ (x : Serving) (n : W32) (e : AtomEvent) (rest : List AtomEvent) (op : AtomOp) (f : Fmt) (c : BitVec 2) (ws : List (List W64)),
      let r := x.request
      let y : Serving := { x with todo := rest, got := x.got ++ [(e.lane, e.el, (s.atomEvent none op f (ovftOf c) e).1)] }
      let t := s.ownerStep r.requester r.ctx
      s.serving = [x] → s.heldReqs = [] → r.rsn = some n → x.todo = e :: rest → stepWords r.op = some (op, f, c, ws) →
      t.mem = (s.atomEvent none op f (ovftOf c) e).2.mem ∧ (rest ≠ [] → t.serving = [y] ∧ t.cache = s.cache) ∧
      (rest = [] → t.serving = [] ∧ ∃ k, t.cached r.requester r.ctx r.gen n = some k ∧ k.status = (y.applied s).status ∧
        k.values = (y.applied s).values)) ∧
    (∀ (k : KeepAlive) (u : State), s.partSilent (partOf k.ownerCtx) = false →
      s.arrives k.requester (.keepalive Config.moduleId k) = true → s.greet k.requester k.ctx k.gen k.watermark = some u →
      let t := State.drainHeld k.requester k.ctx u.heldReqs.length u
      exec (.keepaliveReceive k) s = .next { t with fabricOut := t.fabricOut ++ [.keepaliveAck k.requester
        { owner := Config.moduleId, ctx := k.ctx, gen := k.gen, part := partOf k.ownerCtx, epoch := t.epochOf (partOf k.ownerCtx)
          watermark := k.watermark }] }) ∧
    (∀ (m : Byte) (ctx : Nat) (q : Requester), s.requester? m ctx = some q → q.last + 1400000 ≤ s.clock →
      exec (.resultCacheExpiry m ctx) s =
        .next { s with cache := s.cache.filter fun e => !(e.requester == m && e.ctx == ctx) }) ∧
    ∀ (r : RemoteRequest) (bs : List Byte) (a : Bool) (place : Nat) (apx : Bool), r.op = .store bs a →
      s.ownerPlace r = some (place, apx) → s.mem.wf = true →
      (s.serve r).mem.read place bs.length = bs ∧ unchangedOutside s (s.serve r) [(place, bs.length)] ∧
        ∃ x, (s.serve r).fabricOut = s.fabricOut ++ [.answer r.requester x] ∧ x.status = .ok ∧ x.tag = r.tag

/-- R161 to R164, R257, R334 to R336, R361, R407: at the requester an answer completes its operation (one of the own module when it
has been sent); a refusal is noted and counted, and the
operation sent again 8 microseconds later; an unanswered one is sent again at its interval, counted, up to 16 tries, and then
completes REMOTE_LOST; a silent owner's operations complete OWNER_FAILED; keepalives go out every 10 microseconds while an RSN is
not acknowledged, and an acknowledgement notes the watermark. -/
def Obligations.RequestersCompleteTheirOperations : Prop :=
  ∀ s : State, s.up = true →
    (∀ (a : RemoteAnswer) (o : Outstanding),
      let u := s.hear a.owner a.part a.epoch
      u.current? a = some o →
      (s.arrives a.owner (.answer Config.moduleId a) = true →
        exec (.remoteAnswer a) s = .next (u.completeRemote o.tag a.status a.values a.bad)) ∧
      (s.arrives a.owner (.refusal Config.moduleId a) = true → exec (.remoteRefusal a) s = .next (State.perfAdd { u with outRemote := u.outRemote.map fun (x : Outstanding) =>
        if x.tag == o.tag then { x with refusedAt := some u.clock } else x } o.request.ctx 4 1))) ∧
    (∀ (tag : Nat) (o : Outstanding), s.outstanding? tag = some o →
      (∀ t, o.refusedAt = some t → t + 11200 ≤ s.clock → exec (.refusalResend tag) s = .next (s.resend o o.tries)) ∧
      (o.refusedAt = none → o.tries < 16 → o.sentAt + min (8 * 2 ^ (o.tries - 1)) 64 * 1400 ≤ s.clock →
        exec (.retransmission tag) s = .next ((s.resend o (o.tries + 1)).perfAdd o.request.ctx 3 1)) ∧
      (o.refusedAt = none → 16 ≤ o.tries → o.sentAt + 89600 ≤ s.clock →
        exec (.remoteLost tag) s = .next (s.completeRemote tag .remoteLost [] none)) ∧
      (∀ st values bad, o.posted = true →
        (s.completeRemote tag st values bad).outRemote = s.outRemote.filter fun x => x.tag != tag) ∧
      (∀ tries,
        let mark := ((s.ctx? o.request.ctx).map fun c => (c.peer o.owner).watermark).getD o.request.watermark
        (s.resend o tries).fabricOut = s.fabricOut ++ [.request o.owner { o.request with watermark := mark }])) ∧
    (∀ owner : Byte, ((s.lastPkt.find? fun x => x.1 == owner).map Prod.snd).getD 0 + 280000 ≤ s.clock →
      exec (.ownerFailed owner) s = .next (s.completeWhere (fun o => o.owner == owner) .ownerFailed)) ∧
    (∀ (owner : Byte) (c : Context) (p : Peer), s.ctx? c.id = some c → c.peers.find? (fun p => p.owner == owner) = some p →
      ahead (p.next - 1) p.acked = true → p.kept + 14000 ≤ s.clock →
      exec (.keepalive c.id owner) s = .next (State.mapCtx { s with fabricOut := s.fabricOut ++ [.keepalive owner
        { requester := Config.moduleId, ctx := c.id, gen := c.gen, watermark := p.watermark
          ownerCtx := (s.remoteCtx c owner).getD 0 }] } c.id fun c => c.mapPeer owner fun p => { p with kept := s.clock })) ∧
    ∀ a : KeepAliveAck, s.arrives a.owner (.keepaliveAck Config.moduleId a) = true → exec (.keepaliveAck a) s = .next ((s.hear a.owner a.part a.epoch).mapCtx a.ctx fun c =>
      if c.gen = a.gen ∧ (c.peers.any fun p => p.owner == a.owner) = true then
        c.mapPeer a.owner fun p => if ahead a.watermark p.acked then { p with acked := a.watermark } else p
      else c)

/-! ## Events: the host port -/

/-- R377, R378, R380, R381, R386, R387, R400, R404: a fundamental reset leaves STAGE 3 with nothing of the old state in the module, or
STAGE 7 with its code; FWGO runs a verified image, or stops with the code of its first bad item; a register write stores a legal value,
and a write of PRAMP acts on the limiter at once, where R396 has it act within 10 microseconds (the model's choice,
notes/assumptions/40.md); a register read is one event; a request that finds the port busy takes its place behind the others; a doorbell
advances TAIL and takes its pods from FREE; host accesses read and write the space that their aperture maps, a sector an event, through
the aperture as it stands at the event, and a page that refuses them discards writes and reads as ones with a record of kind 0x1C,
while an aperture that is not valid, as all are before STAGE 6, discards writes and reads as ones without one; PTRADE takes its
value, and stops trading when EN is clear. The clause of a verified image has no evaluated witness: what verifies is an opaque value (notes/assumptions/6.md). That stages 0 to 2 are one event and stages 4 to 6 another,
and the order of the failure codes, are the model's choice (notes/assumptions/38.md). -/
def Obligations.HostPortEventsComplete : Prop :=
  ∀ s : State,
    (∃ t, exec (.fundamentalReset none) s = .next t ∧ t.hw = { HwA.reset with stage := 3 } ∧ t.mem = [] ∧ t.ctxs = [] ∧
      t.parts = [] ∧ t.groups = [] ∧ t.hostMem = s.hostMem) ∧
    (∀ f, failureOk f = true → ∃ t, exec (.fundamentalReset (some f)) s = .next t ∧ t.mem = [] ∧ t.ctxs = [] ∧
      t.hw.status.toNat = f.detail.toNat * 2 ^ 16 + f.code.toNat * 2 ^ 8 + 7 * 2) ∧
    (∀ x : FwgoWrite, s.alive = true → s.power = true → s.port = [] → s.hw.stage = 3 →
      x.readable = false ∨ s.hw.fwAddr.toNat % 4096 ≠ 0 ∨ s.hw.fwSize.toNat < 4096 ∨ 2 ^ 26 < s.hw.fwSize.toNat →
      exec (.fwgo x) s = .next (s.failed 5 0)) ∧
    (∀ v, s.alive = true → s.power = true → s.port = [] → s.hw.stage = 3 → s.hw.fwAddr.toNat % 4096 = 0 → 4096 ≤ s.hw.fwSize.toNat →
      s.hw.fwSize.toNat ≤ 2 ^ 26 →
      let image := s.hostMem.read s.hw.fwAddr.toNat s.hw.fwSize.toNat
      let header := image.take 128
      let cfg := (image.drop (128 + fieldAt header 64 8)).take 64
      ∃ t, exec (.fwgo ⟨v, true⟩) s = .next t ∧
        (verifyBad image header = none → configBad cfg = none →
          t = s.start header cfg ∧ t.hw.stage = 6 ∧ t.hw.ready = true ∧ t.hw.pGrant.toNat = fieldAt cfg 8 2) ∧
        (∀ code detail, verifyBad image header = none → configBad cfg = some (code, detail) → t = s.failed code detail) ∧
        (∀ code, verifyBad image header = some code → t = s.failed code 0)) ∧
    (s.alive = true → s.power = true → s.port = [] → s.hw.stage ≠ 7 → s.hw.ready = true → ∀ off v,
      let t : State := { s with hw := s.hw.write off v }
      (off ≠ 0x0048 → exec (.registerWrite off v) s = .next t) ∧
      (off = 0x0048 → t.hw.pRamp = 0 → exec (.registerWrite off v) s =
        .next { t with clusters := t.clusters.map fun k => { k with waiters := [] } }) ∧
      (off = 0x0048 → t.hw.pRamp ≠ 0 → exec (.registerWrite off v) s =
        .next { t with admitNext := min t.admitNext (t.clock + limiterInterval t.hw.pRamp) })) ∧
    (s.alive = true → s.power = true →
      (∀ off n, s.port = [] → exec (.hostRead (.hwA off) n) s =
        .next { s with hostReads := s.hostReads ++ [(.hwA off, toBytesLE 8 (s.readRegister off).toNat)] }) ∧
      (s.port ≠ [] →
        let queued (i : Instr) (r : PortRequest) : Prop := exec i s = .next { s with port := s.port ++ [r] }
        (∀ o v, queued (.registerWrite o v) (.register o v)) ∧ (∀ o n, queued (.hostRead (.hwA o) n) (.look o)) ∧
        (∀ o n, queued (.hostRead (.hwB o) n) (readOf o n)) ∧ (∀ o d, queued (.hostWrite o d) (writeOf o d)) ∧
        (∀ x, queued (.fwgo x) (.fwgo x)) ∧ (∀ v, queued (.ptradeWrite v) (.trade v)) ∧
        ∀ c o v, queued (.doorbell c o v) (.doorbell c o v)) ∧
      (∀ off v rest, s.port = .register off v :: rest → off ≠ 0x0048 → s.hw.stage ≠ 7 → s.hw.ready = true →
        s.portStep = { s with hw := s.hw.write off v, port := rest }) ∧
      (∀ off rest, s.port = .look off :: rest → s.portStep = { s with
        port := rest, hostReads := s.hostReads ++ [(.hwA off, toBytesLE 8 (s.readRegister off).toNat)] })) ∧
    (s.alive = true → s.power = true → s.port = [] → ∀ c off q d, ∀ tail : W64, s.ctx? c.id = some c → doorbellQueue off = some q →
      c.run ≠ .terminated → c.hasQueue q = true → q ∉ c.stopped → s.queue? c q = some d → d.ok = true →
      let n := (tail - BitVec.ofNat 64 d.tail).toNat
      let u : State := { s with port := [.doorbell c.id off tail] }
      n ≤ d.free → exec (.doorbell c.id off tail) s = .next
        { ((u.setQueueWord c q 3 tail.toNat).setQueueWord c q 4 (d.free - n)).noteArrivals c.id q
          ((List.range n).map fun i => (d.tail + i) % 2 ^ 64) with port := [] }) ∧
    (s.alive = true → s.power = true → s.port = [] → s.mem.wf = true → ∀ off data c va, data ≠ [] → off % 32 + data.length ≤ 32 →
      s.aperture off = some (c, va) → ∃ t, exec (.hostWrite off data) s = .next t ∧ t.port = [] ∧
        (∀ place apx fill, s.hostPlace c va = some (place, apx, fill) → t.mem.read place data.length = data ∧
          unchangedOutside s t [(place, data.length)]) ∧
        (s.hostPlace c va = none →
          let u : State := { s with port := [.write [(off, data)]] }
          t = { u.putRec c.id { kind := 0x1C, addr := BitVec.ofNat 64 va } with port := [] })) ∧
    (s.alive = true → s.power = true → s.port = [] → ∀ off n, 0 < n → off % 32 + n ≤ 32 →
      (∀ c va, s.aperture off = some (c, va) →
        (∀ place apx fill, s.hostPlace c va = some (place, apx, fill) → (s.errorIn place n apx).isSome = false →
          exec (.hostRead (.hwB off) n) s = .next { s.fillTlb fill with
            hostReads := s.hostReads ++ [(.hwB off, s.mem.read place n)] }) ∧
        (s.hostPlace c va = none →
          let u : State := { s with port := [.read off [(off, n)] []] }
          let t := u.putRec c.id { kind := 0x1C, addr := BitVec.ofNat 64 va }
          exec (.hostRead (.hwB off) n) s =
            .next { t with port := [], hostReads := t.hostReads ++ [(.hwB off, List.replicate n 0xFF)] })) ∧
      (s.aperture off = none → exec (.hostRead (.hwB off) n) s =
        .next { s with hostReads := s.hostReads ++ [(.hwB off, List.replicate n 0xFF)] })) ∧
    (∀ off bs todo rest, s.port = .write ((off, bs) :: todo) :: rest →
      let left := if todo = [] then rest else .write todo :: rest
      (∀ c va place apx fill, s.mem.wf = true → s.aperture off = some (c, va) → s.hostPlace c va = some (place, apx, fill) →
        unchangedOutside s s.portStep [(place, bs.length)] ∧ s.portStep.mem.read place bs.length = bs ∧ s.portStep.port = left) ∧
      (s.aperture off = none → s.portStep = { s with port := left })) ∧
    (∀ a o, a < 64 → o < 2 ^ 30 → s.aperture (2 ^ 30 * a + o) =
      let aper := s.hw.aper.toArray.toList.getD a (0, 0)
      if s.hw.ready = true ∧ aper.1.getLsbD 11 = true then
        (s.ctx? (aper.1.toNat % 2048)).map fun c => (c, aper.2.toNat + o) else none) ∧
    (s.up = true → s.port = [] → ∀ v : W64, v.toNat < 2 ^ 11 →
      let t : State := { s with hw := { s.hw with pTrade := BitVec.ofNat 11 v.toNat } }
      exec (.ptradeWrite v) s = .next (if v.getLsbD 10 then t else t.stopTrading))

/-! ## Events: commands -/

/-- R385, R388 to R390, R398: each partition command, and each event that ends one, has its effect and completes: CREATE, both steps of
RESIZE with its completion and its deadline, RESET, DESTROY and SETAPX. That a context reset at the deadline stands as it stood, with
empty queues, is the model's choice (notes/assumptions/39.md). -/
def Obligations.PartitionCommandsComplete : Prop :=
  ∀ (s t : State) (c : Command) (p : Partition),
    let mask := BitVec.ofNat 32 c.arg1.toNat
    let live := t.part? c.part = some p ∧ p.failed = false ∧ p.id = c.part
    let runs (i : Instr) (fits : Command → Bool) (u : State) : Prop := s.begin fits = (some c, t) → exec i s = .next u
    (c.part ≤ 31 → c.arg1.toNat < 2 ^ 32 → mask ≠ 0 → shareOk c.arg2.toNat c.arg3.toNat = true → 1 ≤ c.arg4.toNat →
      c.arg4.toNat + (t.parts.map Partition.credits).sum ≤ 20 → c.arg5.toNat ≤ 7 → t.part? c.part = none →
      mask &&& t.takenQuarters 32 = 0 → (∀ x ∈ t.parts, shareMeets c.arg2.toNat c.arg3.toNat x = false) →
      runs .partCreate (fun c => c.op == 1) (State.complete { t with
        parts := t.parts ++ [{ id := c.part, quarters := mask, leaving := 0, prepared := false, t2Base := c.arg2.toNat
                               t2Units := c.arg3.toNat, credits := c.arg4.toNat, apxst := BitVec.ofNat 3 c.arg5.toNat
                               ring := c.arg6, failed := false }]
        counts := t.counts.filter fun x => x.1 != c.part } c .ok)) ∧
    (live → c.arg1.toNat < 2 ^ 32 → mask ≠ 0 → c.arg2 = 0 → runs .partResizePrepare (fun c => c.op == 2 && c.arg2 != 1)
      ((t.mapPart p.id fun x => { x with leaving := x.quarters &&& ~~~mask, prepared := false }).runOn c
        (t.clock + 1400 * c.arg3.toNat))) ∧
    (live → c.arg1.toNat < 2 ^ 32 → mask ≠ 0 → p.prepared = true → p.quarters &&& ~~~mask &&& ~~~p.leaving = 0 →
      mask &&& ~~~p.quarters &&& t.takenQuarters p.id = 0 → runs .partResizeCommit (fun c => c.op == 2 && c.arg2 == 1)
        ((((t.finishAll fun r => partOf r.ownerCtx == p.id).zeroQuarters (p.quarters &&& ~~~mask)).mapPart p.id fun x =>
          { x with quarters := mask, leaving := 0, prepared := false }).complete c .ok)) ∧
    (live → runs .partReset (fun c => c.op == 3) ((t.resetPart p).complete c .ok)) ∧
    (t.part? c.part = some p → runs .partDestroy (fun c => c.op == 4) (
      let u := ((t.ctxs.filter fun x => partOf x.id == p.id).map Context.id).foldl (fun s x => s.forgetCtx x) (t.resetPart p)
      let v : State := { u with parts := u.parts.filter fun x => x.id != p.id }
      (if p.failed then v.telemetry else v).complete c .ok)) ∧
    (live → c.arg1.toNat ≤ 7 → (∀ g ∈ t.groups, g.ended = true ∨ partOf g.ctx ≠ p.id) → runs .partSetapx (fun c => c.op == 5)
      ((t.mapPart p.id fun x => { x with apxst := BitVec.ofNat 3 c.arg1.toNat }).complete c .ok)) ∧
    (∀ n r x, s.preparing n = some r → s.part? n = some x →
      (s.residentOn x.leaving n = [] → exec (.prepareComplete n) s = .next
        ((s.mapPart n fun p => { p with prepared := true }).finishRunning (fun c => c.op == 2 && c.part == n) .ok)) ∧
      (s.residentOn x.leaving n ≠ [] → r.deadline ≤ s.clock → exec (.resizeDeadline n) s = .next
        (((((s.residentOn x.leaving n).map Group.ctx).eraseDups.foldl (fun s c => s.resetCtx c (s.runOf c)) s).mapPart n fun p =>
          { p with prepared := true }).finishRunning (fun c => c.op == 2 && c.part == n) .deadline)))

/-- R388, R391, R393 to R395, R408: each context command, and each event that ends a drain, has its effect and completes: CREATE, DRAIN
with its completion and its deadline, at once where the context is idle already, RESUME, RESET, DESTROY, TLBINV, REPLAY, FAULTFAIL and the
four actions of DEBUG. That the descriptor lies at a physical address (notes/assumptions/8.md), what a forced reset leaves
(notes/assumptions/39.md) and the layouts of what DEBUG reads and writes (notes/assumptions/32.md) are the model's choice. -/
def Obligations.ContextCommandsComplete : Prop :=
  ∀ (s t : State) (c : Command) (x : Context),
    let runs (i : Instr) (fits : Command → Bool) (u : State) : Prop := s.begin fits = (some c, t) → exec i s = .next u
    let live := t.ctx? c.ctx = some x ∧ (∀ p, t.part? (partOf c.ctx) = some p → p.failed = false) ∧ x.id = c.ctx
    let drains (k : Command) : Bool := k.op == 0x11 && k.ctx == c.ctx
    (∀ p, t.part? (partOf c.ctx) = some p → p.failed = false → c.ctx ≤ 2047 → c.arg1.toNat % 64 = 0 → c.arg1.toNat < 2 ^ 39 →
      p.owns c.arg1.toNat 128 = true → t.ctx? c.ctx = none →
      let w (i : Nat) : W64 := t.mem.read64 (c.arg1.toNat + 8 * i)
      ctxDescOk w p.id c.part = true → runs .ctxCreate (fun k => k.op == 0x10)
        ((State.nextGen { t with ctxs := t.ctxs ++ [Context.ofWords c.ctx w] } c.ctx).complete c .ok)) ∧
    (live → x.run ≠ .terminated → let d := c.time + 1400 * (if c.arg1 = 0 then x.deadline else c.arg1.toNat)
      (t.idle x.id = false →
        runs .ctxDrain (fun k => k.op == 0x11) ((t.mapCtx x.id fun k => { k with run := .draining d }).runOn c d)) ∧
      (t.idle x.id = true → runs .ctxDrain (fun k => k.op == 0x11)
        (((t.saveRequester x).mapCtx x.id fun k => { k with run := .drained true }).complete c .ok))) ∧
    (live → (x.run = .drained true → runs .ctxResume (fun k => k.op == 0x12)
        ((t.mapCtx x.id fun k => { t.reload k with run := .running }).complete c .ok)) ∧
      (x.run = .drained false → runs .ctxResume (fun k => k.op == 0x12) ((t.mapCtx x.id fun k => { k with run := .running }).complete c .ok))) ∧
    (live → runs .ctxReset (fun k => k.op == 0x13) (((t.finishRunning drains .reset).resetCtx x.id .running).complete c .ok)) ∧
    (live → runs .ctxDestroy (fun k => k.op == 0x14)
      ((((t.finishRunning drains .reset).forceReset x.id .terminated).forgetCtx x.id).complete c .ok)) ∧
    (live → c.arg2.toNat ≤ 1 → runs .ctxTlbinv (fun k => k.op == 0x15)
      ((t.dropTlb x.id (if c.arg2 = 1 then none else some c.arg1.toNat)).complete c .ok)) ∧
    (live → let page := c.arg1.toNat / 4096
      let mine (h : HeldItem) : Bool := ((t.held.filter fun y => y.on x.id page).map fun y => y.item.addr).any fun a => h.of x.id a
      let items := t.held.filter mine
      let freed (g : Wait → Wait) : State :=
        let u := (t.answered x.id page).mapWaits x.id g
        { u with held := t.held.filter fun h => !mine h }
      runs .ctxReplay (fun k => k.op == 0x16) ((items.foldl (fun s h => s.counterEvent h.item) (freed fun w => match w with
        | .page n _ _ _ => if n.toNat = page then .ready else w
        | _ => w)).complete c .ok) ∧
      runs .ctxFaultfail (fun k => k.op == 0x17) (((freed fun w => match w with
        | .page n k a l => if n.toNat = page then .refused n k a l else w
        | _ => w).failHeld items).complete c .ok)) ∧
    (∀ u wid g w, live → x.debug = true → c.arg1.toNat < 2 ^ 16 → c.arg1.toNat % 16 = 0 → c.arg2.toNat ≤ 127 →
      t.debugAgent c = some (.warp u wid) → t.group? u = some g → g.warp? wid = some w →
      (c.arg3.toNat = 0 → s.begin (fun c => c.op == 0x18 && !(1 ≤ c.arg3.toNat && c.arg3.toNat ≤ 3)) = (some c, t) →
        exec .ctxDebugHalt s = .next ((t.mapWarp u wid fun w => { w with halted := true }).complete c .ok)) ∧
      runs .ctxDebugResume (fun k => k.op == 0x18 && k.arg3 == 1) ((t.mapWarp u wid fun w => { w with halted := false }).complete c .ok) ∧
      (∀ bs, w.halted = true → debugWarp g w c.arg5.toNat = some bs →
        runs .ctxDebugRead (fun k => k.op == 0x18 && k.arg3 == 2) ((t.writeBuffer x c.arg4.toNat bs).complete c .ok)) ∧
      (∀ bs w1, w.halted = true → t.partRead x c.arg4.toNat (debugSize c.arg5.toNat) = .ok bs →
        debugSet w c.arg5.toNat bs = some w1 →
        runs .ctxDebugWrite (fun k => k.op == 0x18 && k.arg3 == 3) ((t.mapWarp u wid fun _ => w1).complete c .ok))) ∧
    (∀ d, s.ctx? x.id = some x → x.run = .draining d →
      (s.idle x.id = true → exec (.drainComplete x.id) s = .next
        (((s.saveRequester x).mapCtx x.id fun k => { k with run := .drained true }).finishRunning
          (fun k => k.op == 0x11 && k.ctx == x.id) .ok)) ∧
      (s.idle x.id = false → d ≤ s.clock → exec (.drainDeadline x.id) s = .next
        ((s.resetCtx x.id (.drained false)).finishRunning (fun k => k.op == 0x11 && k.ctx == x.id) .deadline)))

/-! ## Events: containment, power and errors -/

/-- R234, R383, R388, R397 to R400: SLOT_RETIRE takes a free slot out of service, or waits for a held one; ATTEST writes its report
and signatures to host memory; a port is fenced, trains, comes up or stays fenced; a failed die fails the partitions on it; a
failed IO die ends the module. That ATTEST's buffer lies in host memory is the model's choice (notes/assumptions/8.md). That retraining
clears FENCED, which R399's 'left fenced' sets again only where training fails, is the model's reading (DEDUCED,
notes/assumptions/30.md). -/
def Obligations.ContainmentEventsComplete : Prop :=
  ∀ (s t : State) (c : Command) (p : Nat),
    let k := t.cluster (bitsOf c.arg1.toNat 0 8)
    let n := bitsOf c.arg1.toNat 8 4
    (s.begin (fun c => c.op == 0x20) = (some c, t) → c.arg1.toNat < 2 ^ 12 → n ∉ k.retired →
      ((∀ x ∈ k.slots, x.n ≠ n) → exec .slotRetire s = .next
        ((t.mapCluster (bitsOf c.arg1.toNat 0 8) fun k => { k with retired := n :: k.retired }).complete c .ok)) ∧
      ((∃ x ∈ k.slots, x.n = n) → exec .slotRetire s = .next ((t.mapCluster (bitsOf c.arg1.toNat 0 8) fun k =>
        { k with retiring := if n ∈ k.retiring then k.retiring else n :: k.retiring }).runOn c 0))) ∧
    (s.begin (fun c => c.op == 0x30) = (some c, t) → exec .attest s = .next (State.complete { t with
      hostMem := t.hostMem.write c.arg1.toNat
        (t.report c ++ signatureBytes 0 384 (t.report c) ++ signatureBytes 1 16224 (t.report c)) } c .ok)) ∧
    (s.begin (fun c => c.op == 0x40 && !(c.arg2 == 1 && (linkPort c).isSome)) = (some c, t) → linkPort c = some p → c.arg2 = 0 →
      exec .linkCtlFence s = .next ((t.fencePort p).complete c .ok)) ∧
    (s.begin (fun c => c.op == 0x40 && c.arg2 == 1 && (linkPort c).isSome) = (some c, t) → linkPort c = some p →
      exec .linkCtlRetrain s = .next ((t.setPort p false false true).runOn c (t.clock + 14000000))) ∧
    (s.up = true → p < 8 → s.hw.training.getLsbD p = true →
      exec (.linkTrainingPass p) s = .next ((s.setPort p false true false).finishRunning (retrains p) .ok)) ∧
    (∀ r, s.running.find? (fun r => retrains p r.cmd) = some r → r.deadline ≤ s.clock → s.hw.training.getLsbD p = true →
      exec (.retrainDeadline p) s = .next ((s.fencePort p).finishRunning (retrains p) .deadline)) ∧
    (s.up = true → p < 8 → s.hw.up.getLsbD p = true → ∃ u, exec (.linkFence p) s = .next u ∧ u = s.fencePort p ∧
      u.hw.fenced.getLsbD p = true ∧ u.hw.up.getLsbD p = false ∧ ∀ l ∈ u.loans, l.port = p → l.side = .lender ∧ l.fenced.isSome) ∧
    (s.up = true → p < 8 → s.hw.dieFailed.getLsbD p = false → ∃ u, exec (.dieFailure p) s = .next u ∧
      u.hw.dieFailed.getLsbD p = true ∧
      ∀ x ∈ u.parts, (∃ q < 4, x.quarters.getLsbD (4 * p + q) = true) → x.failed = true) ∧
    exec .ioDieFailure s = .next { s with alive := false }

/-- R2, R30, R253, R311, R377, R401 to R405: the events of power and of soft errors have their effects: grants and their fallback;
loans offered, lapsed, recalled, confirmed and timed out; the rail at the level asked for; slice ratios; the limiter's next cluster;
errors counted and marked where they strike, once each, or changing a value unseen; and a module without its supplies holds nothing.
The limiter's interval (notes/assumptions/40.md), when a loan is renewed (notes/assumptions/41.md), where an error may strike
(notes/assumptions/33.md), that SEUNC counts an error when it strikes and not when it is first detected, which is what R405 says
(notes/assumptions/42.md), how the draw moves between ticks (notes/assumptions/29.md), and that a fence comes before a recall and a lapse
(notes/assumptions/41.md) are the model's choice. PDRAW is the draw averaged over the last 1 ms, and is not above PCAP. -/
def Obligations.PowerAndErrorEventsComplete : Prop :=
  ∀ s : State,
    s.pDraw = min ((s.draws.map fun d => d.draw * (min d.stop s.clock - max d.start (s.clock - 1400000))).sum / 1400000 / 1400000) s.pCap ∧
    (s.up = true → ∀ n, exec (.powerGrant n) s = .next { s with hw := { s.hw with pGrant := n }, lastGrant := s.clock }) ∧
    (s.up = true → s.lastGrant + 700000000 ≤ s.clock →
      exec .safeGrantFallback s = .next { s with hw := { s.hw with pGrant := s.hw.safeGrant } }) ∧
    (s.up = true → s.hw.trading = true → ∀ p n, p < 8 → s.hw.up.getLsbD p = true → 1 ≤ n →
      let loan (side : LoanSide) : State := State.settleLoans { s with nextUid := s.nextUid + 1, loans := s.loans ++
        [{ uid := s.nextUid, side := side, port := p, tokens := n, since := s.clock, recalled := none, fenced := none }] }
      (∃ t, exec (.loanOffer .lender p n) s = .next t ∧ (s.mayLend n = true → t = (loan .lender).tellLoan p n) ∧
        (s.mayLend n = false → t = s)) ∧
      (s.mayLend n = true ↔ s.hw.pLent.toNat + n ≤ s.hw.lendMax ∧
        ∀ time ∈ s.drawTimes, s.drawAt time < 10 * (s.hw.pGrant.toNat - s.hw.pLent.toNat - n)) ∧
      (s.hw.pBorrow.toNat + n < 2 ^ 10 → exec (.loanOffer .borrower p n) s = .next (loan .borrower))) ∧
    (∀ u l, s.loan? u = some l →
      (l.since + 140000000 ≤ s.clock → (l.side = .borrower ∨ l.fenced = none) →
        exec (.loanLapse ⟨u, false⟩) s = .next (s.endLoan u)) ∧
      (s.up = true → l.recalled = none → l.fenced = none →
        let t : State := { s with loans := s.loans.map fun (x : Loan) => if x.uid == l.uid then { x with since := s.clock } else x }
        exec (.loanLapse ⟨u, true⟩) s = .next (if l.side = .lender then t.tellLoan l.port l.tokens else t)) ∧
      (s.up = true → l.side = .borrower → exec (.loanRecall u) s = .next ((s.endLoan u).tellLoan l.port (-(l.tokens : Int)))) ∧
      (s.up = true → l.side = .lender → l.recalled = none → exec (.loanRecall u) s = .next (State.tellLoan { s with
        loans := s.loans.map fun (x : Loan) => if x.uid == u then { x with recalled := some s.clock } else x } l.port 0)) ∧
      (l.side = .lender → l.fenced = none → exec (.recallConfirm u) s = .next (s.endLoan u)) ∧
      (∀ t, l.side = .lender → (l.fenced = some t ∨ (l.fenced = none ∧ l.recalled = some t)) → t + 2800000 ≤ s.clock →
        exec (.recallTimeout u) s = .next (s.endLoan u)) ∧
      (∀ t, l.side = .lender → l.fenced = some t → s.clock < t + 2800000 →
        ∀ i ∈ [Instr.recallConfirm u, .recallTimeout u, .loanLapse ⟨u, false⟩, .loanLapse ⟨u, true⟩], exec i s = .next s) ∧
      (s.endLoan u).hw.pBorrow =
        BitVec.ofNat 10 ((s.loans.filter fun x => x.uid != u && x.side == .borrower).map Loan.tokens).sum) ∧
    (∀ k n, k < 256 → BitVec.toNat n = s.railTarget k →
      exec (.railSettle k n) s = .next (s.mapCluster k fun x => { x with level := n })) ∧
    (∀ k i n, k < 256 → i < 6 → 1 ≤ BitVec.toNat n → BitVec.toNat n ≤ 8 → exec (.sliceRatioChange k i n) s =
      .next (s.mapCluster k fun x => { x with slices := vmod x.slices i fun y => { y with ratio := n } })) ∧
    (s.hw.pRamp ≠ 0 → s.admitNext ≤ s.clock → ∀ k, nextAdmitted s.admitDie s.admitPos s.limited = some k →
      exec .limiterAdmit s = .next { s.mapCluster k fun x => { x with waiters := [] } with
        admitDie := dieOf k, admitPos := (dieOf k, k) :: s.admitPos.filter fun x => x.1 != dieOf k
        admitNext := s.clock + limiterInterval s.hw.pRamp }) ∧
    (s.alive = true → s.power = true →
      (∀ i, 1 ≤ i → i ≤ 10 → i ≠ 6 →
        exec (.softError (.corrected i)) s = .next { s with hw := { s.hw with secErr := bump s.hw.secErr i } }) ∧
      (
        let strikes (e : SoftError) (x : BadGranule) : Prop :=
          (x ∉ s.poison → exec (.softError e) s = .next (State.countUnc { s with poison := x :: s.poison } x.source)) ∧
          (x ∈ s.poison → exec (.softError e) s = .next s)
        (∀ loc, loc < 2 ^ 28 → preciseBank loc = true →
          strikes (.sram loc) (granuleOf 2 (sramAt + loc))) ∧
        (∀ i ctx va place, s.pagePlace ctx va false = some place → lineSource i place = true →
          strikes (.line i ctx va) (granuleOf i place)) ∧
        (∀ k ctx va place, s.pagePlace ctx va false = some place → k < 256 → place < sramAt →
          strikes (.cached k ctx va) (copyGranule k place))) ∧
      (∀ u k g w, s.group? u = some g → g.warp? k = some w → w.ended = none →
        let strikes (e : SoftError) (b : BadReg) (i : Nat) : Prop :=
          (b ∉ w.bad → exec (.softError e) s = .next ((s.mapWarp u k fun w => { w with bad := b :: w.bad }).countUnc i)) ∧
          (b ∈ w.bad → exec (.softError e) s = .next s)
        (∀ n i, n < 256 → i < 64 → strikes (.vreg u k n i) (.v n i) 1) ∧ (∀ n, n < 64 → strikes (.sreg u k n) (.s n) 1) ∧
        (∀ n i h, n < 4 → i < 64 →
          strikes (.modulus u k n i false h) (.qm n i h) 1 ∧ strikes (.modulus u k n i true h) (.qb n i h) 1) ∧
        (∀ n i, s.latchValid u k n = true → i < 64 → strikes (.latch u k n i) (.latch n i) 6) ∧
        (∀ i, i < 64 → strikes (.crossbar u k i) (.crossbar i) 6)) ∧
      (∀ u g l b, s.group? u = some g → g.leek = some l → l.ended = none → b.granule < granulesOf b.place →
        (b ∉ l.bad → exec (.softError (.leek u b)) s = .next ((s.mapLeek u fun l => { l with bad := b :: l.bad }).countUnc 7)) ∧
        (b ∈ l.bad → exec (.softError (.leek u b)) s = .next s)) ∧
      (∀ u g b slot x i, s.group? u = some g → (g.fifo b)[slot]? = some x → i < 32 →
        (i ∉ x.bad →
          let hits (y : FifoSlot) : FifoSlot := { y with bad := i :: y.bad }
          exec (.softError (.fifo u b slot i)) s = .next ((s.mapFifo u b fun q => q.modify slot hits).countUnc 2)) ∧
        (i ∈ x.bad → exec (.softError (.fifo u b slot i)) s = .next s)) ∧
      (∀ loc b, loc < 2 ^ 28 → preciseBank loc = false →
        exec (.softError (.bank loc b)) s = .next { s with mem := s.mem.set (sramAt + loc) b }) ∧
      (∀ ctx va b place, s.pagePlace ctx va true = some place →
        exec (.softError (.apxLine ctx va b)) s = .next { s with mem := s.mem.set place b }) ∧
      (∀ k n i b, i < 2 ^ 16 → exec (.softError (.array k n i b)) s =
        .next (s.mapSlot k n fun a => { a with data := a.data.set i b })) ∧
      (∀ u i b, exec (.softError (.copyData u i b)) s = .next { s with copies := s.copies.map fun c =>
        if c.uid = u then { c with held := c.held.map fun bs => bs.set i b } else c }) ∧
      (∀ u k n i b, exec (.softError (.result u k n i b)) s = .next (s.mapWarp u k fun w =>
        { w with v := vmod w.v n fun r => { r with lanes := vmod r.lanes i fun _ => b } })) ∧
      (∀ u k n b, exec (.softError (.uniform u k n b)) s = .next (s.mapWarp u k fun w => { w with s := vmod w.s n fun _ => b })) ∧
      (∀ u k n b, n ≠ 0 → exec (.softError (.mask u k n b)) s = .next (s.mapWarp u k fun w => { w with k := vmod w.k n fun _ => b })) ∧
      (∀ u k n i b, exec (.softError (.modulusValue u k n i false b)) s = .next (s.mapWarp u k fun w =>
          { w with qm := vmod w.qm n fun r => vmod r i fun _ => b }) ∧
        exec (.softError (.modulusValue u k n i true b)) s = .next (s.mapWarp u k fun w =>
          { w with qb := vmod w.qb n fun r => vmod r i fun _ => b })) ∧
      (∀ u k n i b, exec (.softError (.latched u k n i b)) s = .next (s.mapWarp u k fun w => { w with
        latches := vmod w.latches n fun x => x.map fun x => { x with lanes := vmod x.lanes i fun _ => b } })) ∧
      (∀ u n b, exec (.softError (.general u n b)) s = .next (s.mapLeek u fun l => { l with g := vmod l.g n fun _ => b })) ∧
      (∀ u b, ∀ n : Fin 8, exec (.softError (.predicate u n.val b)) s = .next (s.mapLeek u fun l => l.writeK n b)) ∧
      (∀ u k e i b,
        let hits (p : Spec) : Spec :=
          if e ∈ p.converted then { p with stores := p.stores.modify e fun x => (x.1, x.2.set i b) } else p
        exec (.softError (.buffered u k e i b)) s = .next (s.mapWarp u k fun w => { w with spec := w.spec.map hits })) ∧
      (∀ a b, (∃ x ∈ s.datapath, x.1 ≤ a ∧ a < x.1 + x.2) →
        exec (.softError (.stored a b)) s = .next { s with mem := s.mem.set a b })) ∧
    (∃ t, exec .powerLoss s = .next t ∧ t.power = false ∧ t.mem = [] ∧ t.ctxs = [] ∧ t.groups = [] ∧ t.hw = HwA.reset)

/-! ## Words of the specification -/

/-- R39 to R43: the words that the specification works out field by field decode to the instructions that they stand for. -/
def Obligations.SpecWordsDecode : Prop :=
  let l : LForm :=
    { sub := 0, pneg := false, pred := 0, src2 := .zero, src1 := .zero, src0 := .zero, dst := .zero, fmt := .b32, nw := false
      a := false, imm := none }
  let m : MForm :=
    { off := none, sub := 0, pneg := false, pred := 0, space := .generic, brec := 0, index := .zero, base := .zero, data := .zero
      fmt := .b32, nw := false, a := false }
  decode [0x4D, 0x31, 0x0A, 0x2C, 0xC0, 0x00, 0x41, 0x3B] = .ok (.fma { l with
    sub := 3, pneg := true, pred := 3, src2 := .s 4, src1 := .v 12, src0 := .v 11, dst := .v 10, fmt := .f32 }, []) ∧
  decode [0x80, 0x0C, 0x04, 0xF8] = .ok (.addShort (-2) 1 3, []) ∧
  decode [0x04, 0x04, 0x04, 0x00] = .ok (.braShort 16 false 1, []) ∧
  decode [0x05, 0x04, 0x3C, 0x5A, 0xF8, 0xFF, 0xFF, 0x02] =
    .ok (.bra { pneg := false, pred := 2, offset := -8, sig16 := 0x5A3C, u := true }, []) ∧
  decode [0x0D, 0x00, 0x00, 0x00, 0xF0, 0x06, 0x00, 0x00] =
    .ok (.call { pneg := false, pred := 0, offset := 0x6F0, sig16 := 0, u := false }, []) ∧
  decode [0x0A, 0x03, 0xFE, 0xFB, 0xEF, 0xBF, 0xFF, 0x10, 0x03, 0x00, 0x00, 0x00] =
    .ok (.barsync { l with sub := 1, imm := some 3 }, []) ∧
  decode [0x8A, 0x03, 0xFE, 0x0B, 0xE4, 0xBF, 0xFF, 0x00, 0x0F, 0x00, 0x00, 0x00] =
    .ok (.movsr { l with src0 := .s 2, imm := some 0x0F }, []) ∧
  decode [0x61, 0x52, 0x04, 0x08, 0x64, 0xC0, 0x3F, 0x01] = .ok (.atom { m with
    pred := 1, brec := 0xFF, index := .v 6, base := .s 2, data := .v 4, fmt := .bf16x2 }, []) ∧
  decode [0x51, 0x52, 0x04, 0x18, 0x24, 0x00, 0x00, 0x00] =
    .ok (.ldb { m with index := .v 2, base := .s 6, data := .v 4, fmt := .bf16x2 }, []) ∧
  decode [0x05, 0xF2, 0x08, 0x10, 0x60, 0x80, 0xFF, 0x00] =
    .ok (.qmul { l with src1 := .v 6, src0 := .v 4, dst := .v 8, fmt := .q64 }, [])
end

