-- ==== Sys2Proof/Laws/State.lean ====
section
/-!
SUPPORT. The fields of the state after each of its updates, and those of a warp: one lemma for a field and an update, true by
rfl, so that no proof unfolds a record.
-/

namespace Sys2Proof.Machine

section
variable (s : State)

/-! ### mapGroup -/

@[simp] theorem State.mapGroup_schedule (u : Nat) (f : Group → Group) : (s.mapGroup u f).schedule = s.schedule := rfl
@[simp] theorem State.mapGroup_cur (u : Nat) (f : Group → Group) : (s.mapGroup u f).cur = s.cur := rfl
@[simp] theorem State.mapGroup_fresh (u : Nat) (f : Group → Group) : (s.mapGroup u f).fresh = s.fresh := rfl
@[simp] theorem State.mapGroup_nextUid (u : Nat) (f : Group → Group) : (s.mapGroup u f).nextUid = s.nextUid := rfl
@[simp] theorem State.mapGroup_clock (u : Nat) (f : Group → Group) : (s.mapGroup u f).clock = s.clock := rfl
@[simp] theorem State.mapGroup_power (u : Nat) (f : Group → Group) : (s.mapGroup u f).power = s.power := rfl
@[simp] theorem State.mapGroup_alive (u : Nat) (f : Group → Group) : (s.mapGroup u f).alive = s.alive := rfl
@[simp] theorem State.mapGroup_hw (u : Nat) (f : Group → Group) : (s.mapGroup u f).hw = s.hw := rfl
@[simp] theorem State.mapGroup_mem (u : Nat) (f : Group → Group) : (s.mapGroup u f).mem = s.mem := rfl
@[simp] theorem State.mapGroup_poison (u : Nat) (f : Group → Group) : (s.mapGroup u f).poison = s.poison := rfl
@[simp] theorem State.mapGroup_tlb (u : Nat) (f : Group → Group) : (s.mapGroup u f).tlb = s.tlb := rfl
@[simp] theorem State.mapGroup_gens (u : Nat) (f : Group → Group) : (s.mapGroup u f).gens = s.gens := rfl
@[simp] theorem State.mapGroup_partEpoch (u : Nat) (f : Group → Group) : (s.mapGroup u f).partEpoch = s.partEpoch := rfl
@[simp] theorem State.mapGroup_parts (u : Nat) (f : Group → Group) : (s.mapGroup u f).parts = s.parts := rfl
@[simp] theorem State.mapGroup_counts (u : Nat) (f : Group → Group) : (s.mapGroup u f).counts = s.counts := rfl
@[simp] theorem State.mapGroup_ctxs (u : Nat) (f : Group → Group) : (s.mapGroup u f).ctxs = s.ctxs := rfl
@[simp] theorem State.mapGroup_arrivals (u : Nat) (f : Group → Group) : (s.mapGroup u f).arrivals = s.arrivals := rfl
@[simp] theorem State.mapGroup_pods (u : Nat) (f : Group → Group) : (s.mapGroup u f).pods = s.pods := rfl
@[simp] theorem State.mapGroup_gathers (u : Nat) (f : Group → Group) : (s.mapGroup u f).gathers = s.gathers := rfl
@[simp] theorem State.mapGroup_spans (u : Nat) (f : Group → Group) : (s.mapGroup u f).spans = s.spans := rfl
@[simp] theorem State.mapGroup_clusters (u : Nat) (f : Group → Group) : (s.mapGroup u f).clusters = s.clusters := rfl
@[simp] theorem State.mapGroup_copies (u : Nat) (f : Group → Group) : (s.mapGroup u f).copies = s.copies := rfl
@[simp] theorem State.mapGroup_held (u : Nat) (f : Group → Group) : (s.mapGroup u f).held = s.held := rfl
@[simp] theorem State.mapGroup_restarts (u : Nat) (f : Group → Group) : (s.mapGroup u f).restarts = s.restarts := rfl
@[simp] theorem State.mapGroup_faultWait (u : Nat) (f : Group → Group) : (s.mapGroup u f).faultWait = s.faultWait := rfl
@[simp] theorem State.mapGroup_accepted (u : Nat) (f : Group → Group) : (s.mapGroup u f).accepted = s.accepted := rfl
@[simp] theorem State.mapGroup_running (u : Nat) (f : Group → Group) : (s.mapGroup u f).running = s.running := rfl
@[simp] theorem State.mapGroup_outRemote (u : Nat) (f : Group → Group) : (s.mapGroup u f).outRemote = s.outRemote := rfl
@[simp] theorem State.mapGroup_cache (u : Nat) (f : Group → Group) : (s.mapGroup u f).cache = s.cache := rfl
@[simp] theorem State.mapGroup_heldReqs (u : Nat) (f : Group → Group) : (s.mapGroup u f).heldReqs = s.heldReqs := rfl
@[simp] theorem State.mapGroup_loans (u : Nat) (f : Group → Group) : (s.mapGroup u f).loans = s.loans := rfl
@[simp] theorem State.mapGroup_hostMem (u : Nat) (f : Group → Group) : (s.mapGroup u f).hostMem = s.hostMem := rfl
@[simp] theorem State.mapGroup_fabricOut (u : Nat) (f : Group → Group) : (s.mapGroup u f).fabricOut = s.fabricOut := rfl
@[simp] theorem State.mapGroup_msi (u : Nat) (f : Group → Group) : (s.mapGroup u f).msi = s.msi := rfl
@[simp] theorem State.mapGroup_hostReads (u : Nat) (f : Group → Group) : (s.mapGroup u f).hostReads = s.hostReads := rfl
@[simp] theorem State.mapGroup_todo (u : Nat) (f : Group → Group) : (s.mapGroup u f).todo = s.todo := rfl
@[simp] theorem State.mapGroup_lastPkt (u : Nat) (f : Group → Group) : (s.mapGroup u f).lastPkt = s.lastPkt := rfl
@[simp] theorem State.mapGroup_peerEpochs (u : Nat) (f : Group → Group) : (s.mapGroup u f).peerEpochs = s.peerEpochs := rfl
@[simp] theorem State.mapGroup_requesters (u : Nat) (f : Group → Group) : (s.mapGroup u f).requesters = s.requesters := rfl
@[simp] theorem State.mapGroup_serving (u : Nat) (f : Group → Group) : (s.mapGroup u f).serving = s.serving := rfl
@[simp] theorem State.mapGroup_lastGrant (u : Nat) (f : Group → Group) : (s.mapGroup u f).lastGrant = s.lastGrant := rfl
@[simp] theorem State.mapGroup_admitDie (u : Nat) (f : Group → Group) : (s.mapGroup u f).admitDie = s.admitDie := rfl
@[simp] theorem State.mapGroup_admitPos (u : Nat) (f : Group → Group) : (s.mapGroup u f).admitPos = s.admitPos := rfl
@[simp] theorem State.mapGroup_admitNext (u : Nat) (f : Group → Group) : (s.mapGroup u f).admitNext = s.admitNext := rfl
@[simp] theorem State.mapGroup_watts (u : Nat) (f : Group → Group) : (s.mapGroup u f).watts = s.watts := rfl
@[simp] theorem State.mapGroup_port (u : Nat) (f : Group → Group) : (s.mapGroup u f).port = s.port := rfl
@[simp] theorem State.mapGroup_draws (u : Nat) (f : Group → Group) : (s.mapGroup u f).draws = s.draws := rfl
@[simp] theorem State.mapGroup_datapath (u : Nat) (f : Group → Group) : (s.mapGroup u f).datapath = s.datapath := rfl

/-! ### mapWarp -/

@[simp] theorem State.mapWarp_schedule (u w : Nat) (f : Warp → Warp) : (s.mapWarp u w f).schedule = s.schedule := rfl
@[simp] theorem State.mapWarp_cur (u w : Nat) (f : Warp → Warp) : (s.mapWarp u w f).cur = s.cur := rfl
@[simp] theorem State.mapWarp_fresh (u w : Nat) (f : Warp → Warp) : (s.mapWarp u w f).fresh = s.fresh := rfl
@[simp] theorem State.mapWarp_nextUid (u w : Nat) (f : Warp → Warp) : (s.mapWarp u w f).nextUid = s.nextUid := rfl
@[simp] theorem State.mapWarp_clock (u w : Nat) (f : Warp → Warp) : (s.mapWarp u w f).clock = s.clock := rfl
@[simp] theorem State.mapWarp_power (u w : Nat) (f : Warp → Warp) : (s.mapWarp u w f).power = s.power := rfl
@[simp] theorem State.mapWarp_alive (u w : Nat) (f : Warp → Warp) : (s.mapWarp u w f).alive = s.alive := rfl
@[simp] theorem State.mapWarp_hw (u w : Nat) (f : Warp → Warp) : (s.mapWarp u w f).hw = s.hw := rfl
@[simp] theorem State.mapWarp_mem (u w : Nat) (f : Warp → Warp) : (s.mapWarp u w f).mem = s.mem := rfl
@[simp] theorem State.mapWarp_poison (u w : Nat) (f : Warp → Warp) : (s.mapWarp u w f).poison = s.poison := rfl
@[simp] theorem State.mapWarp_tlb (u w : Nat) (f : Warp → Warp) : (s.mapWarp u w f).tlb = s.tlb := rfl
@[simp] theorem State.mapWarp_gens (u w : Nat) (f : Warp → Warp) : (s.mapWarp u w f).gens = s.gens := rfl
@[simp] theorem State.mapWarp_partEpoch (u w : Nat) (f : Warp → Warp) : (s.mapWarp u w f).partEpoch = s.partEpoch := rfl
@[simp] theorem State.mapWarp_parts (u w : Nat) (f : Warp → Warp) : (s.mapWarp u w f).parts = s.parts := rfl
@[simp] theorem State.mapWarp_counts (u w : Nat) (f : Warp → Warp) : (s.mapWarp u w f).counts = s.counts := rfl
@[simp] theorem State.mapWarp_ctxs (u w : Nat) (f : Warp → Warp) : (s.mapWarp u w f).ctxs = s.ctxs := rfl
@[simp] theorem State.mapWarp_arrivals (u w : Nat) (f : Warp → Warp) : (s.mapWarp u w f).arrivals = s.arrivals := rfl
@[simp] theorem State.mapWarp_pods (u w : Nat) (f : Warp → Warp) : (s.mapWarp u w f).pods = s.pods := rfl
@[simp] theorem State.mapWarp_gathers (u w : Nat) (f : Warp → Warp) : (s.mapWarp u w f).gathers = s.gathers := rfl
@[simp] theorem State.mapWarp_spans (u w : Nat) (f : Warp → Warp) : (s.mapWarp u w f).spans = s.spans := rfl
@[simp] theorem State.mapWarp_clusters (u w : Nat) (f : Warp → Warp) : (s.mapWarp u w f).clusters = s.clusters := rfl
@[simp] theorem State.mapWarp_copies (u w : Nat) (f : Warp → Warp) : (s.mapWarp u w f).copies = s.copies := rfl
@[simp] theorem State.mapWarp_held (u w : Nat) (f : Warp → Warp) : (s.mapWarp u w f).held = s.held := rfl
@[simp] theorem State.mapWarp_restarts (u w : Nat) (f : Warp → Warp) : (s.mapWarp u w f).restarts = s.restarts := rfl
@[simp] theorem State.mapWarp_faultWait (u w : Nat) (f : Warp → Warp) : (s.mapWarp u w f).faultWait = s.faultWait := rfl
@[simp] theorem State.mapWarp_accepted (u w : Nat) (f : Warp → Warp) : (s.mapWarp u w f).accepted = s.accepted := rfl
@[simp] theorem State.mapWarp_running (u w : Nat) (f : Warp → Warp) : (s.mapWarp u w f).running = s.running := rfl
@[simp] theorem State.mapWarp_outRemote (u w : Nat) (f : Warp → Warp) : (s.mapWarp u w f).outRemote = s.outRemote := rfl
@[simp] theorem State.mapWarp_cache (u w : Nat) (f : Warp → Warp) : (s.mapWarp u w f).cache = s.cache := rfl
@[simp] theorem State.mapWarp_heldReqs (u w : Nat) (f : Warp → Warp) : (s.mapWarp u w f).heldReqs = s.heldReqs := rfl
@[simp] theorem State.mapWarp_loans (u w : Nat) (f : Warp → Warp) : (s.mapWarp u w f).loans = s.loans := rfl
@[simp] theorem State.mapWarp_hostMem (u w : Nat) (f : Warp → Warp) : (s.mapWarp u w f).hostMem = s.hostMem := rfl
@[simp] theorem State.mapWarp_fabricOut (u w : Nat) (f : Warp → Warp) : (s.mapWarp u w f).fabricOut = s.fabricOut := rfl
@[simp] theorem State.mapWarp_msi (u w : Nat) (f : Warp → Warp) : (s.mapWarp u w f).msi = s.msi := rfl
@[simp] theorem State.mapWarp_hostReads (u w : Nat) (f : Warp → Warp) : (s.mapWarp u w f).hostReads = s.hostReads := rfl
@[simp] theorem State.mapWarp_todo (u w : Nat) (f : Warp → Warp) : (s.mapWarp u w f).todo = s.todo := rfl
@[simp] theorem State.mapWarp_lastPkt (u w : Nat) (f : Warp → Warp) : (s.mapWarp u w f).lastPkt = s.lastPkt := rfl
@[simp] theorem State.mapWarp_peerEpochs (u w : Nat) (f : Warp → Warp) : (s.mapWarp u w f).peerEpochs = s.peerEpochs := rfl
@[simp] theorem State.mapWarp_requesters (u w : Nat) (f : Warp → Warp) : (s.mapWarp u w f).requesters = s.requesters := rfl
@[simp] theorem State.mapWarp_serving (u w : Nat) (f : Warp → Warp) : (s.mapWarp u w f).serving = s.serving := rfl
@[simp] theorem State.mapWarp_lastGrant (u w : Nat) (f : Warp → Warp) : (s.mapWarp u w f).lastGrant = s.lastGrant := rfl
@[simp] theorem State.mapWarp_admitDie (u w : Nat) (f : Warp → Warp) : (s.mapWarp u w f).admitDie = s.admitDie := rfl
@[simp] theorem State.mapWarp_admitPos (u w : Nat) (f : Warp → Warp) : (s.mapWarp u w f).admitPos = s.admitPos := rfl
@[simp] theorem State.mapWarp_admitNext (u w : Nat) (f : Warp → Warp) : (s.mapWarp u w f).admitNext = s.admitNext := rfl
@[simp] theorem State.mapWarp_watts (u w : Nat) (f : Warp → Warp) : (s.mapWarp u w f).watts = s.watts := rfl
@[simp] theorem State.mapWarp_port (u w : Nat) (f : Warp → Warp) : (s.mapWarp u w f).port = s.port := rfl
@[simp] theorem State.mapWarp_draws (u w : Nat) (f : Warp → Warp) : (s.mapWarp u w f).draws = s.draws := rfl
@[simp] theorem State.mapWarp_datapath (u w : Nat) (f : Warp → Warp) : (s.mapWarp u w f).datapath = s.datapath := rfl

/-! ### mapLeek -/

@[simp] theorem State.mapLeek_schedule (u : Nat) (f : Leek → Leek) : (s.mapLeek u f).schedule = s.schedule := rfl
@[simp] theorem State.mapLeek_cur (u : Nat) (f : Leek → Leek) : (s.mapLeek u f).cur = s.cur := rfl
@[simp] theorem State.mapLeek_fresh (u : Nat) (f : Leek → Leek) : (s.mapLeek u f).fresh = s.fresh := rfl
@[simp] theorem State.mapLeek_nextUid (u : Nat) (f : Leek → Leek) : (s.mapLeek u f).nextUid = s.nextUid := rfl
@[simp] theorem State.mapLeek_clock (u : Nat) (f : Leek → Leek) : (s.mapLeek u f).clock = s.clock := rfl
@[simp] theorem State.mapLeek_power (u : Nat) (f : Leek → Leek) : (s.mapLeek u f).power = s.power := rfl
@[simp] theorem State.mapLeek_alive (u : Nat) (f : Leek → Leek) : (s.mapLeek u f).alive = s.alive := rfl
@[simp] theorem State.mapLeek_hw (u : Nat) (f : Leek → Leek) : (s.mapLeek u f).hw = s.hw := rfl
@[simp] theorem State.mapLeek_mem (u : Nat) (f : Leek → Leek) : (s.mapLeek u f).mem = s.mem := rfl
@[simp] theorem State.mapLeek_poison (u : Nat) (f : Leek → Leek) : (s.mapLeek u f).poison = s.poison := rfl
@[simp] theorem State.mapLeek_tlb (u : Nat) (f : Leek → Leek) : (s.mapLeek u f).tlb = s.tlb := rfl
@[simp] theorem State.mapLeek_gens (u : Nat) (f : Leek → Leek) : (s.mapLeek u f).gens = s.gens := rfl
@[simp] theorem State.mapLeek_partEpoch (u : Nat) (f : Leek → Leek) : (s.mapLeek u f).partEpoch = s.partEpoch := rfl
@[simp] theorem State.mapLeek_parts (u : Nat) (f : Leek → Leek) : (s.mapLeek u f).parts = s.parts := rfl
@[simp] theorem State.mapLeek_counts (u : Nat) (f : Leek → Leek) : (s.mapLeek u f).counts = s.counts := rfl
@[simp] theorem State.mapLeek_ctxs (u : Nat) (f : Leek → Leek) : (s.mapLeek u f).ctxs = s.ctxs := rfl
@[simp] theorem State.mapLeek_arrivals (u : Nat) (f : Leek → Leek) : (s.mapLeek u f).arrivals = s.arrivals := rfl
@[simp] theorem State.mapLeek_pods (u : Nat) (f : Leek → Leek) : (s.mapLeek u f).pods = s.pods := rfl
@[simp] theorem State.mapLeek_gathers (u : Nat) (f : Leek → Leek) : (s.mapLeek u f).gathers = s.gathers := rfl
@[simp] theorem State.mapLeek_spans (u : Nat) (f : Leek → Leek) : (s.mapLeek u f).spans = s.spans := rfl
@[simp] theorem State.mapLeek_clusters (u : Nat) (f : Leek → Leek) : (s.mapLeek u f).clusters = s.clusters := rfl
@[simp] theorem State.mapLeek_copies (u : Nat) (f : Leek → Leek) : (s.mapLeek u f).copies = s.copies := rfl
@[simp] theorem State.mapLeek_held (u : Nat) (f : Leek → Leek) : (s.mapLeek u f).held = s.held := rfl
@[simp] theorem State.mapLeek_restarts (u : Nat) (f : Leek → Leek) : (s.mapLeek u f).restarts = s.restarts := rfl
@[simp] theorem State.mapLeek_faultWait (u : Nat) (f : Leek → Leek) : (s.mapLeek u f).faultWait = s.faultWait := rfl
@[simp] theorem State.mapLeek_accepted (u : Nat) (f : Leek → Leek) : (s.mapLeek u f).accepted = s.accepted := rfl
@[simp] theorem State.mapLeek_running (u : Nat) (f : Leek → Leek) : (s.mapLeek u f).running = s.running := rfl
@[simp] theorem State.mapLeek_outRemote (u : Nat) (f : Leek → Leek) : (s.mapLeek u f).outRemote = s.outRemote := rfl
@[simp] theorem State.mapLeek_cache (u : Nat) (f : Leek → Leek) : (s.mapLeek u f).cache = s.cache := rfl
@[simp] theorem State.mapLeek_heldReqs (u : Nat) (f : Leek → Leek) : (s.mapLeek u f).heldReqs = s.heldReqs := rfl
@[simp] theorem State.mapLeek_loans (u : Nat) (f : Leek → Leek) : (s.mapLeek u f).loans = s.loans := rfl
@[simp] theorem State.mapLeek_hostMem (u : Nat) (f : Leek → Leek) : (s.mapLeek u f).hostMem = s.hostMem := rfl
@[simp] theorem State.mapLeek_fabricOut (u : Nat) (f : Leek → Leek) : (s.mapLeek u f).fabricOut = s.fabricOut := rfl
@[simp] theorem State.mapLeek_msi (u : Nat) (f : Leek → Leek) : (s.mapLeek u f).msi = s.msi := rfl
@[simp] theorem State.mapLeek_hostReads (u : Nat) (f : Leek → Leek) : (s.mapLeek u f).hostReads = s.hostReads := rfl
@[simp] theorem State.mapLeek_todo (u : Nat) (f : Leek → Leek) : (s.mapLeek u f).todo = s.todo := rfl
@[simp] theorem State.mapLeek_lastPkt (u : Nat) (f : Leek → Leek) : (s.mapLeek u f).lastPkt = s.lastPkt := rfl
@[simp] theorem State.mapLeek_peerEpochs (u : Nat) (f : Leek → Leek) : (s.mapLeek u f).peerEpochs = s.peerEpochs := rfl
@[simp] theorem State.mapLeek_requesters (u : Nat) (f : Leek → Leek) : (s.mapLeek u f).requesters = s.requesters := rfl
@[simp] theorem State.mapLeek_serving (u : Nat) (f : Leek → Leek) : (s.mapLeek u f).serving = s.serving := rfl
@[simp] theorem State.mapLeek_lastGrant (u : Nat) (f : Leek → Leek) : (s.mapLeek u f).lastGrant = s.lastGrant := rfl
@[simp] theorem State.mapLeek_admitDie (u : Nat) (f : Leek → Leek) : (s.mapLeek u f).admitDie = s.admitDie := rfl
@[simp] theorem State.mapLeek_admitPos (u : Nat) (f : Leek → Leek) : (s.mapLeek u f).admitPos = s.admitPos := rfl
@[simp] theorem State.mapLeek_admitNext (u : Nat) (f : Leek → Leek) : (s.mapLeek u f).admitNext = s.admitNext := rfl
@[simp] theorem State.mapLeek_watts (u : Nat) (f : Leek → Leek) : (s.mapLeek u f).watts = s.watts := rfl
@[simp] theorem State.mapLeek_port (u : Nat) (f : Leek → Leek) : (s.mapLeek u f).port = s.port := rfl
@[simp] theorem State.mapLeek_draws (u : Nat) (f : Leek → Leek) : (s.mapLeek u f).draws = s.draws := rfl
@[simp] theorem State.mapLeek_datapath (u : Nat) (f : Leek → Leek) : (s.mapLeek u f).datapath = s.datapath := rfl

/-! ### mapCtx -/

@[simp] theorem State.mapCtx_schedule (c : Nat) (f : Context → Context) : (s.mapCtx c f).schedule = s.schedule := rfl
@[simp] theorem State.mapCtx_cur (c : Nat) (f : Context → Context) : (s.mapCtx c f).cur = s.cur := rfl
@[simp] theorem State.mapCtx_fresh (c : Nat) (f : Context → Context) : (s.mapCtx c f).fresh = s.fresh := rfl
@[simp] theorem State.mapCtx_nextUid (c : Nat) (f : Context → Context) : (s.mapCtx c f).nextUid = s.nextUid := rfl
@[simp] theorem State.mapCtx_clock (c : Nat) (f : Context → Context) : (s.mapCtx c f).clock = s.clock := rfl
@[simp] theorem State.mapCtx_power (c : Nat) (f : Context → Context) : (s.mapCtx c f).power = s.power := rfl
@[simp] theorem State.mapCtx_alive (c : Nat) (f : Context → Context) : (s.mapCtx c f).alive = s.alive := rfl
@[simp] theorem State.mapCtx_hw (c : Nat) (f : Context → Context) : (s.mapCtx c f).hw = s.hw := rfl
@[simp] theorem State.mapCtx_mem (c : Nat) (f : Context → Context) : (s.mapCtx c f).mem = s.mem := rfl
@[simp] theorem State.mapCtx_poison (c : Nat) (f : Context → Context) : (s.mapCtx c f).poison = s.poison := rfl
@[simp] theorem State.mapCtx_tlb (c : Nat) (f : Context → Context) : (s.mapCtx c f).tlb = s.tlb := rfl
@[simp] theorem State.mapCtx_gens (c : Nat) (f : Context → Context) : (s.mapCtx c f).gens = s.gens := rfl
@[simp] theorem State.mapCtx_partEpoch (c : Nat) (f : Context → Context) : (s.mapCtx c f).partEpoch = s.partEpoch := rfl
@[simp] theorem State.mapCtx_parts (c : Nat) (f : Context → Context) : (s.mapCtx c f).parts = s.parts := rfl
@[simp] theorem State.mapCtx_counts (c : Nat) (f : Context → Context) : (s.mapCtx c f).counts = s.counts := rfl
@[simp] theorem State.mapCtx_arrivals (c : Nat) (f : Context → Context) : (s.mapCtx c f).arrivals = s.arrivals := rfl
@[simp] theorem State.mapCtx_pods (c : Nat) (f : Context → Context) : (s.mapCtx c f).pods = s.pods := rfl
@[simp] theorem State.mapCtx_gathers (c : Nat) (f : Context → Context) : (s.mapCtx c f).gathers = s.gathers := rfl
@[simp] theorem State.mapCtx_spans (c : Nat) (f : Context → Context) : (s.mapCtx c f).spans = s.spans := rfl
@[simp] theorem State.mapCtx_groups (c : Nat) (f : Context → Context) : (s.mapCtx c f).groups = s.groups := rfl
@[simp] theorem State.mapCtx_clusters (c : Nat) (f : Context → Context) : (s.mapCtx c f).clusters = s.clusters := rfl
@[simp] theorem State.mapCtx_copies (c : Nat) (f : Context → Context) : (s.mapCtx c f).copies = s.copies := rfl
@[simp] theorem State.mapCtx_held (c : Nat) (f : Context → Context) : (s.mapCtx c f).held = s.held := rfl
@[simp] theorem State.mapCtx_restarts (c : Nat) (f : Context → Context) : (s.mapCtx c f).restarts = s.restarts := rfl
@[simp] theorem State.mapCtx_faultWait (c : Nat) (f : Context → Context) : (s.mapCtx c f).faultWait = s.faultWait := rfl
@[simp] theorem State.mapCtx_accepted (c : Nat) (f : Context → Context) : (s.mapCtx c f).accepted = s.accepted := rfl
@[simp] theorem State.mapCtx_running (c : Nat) (f : Context → Context) : (s.mapCtx c f).running = s.running := rfl
@[simp] theorem State.mapCtx_outRemote (c : Nat) (f : Context → Context) : (s.mapCtx c f).outRemote = s.outRemote := rfl
@[simp] theorem State.mapCtx_cache (c : Nat) (f : Context → Context) : (s.mapCtx c f).cache = s.cache := rfl
@[simp] theorem State.mapCtx_heldReqs (c : Nat) (f : Context → Context) : (s.mapCtx c f).heldReqs = s.heldReqs := rfl
@[simp] theorem State.mapCtx_loans (c : Nat) (f : Context → Context) : (s.mapCtx c f).loans = s.loans := rfl
@[simp] theorem State.mapCtx_hostMem (c : Nat) (f : Context → Context) : (s.mapCtx c f).hostMem = s.hostMem := rfl
@[simp] theorem State.mapCtx_fabricOut (c : Nat) (f : Context → Context) : (s.mapCtx c f).fabricOut = s.fabricOut := rfl
@[simp] theorem State.mapCtx_msi (c : Nat) (f : Context → Context) : (s.mapCtx c f).msi = s.msi := rfl
@[simp] theorem State.mapCtx_hostReads (c : Nat) (f : Context → Context) : (s.mapCtx c f).hostReads = s.hostReads := rfl
@[simp] theorem State.mapCtx_todo (c : Nat) (f : Context → Context) : (s.mapCtx c f).todo = s.todo := rfl
@[simp] theorem State.mapCtx_lastPkt (c : Nat) (f : Context → Context) : (s.mapCtx c f).lastPkt = s.lastPkt := rfl
@[simp] theorem State.mapCtx_peerEpochs (c : Nat) (f : Context → Context) : (s.mapCtx c f).peerEpochs = s.peerEpochs := rfl
@[simp] theorem State.mapCtx_requesters (c : Nat) (f : Context → Context) : (s.mapCtx c f).requesters = s.requesters := rfl
@[simp] theorem State.mapCtx_serving (c : Nat) (f : Context → Context) : (s.mapCtx c f).serving = s.serving := rfl
@[simp] theorem State.mapCtx_lastGrant (c : Nat) (f : Context → Context) : (s.mapCtx c f).lastGrant = s.lastGrant := rfl
@[simp] theorem State.mapCtx_admitDie (c : Nat) (f : Context → Context) : (s.mapCtx c f).admitDie = s.admitDie := rfl
@[simp] theorem State.mapCtx_admitPos (c : Nat) (f : Context → Context) : (s.mapCtx c f).admitPos = s.admitPos := rfl
@[simp] theorem State.mapCtx_admitNext (c : Nat) (f : Context → Context) : (s.mapCtx c f).admitNext = s.admitNext := rfl
@[simp] theorem State.mapCtx_watts (c : Nat) (f : Context → Context) : (s.mapCtx c f).watts = s.watts := rfl
@[simp] theorem State.mapCtx_port (c : Nat) (f : Context → Context) : (s.mapCtx c f).port = s.port := rfl
@[simp] theorem State.mapCtx_draws (c : Nat) (f : Context → Context) : (s.mapCtx c f).draws = s.draws := rfl
@[simp] theorem State.mapCtx_datapath (c : Nat) (f : Context → Context) : (s.mapCtx c f).datapath = s.datapath := rfl

/-! ### mapPart -/

@[simp] theorem State.mapPart_schedule (p : Nat) (f : Partition → Partition) : (s.mapPart p f).schedule = s.schedule := rfl
@[simp] theorem State.mapPart_cur (p : Nat) (f : Partition → Partition) : (s.mapPart p f).cur = s.cur := rfl
@[simp] theorem State.mapPart_fresh (p : Nat) (f : Partition → Partition) : (s.mapPart p f).fresh = s.fresh := rfl
@[simp] theorem State.mapPart_nextUid (p : Nat) (f : Partition → Partition) : (s.mapPart p f).nextUid = s.nextUid := rfl
@[simp] theorem State.mapPart_clock (p : Nat) (f : Partition → Partition) : (s.mapPart p f).clock = s.clock := rfl
@[simp] theorem State.mapPart_power (p : Nat) (f : Partition → Partition) : (s.mapPart p f).power = s.power := rfl
@[simp] theorem State.mapPart_alive (p : Nat) (f : Partition → Partition) : (s.mapPart p f).alive = s.alive := rfl
@[simp] theorem State.mapPart_hw (p : Nat) (f : Partition → Partition) : (s.mapPart p f).hw = s.hw := rfl
@[simp] theorem State.mapPart_mem (p : Nat) (f : Partition → Partition) : (s.mapPart p f).mem = s.mem := rfl
@[simp] theorem State.mapPart_poison (p : Nat) (f : Partition → Partition) : (s.mapPart p f).poison = s.poison := rfl
@[simp] theorem State.mapPart_tlb (p : Nat) (f : Partition → Partition) : (s.mapPart p f).tlb = s.tlb := rfl
@[simp] theorem State.mapPart_gens (p : Nat) (f : Partition → Partition) : (s.mapPart p f).gens = s.gens := rfl
@[simp] theorem State.mapPart_partEpoch (p : Nat) (f : Partition → Partition) : (s.mapPart p f).partEpoch = s.partEpoch := rfl
@[simp] theorem State.mapPart_counts (p : Nat) (f : Partition → Partition) : (s.mapPart p f).counts = s.counts := rfl
@[simp] theorem State.mapPart_ctxs (p : Nat) (f : Partition → Partition) : (s.mapPart p f).ctxs = s.ctxs := rfl
@[simp] theorem State.mapPart_arrivals (p : Nat) (f : Partition → Partition) : (s.mapPart p f).arrivals = s.arrivals := rfl
@[simp] theorem State.mapPart_pods (p : Nat) (f : Partition → Partition) : (s.mapPart p f).pods = s.pods := rfl
@[simp] theorem State.mapPart_gathers (p : Nat) (f : Partition → Partition) : (s.mapPart p f).gathers = s.gathers := rfl
@[simp] theorem State.mapPart_spans (p : Nat) (f : Partition → Partition) : (s.mapPart p f).spans = s.spans := rfl
@[simp] theorem State.mapPart_groups (p : Nat) (f : Partition → Partition) : (s.mapPart p f).groups = s.groups := rfl
@[simp] theorem State.mapPart_clusters (p : Nat) (f : Partition → Partition) : (s.mapPart p f).clusters = s.clusters := rfl
@[simp] theorem State.mapPart_copies (p : Nat) (f : Partition → Partition) : (s.mapPart p f).copies = s.copies := rfl
@[simp] theorem State.mapPart_held (p : Nat) (f : Partition → Partition) : (s.mapPart p f).held = s.held := rfl
@[simp] theorem State.mapPart_restarts (p : Nat) (f : Partition → Partition) : (s.mapPart p f).restarts = s.restarts := rfl
@[simp] theorem State.mapPart_faultWait (p : Nat) (f : Partition → Partition) : (s.mapPart p f).faultWait = s.faultWait := rfl
@[simp] theorem State.mapPart_accepted (p : Nat) (f : Partition → Partition) : (s.mapPart p f).accepted = s.accepted := rfl
@[simp] theorem State.mapPart_running (p : Nat) (f : Partition → Partition) : (s.mapPart p f).running = s.running := rfl
@[simp] theorem State.mapPart_outRemote (p : Nat) (f : Partition → Partition) : (s.mapPart p f).outRemote = s.outRemote := rfl
@[simp] theorem State.mapPart_cache (p : Nat) (f : Partition → Partition) : (s.mapPart p f).cache = s.cache := rfl
@[simp] theorem State.mapPart_heldReqs (p : Nat) (f : Partition → Partition) : (s.mapPart p f).heldReqs = s.heldReqs := rfl
@[simp] theorem State.mapPart_loans (p : Nat) (f : Partition → Partition) : (s.mapPart p f).loans = s.loans := rfl
@[simp] theorem State.mapPart_hostMem (p : Nat) (f : Partition → Partition) : (s.mapPart p f).hostMem = s.hostMem := rfl
@[simp] theorem State.mapPart_fabricOut (p : Nat) (f : Partition → Partition) : (s.mapPart p f).fabricOut = s.fabricOut := rfl
@[simp] theorem State.mapPart_msi (p : Nat) (f : Partition → Partition) : (s.mapPart p f).msi = s.msi := rfl
@[simp] theorem State.mapPart_hostReads (p : Nat) (f : Partition → Partition) : (s.mapPart p f).hostReads = s.hostReads := rfl
@[simp] theorem State.mapPart_todo (p : Nat) (f : Partition → Partition) : (s.mapPart p f).todo = s.todo := rfl
@[simp] theorem State.mapPart_lastPkt (p : Nat) (f : Partition → Partition) : (s.mapPart p f).lastPkt = s.lastPkt := rfl
@[simp] theorem State.mapPart_peerEpochs (p : Nat) (f : Partition → Partition) : (s.mapPart p f).peerEpochs = s.peerEpochs := rfl
@[simp] theorem State.mapPart_requesters (p : Nat) (f : Partition → Partition) : (s.mapPart p f).requesters = s.requesters := rfl
@[simp] theorem State.mapPart_serving (p : Nat) (f : Partition → Partition) : (s.mapPart p f).serving = s.serving := rfl
@[simp] theorem State.mapPart_lastGrant (p : Nat) (f : Partition → Partition) : (s.mapPart p f).lastGrant = s.lastGrant := rfl
@[simp] theorem State.mapPart_admitDie (p : Nat) (f : Partition → Partition) : (s.mapPart p f).admitDie = s.admitDie := rfl
@[simp] theorem State.mapPart_admitPos (p : Nat) (f : Partition → Partition) : (s.mapPart p f).admitPos = s.admitPos := rfl
@[simp] theorem State.mapPart_admitNext (p : Nat) (f : Partition → Partition) : (s.mapPart p f).admitNext = s.admitNext := rfl
@[simp] theorem State.mapPart_watts (p : Nat) (f : Partition → Partition) : (s.mapPart p f).watts = s.watts := rfl
@[simp] theorem State.mapPart_port (p : Nat) (f : Partition → Partition) : (s.mapPart p f).port = s.port := rfl
@[simp] theorem State.mapPart_draws (p : Nat) (f : Partition → Partition) : (s.mapPart p f).draws = s.draws := rfl
@[simp] theorem State.mapPart_datapath (p : Nat) (f : Partition → Partition) : (s.mapPart p f).datapath = s.datapath := rfl

/-! ### mapSpan -/

@[simp] theorem State.mapSpan_schedule (u : Nat) (f : Span → Span) : (s.mapSpan u f).schedule = s.schedule := rfl
@[simp] theorem State.mapSpan_cur (u : Nat) (f : Span → Span) : (s.mapSpan u f).cur = s.cur := rfl
@[simp] theorem State.mapSpan_fresh (u : Nat) (f : Span → Span) : (s.mapSpan u f).fresh = s.fresh := rfl
@[simp] theorem State.mapSpan_nextUid (u : Nat) (f : Span → Span) : (s.mapSpan u f).nextUid = s.nextUid := rfl
@[simp] theorem State.mapSpan_clock (u : Nat) (f : Span → Span) : (s.mapSpan u f).clock = s.clock := rfl
@[simp] theorem State.mapSpan_power (u : Nat) (f : Span → Span) : (s.mapSpan u f).power = s.power := rfl
@[simp] theorem State.mapSpan_alive (u : Nat) (f : Span → Span) : (s.mapSpan u f).alive = s.alive := rfl
@[simp] theorem State.mapSpan_hw (u : Nat) (f : Span → Span) : (s.mapSpan u f).hw = s.hw := rfl
@[simp] theorem State.mapSpan_mem (u : Nat) (f : Span → Span) : (s.mapSpan u f).mem = s.mem := rfl
@[simp] theorem State.mapSpan_poison (u : Nat) (f : Span → Span) : (s.mapSpan u f).poison = s.poison := rfl
@[simp] theorem State.mapSpan_tlb (u : Nat) (f : Span → Span) : (s.mapSpan u f).tlb = s.tlb := rfl
@[simp] theorem State.mapSpan_gens (u : Nat) (f : Span → Span) : (s.mapSpan u f).gens = s.gens := rfl
@[simp] theorem State.mapSpan_partEpoch (u : Nat) (f : Span → Span) : (s.mapSpan u f).partEpoch = s.partEpoch := rfl
@[simp] theorem State.mapSpan_parts (u : Nat) (f : Span → Span) : (s.mapSpan u f).parts = s.parts := rfl
@[simp] theorem State.mapSpan_counts (u : Nat) (f : Span → Span) : (s.mapSpan u f).counts = s.counts := rfl
@[simp] theorem State.mapSpan_ctxs (u : Nat) (f : Span → Span) : (s.mapSpan u f).ctxs = s.ctxs := rfl
@[simp] theorem State.mapSpan_arrivals (u : Nat) (f : Span → Span) : (s.mapSpan u f).arrivals = s.arrivals := rfl
@[simp] theorem State.mapSpan_pods (u : Nat) (f : Span → Span) : (s.mapSpan u f).pods = s.pods := rfl
@[simp] theorem State.mapSpan_gathers (u : Nat) (f : Span → Span) : (s.mapSpan u f).gathers = s.gathers := rfl
@[simp] theorem State.mapSpan_groups (u : Nat) (f : Span → Span) : (s.mapSpan u f).groups = s.groups := rfl
@[simp] theorem State.mapSpan_clusters (u : Nat) (f : Span → Span) : (s.mapSpan u f).clusters = s.clusters := rfl
@[simp] theorem State.mapSpan_copies (u : Nat) (f : Span → Span) : (s.mapSpan u f).copies = s.copies := rfl
@[simp] theorem State.mapSpan_held (u : Nat) (f : Span → Span) : (s.mapSpan u f).held = s.held := rfl
@[simp] theorem State.mapSpan_restarts (u : Nat) (f : Span → Span) : (s.mapSpan u f).restarts = s.restarts := rfl
@[simp] theorem State.mapSpan_faultWait (u : Nat) (f : Span → Span) : (s.mapSpan u f).faultWait = s.faultWait := rfl
@[simp] theorem State.mapSpan_accepted (u : Nat) (f : Span → Span) : (s.mapSpan u f).accepted = s.accepted := rfl
@[simp] theorem State.mapSpan_running (u : Nat) (f : Span → Span) : (s.mapSpan u f).running = s.running := rfl
@[simp] theorem State.mapSpan_outRemote (u : Nat) (f : Span → Span) : (s.mapSpan u f).outRemote = s.outRemote := rfl
@[simp] theorem State.mapSpan_cache (u : Nat) (f : Span → Span) : (s.mapSpan u f).cache = s.cache := rfl
@[simp] theorem State.mapSpan_heldReqs (u : Nat) (f : Span → Span) : (s.mapSpan u f).heldReqs = s.heldReqs := rfl
@[simp] theorem State.mapSpan_loans (u : Nat) (f : Span → Span) : (s.mapSpan u f).loans = s.loans := rfl
@[simp] theorem State.mapSpan_hostMem (u : Nat) (f : Span → Span) : (s.mapSpan u f).hostMem = s.hostMem := rfl
@[simp] theorem State.mapSpan_fabricOut (u : Nat) (f : Span → Span) : (s.mapSpan u f).fabricOut = s.fabricOut := rfl
@[simp] theorem State.mapSpan_msi (u : Nat) (f : Span → Span) : (s.mapSpan u f).msi = s.msi := rfl
@[simp] theorem State.mapSpan_hostReads (u : Nat) (f : Span → Span) : (s.mapSpan u f).hostReads = s.hostReads := rfl
@[simp] theorem State.mapSpan_todo (u : Nat) (f : Span → Span) : (s.mapSpan u f).todo = s.todo := rfl
@[simp] theorem State.mapSpan_lastPkt (u : Nat) (f : Span → Span) : (s.mapSpan u f).lastPkt = s.lastPkt := rfl
@[simp] theorem State.mapSpan_peerEpochs (u : Nat) (f : Span → Span) : (s.mapSpan u f).peerEpochs = s.peerEpochs := rfl
@[simp] theorem State.mapSpan_requesters (u : Nat) (f : Span → Span) : (s.mapSpan u f).requesters = s.requesters := rfl
@[simp] theorem State.mapSpan_serving (u : Nat) (f : Span → Span) : (s.mapSpan u f).serving = s.serving := rfl
@[simp] theorem State.mapSpan_lastGrant (u : Nat) (f : Span → Span) : (s.mapSpan u f).lastGrant = s.lastGrant := rfl
@[simp] theorem State.mapSpan_admitDie (u : Nat) (f : Span → Span) : (s.mapSpan u f).admitDie = s.admitDie := rfl
@[simp] theorem State.mapSpan_admitPos (u : Nat) (f : Span → Span) : (s.mapSpan u f).admitPos = s.admitPos := rfl
@[simp] theorem State.mapSpan_admitNext (u : Nat) (f : Span → Span) : (s.mapSpan u f).admitNext = s.admitNext := rfl
@[simp] theorem State.mapSpan_watts (u : Nat) (f : Span → Span) : (s.mapSpan u f).watts = s.watts := rfl
@[simp] theorem State.mapSpan_port (u : Nat) (f : Span → Span) : (s.mapSpan u f).port = s.port := rfl
@[simp] theorem State.mapSpan_draws (u : Nat) (f : Span → Span) : (s.mapSpan u f).draws = s.draws := rfl
@[simp] theorem State.mapSpan_datapath (u : Nat) (f : Span → Span) : (s.mapSpan u f).datapath = s.datapath := rfl

/-! ### mapPod -/

@[simp] theorem State.mapPod_schedule (u : Nat) (f : PodWork → PodWork) : (s.mapPod u f).schedule = s.schedule := rfl
@[simp] theorem State.mapPod_cur (u : Nat) (f : PodWork → PodWork) : (s.mapPod u f).cur = s.cur := rfl
@[simp] theorem State.mapPod_fresh (u : Nat) (f : PodWork → PodWork) : (s.mapPod u f).fresh = s.fresh := rfl
@[simp] theorem State.mapPod_nextUid (u : Nat) (f : PodWork → PodWork) : (s.mapPod u f).nextUid = s.nextUid := rfl
@[simp] theorem State.mapPod_clock (u : Nat) (f : PodWork → PodWork) : (s.mapPod u f).clock = s.clock := rfl
@[simp] theorem State.mapPod_power (u : Nat) (f : PodWork → PodWork) : (s.mapPod u f).power = s.power := rfl
@[simp] theorem State.mapPod_alive (u : Nat) (f : PodWork → PodWork) : (s.mapPod u f).alive = s.alive := rfl
@[simp] theorem State.mapPod_hw (u : Nat) (f : PodWork → PodWork) : (s.mapPod u f).hw = s.hw := rfl
@[simp] theorem State.mapPod_mem (u : Nat) (f : PodWork → PodWork) : (s.mapPod u f).mem = s.mem := rfl
@[simp] theorem State.mapPod_poison (u : Nat) (f : PodWork → PodWork) : (s.mapPod u f).poison = s.poison := rfl
@[simp] theorem State.mapPod_tlb (u : Nat) (f : PodWork → PodWork) : (s.mapPod u f).tlb = s.tlb := rfl
@[simp] theorem State.mapPod_gens (u : Nat) (f : PodWork → PodWork) : (s.mapPod u f).gens = s.gens := rfl
@[simp] theorem State.mapPod_partEpoch (u : Nat) (f : PodWork → PodWork) : (s.mapPod u f).partEpoch = s.partEpoch := rfl
@[simp] theorem State.mapPod_parts (u : Nat) (f : PodWork → PodWork) : (s.mapPod u f).parts = s.parts := rfl
@[simp] theorem State.mapPod_counts (u : Nat) (f : PodWork → PodWork) : (s.mapPod u f).counts = s.counts := rfl
@[simp] theorem State.mapPod_ctxs (u : Nat) (f : PodWork → PodWork) : (s.mapPod u f).ctxs = s.ctxs := rfl
@[simp] theorem State.mapPod_arrivals (u : Nat) (f : PodWork → PodWork) : (s.mapPod u f).arrivals = s.arrivals := rfl
@[simp] theorem State.mapPod_gathers (u : Nat) (f : PodWork → PodWork) : (s.mapPod u f).gathers = s.gathers := rfl
@[simp] theorem State.mapPod_spans (u : Nat) (f : PodWork → PodWork) : (s.mapPod u f).spans = s.spans := rfl
@[simp] theorem State.mapPod_groups (u : Nat) (f : PodWork → PodWork) : (s.mapPod u f).groups = s.groups := rfl
@[simp] theorem State.mapPod_clusters (u : Nat) (f : PodWork → PodWork) : (s.mapPod u f).clusters = s.clusters := rfl
@[simp] theorem State.mapPod_copies (u : Nat) (f : PodWork → PodWork) : (s.mapPod u f).copies = s.copies := rfl
@[simp] theorem State.mapPod_held (u : Nat) (f : PodWork → PodWork) : (s.mapPod u f).held = s.held := rfl
@[simp] theorem State.mapPod_restarts (u : Nat) (f : PodWork → PodWork) : (s.mapPod u f).restarts = s.restarts := rfl
@[simp] theorem State.mapPod_faultWait (u : Nat) (f : PodWork → PodWork) : (s.mapPod u f).faultWait = s.faultWait := rfl
@[simp] theorem State.mapPod_accepted (u : Nat) (f : PodWork → PodWork) : (s.mapPod u f).accepted = s.accepted := rfl
@[simp] theorem State.mapPod_running (u : Nat) (f : PodWork → PodWork) : (s.mapPod u f).running = s.running := rfl
@[simp] theorem State.mapPod_outRemote (u : Nat) (f : PodWork → PodWork) : (s.mapPod u f).outRemote = s.outRemote := rfl
@[simp] theorem State.mapPod_cache (u : Nat) (f : PodWork → PodWork) : (s.mapPod u f).cache = s.cache := rfl
@[simp] theorem State.mapPod_heldReqs (u : Nat) (f : PodWork → PodWork) : (s.mapPod u f).heldReqs = s.heldReqs := rfl
@[simp] theorem State.mapPod_loans (u : Nat) (f : PodWork → PodWork) : (s.mapPod u f).loans = s.loans := rfl
@[simp] theorem State.mapPod_hostMem (u : Nat) (f : PodWork → PodWork) : (s.mapPod u f).hostMem = s.hostMem := rfl
@[simp] theorem State.mapPod_fabricOut (u : Nat) (f : PodWork → PodWork) : (s.mapPod u f).fabricOut = s.fabricOut := rfl
@[simp] theorem State.mapPod_msi (u : Nat) (f : PodWork → PodWork) : (s.mapPod u f).msi = s.msi := rfl
@[simp] theorem State.mapPod_hostReads (u : Nat) (f : PodWork → PodWork) : (s.mapPod u f).hostReads = s.hostReads := rfl
@[simp] theorem State.mapPod_todo (u : Nat) (f : PodWork → PodWork) : (s.mapPod u f).todo = s.todo := rfl
@[simp] theorem State.mapPod_lastPkt (u : Nat) (f : PodWork → PodWork) : (s.mapPod u f).lastPkt = s.lastPkt := rfl
@[simp] theorem State.mapPod_peerEpochs (u : Nat) (f : PodWork → PodWork) : (s.mapPod u f).peerEpochs = s.peerEpochs := rfl
@[simp] theorem State.mapPod_requesters (u : Nat) (f : PodWork → PodWork) : (s.mapPod u f).requesters = s.requesters := rfl
@[simp] theorem State.mapPod_serving (u : Nat) (f : PodWork → PodWork) : (s.mapPod u f).serving = s.serving := rfl
@[simp] theorem State.mapPod_lastGrant (u : Nat) (f : PodWork → PodWork) : (s.mapPod u f).lastGrant = s.lastGrant := rfl
@[simp] theorem State.mapPod_admitDie (u : Nat) (f : PodWork → PodWork) : (s.mapPod u f).admitDie = s.admitDie := rfl
@[simp] theorem State.mapPod_admitPos (u : Nat) (f : PodWork → PodWork) : (s.mapPod u f).admitPos = s.admitPos := rfl
@[simp] theorem State.mapPod_admitNext (u : Nat) (f : PodWork → PodWork) : (s.mapPod u f).admitNext = s.admitNext := rfl
@[simp] theorem State.mapPod_watts (u : Nat) (f : PodWork → PodWork) : (s.mapPod u f).watts = s.watts := rfl
@[simp] theorem State.mapPod_port (u : Nat) (f : PodWork → PodWork) : (s.mapPod u f).port = s.port := rfl
@[simp] theorem State.mapPod_draws (u : Nat) (f : PodWork → PodWork) : (s.mapPod u f).draws = s.draws := rfl
@[simp] theorem State.mapPod_datapath (u : Nat) (f : PodWork → PodWork) : (s.mapPod u f).datapath = s.datapath := rfl

/-! ### fillTlb -/

@[simp] theorem State.fillTlb_schedule (l : List TlbEntry) : (s.fillTlb l).schedule = s.schedule := rfl
@[simp] theorem State.fillTlb_cur (l : List TlbEntry) : (s.fillTlb l).cur = s.cur := rfl
@[simp] theorem State.fillTlb_fresh (l : List TlbEntry) : (s.fillTlb l).fresh = s.fresh := rfl
@[simp] theorem State.fillTlb_nextUid (l : List TlbEntry) : (s.fillTlb l).nextUid = s.nextUid := rfl
@[simp] theorem State.fillTlb_clock (l : List TlbEntry) : (s.fillTlb l).clock = s.clock := rfl
@[simp] theorem State.fillTlb_power (l : List TlbEntry) : (s.fillTlb l).power = s.power := rfl
@[simp] theorem State.fillTlb_alive (l : List TlbEntry) : (s.fillTlb l).alive = s.alive := rfl
@[simp] theorem State.fillTlb_hw (l : List TlbEntry) : (s.fillTlb l).hw = s.hw := rfl
@[simp] theorem State.fillTlb_mem (l : List TlbEntry) : (s.fillTlb l).mem = s.mem := rfl
@[simp] theorem State.fillTlb_poison (l : List TlbEntry) : (s.fillTlb l).poison = s.poison := rfl
@[simp] theorem State.fillTlb_gens (l : List TlbEntry) : (s.fillTlb l).gens = s.gens := rfl
@[simp] theorem State.fillTlb_partEpoch (l : List TlbEntry) : (s.fillTlb l).partEpoch = s.partEpoch := rfl
@[simp] theorem State.fillTlb_parts (l : List TlbEntry) : (s.fillTlb l).parts = s.parts := rfl
@[simp] theorem State.fillTlb_counts (l : List TlbEntry) : (s.fillTlb l).counts = s.counts := rfl
@[simp] theorem State.fillTlb_ctxs (l : List TlbEntry) : (s.fillTlb l).ctxs = s.ctxs := rfl
@[simp] theorem State.fillTlb_arrivals (l : List TlbEntry) : (s.fillTlb l).arrivals = s.arrivals := rfl
@[simp] theorem State.fillTlb_pods (l : List TlbEntry) : (s.fillTlb l).pods = s.pods := rfl
@[simp] theorem State.fillTlb_gathers (l : List TlbEntry) : (s.fillTlb l).gathers = s.gathers := rfl
@[simp] theorem State.fillTlb_spans (l : List TlbEntry) : (s.fillTlb l).spans = s.spans := rfl
@[simp] theorem State.fillTlb_groups (l : List TlbEntry) : (s.fillTlb l).groups = s.groups := rfl
@[simp] theorem State.fillTlb_clusters (l : List TlbEntry) : (s.fillTlb l).clusters = s.clusters := rfl
@[simp] theorem State.fillTlb_copies (l : List TlbEntry) : (s.fillTlb l).copies = s.copies := rfl
@[simp] theorem State.fillTlb_held (l : List TlbEntry) : (s.fillTlb l).held = s.held := rfl
@[simp] theorem State.fillTlb_restarts (l : List TlbEntry) : (s.fillTlb l).restarts = s.restarts := rfl
@[simp] theorem State.fillTlb_faultWait (l : List TlbEntry) : (s.fillTlb l).faultWait = s.faultWait := rfl
@[simp] theorem State.fillTlb_accepted (l : List TlbEntry) : (s.fillTlb l).accepted = s.accepted := rfl
@[simp] theorem State.fillTlb_running (l : List TlbEntry) : (s.fillTlb l).running = s.running := rfl
@[simp] theorem State.fillTlb_outRemote (l : List TlbEntry) : (s.fillTlb l).outRemote = s.outRemote := rfl
@[simp] theorem State.fillTlb_cache (l : List TlbEntry) : (s.fillTlb l).cache = s.cache := rfl
@[simp] theorem State.fillTlb_heldReqs (l : List TlbEntry) : (s.fillTlb l).heldReqs = s.heldReqs := rfl
@[simp] theorem State.fillTlb_loans (l : List TlbEntry) : (s.fillTlb l).loans = s.loans := rfl
@[simp] theorem State.fillTlb_hostMem (l : List TlbEntry) : (s.fillTlb l).hostMem = s.hostMem := rfl
@[simp] theorem State.fillTlb_fabricOut (l : List TlbEntry) : (s.fillTlb l).fabricOut = s.fabricOut := rfl
@[simp] theorem State.fillTlb_msi (l : List TlbEntry) : (s.fillTlb l).msi = s.msi := rfl
@[simp] theorem State.fillTlb_hostReads (l : List TlbEntry) : (s.fillTlb l).hostReads = s.hostReads := rfl
@[simp] theorem State.fillTlb_todo (l : List TlbEntry) : (s.fillTlb l).todo = s.todo := rfl
@[simp] theorem State.fillTlb_lastPkt (l : List TlbEntry) : (s.fillTlb l).lastPkt = s.lastPkt := rfl
@[simp] theorem State.fillTlb_peerEpochs (l : List TlbEntry) : (s.fillTlb l).peerEpochs = s.peerEpochs := rfl
@[simp] theorem State.fillTlb_requesters (l : List TlbEntry) : (s.fillTlb l).requesters = s.requesters := rfl
@[simp] theorem State.fillTlb_serving (l : List TlbEntry) : (s.fillTlb l).serving = s.serving := rfl
@[simp] theorem State.fillTlb_lastGrant (l : List TlbEntry) : (s.fillTlb l).lastGrant = s.lastGrant := rfl
@[simp] theorem State.fillTlb_admitDie (l : List TlbEntry) : (s.fillTlb l).admitDie = s.admitDie := rfl
@[simp] theorem State.fillTlb_admitPos (l : List TlbEntry) : (s.fillTlb l).admitPos = s.admitPos := rfl
@[simp] theorem State.fillTlb_admitNext (l : List TlbEntry) : (s.fillTlb l).admitNext = s.admitNext := rfl
@[simp] theorem State.fillTlb_watts (l : List TlbEntry) : (s.fillTlb l).watts = s.watts := rfl
@[simp] theorem State.fillTlb_port (l : List TlbEntry) : (s.fillTlb l).port = s.port := rfl
@[simp] theorem State.fillTlb_draws (l : List TlbEntry) : (s.fillTlb l).draws = s.draws := rfl
@[simp] theorem State.fillTlb_datapath (l : List TlbEntry) : (s.fillTlb l).datapath = s.datapath := rfl

/-! ### zero -/

@[simp] theorem State.zero_schedule (lo hi : Nat) : (s.zero lo hi).schedule = s.schedule := rfl
@[simp] theorem State.zero_cur (lo hi : Nat) : (s.zero lo hi).cur = s.cur := rfl
@[simp] theorem State.zero_fresh (lo hi : Nat) : (s.zero lo hi).fresh = s.fresh := rfl
@[simp] theorem State.zero_nextUid (lo hi : Nat) : (s.zero lo hi).nextUid = s.nextUid := rfl
@[simp] theorem State.zero_clock (lo hi : Nat) : (s.zero lo hi).clock = s.clock := rfl
@[simp] theorem State.zero_power (lo hi : Nat) : (s.zero lo hi).power = s.power := rfl
@[simp] theorem State.zero_alive (lo hi : Nat) : (s.zero lo hi).alive = s.alive := rfl
@[simp] theorem State.zero_hw (lo hi : Nat) : (s.zero lo hi).hw = s.hw := rfl
@[simp] theorem State.zero_tlb (lo hi : Nat) : (s.zero lo hi).tlb = s.tlb := rfl
@[simp] theorem State.zero_gens (lo hi : Nat) : (s.zero lo hi).gens = s.gens := rfl
@[simp] theorem State.zero_partEpoch (lo hi : Nat) : (s.zero lo hi).partEpoch = s.partEpoch := rfl
@[simp] theorem State.zero_parts (lo hi : Nat) : (s.zero lo hi).parts = s.parts := rfl
@[simp] theorem State.zero_counts (lo hi : Nat) : (s.zero lo hi).counts = s.counts := rfl
@[simp] theorem State.zero_ctxs (lo hi : Nat) : (s.zero lo hi).ctxs = s.ctxs := rfl
@[simp] theorem State.zero_arrivals (lo hi : Nat) : (s.zero lo hi).arrivals = s.arrivals := rfl
@[simp] theorem State.zero_pods (lo hi : Nat) : (s.zero lo hi).pods = s.pods := rfl
@[simp] theorem State.zero_gathers (lo hi : Nat) : (s.zero lo hi).gathers = s.gathers := rfl
@[simp] theorem State.zero_spans (lo hi : Nat) : (s.zero lo hi).spans = s.spans := rfl
@[simp] theorem State.zero_groups (lo hi : Nat) : (s.zero lo hi).groups = s.groups := rfl
@[simp] theorem State.zero_clusters (lo hi : Nat) : (s.zero lo hi).clusters = s.clusters := rfl
@[simp] theorem State.zero_copies (lo hi : Nat) : (s.zero lo hi).copies = s.copies := rfl
@[simp] theorem State.zero_held (lo hi : Nat) : (s.zero lo hi).held = s.held := rfl
@[simp] theorem State.zero_restarts (lo hi : Nat) : (s.zero lo hi).restarts = s.restarts := rfl
@[simp] theorem State.zero_faultWait (lo hi : Nat) : (s.zero lo hi).faultWait = s.faultWait := rfl
@[simp] theorem State.zero_accepted (lo hi : Nat) : (s.zero lo hi).accepted = s.accepted := rfl
@[simp] theorem State.zero_running (lo hi : Nat) : (s.zero lo hi).running = s.running := rfl
@[simp] theorem State.zero_outRemote (lo hi : Nat) : (s.zero lo hi).outRemote = s.outRemote := rfl
@[simp] theorem State.zero_cache (lo hi : Nat) : (s.zero lo hi).cache = s.cache := rfl
@[simp] theorem State.zero_heldReqs (lo hi : Nat) : (s.zero lo hi).heldReqs = s.heldReqs := rfl
@[simp] theorem State.zero_loans (lo hi : Nat) : (s.zero lo hi).loans = s.loans := rfl
@[simp] theorem State.zero_hostMem (lo hi : Nat) : (s.zero lo hi).hostMem = s.hostMem := rfl
@[simp] theorem State.zero_fabricOut (lo hi : Nat) : (s.zero lo hi).fabricOut = s.fabricOut := rfl
@[simp] theorem State.zero_msi (lo hi : Nat) : (s.zero lo hi).msi = s.msi := rfl
@[simp] theorem State.zero_hostReads (lo hi : Nat) : (s.zero lo hi).hostReads = s.hostReads := rfl

theorem State.mapWarp_eq (u w : Nat) (f : Warp → Warp) : s.mapWarp u w f = s.mapGroup u fun g => g.mapWarp w f := rfl

@[simp] theorem State.zero_mem (lo hi : Nat) : (s.zero lo hi).mem = s.mem.clear lo hi := rfl
@[simp] theorem State.zero_todo (lo hi : Nat) : (s.zero lo hi).todo = s.todo := rfl
@[simp] theorem State.zero_lastPkt (lo hi : Nat) : (s.zero lo hi).lastPkt = s.lastPkt := rfl
@[simp] theorem State.zero_peerEpochs (lo hi : Nat) : (s.zero lo hi).peerEpochs = s.peerEpochs := rfl
@[simp] theorem State.zero_requesters (lo hi : Nat) : (s.zero lo hi).requesters = s.requesters := rfl
@[simp] theorem State.zero_serving (lo hi : Nat) : (s.zero lo hi).serving = s.serving := rfl
@[simp] theorem State.zero_lastGrant (lo hi : Nat) : (s.zero lo hi).lastGrant = s.lastGrant := rfl
@[simp] theorem State.zero_admitDie (lo hi : Nat) : (s.zero lo hi).admitDie = s.admitDie := rfl
@[simp] theorem State.zero_admitPos (lo hi : Nat) : (s.zero lo hi).admitPos = s.admitPos := rfl
@[simp] theorem State.zero_admitNext (lo hi : Nat) : (s.zero lo hi).admitNext = s.admitNext := rfl
@[simp] theorem State.zero_watts (lo hi : Nat) : (s.zero lo hi).watts = s.watts := rfl
@[simp] theorem State.zero_port (lo hi : Nat) : (s.zero lo hi).port = s.port := rfl
@[simp] theorem State.zero_draws (lo hi : Nat) : (s.zero lo hi).draws = s.draws := rfl
@[simp] theorem State.zero_datapath (lo hi : Nat) : (s.zero lo hi).datapath = s.datapath := rfl

/-! ### wrote -/

@[simp] theorem State.wrote_schedule (xs : List (Nat × Nat)) : (s.wrote xs).schedule = s.schedule := rfl
@[simp] theorem State.wrote_cur (xs : List (Nat × Nat)) : (s.wrote xs).cur = s.cur := rfl
@[simp] theorem State.wrote_fresh (xs : List (Nat × Nat)) : (s.wrote xs).fresh = s.fresh := rfl
@[simp] theorem State.wrote_nextUid (xs : List (Nat × Nat)) : (s.wrote xs).nextUid = s.nextUid := rfl
@[simp] theorem State.wrote_clock (xs : List (Nat × Nat)) : (s.wrote xs).clock = s.clock := rfl
@[simp] theorem State.wrote_power (xs : List (Nat × Nat)) : (s.wrote xs).power = s.power := rfl
@[simp] theorem State.wrote_alive (xs : List (Nat × Nat)) : (s.wrote xs).alive = s.alive := rfl
@[simp] theorem State.wrote_hw (xs : List (Nat × Nat)) : (s.wrote xs).hw = s.hw := rfl
@[simp] theorem State.wrote_mem (xs : List (Nat × Nat)) : (s.wrote xs).mem = s.mem := rfl
@[simp] theorem State.wrote_poison (xs : List (Nat × Nat)) : (s.wrote xs).poison = s.poison := rfl
@[simp] theorem State.wrote_tlb (xs : List (Nat × Nat)) : (s.wrote xs).tlb = s.tlb := rfl
@[simp] theorem State.wrote_gens (xs : List (Nat × Nat)) : (s.wrote xs).gens = s.gens := rfl
@[simp] theorem State.wrote_partEpoch (xs : List (Nat × Nat)) : (s.wrote xs).partEpoch = s.partEpoch := rfl
@[simp] theorem State.wrote_parts (xs : List (Nat × Nat)) : (s.wrote xs).parts = s.parts := rfl
@[simp] theorem State.wrote_counts (xs : List (Nat × Nat)) : (s.wrote xs).counts = s.counts := rfl
@[simp] theorem State.wrote_ctxs (xs : List (Nat × Nat)) : (s.wrote xs).ctxs = s.ctxs := rfl
@[simp] theorem State.wrote_arrivals (xs : List (Nat × Nat)) : (s.wrote xs).arrivals = s.arrivals := rfl
@[simp] theorem State.wrote_pods (xs : List (Nat × Nat)) : (s.wrote xs).pods = s.pods := rfl
@[simp] theorem State.wrote_gathers (xs : List (Nat × Nat)) : (s.wrote xs).gathers = s.gathers := rfl
@[simp] theorem State.wrote_spans (xs : List (Nat × Nat)) : (s.wrote xs).spans = s.spans := rfl
@[simp] theorem State.wrote_groups (xs : List (Nat × Nat)) : (s.wrote xs).groups = s.groups := rfl
@[simp] theorem State.wrote_clusters (xs : List (Nat × Nat)) : (s.wrote xs).clusters = s.clusters := rfl
@[simp] theorem State.wrote_copies (xs : List (Nat × Nat)) : (s.wrote xs).copies = s.copies := rfl
@[simp] theorem State.wrote_held (xs : List (Nat × Nat)) : (s.wrote xs).held = s.held := rfl
@[simp] theorem State.wrote_todo (xs : List (Nat × Nat)) : (s.wrote xs).todo = s.todo := rfl
@[simp] theorem State.wrote_restarts (xs : List (Nat × Nat)) : (s.wrote xs).restarts = s.restarts := rfl
@[simp] theorem State.wrote_faultWait (xs : List (Nat × Nat)) : (s.wrote xs).faultWait = s.faultWait := rfl
@[simp] theorem State.wrote_accepted (xs : List (Nat × Nat)) : (s.wrote xs).accepted = s.accepted := rfl
@[simp] theorem State.wrote_running (xs : List (Nat × Nat)) : (s.wrote xs).running = s.running := rfl
@[simp] theorem State.wrote_outRemote (xs : List (Nat × Nat)) : (s.wrote xs).outRemote = s.outRemote := rfl
@[simp] theorem State.wrote_lastPkt (xs : List (Nat × Nat)) : (s.wrote xs).lastPkt = s.lastPkt := rfl
@[simp] theorem State.wrote_peerEpochs (xs : List (Nat × Nat)) : (s.wrote xs).peerEpochs = s.peerEpochs := rfl
@[simp] theorem State.wrote_cache (xs : List (Nat × Nat)) : (s.wrote xs).cache = s.cache := rfl
@[simp] theorem State.wrote_requesters (xs : List (Nat × Nat)) : (s.wrote xs).requesters = s.requesters := rfl
@[simp] theorem State.wrote_heldReqs (xs : List (Nat × Nat)) : (s.wrote xs).heldReqs = s.heldReqs := rfl
@[simp] theorem State.wrote_serving (xs : List (Nat × Nat)) : (s.wrote xs).serving = s.serving := rfl
@[simp] theorem State.wrote_loans (xs : List (Nat × Nat)) : (s.wrote xs).loans = s.loans := rfl
@[simp] theorem State.wrote_lastGrant (xs : List (Nat × Nat)) : (s.wrote xs).lastGrant = s.lastGrant := rfl
@[simp] theorem State.wrote_admitDie (xs : List (Nat × Nat)) : (s.wrote xs).admitDie = s.admitDie := rfl
@[simp] theorem State.wrote_admitPos (xs : List (Nat × Nat)) : (s.wrote xs).admitPos = s.admitPos := rfl
@[simp] theorem State.wrote_admitNext (xs : List (Nat × Nat)) : (s.wrote xs).admitNext = s.admitNext := rfl
@[simp] theorem State.wrote_watts (xs : List (Nat × Nat)) : (s.wrote xs).watts = s.watts := rfl
@[simp] theorem State.wrote_draws (xs : List (Nat × Nat)) : (s.wrote xs).draws = s.draws := rfl
@[simp] theorem State.wrote_port (xs : List (Nat × Nat)) : (s.wrote xs).port = s.port := rfl
@[simp] theorem State.wrote_hostMem (xs : List (Nat × Nat)) : (s.wrote xs).hostMem = s.hostMem := rfl
@[simp] theorem State.wrote_fabricOut (xs : List (Nat × Nat)) : (s.wrote xs).fabricOut = s.fabricOut := rfl
@[simp] theorem State.wrote_msi (xs : List (Nat × Nat)) : (s.wrote xs).msi = s.msi := rfl
@[simp] theorem State.wrote_hostReads (xs : List (Nat × Nat)) : (s.wrote xs).hostReads = s.hostReads := rfl

end

section
variable (w : Warp)

/-! ### setFlags -/

@[simp] theorem Warp.setFlags_id (fl : Byte) : (w.setFlags fl).id = w.id := rfl
@[simp] theorem Warp.setFlags_slice (fl : Byte) : (w.setFlags fl).slice = w.slice := rfl
@[simp] theorem Warp.setFlags_pc (fl : Byte) : (w.setFlags fl).pc = w.pc := rfl
@[simp] theorem Warp.setFlags_v (fl : Byte) : (w.setFlags fl).v = w.v := rfl
@[simp] theorem Warp.setFlags_s (fl : Byte) : (w.setFlags fl).s = w.s := rfl
@[simp] theorem Warp.setFlags_k (fl : Byte) : (w.setFlags fl).k = w.k := rfl
@[simp] theorem Warp.setFlags_exec (fl : Byte) : (w.setFlags fl).exec = w.exec := rfl
@[simp] theorem Warp.setFlags_dead (fl : Byte) : (w.setFlags fl).dead = w.dead := rfl
@[simp] theorem Warp.setFlags_qm (fl : Byte) : (w.setFlags fl).qm = w.qm := rfl
@[simp] theorem Warp.setFlags_qb (fl : Byte) : (w.setFlags fl).qb = w.qb := rfl
@[simp] theorem Warp.setFlags_latches (fl : Byte) : (w.setFlags fl).latches = w.latches := rfl
@[simp] theorem Warp.setFlags_join (fl : Byte) : (w.setFlags fl).join = w.join := rfl
@[simp] theorem Warp.setFlags_sigw (fl : Byte) : (w.setFlags fl).sigw = w.sigw := rfl
@[simp] theorem Warp.setFlags_seed (fl : Byte) : (w.setFlags fl).seed = w.seed := rfl
@[simp] theorem Warp.setFlags_rng (fl : Byte) : (w.setFlags fl).rng = w.rng := rfl
@[simp] theorem Warp.setFlags_round (fl : Byte) : (w.setFlags fl).round = w.round := rfl
@[simp] theorem Warp.setFlags_tsw (fl : Byte) : (w.setFlags fl).tsw = w.tsw := rfl
@[simp] theorem Warp.setFlags_tpc (fl : Byte) : (w.setFlags fl).tpc = w.tpc := rfl
@[simp] theorem Warp.setFlags_taddr (fl : Byte) : (w.setFlags fl).taddr = w.taddr := rfl
@[simp] theorem Warp.setFlags_tfirst (fl : Byte) : (w.setFlags fl).tfirst = w.tfirst := rfl
@[simp] theorem Warp.setFlags_tlanes (fl : Byte) : (w.setFlags fl).tlanes = w.tlanes := rfl
@[simp] theorem Warp.setFlags_rep (fl : Byte) : (w.setFlags fl).rep = w.rep := rfl
@[simp] theorem Warp.setFlags_wait (fl : Byte) : (w.setFlags fl).wait = w.wait := rfl
@[simp] theorem Warp.setFlags_spinUntil (fl : Byte) : (w.setFlags fl).spinUntil = w.spinUntil := rfl
@[simp] theorem Warp.setFlags_yield (fl : Byte) : (w.setFlags fl).yield = w.yield := rfl
@[simp] theorem Warp.setFlags_halted (fl : Byte) : (w.setFlags fl).halted = w.halted := rfl
@[simp] theorem Warp.setFlags_lastIssue (fl : Byte) : (w.setFlags fl).lastIssue = w.lastIssue := rfl
@[simp] theorem Warp.setFlags_spec (fl : Byte) : (w.setFlags fl).spec = w.spec := rfl
@[simp] theorem Warp.setFlags_noSpec (fl : Byte) : (w.setFlags fl).noSpec = w.noSpec := rfl
@[simp] theorem Warp.setFlags_remote (fl : Byte) : (w.setFlags fl).remote = w.remote := rfl
@[simp] theorem Warp.setFlags_fetched (fl : Byte) : (w.setFlags fl).fetched = w.fetched := rfl
@[simp] theorem Warp.setFlags_bad (fl : Byte) : (w.setFlags fl).bad = w.bad := rfl
@[simp] theorem Warp.setFlags_ended (fl : Byte) : (w.setFlags fl).ended = w.ended := rfl
@[simp] theorem Warp.setFlags_progress (fl : Byte) : (w.setFlags fl).progress = w.progress := rfl

/-! ### dropLatches -/

@[simp] theorem Warp.dropLatches_id : (w.dropLatches).id = w.id := rfl
@[simp] theorem Warp.dropLatches_slice : (w.dropLatches).slice = w.slice := rfl
@[simp] theorem Warp.dropLatches_pc : (w.dropLatches).pc = w.pc := rfl
@[simp] theorem Warp.dropLatches_v : (w.dropLatches).v = w.v := rfl
@[simp] theorem Warp.dropLatches_s : (w.dropLatches).s = w.s := rfl
@[simp] theorem Warp.dropLatches_k : (w.dropLatches).k = w.k := rfl
@[simp] theorem Warp.dropLatches_exec : (w.dropLatches).exec = w.exec := rfl
@[simp] theorem Warp.dropLatches_dead : (w.dropLatches).dead = w.dead := rfl
@[simp] theorem Warp.dropLatches_qm : (w.dropLatches).qm = w.qm := rfl
@[simp] theorem Warp.dropLatches_qb : (w.dropLatches).qb = w.qb := rfl
@[simp] theorem Warp.dropLatches_join : (w.dropLatches).join = w.join := rfl
@[simp] theorem Warp.dropLatches_sigw : (w.dropLatches).sigw = w.sigw := rfl
@[simp] theorem Warp.dropLatches_seed : (w.dropLatches).seed = w.seed := rfl
@[simp] theorem Warp.dropLatches_rng : (w.dropLatches).rng = w.rng := rfl
@[simp] theorem Warp.dropLatches_flags : (w.dropLatches).flags = w.flags := rfl
@[simp] theorem Warp.dropLatches_round : (w.dropLatches).round = w.round := rfl
@[simp] theorem Warp.dropLatches_tsw : (w.dropLatches).tsw = w.tsw := rfl
@[simp] theorem Warp.dropLatches_tpc : (w.dropLatches).tpc = w.tpc := rfl
@[simp] theorem Warp.dropLatches_taddr : (w.dropLatches).taddr = w.taddr := rfl
@[simp] theorem Warp.dropLatches_tfirst : (w.dropLatches).tfirst = w.tfirst := rfl
@[simp] theorem Warp.dropLatches_tlanes : (w.dropLatches).tlanes = w.tlanes := rfl
@[simp] theorem Warp.dropLatches_rep : (w.dropLatches).rep = w.rep := rfl
@[simp] theorem Warp.dropLatches_wait : (w.dropLatches).wait = w.wait := rfl
@[simp] theorem Warp.dropLatches_spinUntil : (w.dropLatches).spinUntil = w.spinUntil := rfl
@[simp] theorem Warp.dropLatches_yield : (w.dropLatches).yield = w.yield := rfl
@[simp] theorem Warp.dropLatches_halted : (w.dropLatches).halted = w.halted := rfl
@[simp] theorem Warp.dropLatches_lastIssue : (w.dropLatches).lastIssue = w.lastIssue := rfl
@[simp] theorem Warp.dropLatches_spec : (w.dropLatches).spec = w.spec := rfl
@[simp] theorem Warp.dropLatches_noSpec : (w.dropLatches).noSpec = w.noSpec := rfl
@[simp] theorem Warp.dropLatches_remote : (w.dropLatches).remote = w.remote := rfl
@[simp] theorem Warp.dropLatches_fetched : (w.dropLatches).fetched = w.fetched := rfl
@[simp] theorem Warp.dropLatches_bad : (w.dropLatches).bad = w.bad := rfl
@[simp] theorem Warp.dropLatches_ended : (w.dropLatches).ended = w.ended := rfl
@[simp] theorem Warp.dropLatches_progress : (w.dropLatches).progress = w.progress := rfl

/-! ### retire -/

@[simp] theorem Warp.retire_id (i : Issue) (pc : W64) (marks : List Byte) : (w.retire i pc marks).id = w.id := rfl
@[simp] theorem Warp.retire_slice (i : Issue) (pc : W64) (marks : List Byte) : (w.retire i pc marks).slice = w.slice := rfl
@[simp] theorem Warp.retire_v (i : Issue) (pc : W64) (marks : List Byte) : (w.retire i pc marks).v = w.v := rfl
@[simp] theorem Warp.retire_s (i : Issue) (pc : W64) (marks : List Byte) : (w.retire i pc marks).s = w.s := rfl
@[simp] theorem Warp.retire_k (i : Issue) (pc : W64) (marks : List Byte) : (w.retire i pc marks).k = w.k := rfl
@[simp] theorem Warp.retire_exec (i : Issue) (pc : W64) (marks : List Byte) : (w.retire i pc marks).exec = w.exec := rfl
@[simp] theorem Warp.retire_dead (i : Issue) (pc : W64) (marks : List Byte) : (w.retire i pc marks).dead = w.dead := rfl
@[simp] theorem Warp.retire_qm (i : Issue) (pc : W64) (marks : List Byte) : (w.retire i pc marks).qm = w.qm := rfl
@[simp] theorem Warp.retire_qb (i : Issue) (pc : W64) (marks : List Byte) : (w.retire i pc marks).qb = w.qb := rfl
@[simp] theorem Warp.retire_latches (i : Issue) (pc : W64) (marks : List Byte) : (w.retire i pc marks).latches = w.latches := rfl
@[simp] theorem Warp.retire_join (i : Issue) (pc : W64) (marks : List Byte) : (w.retire i pc marks).join = w.join := rfl
@[simp] theorem Warp.retire_seed (i : Issue) (pc : W64) (marks : List Byte) : (w.retire i pc marks).seed = w.seed := rfl
@[simp] theorem Warp.retire_rng (i : Issue) (pc : W64) (marks : List Byte) : (w.retire i pc marks).rng = w.rng := rfl
@[simp] theorem Warp.retire_flags (i : Issue) (pc : W64) (marks : List Byte) : (w.retire i pc marks).flags = w.flags := rfl
@[simp] theorem Warp.retire_round (i : Issue) (pc : W64) (marks : List Byte) : (w.retire i pc marks).round = w.round := rfl
@[simp] theorem Warp.retire_tsw (i : Issue) (pc : W64) (marks : List Byte) : (w.retire i pc marks).tsw = w.tsw := rfl
@[simp] theorem Warp.retire_tpc (i : Issue) (pc : W64) (marks : List Byte) : (w.retire i pc marks).tpc = w.tpc := rfl
@[simp] theorem Warp.retire_taddr (i : Issue) (pc : W64) (marks : List Byte) : (w.retire i pc marks).taddr = w.taddr := rfl
@[simp] theorem Warp.retire_tfirst (i : Issue) (pc : W64) (marks : List Byte) : (w.retire i pc marks).tfirst = w.tfirst := rfl
@[simp] theorem Warp.retire_tlanes (i : Issue) (pc : W64) (marks : List Byte) : (w.retire i pc marks).tlanes = w.tlanes := rfl
@[simp] theorem Warp.retire_spinUntil (i : Issue) (pc : W64) (marks : List Byte) : (w.retire i pc marks).spinUntil = w.spinUntil := rfl
@[simp] theorem Warp.retire_yield (i : Issue) (pc : W64) (marks : List Byte) : (w.retire i pc marks).yield = w.yield := rfl
@[simp] theorem Warp.retire_halted (i : Issue) (pc : W64) (marks : List Byte) : (w.retire i pc marks).halted = w.halted := rfl
@[simp] theorem Warp.retire_lastIssue (i : Issue) (pc : W64) (marks : List Byte) : (w.retire i pc marks).lastIssue = w.lastIssue := rfl
@[simp] theorem Warp.retire_spec (i : Issue) (pc : W64) (marks : List Byte) : (w.retire i pc marks).spec = w.spec := rfl
@[simp] theorem Warp.retire_noSpec (i : Issue) (pc : W64) (marks : List Byte) : (w.retire i pc marks).noSpec = w.noSpec := rfl
@[simp] theorem Warp.retire_remote (i : Issue) (pc : W64) (marks : List Byte) : (w.retire i pc marks).remote = w.remote := rfl
@[simp] theorem Warp.retire_fetched (i : Issue) (pc : W64) (marks : List Byte) : (w.retire i pc marks).fetched = w.fetched := rfl
@[simp] theorem Warp.retire_bad (i : Issue) (pc : W64) (marks : List Byte) : (w.retire i pc marks).bad = w.bad := rfl
@[simp] theorem Warp.retire_ended (i : Issue) (pc : W64) (marks : List Byte) : (w.retire i pc marks).ended = w.ended := rfl

/-! ### trapEntry -/

@[simp] theorem Warp.trapEntry_id (b : W64) (p : Stop) : (w.trapEntry b p).id = w.id := rfl
@[simp] theorem Warp.trapEntry_slice (b : W64) (p : Stop) : (w.trapEntry b p).slice = w.slice := rfl
@[simp] theorem Warp.trapEntry_v (b : W64) (p : Stop) : (w.trapEntry b p).v = w.v := rfl
@[simp] theorem Warp.trapEntry_s (b : W64) (p : Stop) : (w.trapEntry b p).s = w.s := rfl
@[simp] theorem Warp.trapEntry_k (b : W64) (p : Stop) : (w.trapEntry b p).k = w.k := rfl
@[simp] theorem Warp.trapEntry_exec (b : W64) (p : Stop) : (w.trapEntry b p).exec = w.exec := rfl
@[simp] theorem Warp.trapEntry_dead (b : W64) (p : Stop) : (w.trapEntry b p).dead = w.dead := rfl
@[simp] theorem Warp.trapEntry_qm (b : W64) (p : Stop) : (w.trapEntry b p).qm = w.qm := rfl
@[simp] theorem Warp.trapEntry_qb (b : W64) (p : Stop) : (w.trapEntry b p).qb = w.qb := rfl
@[simp] theorem Warp.trapEntry_join (b : W64) (p : Stop) : (w.trapEntry b p).join = w.join := rfl
@[simp] theorem Warp.trapEntry_sigw (b : W64) (p : Stop) : (w.trapEntry b p).sigw = w.sigw := rfl
@[simp] theorem Warp.trapEntry_seed (b : W64) (p : Stop) : (w.trapEntry b p).seed = w.seed := rfl
@[simp] theorem Warp.trapEntry_rng (b : W64) (p : Stop) : (w.trapEntry b p).rng = w.rng := rfl
@[simp] theorem Warp.trapEntry_flags (b : W64) (p : Stop) : (w.trapEntry b p).flags = w.flags := rfl
@[simp] theorem Warp.trapEntry_round (b : W64) (p : Stop) : (w.trapEntry b p).round = w.round := rfl
@[simp] theorem Warp.trapEntry_spinUntil (b : W64) (p : Stop) : (w.trapEntry b p).spinUntil = w.spinUntil := rfl
@[simp] theorem Warp.trapEntry_yield (b : W64) (p : Stop) : (w.trapEntry b p).yield = w.yield := rfl
@[simp] theorem Warp.trapEntry_halted (b : W64) (p : Stop) : (w.trapEntry b p).halted = w.halted := rfl
@[simp] theorem Warp.trapEntry_lastIssue (b : W64) (p : Stop) : (w.trapEntry b p).lastIssue = w.lastIssue := rfl
@[simp] theorem Warp.trapEntry_spec (b : W64) (p : Stop) : (w.trapEntry b p).spec = w.spec := rfl
@[simp] theorem Warp.trapEntry_noSpec (b : W64) (p : Stop) : (w.trapEntry b p).noSpec = w.noSpec := rfl
@[simp] theorem Warp.trapEntry_remote (b : W64) (p : Stop) : (w.trapEntry b p).remote = w.remote := rfl
@[simp] theorem Warp.trapEntry_fetched (b : W64) (p : Stop) : (w.trapEntry b p).fetched = w.fetched := rfl
@[simp] theorem Warp.trapEntry_bad (b : W64) (p : Stop) : (w.trapEntry b p).bad = w.bad := rfl
@[simp] theorem Warp.trapEntry_ended (b : W64) (p : Stop) : (w.trapEntry b p).ended = w.ended := rfl
@[simp] theorem Warp.trapEntry_progress (b : W64) (p : Stop) : (w.trapEntry b p).progress = none := rfl

/-! ### trapReturn -/

@[simp] theorem Warp.trapReturn_id : (w.trapReturn).id = w.id := rfl
@[simp] theorem Warp.trapReturn_slice : (w.trapReturn).slice = w.slice := rfl
@[simp] theorem Warp.trapReturn_v : (w.trapReturn).v = w.v := rfl
@[simp] theorem Warp.trapReturn_s : (w.trapReturn).s = w.s := rfl
@[simp] theorem Warp.trapReturn_k : (w.trapReturn).k = w.k := rfl
@[simp] theorem Warp.trapReturn_exec : (w.trapReturn).exec = w.exec := rfl
@[simp] theorem Warp.trapReturn_dead : (w.trapReturn).dead = w.dead := rfl
@[simp] theorem Warp.trapReturn_qm : (w.trapReturn).qm = w.qm := rfl
@[simp] theorem Warp.trapReturn_qb : (w.trapReturn).qb = w.qb := rfl
@[simp] theorem Warp.trapReturn_join : (w.trapReturn).join = w.join := rfl
@[simp] theorem Warp.trapReturn_sigw : (w.trapReturn).sigw = w.sigw := rfl
@[simp] theorem Warp.trapReturn_seed : (w.trapReturn).seed = w.seed := rfl
@[simp] theorem Warp.trapReturn_rng : (w.trapReturn).rng = w.rng := rfl
@[simp] theorem Warp.trapReturn_flags : (w.trapReturn).flags = w.flags := rfl
@[simp] theorem Warp.trapReturn_round : (w.trapReturn).round = w.round := rfl
@[simp] theorem Warp.trapReturn_tpc : (w.trapReturn).tpc = w.tpc := rfl
@[simp] theorem Warp.trapReturn_taddr : (w.trapReturn).taddr = w.taddr := rfl
@[simp] theorem Warp.trapReturn_tfirst : (w.trapReturn).tfirst = w.tfirst := rfl
@[simp] theorem Warp.trapReturn_tlanes : (w.trapReturn).tlanes = w.tlanes := rfl
@[simp] theorem Warp.trapReturn_spinUntil : (w.trapReturn).spinUntil = w.spinUntil := rfl
@[simp] theorem Warp.trapReturn_yield : (w.trapReturn).yield = w.yield := rfl
@[simp] theorem Warp.trapReturn_halted : (w.trapReturn).halted = w.halted := rfl
@[simp] theorem Warp.trapReturn_lastIssue : (w.trapReturn).lastIssue = w.lastIssue := rfl
@[simp] theorem Warp.trapReturn_spec : (w.trapReturn).spec = w.spec := rfl
@[simp] theorem Warp.trapReturn_noSpec : (w.trapReturn).noSpec = w.noSpec := rfl
@[simp] theorem Warp.trapReturn_remote : (w.trapReturn).remote = w.remote := rfl
@[simp] theorem Warp.trapReturn_fetched : (w.trapReturn).fetched = w.fetched := rfl
@[simp] theorem Warp.trapReturn_bad : (w.trapReturn).bad = w.bad := rfl
@[simp] theorem Warp.trapReturn_ended : (w.trapReturn).ended = w.ended := rfl
@[simp] theorem Warp.trapReturn_progress : (w.trapReturn).progress = w.progress := rfl

/-! ### pushLatch -/

@[simp] theorem Warp.pushLatch_id (x : Latch) : (w.pushLatch x).id = w.id := rfl
@[simp] theorem Warp.pushLatch_slice (x : Latch) : (w.pushLatch x).slice = w.slice := rfl
@[simp] theorem Warp.pushLatch_pc (x : Latch) : (w.pushLatch x).pc = w.pc := rfl
@[simp] theorem Warp.pushLatch_v (x : Latch) : (w.pushLatch x).v = w.v := rfl
@[simp] theorem Warp.pushLatch_s (x : Latch) : (w.pushLatch x).s = w.s := rfl
@[simp] theorem Warp.pushLatch_k (x : Latch) : (w.pushLatch x).k = w.k := rfl
@[simp] theorem Warp.pushLatch_exec (x : Latch) : (w.pushLatch x).exec = w.exec := rfl
@[simp] theorem Warp.pushLatch_dead (x : Latch) : (w.pushLatch x).dead = w.dead := rfl
@[simp] theorem Warp.pushLatch_qm (x : Latch) : (w.pushLatch x).qm = w.qm := rfl
@[simp] theorem Warp.pushLatch_qb (x : Latch) : (w.pushLatch x).qb = w.qb := rfl
@[simp] theorem Warp.pushLatch_join (x : Latch) : (w.pushLatch x).join = w.join := rfl
@[simp] theorem Warp.pushLatch_sigw (x : Latch) : (w.pushLatch x).sigw = w.sigw := rfl
@[simp] theorem Warp.pushLatch_seed (x : Latch) : (w.pushLatch x).seed = w.seed := rfl
@[simp] theorem Warp.pushLatch_rng (x : Latch) : (w.pushLatch x).rng = w.rng := rfl
@[simp] theorem Warp.pushLatch_flags (x : Latch) : (w.pushLatch x).flags = w.flags := rfl
@[simp] theorem Warp.pushLatch_round (x : Latch) : (w.pushLatch x).round = w.round := rfl
@[simp] theorem Warp.pushLatch_tsw (x : Latch) : (w.pushLatch x).tsw = w.tsw := rfl
@[simp] theorem Warp.pushLatch_tpc (x : Latch) : (w.pushLatch x).tpc = w.tpc := rfl
@[simp] theorem Warp.pushLatch_taddr (x : Latch) : (w.pushLatch x).taddr = w.taddr := rfl
@[simp] theorem Warp.pushLatch_tfirst (x : Latch) : (w.pushLatch x).tfirst = w.tfirst := rfl
@[simp] theorem Warp.pushLatch_tlanes (x : Latch) : (w.pushLatch x).tlanes = w.tlanes := rfl
@[simp] theorem Warp.pushLatch_rep (x : Latch) : (w.pushLatch x).rep = w.rep := rfl
@[simp] theorem Warp.pushLatch_wait (x : Latch) : (w.pushLatch x).wait = w.wait := rfl
@[simp] theorem Warp.pushLatch_spinUntil (x : Latch) : (w.pushLatch x).spinUntil = w.spinUntil := rfl
@[simp] theorem Warp.pushLatch_yield (x : Latch) : (w.pushLatch x).yield = w.yield := rfl
@[simp] theorem Warp.pushLatch_halted (x : Latch) : (w.pushLatch x).halted = w.halted := rfl
@[simp] theorem Warp.pushLatch_lastIssue (x : Latch) : (w.pushLatch x).lastIssue = w.lastIssue := rfl
@[simp] theorem Warp.pushLatch_spec (x : Latch) : (w.pushLatch x).spec = w.spec := rfl
@[simp] theorem Warp.pushLatch_noSpec (x : Latch) : (w.pushLatch x).noSpec = w.noSpec := rfl
@[simp] theorem Warp.pushLatch_remote (x : Latch) : (w.pushLatch x).remote = w.remote := rfl
@[simp] theorem Warp.pushLatch_fetched (x : Latch) : (w.pushLatch x).fetched = w.fetched := rfl
@[simp] theorem Warp.pushLatch_ended (x : Latch) : (w.pushLatch x).ended = w.ended := rfl
@[simp] theorem Warp.pushLatch_progress (x : Latch) : (w.pushLatch x).progress = w.progress := rfl

@[simp] theorem Warp.setFlags_flags (fl : Byte) : (w.setFlags fl).flags = w.flags ||| fl := rfl
@[simp] theorem Warp.retire_pc (i : Issue) (pc : W64) (marks : List Byte) : (w.retire i pc marks).pc = pc := rfl
@[simp] theorem Warp.retire_sigw (i : Issue) (pc : W64) (marks : List Byte) : (w.retire i pc marks).sigw = w.hash i marks := rfl
@[simp] theorem Warp.retire_rep (i : Issue) (pc : W64) (marks : List Byte) : (w.retire i pc marks).rep = i.rep := rfl
@[simp] theorem Warp.retire_progress (i : Issue) (pc : W64) (marks : List Byte) : (w.retire i pc marks).progress = none := rfl
@[simp] theorem Warp.retire_wait (i : Issue) (pc : W64) (marks : List Byte) : (w.retire i pc marks).wait = .ready := rfl
@[simp] theorem Warp.trapEntry_pc (b : W64) (p : Stop) : (w.trapEntry b p).pc = b := rfl
@[simp] theorem Warp.trapEntry_tsw (b : W64) (p : Stop) : (w.trapEntry b p).tsw = p.tsw true := rfl
@[simp] theorem Warp.trapEntry_tpc (b : W64) (p : Stop) : (w.trapEntry b p).tpc = p.tpc := rfl
@[simp] theorem Warp.trapEntry_taddr (b : W64) (p : Stop) : (w.trapEntry b p).taddr = p.addr := rfl
@[simp] theorem Warp.trapEntry_tfirst (b : W64) (p : Stop) : (w.trapEntry b p).tfirst = w.pc := rfl
@[simp] theorem Warp.trapEntry_tlanes (b : W64) (p : Stop) : (w.trapEntry b p).tlanes = p.lanes := rfl
@[simp] theorem Warp.trapReturn_pc : w.trapReturn.pc = w.tpc := rfl
@[simp] theorem Warp.trapReturn_tsw : w.trapReturn.tsw = w.tsw &&& 0x7FFFFFFF := rfl

end

end Sys2Proof.Machine
end

