-- ==== Sys2Proof/Laws/Issue.lean ====
section
/-!
SUPPORT. What an issue comes to, one lemma for each effect of a meaning, so that a claim about an instruction only has to say
which effect its meaning has.
-/

namespace Sys2Proof.Machine

variable {s t : State} {c : Context} {g : Group} {w : Warp} {l : Leek} {sh : Shape}
variable {wb : Env → Effect} {lb : LeekEnv → Effect}

/-- An allowed issue reaches the meaning. -/
theorem WarpIssues.effect (h : WarpIssues s c g w sh) : warpEffect sh (envOf s c g w sh) wb = wb (envOf s c g w sh) := by
  have h1 : (envOf s c g w sh).w.spec.isSome = false := by simp [envOf, Env.mk', h.calm]
  have h2 : sh.legal false (envOf s c g w sh).g.desc.vcount (envOf s c g w sh).g.desc.scount = true := h.legal
  have h3 : sh.modeOk (envOf s c g w sh).w.trapMode (envOf s c g w sh).c.system = true := h.mode
  simp [warpEffect, h1, h2, h3]

/-- An issue by a warp is what its meaning's effect comes to. -/
theorem WarpIssues.issue_eq (h : WarpIssues s c g w sh) :
    issue sh s wb lb = .next (s.finishWarp c g w (issueOf sh w) (wb (envOf s c g w sh))) := by
  have := h.effect (wb := wb)
  simp only [issue, h.issuer, envOf] at this ⊢
  rw [this]

/-- A warp that does not speculate has not rolled back. -/
theorem rolledBack_calm (hc : w.spec = none) : t.rolledBack g w = false := by simp [State.rolledBack, hc]

theorem finishWarp_done (hc : w.spec = none) (hs : w.sigBad (issueOf sh w) = false) :
    s.finishWarp c g w (issueOf sh w) (.done t) = t.completed c g w sh := by
  simp only [State.finishWarp, State.retire, hs, rolledBack_calm hc]
  rfl

/-- An instruction whose meaning is done completes. -/
theorem WarpIssues.done (h : WarpIssues s c g w sh) (e : wb (envOf s c g w sh) = .done t) :
    issue sh s wb lb = .next (t.completed c g w sh) := by
  rw [h.issue_eq, e, finishWarp_done h.calm h.sig]

/-- An instruction whose meaning is done and then rests completes and waits. -/
theorem WarpIssues.rest {wt : Wait} (h : WarpIssues s c g w sh) (e : wb (envOf s c g w sh) = .rest t wt) :
    issue sh s wb lb = .next ((t.completed c g w sh).setWait (.warp g.uid w.id) wt) := by
  rw [h.issue_eq, e]
  have := finishWarp_done (s := s) (t := t) (c := c) (g := g) h.calm h.sig
  simp only [State.finishWarp] at this ⊢
  simp only [this, rolledBack_calm h.calm]
  rfl

/-- An instruction that waits issues again. -/
theorem WarpIssues.wait {wt : Wait} (h : WarpIssues s c g w sh) (e : wb (envOf s c g w sh) = .wait t wt) :
    issue sh s wb lb = .next (t.setWait (.warp g.uid w.id) wt) := by
  rw [h.issue_eq, e]; rfl

/-- A program fault is taken; the instruction has issued and is counted (R257). -/
theorem WarpIssues.fault {cause : Cause} {addr : W64} {lanes : Mask} (h : WarpIssues s c g w sh)
    (e : wb (envOf s c g w sh) = .fault cause addr lanes) :
    issue sh s wb lb = .next ((s.perfAdd c.id 0 1).takeFault c g w
      { cause := cause, addr := addr, lanes := lanes, pneg := sh.predicate.1, pred := sh.predicate.2.val, iter := 0
        tpc := if cause = .trap then w.pc + BitVec.ofNat 64 (4 * sh.encode.length) else w.pc }) := by
  rw [h.issue_eq, e]
  simp only [State.finishWarp, h.calm]
  rfl

/-- An instruction whose meaning ends its agent or moves it leaves the state it names. -/
theorem WarpIssues.gone (h : WarpIssues s c g w sh) (e : wb (envOf s c g w sh) = .gone t) :
    issue sh s wb lb = .next t := by
  rw [h.issue_eq, e]; rfl

/-- An allowed issue of a Leek thread reaches the meaning. -/
theorem LeekIssues.issue_eq (h : LeekIssues s c g l sh) :
    issue sh s wb lb =
      .next (s.finishLeek c g l (l.pc + BitVec.ofNat 64 (4 * sh.encode.length)) (lb (leekEnvOf s c g l))) := by
  have h2 : (sh.drains && !l.queue.isEmpty) = false := by
    cases hd : sh.drains with
    | false => rfl
    | true => simp [h.free hd]
  simp [issue, h.issuer, leekEffect, h.legal, h2, leekEnvOf]

theorem LeekIssues.done (h : LeekIssues s c g l sh) (e : lb (leekEnvOf s c g l) = .done t) :
    issue sh s wb lb = .next (t.leekCompleted g l sh) := by
  rw [h.issue_eq, e]; rfl

theorem LeekIssues.wait {wt : Wait} (h : LeekIssues s c g l sh) (e : lb (leekEnvOf s c g l) = .wait t wt) :
    issue sh s wb lb = .next (t.setWait (.leek g.uid) wt) := by
  rw [h.issue_eq, e]; rfl

theorem LeekIssues.fault {cause : Cause} {addr : W64} {lanes : Mask} (h : LeekIssues s c g l sh)
    (e : lb (leekEnvOf s c g l) = .fault cause addr lanes) :
    issue sh s wb lb = .next (s.leekFault c g l cause addr) := by
  rw [h.issue_eq, e]; rfl

theorem LeekIssues.flow {pc : W64} {m : List Byte} (h : LeekIssues s c g l sh) (e : lb (leekEnvOf s c g l) = .flow t pc m) :
    issue sh s wb lb = .next (t.retireLeek g pc) := by
  rw [h.issue_eq, e]; rfl

theorem LeekIssues.gone (h : LeekIssues s c g l sh) (e : lb (leekEnvOf s c g l) = .gone t) :
    issue sh s wb lb = .next t := by
  rw [h.issue_eq, e]; rfl

/-! ### The reads of a buffer record (R154) -/

/-- The next sector and what is after it are all that was to be read, and a sector holds at least one byte of it. -/
theorem nextSector_parts (todo : List (W64 × Nat × Bool)) :
    (nextSector todo).1 ++ (nextSector todo).2 = todo ∧ (todo ≠ [] → (nextSector todo).2.length < todo.length) := by
  refine ⟨by simp [nextSector], fun h => ?_⟩
  cases todo with
  | nil => exact absurd rfl h
  | cons b rest => simpa [nextSector] using Nat.lt_succ_of_le (List.dropWhile_sublist _).length_le

/-- What an LDB or STB does at a read of its record: an error in the sector ends it, else it pauses with the rest to read. -/
theorem Env.recordEvent_cases (e : Env) (load : Bool) (f : MForm) (s : State) (todo : List (W64 × Nat × Bool)) (got : List Byte) :
    (∃ err, e.recordError s (nextSector todo).1 = some err ∧
      e.recordEvent load f s todo got = e.recordLost load f s e.w err) ∨
    (e.recordError s (nextSector todo).1 = none ∧ e.recordEvent load f s todo got = e.pause s
      { kills := e.recKills load f, errs := [], ovft := e.ovft
        stage := .record (nextSector todo).2 (got ++ s.bytesAt e.w ((nextSector todo).1.map fun b => b.2.1)) }) := by
  cases h : e.recordError s (nextSector todo).1 <;> simp [Env.recordEvent, h]

end Sys2Proof.Machine
end

