-- ==== Sys2Proof/Laws/Memory.lean ====
section
/-!
SUPPORT. The laws of memory: a byte read after a write, and that every memory operation keeps the canonical form.
-/

namespace Sys2Proof.Machine

/-! ### The canonical form -/

theorem Memory.wfFrom_cons {lo a : Nat} {b : Byte} {m : Memory} :
    Memory.wfFrom lo ((a, b) :: m) = true ↔ lo ≤ a ∧ b ≠ 0 ∧ Memory.wfFrom (a + 1) m = true := by
  simp [Memory.wfFrom, and_assoc]

theorem Memory.wfFrom_mono {lo hi : Nat} {m : Memory} (h : lo ≤ hi) (w : Memory.wfFrom hi m = true) :
    Memory.wfFrom lo m = true := by
  cases m with
  | nil => rfl
  | cons c m =>
    obtain ⟨a, b⟩ := c
    rw [Memory.wfFrom_cons] at w ⊢
    exact ⟨h.trans w.1, w.2⟩

/-- Below the first listed address a byte reads as zero. -/
theorem Memory.get_of_wfFrom {m : Memory} {lo a : Nat} (w : Memory.wfFrom lo m = true) (h : a < lo) : m.get a = 0 := by
  cases m with
  | nil => rfl
  | cons c m =>
    obtain ⟨k, v⟩ := c
    have := (Memory.wfFrom_cons.mp w).1
    have h1 : ¬ a = k := by omega
    have h2 : a < k := by omega
    simp [Memory.get, h1, h2]

/-- A write keeps the canonical form. -/
theorem Memory.wfFrom_set (m : Memory) (lo a : Nat) (b : Byte) (h : lo ≤ a) (w : Memory.wfFrom lo m = true) :
    Memory.wfFrom lo (m.set a b) = true := by
  induction m generalizing lo with
  | nil =>
    by_cases hb : b = 0#8
    · simp [Memory.set, hb, Memory.wfFrom]
    · simp [Memory.set, hb, Memory.wfFrom, h]
  | cons c m ih =>
    obtain ⟨k, v⟩ := c
    obtain ⟨w1, w2, w3⟩ := Memory.wfFrom_cons.mp w
    unfold Memory.set
    split_ifs with c1 hb c2 hb
    · exact w
    · exact Memory.wfFrom_cons.mpr ⟨h, hb, Memory.wfFrom_cons.mpr ⟨c1, w2, w3⟩⟩
    · exact Memory.wfFrom_mono (by omega) w3
    · exact Memory.wfFrom_cons.mpr ⟨h, hb, c2 ▸ w3⟩
    · exact Memory.wfFrom_cons.mpr ⟨w1, w2, ih (k + 1) (by omega) w3⟩

theorem Memory.wf_set {m : Memory} (a : Nat) (b : Byte) (w : m.wf = true) : (m.set a b).wf = true :=
  Memory.wfFrom_set m 0 a b (Nat.zero_le _) w

theorem Memory.wf_write {m : Memory} (a : Nat) (bs : List Byte) (w : m.wf = true) : (m.write a bs).wf = true := by
  induction bs generalizing m a with
  | nil => exact w
  | cons b bs ih => exact ih (a + 1) (Memory.wf_set a b w)

theorem Memory.wfFrom_filter (p : Host.Cell → Bool) (m : Memory) (lo : Nat) (w : Memory.wfFrom lo m = true) :
    Memory.wfFrom lo (List.filter p m) = true := by
  induction m generalizing lo with
  | nil => rfl
  | cons c m ih =>
    obtain ⟨k, v⟩ := c
    obtain ⟨w1, w2, w3⟩ := Memory.wfFrom_cons.mp w
    rw [List.filter_cons]
    split
    · exact Memory.wfFrom_cons.mpr ⟨w1, w2, ih _ w3⟩
    · exact ih lo (Memory.wfFrom_mono (by omega) w3)

theorem Memory.wf_clear {m : Memory} (lo hi : Nat) (w : m.wf = true) : (m.clear lo hi).wf = true :=
  Memory.wfFrom_filter _ m 0 w

theorem Memory.wf_slice {m : Memory} (lo hi : Nat) (w : m.wf = true) : (m.slice lo hi).wf = true :=
  Memory.wfFrom_filter _ m 0 w

/-! ### Reads after writes -/

theorem Memory.get_set (m : Memory) (a x : Nat) (b : Byte) (w : m.wf = true) :
    (m.set a b).get x = if x = a then b else m.get x := by
  have main : ∀ (m : Memory) (lo : Nat), Memory.wfFrom lo m = true → (m.set a b).get x = if x = a then b else m.get x := by
    intro m
    induction m with
    | nil =>
      intro lo _
      by_cases hb : b = 0#8
      · subst hb; simp [Memory.set, Memory.get]
      · by_cases hx : x = a
        · simp [Memory.set, hb, Memory.get, hx]
        · simp [Memory.set, hb, Memory.get, hx]
    | cons c m ih =>
      intro lo w
      obtain ⟨k, v⟩ := c
      obtain ⟨w1, w2, w3⟩ := Memory.wfFrom_cons.mp w
      unfold Memory.set
      split_ifs with c1 hb hx hx c2 hb hx hx hx
      · subst hb; subst hx
        have h1 : ¬ x = k := by omega
        simp [Memory.get, h1, c1]
      · rfl
      · simp [Memory.get, hx]
      · simp [Memory.get, hx]
        intro h
        have h1 : ¬ x = k := by omega
        have h2 : x < k := by omega
        simp [h1, h2]
      · subst hb; subst hx
        exact Memory.get_of_wfFrom w3 (by omega)
      · have h1 : ¬ x = k := by omega
        simp only [Memory.get, h1, if_false]
        split_ifs with h2
        · exact Memory.get_of_wfFrom w3 (by omega)
        · rfl
      · simp [Memory.get, hx]
      · have h1 : ¬ x = k := by omega
        simp [Memory.get, h1, c2]
      · subst hx
        have h1 : ¬ x = k := by omega
        have h2 : ¬ x < k := by omega
        simp only [Memory.get, h1, h2, if_false]
        rw [ih _ w3]; simp
      · simp only [Memory.get]
        rw [ih _ w3]; simp [hx]
  exact main m 0 w

/-- A byte outside the bytes written reads as before. -/
theorem Memory.get_write_of_outside (m : Memory) (a x : Nat) (bs : List Byte) (w : m.wf = true)
    (h : x < a ∨ a + bs.length ≤ x) : (m.write a bs).get x = m.get x := by
  induction bs generalizing m a with
  | nil => rfl
  | cons b bs ih =>
    simp only [List.length_cons] at h
    rw [Memory.write, ih (m.set a b) (a + 1) (Memory.wf_set a b w) (by omega), Memory.get_set m a x b w]
    simp [show ¬ x = a by omega]

/-- A byte among those written reads as written. -/
theorem Memory.get_write_of_inside (m : Memory) (a : Nat) (bs : List Byte) (w : m.wf = true) (i : Nat) (h : i < bs.length) :
    (m.write a bs).get (a + i) = bs[i] := by
  induction bs generalizing m a i with
  | nil => exact absurd h (by simp)
  | cons b bs ih =>
    cases i with
    | zero =>
      rw [Memory.write, Memory.get_write_of_outside _ _ _ _ (Memory.wf_set a b w) (by omega), Nat.add_zero, Memory.get_set m a a b w]
      simp
    | succ i =>
      rw [Memory.write, show a + (i + 1) = a + 1 + i by omega, ih (m.set a b) (a + 1) (Memory.wf_set a b w) i (by simpa using h)]
      simp

/-- What was written is what is read back. -/
theorem Memory.read_write (m : Memory) (a : Nat) (bs : List Byte) (w : m.wf = true) : (m.write a bs).read a bs.length = bs := by
  have read_eq : ∀ (m : Memory) (n a : Nat), m.read a n = (List.range n).map fun i => m.get (a + i) := by
    intro m n
    induction n with
    | zero => intro a; rfl
    | succ n ih =>
      intro a
      rw [Memory.read, ih (a + 1), List.range_succ_eq_map, List.map_cons, List.map_map]
      congr 1
      refine List.map_congr_left fun i _ => ?_
      simp [show a + 1 + i = a + (i + 1) by omega]
  rw [read_eq]
  refine List.ext_getElem (by simp) fun i h1 h2 => ?_
  simp only [List.getElem_map, List.getElem_range]
  exact Memory.get_write_of_inside m a bs w i h2

end Sys2Proof.Machine
end

