-- ==== Sys2Proof/Laws/Operands.lean ====
section
/-!
SUPPORT. Operands and destinations: what an instruction does whose operands hold no error, what a vector destination holds after
a write, and what that write leaves.
-/

namespace Sys2Proof.Machine

/-! ### Lanes -/

@[simp] theorem mkLanes_getElem {α : Type} (f : Fin 64 → α) (l : Fin 64) : (mkLanes f)[l] = f l := by
  simp [mkLanes]

@[simp] theorem mkLanes_getElem_nat {α : Type} (f : Fin 64 → α) (i : Nat) (h : i < 64) : (mkLanes f)[i] = f ⟨i, h⟩ := by
  simp [mkLanes]

/-! ### Registers without errors (R18) -/

theorem Warp.badIn_of_clean {w : Warp} (h : w.bad = []) (o : Opnd) : w.badIn o = 0 := by simp [Warp.badIn, h]

theorem Warp.operandKills_of_clean {w : Warp} (h : w.bad = []) (os : List Opnd) (m : Mask) : w.operandKills os m = (0, 1) := by
  simp only [Warp.operandKills, Warp.badIn_of_clean h, h, List.isEmpty_nil, Bool.not_true, Bool.and_false, Bool.false_and]
  simp
  intro o _
  split <;> rfl

/-- Where no register holds an error, the values are sound in every effective lane. -/
theorem Env.sound_of_clean {e : Env} (h : e.w.bad = []) (os : List Opnd) : e.sound os = e.eff := by
  rw [Env.sound, Warp.operandKills_of_clean h, show ~~~(0 : Mask) = BitVec.allOnes 64 by decide, BitVec.and_allOnes]

/-- A warp that does not speculate loads through no buffer, so an error of memory reaches it as it stands (R210, R405). -/
theorem State.loadError_calm {w : Warp} (h : w.spec = none) (s : State) (cluster place n : Nat) (apx : Bool) :
    s.loadError cluster w place n apx = s.errorFor cluster place n apx := by simp [State.loadError, h]

@[simp] theorem State.killLanes_zero (s : State) (c : Context) (g : Group) (w : Warp) (n : Nat) (a : W64) :
    s.killLanes c g w 0 n a = s := by
  have h0 : Mask.lanes (0#64) = [] := by decide
  simp [State.killLanes, h0]

/-! ### Writes of a vector destination (R14, R18, R46, R47) -/

theorem Warp.vreg_putV (w : Warp) (n k : Nat) (r : VReg) (m : Mask) (h : n < 256) :
    (w.putV n r m).vreg k = if k = n then r else w.vreg k := by
  unfold Warp.putV Warp.vreg
  simp only [h, dif_pos]
  by_cases hk : k < 256
  · simp only [hk, dif_pos, Vector.getElem_set]
    by_cases e : n = k
    · simp [e]
    · simp [e, Ne.symm e]
  · have : ¬ k = n := by omega
    simp [hk, this]

/-- A warp that does not speculate writes its destination without a shadow. -/
theorem Warp.writeVec_calm {w : Warp} (h : w.spec = none) (n : Nat) (x : VecWrite) :
    w.writeVec n x = some (if x.nw then w
      else
        let m := (x.eff &&& ~~~x.kill) ||| (x.sel &&& (w.dead ||| x.kill))
        if x.wide then (w.putV n (x.low w n) m).putV (n + 1) (x.high w n) m else w.putV n (x.low w n) m) := by
  unfold Warp.writeVec
  by_cases hn : x.nw <;> by_cases hw : x.wide <;> simp [hn, hw, Warp.shadow, h]

theorem Warp.commitVec_calm {w : Warp} (h : w.spec = none) (n : Nat) (x : VecWrite) : ∃ w', w.commitVec n x = some w' := by
  rw [Warp.commitVec, Warp.writeVec_calm h]
  exact ⟨_, rfl⟩

/-! ### Instructions with one destination (R57, R83) -/

/-- An instruction whose operands raise no fault and hold no error writes its destination and its flags. -/
theorem Env.run_clean {e : Env} {x : RegIns} {w' : Warp} (hb : e.w.bad = [])
    (ho : e.w.operandFault e.g.desc.apxFrom x.a x.os x.never [x.dst] = none) (hf : e.eff = 0 ∨ x.faults = none)
    (hw : x.write e.w e.eff e.sel 0 = some w') :
    e.run x = .done ((e.put (w'.setFlags (orFlags (flagMask x.dst e.eff) x.vals))).drawn x.draws) := by
  have h0 : (if e.eff = 0 then none else x.faults) = none := by
    rcases hf with h | h <;> simp [h]
  have hm : e.eff &&& ~~~(0 : Mask) = e.eff := by
    rw [show ~~~(0 : Mask) = BitVec.allOnes 64 by decide, BitVec.and_allOnes]
  unfold Env.run Env.runKill
  simp only [ho, h0, Warp.operandKills_of_clean hb, hw, hm, State.killLanes_zero]

end Sys2Proof.Machine
end

