-- ==== Sys2Proof/Laws/PerInstr.lean ====
section
/-!
SUPPORT. The statement made for each instruction: its first word's length class counts the words of its encoding (R33). One
lemma for each constructor, over one lemma for each form.
-/

namespace Sys2Proof.Laws.EncodesWhole

/-- R33, R50, R56: the length class of an instruction's first word gives the bytes of the whole encoding. An unassigned opcode keeps
only its first word. -/
def Statement (i : Instr) : Prop :=
  ∀ w ws, encode i = w :: ws → match i with
    | .unassignedOp _ => ws = []
    | _ => lengthOf w = 4 * (ws.length + 1)

/-- The words of a shape are as many as the length class of the first says. -/
def Whole (sh : Shape) : Prop := ∀ w ws, sh.encode = w :: ws → lengthOf w = 4 * (ws.length + 1)

/-- The length class stands in the two low bits of a doubleword's first word. -/
theorem lengthOf_lo32 (hi : BitVec 62) (len : BitVec 2) (n : Nat) (h : (match len.toNat with
    | 1 => 8
    | 2 => 12
    | _ => 4) = n) : lengthOf (lo32 (hi ++ len)) = n := by
  have e : (lo32 (hi ++ len)).extractLsb' 0 2 = len := by
    refine BitVec.eq_of_getLsbD_eq fun i h2 => ?_
    have h32 : i < 32 := Nat.lt_trans h2 (by decide)
    rw [lo32, BitVec.getLsbD_extractLsb', BitVec.getLsbD_extractLsb']
    simpa [h2, h32] using BitVec.getLsbD_append (x := hi) (y := len) (i := i)
  rw [lengthOf, e]
  exact h

theorem whole_l (op : LOp) (f : LForm) : Whole (.l op f) := by
  intro w ws h
  cases hi : f.imm <;> simp only [Shape.encode, hi, List.cons.injEq] at h <;> obtain ⟨rfl, rfl⟩ := h
  · exact lengthOf_lo32 _ 1 8 rfl
  · exact lengthOf_lo32 _ 2 12 rfl

theorem whole_m (op : MOp) (f : MForm) : Whole (.m op f) := by
  intro w ws h
  cases hi : f.off <;> simp only [Shape.encode, hi, List.cons.injEq] at h <;> obtain ⟨rfl, rfl⟩ := h
  · exact lengthOf_lo32 _ 1 8 rfl
  · exact lengthOf_lo32 _ 2 12 rfl

theorem whole_b (op : BOp) (f : BForm) : Whole (.b op f) := by
  intro w ws h
  simp only [Shape.encode, List.cons.injEq] at h
  obtain ⟨rfl, rfl⟩ := h
  exact lengthOf_lo32 _ 1 8 rfl

/-- A word whose two low bits are given. -/
theorem lengthOf_short (hi : BitVec 30) (len : BitVec 2) (h : (match len.toNat with
    | 1 => 8
    | 2 => 12
    | _ => 4) = 4) : lengthOf (hi ++ len) = 4 := by
  have e : (hi ++ len : BitVec 32).extractLsb' 0 2 = len := by
    refine BitVec.eq_of_getLsbD_eq fun i h2 => ?_
    rw [BitVec.getLsbD_extractLsb']
    simpa [h2] using BitVec.getLsbD_append (x := hi) (y := len) (i := i)
  rw [lengthOf, e]
  exact h

theorem whole_sb (op : SbOp) (off : BitVec 18) (pneg : Bool) (pred : Fin 8) : Whole (.sb op off pneg pred) := by
  intro w ws h
  cases op <;> simp only [Shape.encode, List.cons.injEq] at h <;> obtain ⟨rfl, rfl⟩ := h <;> exact lengthOf_short _ 0 rfl

theorem whole_sr (op : SrOp) (imm : BitVec 6) (src dst : Fin 256) : Whole (.sr op imm src dst) := by
  intro w ws h
  cases op <;> simp only [Shape.encode, List.cons.injEq] at h <;> obtain ⟨rfl, rfl⟩ := h <;> exact lengthOf_short _ 0 rfl

theorem whole_p (r : RepPrefix) : Whole (.p r) := by
  intro w ws h
  simp only [Shape.encode, List.cons.injEq] at h
  obtain ⟨rfl, rfl⟩ := h
  exact lengthOf_short _ 3 rfl

/-- An event has no encoding. -/
theorem of_event {i : Instr} (h : encode i = []) : Statement i := by
  intro w ws e
  rw [h] at e
  cases e

theorem nop (f : LForm) : Statement (.nop f) := whole_l .nop f
theorem nopShort : Statement .nopShort := whole_sb .nop 0 false 0
theorem bra (f : BForm) : Statement (.bra f) := whole_b .bra f
theorem braShort (off : BitVec 18) (pneg : Bool) (pred : Fin 8) : Statement (.braShort off pneg pred) :=
  whole_sb .bra off pneg pred
theorem brx (f : LForm) : Statement (.brx f) := whole_l .brx f
theorem call (f : BForm) : Statement (.call f) := whole_b .call f
theorem callx (f : LForm) : Statement (.callx f) := whole_l .callx f
theorem ret (f : BForm) : Statement (.ret f) := whole_b .ret f
theorem mark (f : BForm) : Statement (.mark f) := whole_b .mark f
theorem markShort (off : BitVec 18) : Statement (.markShort off) := whole_sb .mark off false 0
theorem join (f : BForm) : Statement (.join f) := whole_b .join f
theorem joinShort : Statement .joinShort := whole_sb .join 0 false 0
theorem exit (f : BForm) : Statement (.exit f) := whole_b .exit f
theorem exitShort (pneg : Bool) (pred : Fin 8) : Statement (.exitShort pneg pred) := whole_sb .exit 0 pneg pred
theorem blkend (f : BForm) : Statement (.blkend f) := whole_b .blkend f
theorem getx (f : LForm) : Statement (.getx f) := whole_l .getx f
theorem setx (f : LForm) : Statement (.setx f) := whole_l .setx f
theorem brk (f : LForm) : Statement (.brk f) := whole_l .brk f
theorem spin (f : LForm) : Statement (.spin f) := whole_l .spin f
theorem sleep (f : LForm) : Statement (.sleep f) := whole_l .sleep f
theorem shfl (f : LForm) : Statement (.shfl f) := whole_l .shfl f
theorem vote (f : LForm) : Statement (.vote f) := whole_l .vote f
theorem redlog (f : LForm) : Statement (.redlog f) := whole_l .redlog f
theorem scanlog (f : LForm) : Statement (.scanlog f) := whole_l .scanlog f
theorem matchLanes (f : LForm) : Statement (.matchLanes f) := whole_l .matchLanes f
theorem add (f : LForm) : Statement (.add f) := whole_l .add f
theorem addShort (imm : BitVec 6) (a d : Fin 256) : Statement (.addShort imm a d) := whole_sr .add imm a d
theorem sub (f : LForm) : Statement (.sub f) := whole_l .sub f
theorem addc (f : LForm) : Statement (.addc f) := whole_l .addc f
theorem mul (f : LForm) : Statement (.mul f) := whole_l .mul f
theorem mulh (f : LForm) : Statement (.mulh f) := whole_l .mulh f
theorem mad (f : LForm) : Statement (.mad f) := whole_l .mad f
theorem madw (f : LForm) : Statement (.madw f) := whole_l .madw f
theorem min (f : LForm) : Statement (.min f) := whole_l .min f
theorem max (f : LForm) : Statement (.max f) := whole_l .max f
theorem abs (f : LForm) : Statement (.abs f) := whole_l .abs f
theorem neg (f : LForm) : Statement (.neg f) := whole_l .neg f
theorem and (f : LForm) : Statement (.and f) := whole_l .and f
theorem or (f : LForm) : Statement (.or f) := whole_l .or f
theorem xor (f : LForm) : Statement (.xor f) := whole_l .xor f
theorem not (f : LForm) : Statement (.not f) := whole_l .not f
theorem andn (f : LForm) : Statement (.andn f) := whole_l .andn f
theorem shl (f : LForm) : Statement (.shl f) := whole_l .shl f
theorem shr (f : LForm) : Statement (.shr f) := whole_l .shr f
theorem sar (f : LForm) : Statement (.sar f) := whole_l .sar f
theorem rot (f : LForm) : Statement (.rot f) := whole_l .rot f
theorem bfx (f : LForm) : Statement (.bfx f) := whole_l .bfx f
theorem bfi (f : LForm) : Statement (.bfi f) := whole_l .bfi f
theorem clz (f : LForm) : Statement (.clz f) := whole_l .clz f
theorem ffs (f : LForm) : Statement (.ffs f) := whole_l .ffs f
theorem popc (f : LForm) : Statement (.popc f) := whole_l .popc f
theorem brev (f : LForm) : Statement (.brev f) := whole_l .brev f
theorem bytep (f : LForm) : Statement (.bytep f) := whole_l .bytep f
theorem cmp (f : LForm) : Statement (.cmp f) := whole_l .cmp f
theorem sel (f : LForm) : Statement (.sel f) := whole_l .sel f
theorem plog (f : LForm) : Statement (.plog f) := whole_l .plog f
theorem mov (f : LForm) : Statement (.mov f) := whole_l .mov f
theorem movShort (a d : Fin 256) : Statement (.movShort a d) := whole_sr .mov 0 a d
theorem movi (f : LForm) : Statement (.movi f) := whole_l .movi f
theorem lea (f : LForm) : Statement (.lea f) := whole_l .lea f
theorem movs (f : LForm) : Statement (.movs f) := whole_l .movs f
theorem fadd (f : LForm) : Statement (.fadd f) := whole_l .fadd f
theorem fsub (f : LForm) : Statement (.fsub f) := whole_l .fsub f
theorem fmul (f : LForm) : Statement (.fmul f) := whole_l .fmul f
theorem fma (f : LForm) : Statement (.fma f) := whole_l .fma f
theorem fmin (f : LForm) : Statement (.fmin f) := whole_l .fmin f
theorem fmax (f : LForm) : Statement (.fmax f) := whole_l .fmax f
theorem fsgn (f : LForm) : Statement (.fsgn f) := whole_l .fsgn f
theorem fcmp (f : LForm) : Statement (.fcmp f) := whole_l .fcmp f
theorem fclass (f : LForm) : Statement (.fclass f) := whole_l .fclass f
theorem rcp (f : LForm) : Statement (.rcp f) := whole_l .rcp f
theorem rsq (f : LForm) : Statement (.rsq f) := whole_l .rsq f
theorem sqrt (f : LForm) : Statement (.sqrt f) := whole_l .sqrt f
theorem exp2 (f : LForm) : Statement (.exp2 f) := whole_l .exp2 f
theorem log2 (f : LForm) : Statement (.log2 f) := whole_l .log2 f
theorem sin (f : LForm) : Statement (.sin f) := whole_l .sin f
theorem cos (f : LForm) : Statement (.cos f) := whole_l .cos f
theorem cvt (f : LForm) : Statement (.cvt f) := whole_l .cvt f
theorem quant (f : LForm) : Statement (.quant f) := whole_l .quant f
theorem scaleb (f : LForm) : Statement (.scaleb f) := whole_l .scaleb f
theorem frnd (f : LForm) : Statement (.frnd f) := whole_l .frnd f
theorem endorse (f : LForm) : Statement (.endorse f) := whole_l .endorse f
theorem tagset (f : LForm) : Statement (.tagset f) := whole_l .tagset f
theorem tagget (f : LForm) : Statement (.tagget f) := whole_l .tagget f
theorem rand (f : LForm) : Statement (.rand f) := whole_l .rand f
theorem qset (f : LForm) : Statement (.qset f) := whole_l .qset f
theorem qmul (f : LForm) : Statement (.qmul f) := whole_l .qmul f
theorem qmac (f : LForm) : Statement (.qmac f) := whole_l .qmac f
theorem qadd (f : LForm) : Statement (.qadd f) := whole_l .qadd f
theorem qsub (f : LForm) : Statement (.qsub f) := whole_l .qsub f
theorem qneg (f : LForm) : Statement (.qneg f) := whole_l .qneg f
theorem qred (f : LForm) : Statement (.qred f) := whole_l .qred f
theorem qbfct (f : LForm) : Statement (.qbfct f) := whole_l .qbfct f
theorem qbfgs (f : LForm) : Statement (.qbfgs f) := whole_l .qbfgs f
theorem qshoup (f : LForm) : Statement (.qshoup f) := whole_l .qshoup f
theorem nperm (f : LForm) : Statement (.nperm f) := whole_l .nperm f
theorem lbrev (f : LForm) : Statement (.lbrev f) := whole_l .lbrev f
theorem ld (f : MForm) : Statement (.ld f) := whole_m .ld f
theorem st (f : MForm) : Statement (.st f) := whole_m .st f
theorem lds (f : MForm) : Statement (.lds f) := whole_m .lds f
theorem sts (f : MForm) : Statement (.sts f) := whole_m .sts f
theorem ldb (f : MForm) : Statement (.ldb f) := whole_m .ldb f
theorem stb (f : MForm) : Statement (.stb f) := whole_m .stb f
theorem ldu (f : MForm) : Statement (.ldu f) := whole_m .ldu f
theorem stu (f : MForm) : Statement (.stu f) := whole_m .stu f
theorem atom (f : MForm) : Statement (.atom f) := whole_m .atom f
theorem vatom (f : MForm) : Statement (.vatom f) := whole_m .vatom f
theorem acopy (f : MForm) : Statement (.acopy f) := whole_m .acopy f
theorem publish (f : MForm) : Statement (.publish f) := whole_m .publish f
theorem winset (f : MForm) : Statement (.winset f) := whole_m .winset f
theorem pref (f : MForm) : Statement (.pref f) := whole_m .pref f
theorem own (f : MForm) : Statement (.own f) := whole_m .own f
theorem waitr (f : MForm) : Statement (.waitr f) := whole_m .waitr f
theorem bankset (f : MForm) : Statement (.bankset f) := whole_m .bankset f
theorem fpush (f : MForm) : Statement (.fpush f) := whole_m .fpush f
theorem fpop (f : MForm) : Statement (.fpop f) := whole_m .fpop f
theorem isync (f : MForm) : Statement (.isync f) := whole_m .isync f
theorem bararr (f : LForm) : Statement (.bararr f) := whole_l .bararr f
theorem barwait (f : LForm) : Statement (.barwait f) := whole_l .barwait f
theorem barsync (f : LForm) : Statement (.barsync f) := whole_l .barsync f
theorem barwaitt (f : LForm) : Statement (.barwaitt f) := whole_l .barwaitt f
theorem barexp (f : LForm) : Statement (.barexp f) := whole_l .barexp f
theorem barstat (f : LForm) : Statement (.barstat f) := whole_l .barstat f
theorem emit (f : LForm) : Statement (.emit f) := whole_l .emit f
theorem joindec (f : LForm) : Statement (.joindec f) := whole_l .joindec f
theorem evpop (f : LForm) : Statement (.evpop f) := whole_l .evpop f
theorem evwait (f : LForm) : Statement (.evwait f) := whole_l .evwait f
theorem clock (f : LForm) : Statement (.clock f) := whole_l .clock f
theorem qstat (f : LForm) : Statement (.qstat f) := whole_l .qstat f
theorem tld (f : LForm) : Statement (.tld f) := whole_l .tld f
theorem agath (f : LForm) : Statement (.agath f) := whole_l .agath f
theorem mma (f : LForm) : Statement (.mma f) := whole_l .mma f
theorem mmas (f : LForm) : Statement (.mmas f) := whole_l .mmas f
theorem acz (f : LForm) : Statement (.acz f) := whole_l .acz f
theorem acdrn (f : LForm) : Statement (.acdrn f) := whole_l .acdrn f
theorem acrel (f : LForm) : Statement (.acrel f) := whole_l .acrel f
theorem acstat (f : LForm) : Statement (.acstat f) := whole_l .acstat f
theorem mmwait (f : LForm) : Statement (.mmwait f) := whole_l .mmwait f
theorem lkexit (f : LForm) : Statement (.lkexit f) := whole_l .lkexit f
theorem trap (f : LForm) : Statement (.trap f) := whole_l .trap f
theorem tret (f : LForm) : Statement (.tret f) := whole_l .tret f
theorem movsr (f : LForm) : Statement (.movsr f) := whole_l .movsr f
theorem ovfld (f : LForm) : Statement (.ovfld f) := whole_l .ovfld f
theorem railset (f : LForm) : Statement (.railset f) := whole_l .railset f
theorem sigseed (f : LForm) : Statement (.sigseed f) := whole_l .sigseed f
theorem tlbinv (f : LForm) : Statement (.tlbinv f) := whole_l .tlbinv f
theorem wdset (f : LForm) : Statement (.wdset f) := whole_l .wdset f
theorem perfrd (f : LForm) : Statement (.perfrd f) := whole_l .perfrd f
theorem halt (f : LForm) : Statement (.halt f) := whole_l .halt f
theorem rep (p : RepPrefix) : Statement (.rep p) := whole_p p
theorem copySector (copy : Nat) : Statement (.copySector copy) := of_event rfl
theorem copyComplete (copy : Nat) : Statement (.copyComplete copy) := of_event rfl
theorem matrixOpStart (group : Nat) : Statement (.matrixOpStart group) := of_event rfl
theorem matrixOpComplete (group op : Nat) : Statement (.matrixOpComplete group op) := of_event rfl
theorem gatherTake (ctx : Nat) (q : QueueRef) : Statement (.gatherTake ctx q) := of_event rfl
theorem gatherOffer (gather : Nat) : Statement (.gatherOffer gather) := of_event rfl
theorem groupPlace (src : PlaceSource) : Statement (.groupPlace src) := of_event rfl
theorem spanWaitLimit (pod : Nat) : Statement (.spanWaitLimit pod) := of_event rfl
theorem groupEnd (group : Nat) : Statement (.groupEnd group) := of_event rfl
theorem continuationEnqueue (held : Nat) : Statement (.continuationEnqueue held) := of_event rfl
theorem restartGroup (request : Nat) : Statement (.restartGroup request) := of_event rfl
theorem limiterAdmit : Statement .limiterAdmit := of_event rfl
theorem spinEnd (group warp : Nat) : Statement (.spinEnd group warp) := of_event rfl
theorem sleepEnd (group warp : Nat) : Statement (.sleepEnd group warp) := of_event rfl
theorem barwaittTimeout (agent : AgentId) : Statement (.barwaittTimeout agent) := of_event rfl
theorem bartimeout (bar : BarId) : Statement (.bartimeout bar) := of_event rfl
theorem remoteRequest (r : RemoteRequest) : Statement (.remoteRequest r) := of_event rfl
theorem remoteAnswer (a : RemoteAnswer) : Statement (.remoteAnswer a) := of_event rfl
theorem remoteRefusal (a : RemoteAnswer) : Statement (.remoteRefusal a) := of_event rfl
theorem refusalResend (op : Nat) : Statement (.refusalResend op) := of_event rfl
theorem retransmission (op : Nat) : Statement (.retransmission op) := of_event rfl
theorem remoteLost (op : Nat) : Statement (.remoteLost op) := of_event rfl
theorem ownerFailed (owner : Byte) : Statement (.ownerFailed owner) := of_event rfl
theorem keepalive (ctx : Nat) (owner : Byte) : Statement (.keepalive ctx owner) := of_event rfl
theorem keepaliveReceive (k : KeepAlive) : Statement (.keepaliveReceive k) := of_event rfl
theorem keepaliveAck (a : KeepAliveAck) : Statement (.keepaliveAck a) := of_event rfl
theorem resultCacheExpiry (requester : Byte) (ctx : Nat) : Statement (.resultCacheExpiry requester ctx) := of_event rfl
theorem fundamentalReset (failure : Option BringUpFailure) : Statement (.fundamentalReset failure) := of_event rfl
theorem fwgo (value : FwgoWrite) : Statement (.fwgo value) := of_event rfl
theorem registerWrite (offset : Nat) (value : W64) : Statement (.registerWrite offset value) := of_event rfl
theorem doorbell (ctx offset : Nat) (tail : W64) : Statement (.doorbell ctx offset tail) := of_event rfl
theorem hostWrite (offset : Nat) (data : List Byte) : Statement (.hostWrite offset data) := of_event rfl
theorem hostRead (offset : HostAddr) (size : Nat) : Statement (.hostRead offset size) := of_event rfl
theorem ptradeWrite (value : W64) : Statement (.ptradeWrite value) := of_event rfl
theorem partCreate : Statement .partCreate := of_event rfl
theorem partResizePrepare : Statement .partResizePrepare := of_event rfl
theorem prepareComplete (part : Nat) : Statement (.prepareComplete part) := of_event rfl
theorem resizeDeadline (part : Nat) : Statement (.resizeDeadline part) := of_event rfl
theorem partResizeCommit : Statement .partResizeCommit := of_event rfl
theorem partReset : Statement .partReset := of_event rfl
theorem partDestroy : Statement .partDestroy := of_event rfl
theorem partSetapx : Statement .partSetapx := of_event rfl
theorem ctxCreate : Statement .ctxCreate := of_event rfl
theorem ctxDrain : Statement .ctxDrain := of_event rfl
theorem drainComplete (ctx : Nat) : Statement (.drainComplete ctx) := of_event rfl
theorem drainDeadline (ctx : Nat) : Statement (.drainDeadline ctx) := of_event rfl
theorem ctxResume : Statement .ctxResume := of_event rfl
theorem ctxReset : Statement .ctxReset := of_event rfl
theorem ctxDestroy : Statement .ctxDestroy := of_event rfl
theorem ctxTlbinv : Statement .ctxTlbinv := of_event rfl
theorem ctxReplay : Statement .ctxReplay := of_event rfl
theorem ctxFaultfail : Statement .ctxFaultfail := of_event rfl
theorem ctxDebugHalt : Statement .ctxDebugHalt := of_event rfl
theorem ctxDebugResume : Statement .ctxDebugResume := of_event rfl
theorem ctxDebugRead : Statement .ctxDebugRead := of_event rfl
theorem ctxDebugWrite : Statement .ctxDebugWrite := of_event rfl
theorem slotRetire : Statement .slotRetire := of_event rfl
theorem attest : Statement .attest := of_event rfl
theorem linkCtlFence : Statement .linkCtlFence := of_event rfl
theorem linkCtlRetrain : Statement .linkCtlRetrain := of_event rfl
theorem retrainDeadline (port : Nat) : Statement (.retrainDeadline port) := of_event rfl
theorem linkFence (port : Nat) : Statement (.linkFence port) := of_event rfl
theorem dieFailure (die : Nat) : Statement (.dieFailure die) := of_event rfl
theorem ioDieFailure : Statement .ioDieFailure := of_event rfl
theorem powerGrant (tokens : BitVec 10) : Statement (.powerGrant tokens) := of_event rfl
theorem safeGrantFallback : Statement .safeGrantFallback := of_event rfl
theorem loanOffer (side : LoanSide) (port tokens : Nat) : Statement (.loanOffer side port tokens) := of_event rfl
theorem loanLapse (loan : LoanTurn) : Statement (.loanLapse loan) := of_event rfl
theorem loanRecall (loan : Nat) : Statement (.loanRecall loan) := of_event rfl
theorem recallConfirm (loan : Nat) : Statement (.recallConfirm loan) := of_event rfl
theorem recallTimeout (loan : Nat) : Statement (.recallTimeout loan) := of_event rfl
theorem unassignedOp (word : W32) : Statement (.unassignedOp word) :=
  by
  intro w ws h
  simp only [encode, Instr.shape, Shape.encode, List.cons.injEq] at h
  exact h.2.symm
theorem railSettle (cluster : Nat) (level : BitVec 3) : Statement (.railSettle cluster level) := of_event rfl
theorem sliceRatioChange (cluster slice : Nat) (n : BitVec 4) : Statement (.sliceRatioChange cluster slice n) := of_event rfl
theorem linkTrainingPass (port : Nat) : Statement (.linkTrainingPass port) := of_event rfl
theorem softError (e : SoftError) : Statement (.softError e) := of_event rfl
theorem bankDrainComplete (cluster bank : Nat) : Statement (.bankDrainComplete cluster bank) := of_event rfl
theorem powerLoss : Statement .powerLoss := of_event rfl

end Sys2Proof.Laws.EncodesWhole
end

