-- ==== Sys2Proof/Laws/Translate.lean ====
section
/-!
SUPPORT. The laws of translation: what an entry in force decides, and what putting entries in force and dropping them leaves (R255,
R393).
-/

namespace Sys2Proof.Machine

/-- An address with a leaf in force is translated by it, whatever the page tables hold by now. -/
theorem State.translate_of_leaf {s : State} {c : Context} {va : Nat} {t : TlbEntry} (hva : va < 2 ^ 48)
    (h : s.leafInForce c.id va = some t) : s.translate c va = .ok (leafPlace t.entry t.size va) t.entry [] := by
  rw [State.translate, if_neg (Nat.not_le.mpr hva), h]

@[simp] theorem State.fillTlb_nil (s : State) : s.fillTlb [] = s := rfl

/-- In force afterwards is what was before, and what is put in force. -/
theorem State.mem_fillTlb {s : State} {fill : List TlbEntry} {t : TlbEntry} : t ∈ (s.fillTlb fill).tlb ↔ t ∈ fill ∨ t ∈ s.tlb := by
  induction fill generalizing s with
  | nil => simp
  | cons x fill ih =>
    have step : (s.fillTlb (x :: fill)).tlb = (State.fillTlb { s with tlb := if s.tlb.contains x then s.tlb else x :: s.tlb } fill).tlb := rfl
    rw [step, ih]
    by_cases h : s.tlb.contains x
    · rw [if_pos h]
      have : x ∈ s.tlb := by simpa using h
      simp only [List.mem_cons]
      exact ⟨fun k => k.elim (fun k => .inl (.inr k)) .inr, fun k => k.elim (fun k => k.elim (fun e => .inr (e ▸ this)) .inl) .inr⟩
    · rw [if_neg h]
      simp only [List.mem_cons]
      tauto

/-- After an invalidation of an address nothing that covers it is in force. -/
theorem State.dropTlb_covers {s : State} {ctx va : Nat} {t : TlbEntry} (h : t ∈ (s.dropTlb ctx (some va)).tlb) (hc : t.ctx = ctx) :
    t.covers va = false := by
  simpa [hc] using (List.mem_filter.mp h).2

/-- After an invalidation of a context nothing of it is in force. -/
theorem State.dropTlb_all {s : State} {ctx : Nat} {t : TlbEntry} (h : t ∈ (s.dropTlb ctx none).tlb) : t.ctx ≠ ctx := by
  simpa using (List.mem_filter.mp h).2

end Sys2Proof.Machine
end

