-- ==== Sys2Proof/Laws/Work.lean ====
section
/-!
SUPPORT. What the part's own accesses leave alone: a store, a record, an entry of a fault ring, a counter event and a request that
the owner carries out give no context a resident group and take none from it, start no pod, span, gather or copy, and change no
operation that the module has outstanding. From it, that nothing of a context that ends is left resident.
-/

namespace Sys2Proof.Machine

/-- Two states have the same work resident and in flight: groups of the same contexts, and the same spans, pods, gathers, copies,
abandoned restarts, arrivals and remote operations. -/
def State.SameWork (s t : State) : Prop :=
  t.groups.map Group.ctx = s.groups.map Group.ctx ∧ t.spans = s.spans ∧ t.pods = s.pods ∧ t.gathers = s.gathers ∧ t.copies = s.copies ∧
    t.restarts = s.restarts ∧ t.arrivals = s.arrivals ∧ t.outRemote = s.outRemote

namespace State.SameWork

theorem refl (s : State) : s.SameWork s := ⟨rfl, rfl, rfl, rfl, rfl, rfl, rfl, rfl⟩

theorem trans {s t u : State} (h : s.SameWork t) (k : t.SameWork u) : s.SameWork u := by
  obtain ⟨a, b, c, d, e, f, g, i⟩ := h
  obtain ⟨a', b', c', d', e', f', g', i'⟩ := k
  exact ⟨a'.trans a, b'.trans b, c'.trans c, d'.trans d, e'.trans e, f'.trans f, g'.trans g, i'.trans i⟩

theorem foldl {α : Type} {f : State → α → State} (hf : ∀ s a, State.SameWork s (f s a)) (l : List α) (s : State) :
    s.SameWork (l.foldl f s) := by
  induction l generalizing s with
  | nil => exact .refl s
  | cons a l ih => exact (hf s a).trans (ih (f s a))

theorem getD {s : State} {o : Option State} (h : ∀ t, o = some t → s.SameWork t) : s.SameWork (o.getD s) := by
  cases o with
  | none => exact .refl s
  | some t => exact h t rfl

theorem conflict (s : State) (who : Option AgentId) (x : List Nat) : s.SameWork (s.conflict who x) := by
  unfold State.conflict
  split
  · exact ⟨by simp only [List.map_map]; rfl, rfl, rfl, rfl, rfl, rfl, rfl, rfl⟩
  · exact .refl s

theorem store (s : State) (who : Option AgentId) (place : Nat) (bs : List Byte) : s.SameWork (s.store who place bs) :=
  .trans (t := { s with mem := _, poison := _ }) ⟨rfl, rfl, rfl, rfl, rfl, rfl, rfl, rfl⟩ (conflict _ _ _)

theorem fillTlb (s : State) (fill : List TlbEntry) : s.SameWork (s.fillTlb fill) := ⟨rfl, rfl, rfl, rfl, rfl, rfl, rfl, rfl⟩

theorem ctxWrite {s t : State} {c : Context} {va : Nat} {bs : List Byte} (h : s.ctxWrite c va bs = some t) : s.SameWork t := by
  unfold State.ctxWrite at h
  split at h
  · split at h
    · cases h
      exact (fillTlb _ _).trans (store _ _ _ _)
    · cases h
  · cases h

theorem putEntries (c : Context) (base cap size : Nat) (n : Nat) (es : List (List W64)) (s : State) :
    s.SameWork (s.putEntries c base cap size n es) := by
  induction es generalizing s n with
  | nil => exact .refl s
  | cons e es ih => exact (getD fun _ h => ctxWrite h).trans (ih _ _)

theorem recordNow (s : State) (ctx : Nat) (es : List (List W64)) : s.SameWork (s.recordNow ctx es) := by
  unfold State.recordNow
  repeat' split
  all_goals first
    | exact .refl s
    | exact getD fun _ h => ctxWrite h
    | exact (putEntries _ _ _ _ _ _ _).trans (.trans (getD fun _ h => ctxWrite h) ⟨rfl, rfl, rfl, rfl, rfl, rfl, rfl, rfl⟩)

theorem record (s : State) (ctx : Nat) (es : List (List W64)) : s.SameWork (s.record ctx es) := by
  unfold State.record
  split
  · exact .refl s
  · split
    · exact ⟨rfl, rfl, rfl, rfl, rfl, rfl, rfl, rfl⟩
    · exact recordNow _ _ _

theorem faultRing (s : State) (ctx va : Nat) (acc : Access) (k : Nat) : s.SameWork (s.faultRing ctx va acc k) := by
  unfold State.faultRing
  split
  · exact .refl s
  · split
    · exact .refl s
    · dsimp only
      split
      · exact ((store _ _ _ _).trans (store _ _ _ _)).trans ⟨rfl, rfl, rfl, rfl, rfl, rfl, rfl, rfl⟩
      · exact store _ _ _ _

theorem hold (s : State) (h : Held) (page : Option Nat) (acc : Access) : s.SameWork (s.hold h page acc) := by
  have k : s.SameWork { s with nextUid := s.nextUid + 1, held := s.held ++ [⟨s.nextUid, h, page.map (BitVec.ofNat 64)⟩] } :=
    ⟨rfl, rfl, rfl, rfl, rfl, rfl, rfl, rfl⟩
  cases page with
  | none => exact k
  | some va => exact k.trans (faultRing _ _ _ _ _)

theorem dropHeld (s : State) (h : Held) (addr : W64) : s.SameWork (s.dropHeld h addr) := record _ _ _

theorem releaseRead (s : State) (ctx : Nat) (counter : W64) : s.SameWork (s.releaseRead ctx counter) := by
  unfold State.releaseRead
  repeat' split
  all_goals try dsimp only
  all_goals repeat' split
  all_goals first
    | exact .refl s
    | exact dropHeld _ _ _
    | exact hold _ _ _ _
    | exact ((fillTlb _ _).trans (fillTlb _ _)).trans (record _ _ _)

theorem counterNow (s : State) (h : Held) : s.SameWork (s.counterNow h) := by
  unfold State.counterNow
  repeat' split
  all_goals first
    | exact .refl s
    | exact releaseRead _ _ _
    | exact dropHeld _ _ _
    | exact hold _ _ _ _
    | exact ((fillTlb _ _).trans (store _ _ _ _)).trans (releaseRead _ _ _)
    | exact (fillTlb _ _).trans (store _ _ _ _)

/-- A counter event, made or held, is an access of the part alone. -/
theorem counterEvent (s : State) (h : Held) : s.SameWork (s.counterEvent h) := by
  unfold State.counterEvent
  split
  · exact hold _ _ _ _
  · exact counterNow _ _

theorem retryHeld (s : State) (ctx : Nat) : s.SameWork (s.retryHeld ctx) :=
  .trans (t := { s with held := _ }) ⟨rfl, rfl, rfl, rfl, rfl, rfl, rfl, rfl⟩ (foldl (fun s (h : HeldItem) => counterEvent s h.item) _ _)

theorem atomStep (s : State) (who : Option AgentId) (place : Nat) (op : AtomOp) (f : Fmt) (ovft : BitVec 16) (v swp : W64) :
    s.SameWork (s.atomStep who place op f ovft v swp).2 := (store _ _ _ _).trans ⟨rfl, rfl, rfl, rfl, rfl, rfl, rfl, rfl⟩

theorem atomEvent (s : State) (who : Option AgentId) (op : AtomOp) (f : Fmt) (ovft : BitVec 16) (a : AtomEvent) :
    s.SameWork (s.atomEvent who op f ovft a).2 := (store _ _ _ _).trans ⟨rfl, rfl, rfl, rfl, rfl, rfl, rfl, rfl⟩

theorem serveEvent (s : State) (x : Serving) : s.SameWork (s.serveEvent x).2 := by
  unfold State.serveEvent
  split
  · exact atomEvent _ _ _ _ _ _
  · exact .refl s

theorem serveEvents (n : Nat) (s : State) (x : Serving) : s.SameWork (s.serveEvents x n).2 := by
  induction n generalizing s x with
  | zero => exact .refl s
  | succ n ih => exact (serveEvent s x).trans (ih _ _)

theorem remoteAtoms (place : Nat) (op : AtomOp) (f : Fmt) (ovft : BitVec 16) (l : List (W64 × W64)) (s : State) :
    s.SameWork (s.remoteAtoms place op f ovft l).2 := by
  induction l generalizing s with
  | nil => exact .refl s
  | cons x l ih => exact (atomStep s none place op f ovft x.1 x.2).trans (ih _)

theorem ownerFill (s : State) (r : RemoteRequest) : s.SameWork (s.ownerFill r) := by
  unfold State.ownerFill
  split
  · exact fillTlb _ _
  · exact .refl s

theorem applyRemote (s : State) (r : RemoteRequest) : s.SameWork (s.applyRemote r).state := by
  unfold State.applyRemote
  split
  · exact .refl s
  · refine (ownerFill s r).trans ?_
    dsimp only
    split
    · exact .refl _
    · exact ⟨rfl, rfl, rfl, rfl, rfl, rfl, rfl, rfl⟩
    · exact store _ _ _ _
    · split
      · exact serveEvents _ _ _
      · split
        · split
          · exact .refl _
          · exact remoteAtoms _ _ _ _ _ _
        · exact .refl _

theorem serveNumbered (s : State) (r : RemoteRequest) (n : W32) : s.SameWork (s.serveNumbered r n) :=
  (applyRemote s r).trans ⟨rfl, rfl, rfl, rfl, rfl, rfl, rfl, rfl⟩

theorem drainHeld (m : Byte) (ctx k : Nat) (s : State) : s.SameWork (State.drainHeld m ctx k s) := by
  induction k generalizing s with
  | zero => exact .refl s
  | succ k ih =>
    unfold State.drainHeld
    split
    · exact .refl s
    · dsimp only
      split
      · exact .refl s
      · split
        · exact .refl s
        · rename_i r _
          generalize s.heldReqs.filter _ = q
          refine .trans (t := { s with heldReqs := q }) ⟨rfl, rfl, rfl, rfl, rfl, rfl, rfl, rfl⟩ ?_
          split
          · exact ⟨rfl, rfl, rfl, rfl, rfl, rfl, rfl, rfl⟩
          · split
            · exact (ownerFill _ r).trans ⟨rfl, rfl, rfl, rfl, rfl, rfl, rfl, rfl⟩
            · refine .trans ?_ (ih _)
              exact .trans ⟨rfl, rfl, rfl, rfl, rfl, rfl, rfl, rfl⟩ (serveNumbered _ _ _)

theorem settled (s : State) (x : Serving) : s.SameWork (s.settled x) := by
  unfold State.settled
  dsimp only
  split
  · exact ⟨rfl, rfl, rfl, rfl, rfl, rfl, rfl, rfl⟩
  · split <;> exact ⟨rfl, rfl, rfl, rfl, rfl, rfl, rfl, rfl⟩

theorem served (s : State) (x : Serving) : s.SameWork (s.served x) := (settled s x).trans (drainHeld _ _ _ _)

theorem settleNow (s : State) (x : Serving) : s.SameWork (s.settleNow x) := (serveEvents _ _ _).trans (settled _ _)

theorem finishServing (p : RemoteRequest → Bool) (k : Nat) (s : State) : s.SameWork (s.finishServing p k) := by
  induction k generalizing s with
  | zero => exact .refl s
  | succ k ih =>
    unfold State.finishServing
    split
    · exact .refl s
    · exact ((serveEvents _ _ _).trans (served _ _)).trans (ih _)

theorem takeWatermark (s : State) (q : Requester) (w : W32) : s.SameWork (s.takeWatermark q w) := by
  unfold State.takeWatermark
  split
  · dsimp only
    generalize s.serving.filter _ = xs
    refine .trans (t := xs.foldl State.settleNow s) ?_ ⟨rfl, rfl, rfl, rfl, rfl, rfl, rfl, rfl⟩
    induction xs generalizing s with
    | nil => exact .refl s
    | cons x xs ih => exact (settleNow s x).trans (ih _)
  · exact .refl s

theorem withdraw (s : State) (r : RemoteRequest) : s.SameWork (s.withdraw r) :=
  .trans (t := { s with heldReqs := _ }) ⟨rfl, rfl, rfl, rfl, rfl, rfl, rfl, rfl⟩ (finishServing _ _ _)

end State.SameWork

/-- Nothing of a context that is cleared stays resident, queued or in flight (R161, R309). -/
theorem State.clearCtx_none (s : State) (ctx : Nat) :
    (∀ g ∈ (s.clearCtx ctx).groups, g.ctx ≠ ctx) ∧ (∀ x ∈ (s.clearCtx ctx).spans, x.ctx ≠ ctx) ∧
      (∀ p ∈ (s.clearCtx ctx).pods, p.ctx ≠ ctx) ∧ (∀ g ∈ (s.clearCtx ctx).gathers, g.ctx ≠ ctx) ∧
      (∀ k ∈ (s.clearCtx ctx).copies, k.ctx ≠ ctx) ∧ (∀ o ∈ (s.clearCtx ctx).outRemote, o.request.ctx ≠ ctx) := by
  unfold State.clearCtx
  dsimp only
  generalize hu : State.retryHeld _ ctx = u
  obtain ⟨a, b, c, d, e, -, -, f⟩ := hu ▸ State.SameWork.retryHeld _ ctx
  dsimp only at a b c d e f
  simp only [b, c, d, e, f]
  refine ⟨fun g hg => ?_, ?_⟩
  · have : g.ctx ∈ u.groups.map Group.ctx := List.mem_map_of_mem hg
    rw [a] at this
    simp only [List.mem_map, List.mem_filter] at this
    obtain ⟨k, ⟨-, hk⟩, e⟩ := this
    simpa [e] using hk
  · simp [List.mem_filter]

@[simp] theorem State.nextGen_groups (s : State) (ctx : Nat) : (s.nextGen ctx).groups = s.groups := by
  simp [State.nextGen]

@[simp] theorem State.mapCount_groups (s : State) (p : Nat) (f : PartCount → PartCount) : (s.mapCount p f).groups = s.groups := by
  unfold State.mapCount; split <;> rfl

/-- A terminated context has no resident group (R309). -/
theorem State.terminate_none (s : State) (ctx : Nat) (before : List Todo) : ∀ g ∈ (s.terminate ctx before).groups, g.ctx ≠ ctx := by
  simpa [State.terminate, State.endCtx] using (s.clearCtx_none ctx).1

end Sys2Proof.Machine
end

