-- ==== Sys2Proof/Tests/Slice0.lean ====
section
/-!
SUPPORT. Tests: words of the specification decoded, an ill-formed term for each check of WellFormed, results that the
specification states, and for every statement of Certificates/Slice0/Obligations.lean a state and operands that meet its hypotheses.
-/

open Sys2Proof Sys2Proof.Machine Sys2Proof.Says

set_option Elab.async false

namespace Sys2Proof.Tests

/-! ## Small states -/

/-- Blank forms. -/
def lf : LForm :=
  { sub := 0, pneg := false, pred := 0, src2 := .zero, src1 := .zero, src0 := .zero, dst := .zero, fmt := .b32, nw := false, a := false
    imm := none }
def mf : MForm :=
  { off := none, sub := 0, pneg := false, pred := 0, space := .generic, brec := 0xFF, index := .zero, base := .zero, data := .zero
    fmt := .b32, nw := false, a := false }
def bf : BForm := { pneg := false, pred := 0, offset := 0, sig16 := 0, u := false }

/-- A context with a handler and a page table that maps 1 GiB onto itself. -/
def ctx : Context := { Context.blank 0 (BitVec.ofNat 64 placedTables) with trapBase := 0x8000 }

/-- A warp whose vector registers all hold `x` in every lane under one tag. -/
def warp (tag : Fmt) (x : W32 := 0) : Warp :=
  { Warp.launch 0 0 (BitVec.ofNat 64 placedCode) with v := Vector.replicate 256 { lanes := mkLanes fun _ => x, tag := tag } }

/-- A warp with a vector register replaced. -/
def setV (w : Warp) (n : Nat) (tag : Fmt) (x : Fin 64 → W32) : Warp :=
  { w with v := w.v.setIfInBounds n { lanes := mkLanes x, tag := tag } }

/-- A group of one warp, with a kernel descriptor, and of a Leek thread. -/
def grp (w : Warp) (d : KDesc := KDesc.plain) : Group := Group.blank 0 d [w]
def leek : Leek :=
  { index := 0, pc := BitVec.ofNat 64 placedCode, g := Vector.replicate 32 0, k := 0
    tiles := Vector.replicate 8 { data := [], tag := .b32 }, la := Vector.replicate 2 { data := [], tag := .b32 }
    queue := [], wait := .ready, halted := false, fetched := [], bad := [], ended := none }
def leekGrp (l : Leek) (d : KDesc := KDesc.plain) : Group := { grp (warp .b32) { d with leek := true } with leek := some l }

/-- The machine in which an agent of a group is the issuing one. -/
def machine (c : Context) (g : Group) (a : AgentId := .warp 0 0) : State :=
  { State.reset with cur := some a, mem := placedMem [] [], parts := [Partition.blank 0 0], ctxs := [c], groups := [g] }

/-- The machine about to run a warp, or a Leek thread. -/
def run (w : Warp) (c : Context := ctx) : State := machine c (grp w)
def runLeek (l : Leek) (c : Context := ctx) : State := machine c (leekGrp l) (.leek 0)

/-- Decides that bytes decode to an instruction with some bytes left. -/
def decodesTo (bs : List Byte) (i : Instr) (rest : List Byte := []) : Bool :=
  match decode bs with
  | .ok (j, r) => j == i && r == rest
  | .error _ => false

/-! ## Witnesses

A warp witness says that a machine's issuing agent is a warp that meets `WarpIssues` for a shape, and with it a condition. -/

/-- Decides whether the issuing warp of a machine meets `WarpIssues` and a condition. -/
def warpAt (s : State) (sh : Shape) (p : Context → Group → Warp → Bool) : Bool :=
  match s.issuer with
  | some (.warp c g w) => w.spec.isNone && sh.legal false g.desc.vcount g.desc.scount && sh.modeOk w.trapMode c.system
      && !w.sigBad (issueOf sh w) && p c g w
  | _ => false

/-- Decides the same of a Leek thread. -/
def leekAt (s : State) (sh : Shape) (p : Context → Group → Leek → Bool) : Bool :=
  match s.issuer with
  | some (.leek c g l) => sh.legal true g.desc.vcount g.desc.scount && (!sh.drains || l.queue.isEmpty) && p c g l
  | _ => false

theorem warpAt_issues {s : State} {sh : Shape} {p : Context → Group → Warp → Bool} (h : warpAt s sh p = true) :
    ∃ c g w, WarpIssues s c g w sh ∧ p c g w = true := by
  unfold warpAt at h
  split at h
  · next c g w hi =>
    simp only [Bool.and_eq_true, Option.isNone_iff_eq_none, Bool.not_eq_true'] at h
    obtain ⟨⟨⟨⟨h1, h2⟩, h3⟩, h4⟩, h5⟩ := h
    exact ⟨c, g, w, ⟨hi, h1, h2, h3, h4⟩, h5⟩
  · cases h

theorem leekAt_issues {s : State} {sh : Shape} {p : Context → Group → Leek → Bool} (h : leekAt s sh p = true) :
    ∃ c g l, LeekIssues s c g l sh ∧ p c g l = true := by
  unfold leekAt at h
  split at h
  · next c g l hi =>
    simp only [Bool.and_eq_true, Bool.or_eq_true, Bool.not_eq_true', List.isEmpty_iff] at h
    obtain ⟨⟨h1, h2⟩, h3⟩ := h
    exact ⟨c, g, l, ⟨hi, h1, fun hd => h2.resolve_left (by simp [hd])⟩, h3⟩
  · cases h

/-- Any condition. -/
def always {α β γ : Type} : α → β → γ → Bool := fun _ _ _ => true

/-! ## Words

Every instruction's word, put together from the encoding tables (R35, R36, R39 to R43, R50, R56), decodes to it and is its encoding.
A doubleword stands for bytes in ascending order, the third word after it. -/

/-- Decides that a doubleword and a third word decode to an instruction, and that this is its encoding. -/
def isWord (x : W64 × Option W32 × Instr) : Bool :=
  let bs := bytesOfDword x.1 ++ match x.2.1 with
    | some i => bytesOfWord i
    | none => []
  decodesTo bs x.2.2 && encodeBytes x.2.2 == bs

/-- The same for a four-byte word. -/
def isShort (x : W32 × Instr) : Bool := decodesTo (bytesOfWord x.1) x.2 && encodeBytes x.2 == bytesOfWord x.1

/-- Control. -/
theorem test_words_control : ([
    (0x00FFBFEFFBFE0001, none, .nop lf),
    (0x02FFFFF85A3C0405, none, .bra { bf with offset := -8, sig16 := 0x5A3C, pred := 2, u := true }),
    (0x03FFBFE41BFE0009, none, .brx { lf with src0 := .s 6, pred := 3 }),
    (0x000006F00000000D, none, .call { bf with offset := 1776 }),
    (0x0FFFBFE4FBFE0011, none, .callx { lf with src0 := .s 62, pred := 7, pneg := true }),
    (0x0000000000010015, none, .ret { bf with sig16 := 0x1 }),
    (0x0000000500000019, none, .mark { bf with offset := 5 }),
    (0x000000000000001D, none, .join bf),
    (0x0900000000000021, none, .exit { bf with pred := 1, pneg := true }),
    (0x00000000FFFF0025, none, .blkend { bf with sig16 := 0xFFFF }),
    (0x00FFBFEFF93E0029, none, .getx { lf with dst := .s 62 }),
    (0x00FFBFEFFBFE002E, some 0x7, .brk { lf with imm := some 0x7 }),
    (0x00FFBFEFFBFE0032, some 0x10, .spin { lf with imm := some 0x10 }),
    (0x00FFBFEFFFFE0036, some 0x64, .sleep { lf with src0 := .imm, imm := some 0x64 }),
    (0x00FFBFEC1FFE0039, none, .setx { lf with src0 := .k 7 })
    ] : List (W64 × Option W32 × Instr)).all isWord = true := by decide +kernel

/-- Cross-lane. -/
theorem test_words_cross_lane : ([
    (0x30FFBFF00C023042, some 0x5, .shfl { lf with dst := .v 2, src0 := .v 3, src1 := .imm, fmt := .f32, sub := 3, imm := some 0x5 }),
    (0x20FFBFEC0F020045, none, .vote { lf with dst := .k 2, src0 := .k 3, sub := 2 }),
    (0x50FFBFE805021049, none, .redlog { lf with dst := .s 2, src0 := .latch 1, fmt := .s32, sub := 5 }),
    (0xD0FFBFE01002E04D, none, .scanlog { lf with dst := .v 2, src0 := .v 4, fmt := .f64, sub := 13 }),
    (0x00FFBFE014022051, none, .matchLanes { lf with dst := .v 2, src0 := .v 5, fmt := .n32 })
    ] : List (W64 × Option W32 × Instr)).all isWord = true := by decide +kernel

/-- Integer. -/
theorem test_words_integer : ([
    (0x10FFBFF808021082, some 0xFFFFFFFF, .add { lf with dst := .v 2, src0 := .latch 2, src1 := .imm, fmt := .s32, sub := 1, imm := some 0xFFFFFFFF }),
    (0x00FFBFF808029086, some 0xFFFFFFFF, .sub { lf with dst := .v 2, src0 := .latch 2, src1 := .imm, fmt := .n8x4, imm := some 0xFFFFFFFF }),
    (0x00C140400C022089, none, .addc { lf with dst := .v 2, src0 := .v 3, src1 := .v 4, src2 := .k 5, fmt := .n32 }),
    (0x00FFBFF80802C08E, some 0xFFFFFFFF, .mul { lf with dst := .v 2, src0 := .latch 2, src1 := .imm, fmt := .s64, imm := some 0xFFFFFFFF }),
    (0x00FFBFF808022092, some 0xFFFFFFFF, .mulh { lf with dst := .v 2, src0 := .latch 2, src1 := .imm, fmt := .n32, imm := some 0xFFFFFFFF }),
    (0x0080D0601002A095, none, .mad { lf with dst := .v 2, src0 := .v 4, src1 := .s 6, src2 := .latch 3, fmt := .s16x2 }),
    (0x0080D0601002D099, none, .madw { lf with dst := .v 2, src0 := .v 4, src1 := .s 6, src2 := .latch 3, fmt := .n64 }),
    (0x00FFBFF80802209E, some 0xFFFFFFFF, .min { lf with dst := .v 2, src0 := .latch 2, src1 := .imm, fmt := .n32, imm := some 0xFFFFFFFF }),
    (0x00FFBFF8080210A2, some 0xFFFFFFFF, .max { lf with dst := .v 2, src0 := .latch 2, src1 := .imm, fmt := .s32, imm := some 0xFFFFFFFF }),
    (0x10FFBFE3F0FE10A5, none, .abs { lf with dst := .v 254, src0 := .v 252, fmt := .s32, sub := 1 }),
    (0x00FFBFE3F0FE80A9, none, .neg { lf with dst := .v 254, src0 := .v 252, fmt := .s8x4 }),
    (0x00FFBFF8080200AE, some 0xFFFFFFFF, .and { lf with dst := .v 2, src0 := .latch 2, src1 := .imm, imm := some 0xFFFFFFFF }),
    (0x00FFBFF80802F0B2, some 0xFFFFFFFF, .or { lf with dst := .v 2, src0 := .latch 2, src1 := .imm, fmt := .q64, imm := some 0xFFFFFFFF }),
    (0x00FFBFF8080230B6, some 0xFFFFFFFF, .xor { lf with dst := .v 2, src0 := .latch 2, src1 := .imm, fmt := .f32, imm := some 0xFFFFFFFF }),
    (0x00FFBFE3F0FE00B9, none, .not { lf with dst := .v 254, src0 := .v 252 }),
    (0x00FFBFF8080200BE, some 0xFFFFFFFF, .andn { lf with dst := .v 2, src0 := .latch 2, src1 := .imm, imm := some 0xFFFFFFFF }),
    (0x00FFBFF8080200C2, some 0xFFFFFFFF, .shl { lf with dst := .v 2, src0 := .latch 2, src1 := .imm, imm := some 0xFFFFFFFF }),
    (0x00FFBFF80802D0C6, some 0xFFFFFFFF, .shr { lf with dst := .v 2, src0 := .latch 2, src1 := .imm, fmt := .n64, imm := some 0xFFFFFFFF }),
    (0x00FFBFF8080210CA, some 0xFFFFFFFF, .sar { lf with dst := .v 2, src0 := .latch 2, src1 := .imm, fmt := .s32, imm := some 0xFFFFFFFF }),
    (0x00FFBFF8080200CE, some 0xFFFFFFFF, .rot { lf with dst := .v 2, src0 := .latch 2, src1 := .imm, imm := some 0xFFFFFFFF }),
    (0x00FFBFF8080210D2, some 0xFFFFFFFF, .bfx { lf with dst := .v 2, src0 := .latch 2, src1 := .imm, fmt := .s32, imm := some 0xFFFFFFFF }),
    (0x0080D060100200D5, none, .bfi { lf with dst := .v 2, src0 := .v 4, src1 := .s 6, src2 := .latch 3 }),
    (0x00FFBFE3F0FE20D9, none, .clz { lf with dst := .v 254, src0 := .v 252, fmt := .n32 }),
    (0x00FFBFE3F0FE00DD, none, .ffs { lf with dst := .v 254, src0 := .v 252 }),
    (0x00FFBFE3F0FE00E1, none, .popc { lf with dst := .v 254, src0 := .v 252 }),
    (0x00FFBFE3F0FEB0E5, none, .brev { lf with dst := .v 254, src0 := .v 252, fmt := .n16x2 }),
    (0x0080D060100200E9, none, .bytep { lf with dst := .v 2, src0 := .v 4, src1 := .s 6, src2 := .latch 3 })
    ] : List (W64 × Option W32 × Instr)).all isWord = true := by decide +kernel

/-- Compares and moves. -/
theorem test_words_compares_moves : ([
    (0x50FF90300B0110ED, none, .cmp { lf with dst := .k 1, src0 := .v 2, src1 := .s 3, fmt := .s32, sub := 5 }),
    (0x00C180400C0230F1, none, .sel { lf with dst := .v 2, src0 := .v 3, src1 := .v 4, src2 := .k 6, fmt := .f32 }),
    (0x00FFBFEC4C02D0F5, none, .mov { lf with dst := .v 2, src0 := .qm 3, fmt := .n64 }),
    (0x00FFBFEFF90230FA, some 0x3F800000, .movi { lf with dst := .s 2, fmt := .f32, imm := some 0x3F800000 }),
    (0x30FF80641002D0FD, none, .lea { lf with dst := .v 2, src0 := .s 4, src1 := .v 6, fmt := .n64, sub := 3 }),
    (0x60FFB03C0B010105, none, .plog { lf with dst := .k 1, src0 := .k 2, src1 := .k 3, sub := 6 }),
    (0x00FFBFEFF802D10A, some 0x20, .movs { lf with dst := .v 2, fmt := .n64, imm := some 0x20 })
    ] : List (W64 × Option W32 × Instr)).all isWord = true := by decide +kernel

/-- Floating. -/
theorem test_words_floating : ([
    (0x10FF806010023541, none, .fadd { lf with dst := .v 2, src0 := .v 4, src1 := .v 6, fmt := .f32, sub := 1, a := true }),
    (0x20FF80601002E145, none, .fsub { lf with dst := .v 2, src0 := .v 4, src1 := .v 6, fmt := .f64, sub := 2 }),
    (0x00FF806010024949, none, .fmul { lf with dst := .v 2, src0 := .v 4, src1 := .v 6, fmt := .f16x2, nw := true }),
    (0x3B4100C02C0A314D, none, .fma { lf with dst := .v 10, src0 := .v 11, src1 := .v 12, src2 := .s 4, fmt := .f32, sub := 3, pred := 3, pneg := true }),
    (0x00FF806010023151, none, .fmin { lf with dst := .v 2, src0 := .v 4, src1 := .v 6, fmt := .f32 }),
    (0x00FF806010025155, none, .fmax { lf with dst := .v 2, src0 := .v 4, src1 := .v 6, fmt := .bf16x2 }),
    (0x20FF806010023159, none, .fsgn { lf with dst := .v 2, src0 := .v 4, src1 := .v 6, fmt := .f32, sub := 2 }),
    (0x70FF80300B01315D, none, .fcmp { lf with dst := .k 1, src0 := .v 2, src1 := .v 3, fmt := .f32, sub := 7 }),
    (0x00FFBFE010023161, none, .fclass { lf with dst := .v 2, src0 := .v 4, fmt := .f32 }),
    (0x00FFBFE010023165, none, .rcp { lf with dst := .v 2, src0 := .v 4, fmt := .f32 }),
    (0x00FFBFE01002E169, none, .rsq { lf with dst := .v 2, src0 := .v 4, fmt := .f64 }),
    (0x30FFBFE01002316D, none, .sqrt { lf with dst := .v 2, src0 := .v 4, fmt := .f32, sub := 3 }),
    (0x00FFBFE010023171, none, .exp2 { lf with dst := .v 2, src0 := .v 4, fmt := .f32 }),
    (0x00FFBFE010024175, none, .log2 { lf with dst := .v 2, src0 := .v 4, fmt := .f16x2 }),
    (0x00FFBFE010023179, none, .sin { lf with dst := .v 2, src0 := .v 4, fmt := .f32 }),
    (0x00FFBFE01002517D, none, .cos { lf with dst := .v 2, src0 := .v 4, fmt := .bf16x2 }),
    (0x40FFE01010086182, some 0x3, .cvt { lf with dst := .v 8, src0 := .v 4, src1 := .latch 1, src2 := .imm, fmt := .e4m3x4, sub := 4, imm := some 0x3 }),
    (0x00FFC05010087186, some 0x40, .quant { lf with dst := .v 8, src0 := .v 4, src1 := .v 5, src2 := .imm, fmt := .e5m2x4, imm := some 0x40 }),
    (0x00FF806010023189, none, .scaleb { lf with dst := .v 2, src0 := .v 4, src1 := .v 6, fmt := .f32 }),
    (0x20FFBFE01002318D, none, .frnd { lf with dst := .v 2, src0 := .v 4, fmt := .f32, sub := 2 })
    ] : List (W64 × Option W32 × Instr)).all isWord = true := by decide +kernel

/-- Tags and modular. -/
theorem test_words_tags_modular : ([
    (0x00FFBFE010025191, none, .endorse { lf with dst := .v 2, src0 := .v 4, fmt := .bf16x2 }),
    (0x00FFBFF010020196, some 0xF, .tagset { lf with dst := .v 2, src0 := .v 4, src1 := .imm, imm := some 0xF }),
    (0x00FFBFE800022199, none, .tagget { lf with dst := .v 2, src0 := .latch 0, fmt := .n32 }),
    (0x00FFBFEFF802D19D, none, .rand { lf with dst := .v 2, fmt := .n64 }),
    (0x30FF80400B13D201, none, .qset { lf with dst := .qm 3, src0 := .v 2, src1 := .v 4, fmt := .n64, sub := 3 }),
    (0x00FF80601002F205, none, .qmul { lf with dst := .v 2, src0 := .v 4, src1 := .v 6, fmt := .q64 }),
    (0x100200601002F209, none, .qmac { lf with dst := .v 2, src0 := .v 4, src1 := .v 6, src2 := .v 8, fmt := .q64, sub := 1 }),
    (0x00FF80601002F20D, none, .qadd { lf with dst := .v 2, src0 := .v 4, src1 := .v 6, fmt := .q64 }),
    (0x00FF80601002F211, none, .qsub { lf with dst := .v 2, src0 := .v 4, src1 := .v 6, fmt := .q64 }),
    (0x00FFBFE01002F215, none, .qneg { lf with dst := .v 2, src0 := .v 4, fmt := .q64 }),
    (0x00FFBFE01002D219, none, .qred { lf with dst := .v 2, src0 := .v 4, fmt := .n64 }),
    (0x00FF80601002F21D, none, .qbfct { lf with dst := .v 2, src0 := .v 4, src1 := .v 6, fmt := .q64 }),
    (0x00FF80601002F221, none, .qbfgs { lf with dst := .v 2, src0 := .v 4, src1 := .v 6, fmt := .q64 }),
    (0x000200601002F225, none, .qshoup { lf with dst := .v 2, src0 := .v 4, src1 := .v 6, src2 := .v 8, fmt := .q64 }),
    (0x60FFBFE01002F229, none, .nperm { lf with dst := .v 2, src0 := .v 4, fmt := .q64, sub := 6 }),
    (0x00FF90501002322D, none, .lbrev { lf with dst := .v 2, src0 := .v 4, src1 := .s 5, fmt := .f32 })
    ] : List (W64 × Option W32 × Instr)).all isWord = true := by decide +kernel

/-- Memory. -/
theorem test_words_memory : ([
    (0x00FFC0641002CA41, none, .ld { mf with data := .v 2, base := .s 4, index := .v 6, fmt := .s64, nw := true, space := .remote }),
    (0x003FFFE010022246, some 0xFFFFFFF8, .st { mf with data := .v 2, base := .v 4, fmt := .n32, off := some 0xFFFFFFF8 }),
    (0x007FC06410026249, none, .lds { mf with data := .v 2, base := .s 4, index := .v 6, fmt := .e4m3x4, space := .scratch }),
    (0x017FC0641002024D, none, .sts { mf with data := .v 2, base := .s 4, index := .v 6, pred := 1, space := .scratch }),
    (0x0000002418045651, none, .ldb { mf with data := .v 4, base := .s 6, index := .v 2, fmt := .bf16x2, a := true, brec := 0 }),
    (0x003F802418043255, none, .stb { mf with data := .v 4, base := .s 6, index := .v 2, fmt := .f32, brec := 254 }),
    (0x003FFFE41102D259, none, .ldu { mf with data := .s 2, base := .s 4, fmt := .n64 }),
    (0x007FD0541103025D, none, .stu { mf with data := .s 3, base := .s 4, index := .s 5, space := .scratch }),
    (0x013FC06408045261, none, .atom { mf with data := .v 4, base := .s 2, index := .v 6, fmt := .bf16x2, pred := 1 }),
    (0x10FFFFE408081265, none, .vatom { mf with data := .v 8, base := .s 2, fmt := .s32, sub := 1, space := .remote }),
    (0x103FD0A41108026D, none, .acopy { mf with data := .s 8, base := .s 4, index := .s 10, sub := 1 }),
    (0x003FD06413FE0271, none, .publish { mf with base := .s 4, index := .s 6 }),
    (0x003FD06411080275, none, .winset { mf with data := .s 8, base := .s 4, index := .s 6 }),
    (0x003FFFE013FE0279, none, .pref { mf with base := .v 4 }),
    (0x003FD06413FE027D, none, .own { mf with base := .s 4, index := .s 6 }),
    (0x003FFFEFF9030281, none, .waitr { mf with data := .s 3 }),
    (0x203FFFEFF9030285, none, .bankset { mf with data := .s 3, sub := 2 }),
    (0x007FD04FF8030289, none, .fpush { mf with data := .v 3, index := .s 4, space := .scratch }),
    (0x007FD04FF804E28D, none, .fpop { mf with data := .v 4, index := .s 4, fmt := .f64, space := .scratch }),
    (0x003FFFEFFBFE0291, none, .isync mf)
    ] : List (W64 × Option W32 × Instr)).all isWord = true := by decide +kernel

/-- Barriers, pods and events. -/
theorem test_words_barriers : ([
    (0x00FFBFEFFBFE0302, some 0x17, .bararr { lf with imm := some 0x17 }),
    (0x00FFBFE40FFE0305, none, .barwait { lf with src0 := .s 3 }),
    (0x10FFBFEFFBFE030A, some 0x3, .barsync { lf with sub := 1, imm := some 0x3 }),
    (0x00FF904FFB01030E, some 0x2, .barwaitt { lf with dst := .k 1, src1 := .s 4, imm := some 0x2 }),
    (0x00FF90340BFE0311, none, .barexp { lf with src0 := .s 2, src1 := .s 3 }),
    (0x00FFBFEFF9020316, some 0x70F, .barstat { lf with dst := .s 2, imm := some 0x70F }),
    (0x10FFBFF04307031A, some 0x100, .emit { lf with dst := .k 7, src0 := .v 16, src1 := .imm, sub := 1, imm := some 0x100 }),
    (0x00FF906413FE031D, none, .joindec { lf with src0 := .s 4, src1 := .s 6 }),
    (0x00FFBFEFF9040321, none, .evpop { lf with dst := .s 4 }),
    (0x00FFBFEFFFFE0326, some 0x40, .evwait { lf with src0 := .imm, imm := some 0x40 }),
    (0x00FFBFEFF9020329, none, .clock { lf with dst := .s 2 }),
    (0x00FFBFE40D02032D, none, .qstat { lf with dst := .s 2, src0 := .s 3 })
    ] : List (W64 × Option W32 × Instr)).all isWord = true := by decide +kernel

/-- Matrix unit. -/
theorem test_words_matrix_unit : ([
    (0x00FFBFFD0B378342, some 0x80, .tld { lf with dst := .t 7, src0 := .g 2, src1 := .imm, fmt := .s8x4, imm := some 0x80 }),
    (0x10D0F42D07FE0345, none, .agath { lf with src0 := .g 1, src1 := .g 2, src2 := .g 3, sub := 1 }),
    (0x30FFBFECDF2F7349, none, .mma { lf with dst := .ac 15, src0 := .t 7, fmt := .e5m2x4, sub := 3 }),
    (0x00FFF43CCB21634E, some 0x9, .mmas { lf with dst := .ac 1, src0 := .t 2, src1 := .g 3, src2 := .imm, fmt := .e4m3x4, imm := some 0x9 }),
    (0x00FFBFEFFB230351, none, .acz { lf with dst := .ac 3 }),
    (0x00D1B45C93FE5355, none, .acdrn { lf with src0 := .ac 4, src1 := .g 5, src2 := .g 6, fmt := .bf16x2 }),
    (0x00FFBFEFFB250359, none, .acrel { lf with dst := .ac 5 }),
    (0x00FFBFEC9B5F035D, none, .acstat { lf with dst := .g 31, src0 := .ac 6 }),
    (0x00FFBFEFFBFE0361, none, .mmwait lf),
    (0x07FFBFEFFBFE0365, none, .lkexit { lf with pred := 7 })
    ] : List (W64 × Option W32 × Instr)).all isWord = true := by decide +kernel

/-- System. -/
theorem test_words_system : ([
    (0x00FFBFEFFBFE0382, some 0xDEADBEEF, .trap { lf with imm := some 0xDEADBEEF }),
    (0x00FFBFEFFBFE0385, none, .tret lf),
    (0x00FFBFE40BFE038A, some 0xF, .movsr { lf with src0 := .s 2, imm := some 0xF }),
    (0x00FFBFEFFFFE038E, some 0xAAA, .ovfld { lf with src0 := .imm, imm := some 0xAAA }),
    (0x00FFBFE427FE0391, none, .railset { lf with src0 := .s 9 }),
    (0x00FFBFEFFFFE0396, some 0xFFFF, .sigseed { lf with src0 := .imm, imm := some 0xFFFF }),
    (0x10FFBFEFFBFE0399, none, .tlbinv { lf with sub := 1 }),
    (0x00FF90440BFE039D, none, .wdset { lf with src0 := .s 2, src1 := .s 4 }),
    (0x00FFBFEFFD0203A2, some 0x7, .perfrd { lf with dst := .s 2, src0 := .imm, imm := some 0x7 }),
    (0x00FFBFEFFBFE03A6, some 0x1, .halt { lf with imm := some 0x1 })
    ] : List (W64 × Option W32 × Instr)).all isWord = true := by decide +kernel

/-- Short forms, the prefix, and an unassigned opcode. -/
theorem test_words_short : ([
    (0x00000000, .nopShort),
    (0x00040404, .braShort 16 false 1),
    (0xFFFFC018, .markShort (-1)),
    (0x0000001C, .joinShort),
    (0x00002820, .exitShort true 2),
    (0xF8040C80, .addShort (-2) 1 3),
    (0x03FBFCF4, .movShort 254 255),
    (0x000029FF, .rep { stride := 2, step := 9, count := 63 }),
    (0x000003FC, .unassignedOp 0x3FC)
    ] : List (W32 × Instr)).all isShort = true := by decide +kernel

/-- Whether an agent waits for a page that CTX_FAULTFAIL has refused. -/
def isRefused : Wait → Bool
  | .refused _ _ _ _ => true
  | _ => false

/-- Decides the premises of the step's first clause: the move is a slice's; and a condition on what its warp fetches. -/
def stepsWarpTo (s : State) (p : State → Context → Warp → Fetched → Bool) : Bool :=
  match s.nextMove with
  | some (.slice m k, rest) =>
    match State.pickWarp { s with schedule := rest, cur := none } m k with
    | some (g, w) =>
      let u : State := { State.noteIssue { s with schedule := rest, cur := none } m k g.uid w.id with cur := some (.warp g.uid w.id) }
      match u.issuer with
      | some (.warp c _ w') => !isRefused w'.wait && p u c w' (u.fetchInstr c w'.fetched w'.holds w'.pc.toNat)
      | _ => false
    | none => false
  | _ => false

/-- Conditions on what is fetched: an instruction, an address in a page that is away, or one in a page without X. -/
def fetchedIs (i : Instr) : Fetched → Bool
  | .ok bs _ _ => decodesTo bs i
  | _ => false
def fetchedAway (va : Nat) : Fetched → Bool
  | .absent a => a == va
  | _ => false
def fetchedPerm (va : Nat) : Fetched → Bool
  | .perm a => a == va
  | _ => false

def stepsWarp (s : State) (i : Instr) : Bool := stepsWarpTo s fun _ _ _ => fetchedIs i

/-- Decides the premises of its second clause, and a condition on what the Leek thread fetches. -/
def stepsLeekTo (s : State) (p : Fetched → Bool) : Bool :=
  match s.nextMove with
  | some (.leekCore m, rest) =>
    match State.pickLeek { s with schedule := rest, cur := none } m with
    | some (g, l) =>
      let u : State := { State.mapCluster { s with schedule := rest, cur := none } m fun k => { k with lastLeek := l.index } with
        cur := some (.leek g.uid) }
      match u.issuer with
      | some (.leek c _ l') => !isRefused l'.wait && p (u.fetchInstr c l'.fetched l'.wait.holds l'.pc.toNat)
      | _ => false
    | none => false
  | _ => false

def stepsLeek (s : State) (i : Instr) : Bool := stepsLeekTo s (fetchedIs i)

/-- A warp, or a Leek thread, about to fetch at an address of some memory. -/
def fetching (pc : W64) (bs : List Byte) (w : Warp := warp .b32) : State :=
  { run { w with pc := pc } with schedule := [.slice 0 0], cur := none, mem := Memory.write (placedMem [] []) pc.toNat bs }
def leekFetching (pc : W64) (bs : List Byte) : State :=
  { runLeek { leek with pc := pc } with schedule := [.leekCore 0], mem := Memory.write (placedMem [] []) pc.toNat bs }

/-- The same with the 1 GiB page not executable. -/
def noX (s : State) : State := { s with mem := s.mem.write (placedTables + 0x1000) (toBytesLE 8 0x10D) }

/-- Decides that what a warp fetches is no instruction, or none at which TRET may resume it, and a condition on the rest of its unit. -/
def stepsNowhere (s : State) (bad : Bool) (p : Fetched → Bool) : Bool :=
  stepsWarpTo s fun _ c w x => match x with
    | .ok bs t lines =>
      let v := t.mapWarp 0 0 fun x => { x with fetched := lines }
      p (v.fetchUnit c lines w.holds bs w.pc) && w.spec.isNone && !w.trapMode && c.trapBase != 0 && match decode bs with
        | .ok (j, _) => bad && w.resumeBad (some j)
        | .error _ => w.resumeBad none == bad
    | _ => false

theorem witness_DecodingGivesBackWhatWasEncoded :
    Instr.isEvent .nopShort = false ∧ Instr.wf .nopShort = true ∧
    Instr.isEvent (.unassignedOp 0x3FE) = false ∧ Instr.wf (.unassignedOp 0x3FE) = true ∧ lengthOf 0x3FE ≤ 4 + 8 := by decide +kernel

theorem witness_EachInstructionHasOneEncoding :
    decodesTo [0, 0, 0, 0, 7] .nopShort [7] = true ∧ decodesTo [0xFC, 3, 0, 0] (.unassignedOp 0x3FC) = true ∧
    unassignedWord 0x3FD = true ∧ unassignedWord 0x3FE = true := by decide +kernel

theorem witness_StepRunsTheDecodedInstruction :
    stepsWarp (State.reset.withFetchWord 32 0) .nopShort = true ∧
    stepsLeek { runLeek leek with schedule := [.leekCore 0] } .nopShort = true ∧
    State.nextMove { State.reset with schedule := [.event .ioDieFailure] } = some (.event .ioDieFailure, []) ∧
    Instr.isEvent .ioDieFailure = true ∧
    State.nextMove { State.reset with schedule := [.tick 3] } = some (.tick 3, []) ∧ State.reset.nextMove = none ∧
    (let w : Warp := { warp .b32 with wait := .events, progress := some { kills := (0, 1), errs := [], ovft := 0, stage := .atoms [] [] } }
     let s : State := { run w with schedule := [.warp 0 0], hw := { State.reset.hw with ready := true, stage := 6 } }
     s.up = true ∧ s.nextMove = some (.warp 0 0, []) ∧ s.goesOn (grp w) w = true ∧ w.resumeBad (some .nopShort) = false ∧
       Warp.resumeBad { w with rep := some { iter := 1, masks := none } } (some .nopShort) = true) ∧
    (let refused : Wait := .refused 2 1 0x2000 3
     ((State.pickWarp (run { warp .b32 with wait := refused }) 0 0).any fun x => isRefused x.2.wait) &&
       ((State.pickLeek (runLeek { leek with wait := refused }) 0).any fun x => isRefused x.2.wait)) = true := by
  refine ⟨by decide +kernel, by decide +kernel, by decide +kernel, by decide +kernel, by decide +kernel, by decide, by decide +kernel,
    by decide +kernel⟩

/-- The premises of the clauses about what is not fetched, or does not decode: at the end of the mapped gibibyte, and without X. -/
theorem witness_FetchFaults :
    (let resumed : Warp := { warp .b32 with rep := some { iter := 1, masks := none } }
     let one : List Byte := encodeBytes (.rep { stride := 0, step := 1, count := 1 })
     let noPrefix : List Byte := [3, 0, 0, 0]
     let rest (q : Nat → Fetched → Bool) : Fetched → Bool := q 0x40000000
     stepsWarpTo (fetching 0x40000FFC []) (fun _ _ w => fun x => w.spec.isNone && fetchedAway 0x40000FFC x) &&
     stepsWarpTo (fetching 0x3FFFFFFC [1]) (fun _ _ _ => fetchedAway 0x40000000) &&
     stepsWarpTo (noX (fetching 0x1000 [])) (fun _ c w x => !w.trapMode && c.trapBase != 0 && fetchedPerm 0x1000 x) &&
     stepsWarpTo (fetching 0x40000FFC [] { warp .b32 with spec := some ((warp .b32).checkpoint 15 0) })
       (fun _ _ w x => w.spec.isSome && fetchedAway 0x40000FFC x) &&
     stepsNowhere (fetching 0x3FFFFFFC noPrefix) false (rest fetchedAway) && stepsNowhere (fetching 0x3FFFFFFC one resumed) true (rest fetchedAway) &&
     stepsNowhere (fetching 0x1000 noPrefix) false (fun x => match x with | .ok _ _ _ => true | _ => false) &&
     stepsNowhere (fetching 0x1000 one resumed) true (fun x => match x with | .ok _ _ _ => true | _ => false) &&
     stepsLeekTo (leekFetching 0x40000FFC []) (fetchedAway 0x40000FFC) && stepsLeekTo (noX (leekFetching 0x1000 [])) (fetchedPerm 0x1000) &&
     stepsLeekTo (leekFetching 0x1000 [0x81, 0, 0xFF, 0xFF, 0xFF, 0xFF, 0xFF, 0x5B]) fun x => match x with
       | .ok bs _ _ => (match decode bs with
         | .error _ => true
         | _ => false)
       | _ => false) = true := by decide +kernel

theorem witness_EveryStepKeepsMemoryCanonical : State.reset.Inv ∧ step State.reset = .next State.reset := ⟨⟨rfl, rfl⟩, rfl⟩

/-- ADD.S32 of two vector registers. -/
def addF : LForm := { lf with dst := .v 2, src0 := .v 3, src1 := .v 4, fmt := .s32 }

theorem witness_OperandFaultEntersTheHandler :
    warpAt (run (warp .f32)) (.l .add addF) (fun c g w => !w.trapMode && c.trapBase != 0 &&
      w.operandFault g.desc.apxFrom false (opAdd.os addF) [] [.v 2] == some .tag) = true ∧
    warpAt (machine ctx (grp (warp .s32) { KDesc.plain with apxFrom := 4 })) (.l .add addF) (fun _ g w =>
      w.operandFault g.desc.apxFrom false (opAdd.os addF) [] [.v 2] == some .apxflow) = true ∧
    warpAt (run (warp .s32)) (.l .add { addF with src1 := .latch 0 }) (fun _ g w =>
      w.operandFault g.desc.apxFrom false (opAdd.os { addF with src1 := .latch 0 }) [] [.v 2] == some .latch) = true ∧
    -- a row of each other family, an instruction of two registers, and the short forms
    (let faults (r : LOp × (LForm → Group → Warp → Option Cause)) (f : LForm) (k : Cause) (t : Fmt := .b32) : Bool :=
       warpAt (run (warp t)) (.l r.1 f) fun c g w => !w.trapMode && c.trapBase != 0 && r.2 f g w == some k
     let row (r : Row) : LOp × (LForm → Group → Warp → Option Cause) := (r.op, r.fault)
     let two : LForm := { lf with dst := .v 2, src0 := .v 4, src1 := .v 6 }
     faults (row leaRow) { two with fmt := .n64 } .tag && faults (row taggetRow) { lf with dst := .v 2, src0 := .latch 3, fmt := .n32 } .latch &&
     (floatOps.head?.any fun p => faults (row (floatRow p)) { two with fmt := .f32 } .tag) &&
     faults (row cvtRow) { lf with dst := .v 2, src0 := .latch 0, fmt := .f32 } .latch &&
     (modOps.head?.any fun p => faults (row (modRow p)) { two with fmt := .q64 } .tag) &&
     faults (row redlogRow) { lf with dst := .v 2, src0 := .v 4, fmt := .s32 } .tag &&
     (otherFaults.head?.any fun p => faults p { two with src2 := .k 1, fmt := .n32 } .tag)) = true ∧
    warpAt (run (warp .f32)) (.sr .add 5 3 2) (fun _ g w =>
      w.operandFault g.desc.apxFrom false [Opnd.of (.v 3) .s32] [] [.v 2] == some .tag) = true ∧
    warpAt (machine ctx (grp (warp .f32) { KDesc.plain with apxFrom := 3 })) (.sr .mov 0 3 2) (fun _ g w =>
      w.operandFault g.desc.apxFrom false [Opnd.any (.v 3) .b32] [] [.v 2] == some .apxflow) = true := by
  decide +kernel

/-- Decides the premises of the statement about forbidden instructions for one shape. -/
def forbidden (s : State) (sh : Shape) : Bool :=
  match s.issuer with
  | some (.warp c g w) => w.spec.isNone && !w.trapMode && c.trapBase != 0 &&
      (!sh.legal false g.desc.vcount g.desc.scount || !sh.modeOk false c.system)
  | _ => false

theorem witness_ForbiddenInstructionsAreIllegal :
    Instr.shape (.add addF) = some (.l .add addF) ∧
    forbidden (machine ctx (grp (warp .s32) { KDesc.plain with vcount := 4 })) (.l .add addF) = true ∧
    forbidden (run (warp .s32)) (.l .tret lf) = true ∧
    forbidden (run (warp .s32)) (.l .tld { lf with dst := .t 0, src0 := .s 0, fmt := .f32 }) = true ∧
    forbidden (run (warp .s32)) (.word 0x3FC) = true ∧
    (runLeek leek).issuer = some (.leek ctx (leekGrp leek) leek) := by
  refine ⟨rfl, by decide +kernel, by decide +kernel, by decide +kernel, by decide +kernel, rfl⟩

theorem witness_FaultWithoutHandlerTerminates :
    Warp.trapMode { warp .b32 with tsw := 0x80000000 } = true ∧ (Context.blank 0 0).trapBase = 0 := by decide +kernel

/-- A warp in trap mode. -/
def trapWarp (tsw : W32) : Warp := { warp .b32 with tsw := tsw ||| 0x80000000, tpc := 0x1100 }
def trapF : LForm := { lf with imm := some 5 }

theorem witness_TrapAndHaltActAsTheirRulesSay :
    warpAt (run { warp .b32 with exec := 0 }) (.l .trap trapF) (fun _ _ w => w.eff (.l .trap trapF) == 0) = true ∧
    warpAt (run (warp .b32)) (.l .trap trapF)
      (fun c _ w => w.eff (.l .trap trapF) != 0 && !w.trapMode && c.trapBase != 0) = true ∧
    warpAt (run (trapWarp 0)) (.l .trap trapF) (fun _ _ w => w.eff (.l .trap trapF) != 0 && w.trapMode) = true ∧
    warpAt (run (trapWarp 0)) (.l .halt trapF) always = true := by decide +kernel

theorem witness_TretResumesOrRefusesItsFrame :
    warpAt (run (trapWarp 0x0F0000FF)) (.l .tret lf) (fun _ _ w => bitsOf w.tsw.toNat 24 7 != 0) = true ∧
    warpAt (run (trapWarp 0x10)) (.l .tret lf) (fun _ _ w =>
      bitsOf w.tsw.toNat 24 7 == 0 && bitsOf w.tsw.toNat 8 6 == 0 && bitsOf w.tsw.toNat 14 6 == 0) = true ∧
    warpAt (run (trapWarp 0x4000)) (.l .tret lf) (fun c g w => bitsOf w.tsw.toNat 14 6 == 1 &&
      (envOf (run (trapWarp 0x4000)) c g w (.l .tret lf)).unitAt w.tpc == .other) = true ∧
    ([(0x1000, Unit'.repeat' 2), (0x40000FFC, .absent 0x40000FFC)].all fun x =>
      let s : State := { run { trapWarp 0x4000 with tpc := x.1 } with
        mem := placedMem [] (encodeBytes (.rep { stride := 0, step := 3, count := 2 })) }
      warpAt s (.l .tret lf) fun c g w => (envOf s c g w (.l .tret lf)).unitAt w.tpc == x.2) = true := by decide +kernel

/-- Decides that a row's instruction meets the premises of its completion in a machine; `ok` stands for the row's own condition. -/
def rowAt (r : Row) (f : LForm) (s : State) (ok : Env → Bool := fun _ => true) : Bool :=
  warpAt s (.l r.op f) fun c g w =>
    decide (readable g w f.a (r.os f w) (r.never f) [f.dst]) && ok (envOf s c g w (.l r.op f))

/-- Forms with one to three sources, vector and scalar. -/
def vecForms (t : Fmt) : List LForm :=
  [{ lf with dst := .v 2, src0 := .v 4, fmt := t }, { lf with dst := .v 2, src0 := .v 4, src1 := .v 6, fmt := t },
   { lf with dst := .v 2, src0 := .v 4, src1 := .v 6, src2 := .v 8, fmt := t }]
def scalarForms (t : Fmt) : List LForm :=
  [{ lf with dst := .v 2, src0 := .s 4, fmt := t }, { lf with dst := .v 254, src0 := .s 62, src1 := .s 6, fmt := t },
   { lf with dst := .v 2, src0 := .s 4, src1 := .s 6, src2 := .s 8, fmt := t }]

theorem witness_IntegerInstructionsComplete :
    (intOps.all fun p => [Fmt.b32, .s32, .s8x4, .n64].any fun t =>
      (vecForms t ++ scalarForms t).any fun f => rowAt (intRow p) f (run (warp t))) = true ∧
    rowAt { op := .cmp, os := fun f _ => [Opnd.of f.src0 f.fmt, Opnd.of f.src1 f.fmt], result := fun _ _ _ => (0, 0) }
      { lf with dst := .k 7, src0 := .v 255, src1 := .s 3, fmt := .s32, sub := 5 } (run (warp .s32)) = true := by decide +kernel

theorem witness_LeekRegisterInstructionsComplete :
    (intOps.all fun p => [Fmt.b32, .s32, .n64].any fun t => [{ lf with dst := .g 1, src0 := .g 31, fmt := t },
      { lf with dst := .g 1, src0 := .g 31, src1 := .g 2, fmt := t },
      { lf with dst := .g 1, src0 := .g 31, src1 := .g 2, src2 := .g 0, fmt := t }].any fun f =>
        leekAt (runLeek leek) (.l p.1 f) always) = true ∧
    leekAt (runLeek leek) (.l .mov { lf with dst := .g 1, src0 := .g 2 }) always = true ∧
    leekAt (runLeek leek) (.l .movi { lf with dst := .g 1, fmt := .s64, imm := some 5 }) always = true ∧
    leekAt (runLeek leek) (.l .movs { lf with dst := .g 1, fmt := .n64, imm := some 0x20 }) always = true ∧
    leekAt (runLeek leek) (.l .lea { lf with dst := .g 1, src0 := .g 2, src1 := .g 3, sub := 3, fmt := .n64 }) always = true ∧
    leekAt (runLeek leek) (.l .sel { lf with dst := .g 1, src0 := .g 2, src1 := .g 3, src2 := .k 7 }) always = true ∧
    leekAt (runLeek leek) (.l .cmp { lf with dst := .k 7, src0 := .g 2, src1 := .g 3, fmt := .s32 }) always = true ∧
    leekAt (runLeek leek) (.l .addc { lf with dst := .g 1, src0 := .g 2, src1 := .g 3, src2 := .k 7, fmt := .n32 }) always = true := by
  decide +kernel

theorem witness_MovesAndTagsComplete :
    rowAt movRow { lf with dst := .v 2, src0 := .v 4 } (run (warp .f32)) = true ∧
    rowAt moviRow { lf with dst := .v 2, fmt := .s64, imm := some 5 } (run (warp .f32)) = true ∧
    rowAt movsRow { lf with dst := .v 2, imm := some 0 } (run (warp .f32)) = true ∧
    rowAt leaRow { lf with dst := .v 2, src0 := .s 4, src1 := .v 6, sub := 3, fmt := .n64 } (run (warp .s32))
      (fun e => !e.w.indexTagBad (.v 6)) = true ∧
    rowAt selRow { lf with dst := .v 2, src0 := .v 4, src1 := .v 6, src2 := .k 7, fmt := .f32 } (run (warp .f32)) = true ∧
    rowAt taggetRow { lf with dst := .v 2, src0 := .v 4, fmt := .n32 } (run (warp .q64)) (fun e => (e.w.tagOf (.v 4)).isSome &&
      !e.w.tagBad (taggetOpnd { lf with dst := .v 2, src0 := .v 4, fmt := .n32 })) = true ∧
    rowAt voteRow { lf with dst := .s 62, src0 := .k 7, sub := 3 } (run (warp .b32)) = true ∧
    rowAt tagsetRow { lf with dst := .v 2, src0 := .v 4, src1 := .s 0 } (run { warp .q64 with s := Vector.replicate 64 15 })
      (fun e => tagsetCode { lf with dst := .v 2, src0 := .v 4, src1 := .s 0 } e.w == 15) = true ∧
    warpAt (run (warp .s32)) (.sr .add (-32) 255 254) (fun _ g w =>
      decide (readable g w false [Opnd.of (.v 255) .s32] [] [.v 254])) = true ∧
    warpAt (run (warp .f32)) (.sr .mov 0 255 254) (fun _ g w =>
      decide (readable g w false [Opnd.any (.v 255) .b32] [] [.v 254])) = true := by decide +kernel

theorem witness_FloatingInstructionsComplete :
    (floatOps.all fun p => [Fmt.f32, .f64, .bf16x2].all fun t => (vecForms t).any fun f =>
      rowAt (floatRow p) f (run (warp t 0x3F800000))) = true ∧
    rowAt (floatRow (.fsgn, fun f _ a b _ => ((ffmtOf f.fmt).sgnC f.sub.toNat a b, 0)))
      { lf with dst := .v 2, src0 := .v 4, src1 := .v 6, sub := 2, fmt := .f32 } (run (warp .f32)) = true ∧
    ([(LOp.exp2, TransFn.exp2, 0), (.log2, .log2, 1), (.sin, .sin, 2), (.cos, .cos, 3)].all fun p => (vecForms .f16x2).any fun f =>
      rowAt (transRow p) f (run (warp .f16x2))) = true ∧
    rowAt (floatRow (.fadd, fun f t a b _ => (ffmtOf f.fmt).addC a b (rmOf f) t))
      { lf with dst := .v 2, src0 := .v 4, src1 := .v 6, fmt := .f32, a := true }
      (machine ctx (grp (warp .f32) { KDesc.plain with apxFrom := 2 })) = true := by decide +kernel

/-- A warp whose residues are all `x`, with a modulus and its constant. -/
def modWarp (q m : W64) (x : W32 := 5) : Warp :=
  { warp .q64 x with v := Vector.replicate 256 { lanes := mkLanes fun _ => x, tag := .q64 }
                     qm := Vector.replicate 4 (mkLanes fun _ => q), qb := Vector.replicate 4 (mkLanes fun _ => m) }

/-- Forms of the modular instructions. -/
def modForms : List LForm :=
  (vecForms .q64 ++ [{ lf with dst := .v 2, src0 := .s 4, fmt := .n64 },
    { lf with dst := .v 2, src0 := .v 4, src1 := .v 6, src2 := .s 8, fmt := .q64 }])

theorem witness_ModularInstructionsComplete :
    (modOps.all fun p => modForms.any fun f => rowAt (modRow p) f (run (modWarp (2 ^ 61 + 5) (2 ^ 63 - 20) 0)) fun e =>
      (Mask.lanes e.eff).all fun l => decide (2 ≤ e.qAt f l) && (!e.c.qbadEsc || !(modAt p f e l).2)) = true ∧
    (modOps.all fun p => modForms.any fun f => warpAt (run (modWarp 1 0)) (.l p.1 f) fun c g w =>
      decide (readable g w f.a (p.2.1 f) [] [f.dst]) && !w.trapMode && c.trapBase != 0 &&
        (Mask.lanes (w.eff (.l p.1 f))).any fun l => (envOf (run (modWarp 1 0)) c g w (.l p.1 f)).qAt f l < 2) = true ∧
    (let s := run (modWarp 4 4 0x7FFFFFFF) { ctx with qbadEsc := true }
     let p : LOp × (LForm → List Opnd) × (Nat → Nat → Nat → Nat → Nat → QRes) := (.qmul, qOs, fun q m a b _ => qred128 q m (a * b))
     let f : LForm := { lf with dst := .v 2, src0 := .v 4, src1 := .v 6, fmt := .q64 }
     warpAt s (.l .qmul f) fun c g w => decide (readable g w f.a (qOs f) [] [f.dst]) &&
       (Mask.lanes (w.eff (.l .qmul f))).all fun l => let e := envOf s c g w (.l .qmul f)
         decide (2 ≤ e.qAt f l) && (modAt p f e l).2) = true := by decide +kernel

/-- A warp whose scalars all hold `x`. -/
def scalars (w : Warp) (x : W32) : Warp := { w with s := Vector.replicate 64 x }

theorem witness_CrossLaneInstructionsComplete :
    rowAt shflRow { lf with dst := .v 2, src0 := .v 4, src1 := .s 0, sub := 4, fmt := .f32 } (run (scalars (warp .f32) 6)) (fun e =>
      (e.w.src (Opnd.any (.s 0) .b32) none 0).toNat == 6) = true ∧
    rowAt shflRow { lf with dst := .v 2, src0 := .v 4, src1 := .v 5, fmt := .f32 } (run (warp .f32)) = true ∧
    rowAt redlogRow { lf with dst := .v 2, src0 := .v 4, sub := 8, fmt := .f32 } (run (warp .f32)) = true ∧
    rowAt scanlogRow { lf with dst := .v 2, src0 := .v 4, fmt := .s64 } (run (warp .s64)) = true ∧
    rowAt matchRow { lf with dst := .v 2, src0 := .v 4, fmt := .s32 } (run (warp .s32)) (fun e => !e.w.widthBad (.v 4) false) = true ∧
    rowAt lbrevRow { lf with dst := .v 2, src0 := .v 4, src1 := .s 0, fmt := .q64 } (run (scalars (warp .q64) 64)) (fun e =>
      isPow64 (e.w.uni (.s 0) none .n32).toNat) = true := by decide +kernel

theorem witness_PairedWritesComplete :
    rowAt { op := .addc, os := fun f _ => [Opnd.of f.src0 f.fmt, Opnd.of f.src1 f.fmt], result := fun _ _ _ => (0, 0) }
      { lf with dst := .v 2, src0 := .v 4, src1 := .v 6, src2 := .k 7, fmt := .n32 } (run (warp .n32)) = true ∧
    warpAt (run (warp .b32)) (.l .plog { lf with dst := .k 1, src0 := .k 2, src1 := .k 3, sub := 6 }) always = true ∧
    warpAt (machine ctx (grp (warp .f32) { KDesc.plain with apxFrom := 8 }))
      (.l .endorse { lf with dst := .v 7, src0 := .v 8, fmt := .f32 }) (fun _ g w =>
        w.bad.isEmpty && !w.tagBad (Opnd.of (.v 8) .f32) && decide (7 < g.desc.apxFrom) && !w.latchBad (.v 8)) = true ∧
    rowAt { op := .rand, os := fun _ _ => [], result := fun _ _ _ => (0, 0) } { lf with dst := .v 2, fmt := .n64 }
      (run (warp .b32)) = true ∧
    rowAt { op := .qset, os := fun f _ => [Opnd.of f.src0 .n64, Opnd.of f.src1 .n64], result := fun _ _ _ => (0, 0) }
      { lf with dst := .qm 3, src0 := .s 4, src1 := .s 6, sub := 3, fmt := .n64 }
      (run { warp .n64 with s := (Vector.replicate 64 0).set 4 2 }) (fun e => (Mask.lanes e.eff).all fun l =>
        (e.w.src (Opnd.of (.s 4) .n64) none l).toNat == 2) = true := by decide +kernel

theorem witness_InPlaceInstructionsComplete :
    (butterflies.all fun p =>
      let f : LForm := { lf with dst := .v 2, src0 := .v 4, src1 := .v 6, fmt := .q64 }
      let s := run (modWarp 97 168 0) { ctx with qbadEsc := true }
      warpAt s (.l p.1 f) fun c g w => decide (readable g w f.a (butterflyOs f) [] [f.dst, f.src0]) &&
        (Mask.lanes (w.eff (.l p.1 f))).all fun l =>
          let e := envOf s c g w (.l p.1 f)
          decide (2 ≤ e.qAt f l) && !(butterflyAt p f e l).1.2 && !(butterflyAt p f e l).2.2) = true ∧
    (let f : LForm := { lf with dst := .v 2, src0 := .v 4, sub := 6, fmt := .q64 }
     warpAt (run (warp .q64)) (.l .nperm f) fun _ g w =>
       decide (readable g w f.a [Opnd.of f.dst f.fmt, Opnd.of f.src0 f.fmt] [] [f.dst, f.src0])) = true := by decide +kernel

theorem witness_ConversionsAndClassesComplete :
    rowAt cvtRow { lf with dst := .v 8, src0 := .v 2, src1 := .v 4, src2 := .imm, fmt := .e4m3x4, imm := some 0 } (run (warp .f32))
      (fun e => !e.w.streamTag (cvtTakes false) { lf with dst := .v 8, src0 := .v 2, src1 := .v 4, src2 := .imm, fmt := .e4m3x4
                                                          imm := some 0 }) = true ∧
    rowAt scalebRow { lf with dst := .v 8, src0 := .v 2, src1 := .s 4, fmt := .f64, sub := 3 } (run (warp .f64)) = true ∧
    rowAt fcmpRow { lf with dst := .k 3, src0 := .v 2, src1 := .v 4, fmt := .f16x2, sub := 7 } (run (warp .f16x2)) = true ∧
    rowAt fclassRow { lf with dst := .v 8, src0 := .v 2, fmt := .bf16x2 } (run (warp .bf16x2)) = true ∧
    (let f : LForm := { lf with dst := .v 8, src0 := .v 2, src1 := .v 4, src2 := .imm, fmt := .e5m2x4, imm := some 64 }
     warpAt (run (warp .f16x2)) (.l .quant f) fun _ g w => !w.streamTag quantTakes f &&
       decide (readable g w f.a (streamOs ((w.streamFmt f.src0).getD .f32) f) [] [f.dst])) = true := by decide +kernel

theorem witness_VectorDestinationsReceiveTheirLanes :
    (Warp.commitVec (warp .b32) 254 { eff := 5, sel := 7, kill := 1, vals := fun l => BitVec.ofNat 64 l.val, wide := true, tag := .s64
                                      a := false, nw := false }).isSome = true ∧
    (Warp.commitVec (warp .b32) 255 { eff := 0, sel := 0, kill := 0, vals := fun _ => 0, wide := false, tag := .s32
                                      a := false, nw := true }).isSome = true := by decide +kernel

theorem witness_ErrorsInOperandsKillTheirLanes :
    warpAt (run { warp .s32 with bad := [.v 3 5] }) (.l .add addF) (fun c g w =>
      w.operandFault g.desc.apxFrom addF.a (opAdd.os addF) [] [addF.dst] == none &&
      (w.operandKills (opAdd.os addF) (envOf (run { warp .s32 with bad := [.v 3 5] }) c g w (.l .add addF)).eff).1 == 32) = true ∧
    warpAt (run (warp .s32)) (.l .add addF) (fun c g w =>
      (w.operandKills (opAdd.os addF) (envOf (run (warp .s32)) c g w (.l .add addF)).eff).1 == 0) = true := by decide +kernel

theorem witness_IntegerValuesAreThoseOfTheirRules :
    3 < (elemOf .s8x4).2 ∧ 0 < (elemOf .n64).2 ∧ elemOf .b32 = (32, 1) ∧ elemOf .s32 = (32, 1) ∧
    el .n32 (0 : W64) 0 = 0 ∧ el .s8x4 (0x80000000 : W64) 3 ≠ 0 ∧ Fmt.isSigned .n64 = false := by decide +kernel

theorem witness_RoundingAndSpecialOperandsAreCanonical :
    0xFF < 2 ^ FFmt.e4m3.width ∧ (FFmt.e4m3.decode 0xFE).isNan = false ∧ (FFmt.f32.decode 0xFF800000).isNan = false ∧
    (FFmt.e2m1.decode 15).isNan = false ∧
    (FFmt.f32.decode 0x7F800001).isNan = true ∧ FFmt.f32.decode 0x7F800000 = .inf false ∧ FFmt.f32.decode 0xFF800000 = .inf true ∧
    FFmt.f32.decode 0x80000000 = .fin true 0 (-149) ∧ (FFmt.f32.decode 0x7F800000).isNan = false ∧
    FFmt.f32.decode 0x80000001 = .fin true 1 (-149) ∧ FFmt.f32.decode 0 = .fin false 0 (-149) := by decide +kernel

theorem witness_ModularReductionIsExact : (168 = 2 ^ (2 * bitLen 97) / 97) ∧ 2 ≤ 97 ∧ 97 < 2 ^ 62 := by decide +kernel

/-! ### Control flow -/

/-- A warp whose live lanes disagree about k1, and one with a full join stack. -/
def split : Warp := { warp .b32 with k := (Vector.replicate 8 0).set 1 0xFF }
def full (w : Warp) : Warp := { w with join := List.replicate 32 (.rejoin 0x1200 1) }
def braF : BForm := { bf with pred := 1, offset := -1 }

theorem witness_BranchesGoWhereLanesAgree :
    warpAt (run (warp .b32)) (.b .bra braF) (fun _ _ w => goes w false 1 == some false) = true ∧
    warpAt (run split) (.b .bra braF) (fun _ _ w => goes w false 1 == none && w.join.length < 32) = true ∧
    warpAt (run split) (.b .bra { braF with u := true }) (fun c _ w => goes w false 1 == none && !w.trapMode && c.trapBase != 0) = true ∧
    warpAt (run (full split)) (.b .bra braF) (fun c _ w => goes w false 1 == none && !w.trapMode && c.trapBase != 0 &&
      decide (32 ≤ w.join.length)) = true ∧
    warpAt (run (warp .b32)) (.sb .bra (-1) true 1) (fun _ _ w => goes w true 1 == some true) = true ∧
    leekAt (runLeek leek) (.b .bra braF) always = true ∧ leekAt (runLeek leek) (.sb .bra 5 true 0) always = true := by decide +kernel

theorem witness_TransfersAreUniform :
    warpAt (run (scalars (warp .b32) 0x1200)) (.l .brx { lf with src0 := .s 62 }) (fun _ _ w => goes w false 0 == some true &&
      decide ((w.uni (.s 62) none .n64).toNat % 4 = 0 ∧ w.bad = [])) = true ∧
    warpAt (run (scalars (warp .b32) 0x1201)) (.l .callx { lf with src0 := .s 62 }) (fun c _ w => !w.trapMode && c.trapBase != 0 &&
      goes w false 0 == some true && decide ((w.uni (.s 62) none .n64).toNat % 4 ≠ 0)) = true ∧
    warpAt (run split) (.b .call { bf with pred := 1 }) (fun c _ w => !w.trapMode && c.trapBase != 0 && goes w false 1 == none) = true ∧
    warpAt (run split) (.b .ret { bf with pred := 2 }) (fun _ _ w => goes w false 2 == some false) = true ∧
    leekAt (runLeek leek) (.l .brx { lf with src0 := .g 2 }) (fun _ _ l => l.takes false 0 &&
      decide ((l.src .n64 (.g 2) none).toNat % 4 = 0)) = true ∧
    leekAt (runLeek leek) (.l .callx { lf with src0 := .g 2 }) (fun _ _ l => l.takes false 0) = true ∧
    leekAt (runLeek leek) (.b .call { bf with pred := 7 }) (fun _ _ l => !l.takes false 7) = true ∧
    leekAt (runLeek leek) (.b .ret bf) (fun _ _ l => l.takes false 0 && decide (l.g[(31 : Fin 32)].toNat % 4 = 0)) = true := by
  decide +kernel

theorem witness_JoinStackInstructionsComplete :
    warpAt (run (warp .b32)) (.b .mark { bf with offset := 5 }) (fun _ _ w => w.join.length < 32) = true ∧
    warpAt (run (full (warp .b32))) (.b .mark bf) (fun c _ w => 32 ≤ w.join.length && !w.trapMode && c.trapBase != 0) = true ∧
    warpAt (run (warp .b32)) (.sb .mark (-1) false 0) (fun _ _ w => w.join.length < 32) = true ∧
    warpAt (run (full (warp .b32))) (.b .join bf) (fun _ _ w => !w.join.isEmpty) = true ∧
    warpAt (run (warp .b32)) (.sb .join 0 false 0) (fun c _ w => w.join.isEmpty && !w.trapMode && c.trapBase != 0) = true ∧
    warpAt (run (full split)) (.b .exit { bf with pred := 1 }) (fun _ _ w =>
      (unwind w.dead (w.exec &&& ~~~(takers w false 1)) (w.pc + 8) (w.join.map (JoinEntry.without (takers w false 1)))).2.isSome) = true ∧
    warpAt (run (warp .b32)) (.sb .exit 0 false 0) (fun _ _ w =>
      (unwind w.dead (w.exec &&& ~~~(takers w false 0)) (w.pc + 4) (w.join.map (JoinEntry.without (takers w false 0)))).2 == none) = true := by
  decide +kernel

theorem witness_FillersMasksAndRestsComplete :
    warpAt (run (warp .b32)) (.l .nop lf) always = true ∧ warpAt (run (warp .b32)) (.sb .nop 0 false 0) always = true ∧
    warpAt (run (warp .b32)) (.b .blkend { bf with sig16 := 0xFFFF }) always = true ∧
    leekAt (runLeek leek) (.l .nop lf) always = true ∧ leekAt (runLeek leek) (.sb .nop 0 false 0) always = true ∧
    warpAt (run (warp .b32) { ctx with debug := true }) (.l .brk { lf with imm := some 3 }) always = true ∧
    warpAt (run (warp .b32)) (.l .getx { lf with dst := .k 7 }) always = true ∧
    warpAt (run (warp .b32)) (.l .getx { lf with dst := .s 62 }) always = true ∧
    warpAt (run (warp .b32)) (.l .setx { lf with src0 := .k 7 }) always = true ∧
    warpAt (run (warp .b32)) (.l .setx { lf with src0 := .s 62 }) (fun _ _ w => w.bad.isEmpty) = true ∧
    warpAt (run (warp .b32)) (.l .setx lf) (fun _ _ w => w.bad.isEmpty) = true ∧
    warpAt (run (warp .b32)) (.l .spin { lf with imm := some 16 }) always = true ∧
    warpAt (run { warp .b32 with exec := 0 }) (.l .sleep { lf with src0 := .imm, imm := some 1 }) (fun _ _ w =>
      w.bad.isEmpty && w.eff (.l .sleep { lf with src0 := .imm, imm := some 1 }) == 0) = true ∧
    warpAt (run (warp .b32)) (.l .sleep { lf with src0 := .s 3 }) (fun _ _ w =>
      w.bad.isEmpty && w.eff (.l .sleep { lf with src0 := .s 3 }) != 0 && (w.uni (.s 3) none .n32).toNat % 2 ^ 32 == 0) = true ∧
    warpAt (run (warp .b32)) (.l .sleep { lf with src0 := .imm, imm := some 0xFFFF }) (fun _ _ w =>
      (w.uni .imm (some 0xFFFF) .n32).toNat % 2 ^ 32 != 0) = true ∧
    ((run (warp .b32)).group? 0).isSome = true := by decide +kernel

/-- Decides that a warp's instruction of form B meets `Mismatch`, and a condition on the warp. -/
def wrongSig (w : Warp) (op : BOp) (f : BForm) (p : Warp → Bool) : Bool :=
  match (run w).issuer with
  | some (.warp c g x) => x.spec.isNone && (Shape.b op f).legal false g.desc.vcount g.desc.scount && (Shape.b op f).modeOk false c.system
      && !x.trapMode && f.sig16 != 0 && x.sigw != f.sig16 && p x
  | _ => false

theorem witness_SignaturesAreChecked :
    warpAt (run (warp .b32)) (.b .blkend { bf with sig16 := 0xFFFF }) (fun _ _ w => w.sigw == 0xFFFF) = true ∧
    warpAt (run (warp .b32)) (.b .blkend bf) always = true ∧ warpAt (run (warp .b32)) (.l .nop lf) always = true ∧
    warpAt (run (warp .b32)) (.sb .nop 0 false 0) always = true ∧
    (let f : BForm := { bf with sig16 := 1, offset := -8 }
     wrongSig (warp .b32) .blkend { f with offset := 0 } (fun _ => true) && wrongSig (warp .b32) .bra f (fun w => goes w false 0 == some true) &&
     wrongSig split .bra { f with pred := 2 } (fun w => goes w false 2 == some false) &&
     wrongSig split .bra { f with pred := 1 } (fun w => goes w false 1 == none && w.join.length < 32) &&
     wrongSig (warp .b32) .call f (fun w => goes w false 0 == some true && (w.pc + (f.offset.signExtend 64 <<< 2)).toNat % 4 == 0) &&
     wrongSig (warp .b32) .ret { f with offset := 0 } (fun w => goes w false 0 == some true && (w.spair 14).toNat % 4 == 0 && w.bad.isEmpty) &&
     wrongSig split .call { f with pred := 2 } (fun w => goes w false 2 == some false) &&
     wrongSig (warp .b32) .mark f (fun w => w.join.length < 32) &&
     wrongSig (full (warp .b32)) .join { f with offset := 0 } (fun w => !w.join.isEmpty) &&
     wrongSig (warp .b32) .exit { f with offset := 0, pred := 1 } (fun w =>
       (unwind w.dead (w.exec &&& ~~~(takers w false 1)) (w.pc + 8) (w.join.map (JoinEntry.without (takers w false 1)))).2.isSome) &&
     wrongSig (warp .b32) .exit { f with offset := 0 } (fun w =>
       (unwind w.dead (w.exec &&& ~~~(takers w false 0)) (w.pc + 8) (w.join.map (JoinEntry.without (takers w false 0)))).2 == none))
       = true := by decide +kernel

/-! ### Memory -/

/-- A warp with a scalar pair s4:s5 = `x`, and with one executing lane. -/
def based (w : Warp) (x : W32) : Warp := { w with s := w.s.setIfInBounds 4 x }
def lane63 (w : Warp) : Warp := { w with exec := 0x8000000000000000 }

/-- Decides `reachable`, and the same for stores, which errors do not stop. -/
def reaches (e : Env) (f : MForm) (scale n : Nat) (acc : Access) : Bool :=
  (Mask.lanes e.eff).all fun l => match target e f scale n acc l with
    | .ok p _ _ => acc == .write || !e.s.marked p n
    | .bad _ _ => false

/-- The decided premises of a memory instruction of a warp. -/
def memAt (s : State) (op : MOp) (f : MForm) (data : List Opnd) (dsts : List Reg) (p : Env → Bool) : Bool :=
  warpAt s (.m op f) fun c g w => decide (addressable g w f data dsts) && p (envOf s c g w (.m op f))

/-- A scratch group: one local block of 32 KiB in bank 0, barrier gb15, and a FIFO in block 31. -/
def scratchDesc : KDesc := { KDesc.plain with scrSize := 2 ^ 15, gbMask := 0x8000, leekBar := 0x8000, spec := true }
def scratchGrp (w : Warp) : Group :=
  { grp w scratchDesc with
    scrBase := 0x40000000
    blocks := ((Vector.replicate 32 BlockEntry.none').set 0
      { slot := 0, valid := true, spill := false, apx := false, fifo := false, bank := 0 }).set 31
      { slot := 1, valid := true, spill := false, apx := false, fifo := true, bank := 1 } }

/-- LD.S64 of v2:v3 from [s4:s5]. -/
def ldF : MForm := { mf with data := .v 2, base := .s 4, fmt := .s64 }

theorem witness_LoadsComplete :
    memAt (run (based (warp .b32) 0x2000)) .ld ldF [] [.v 2] (fun e => reaches e ldF 1 8 .read) = true ∧
    memAt (run (based (warp .b32) 0x2000)) .ld { ldF with nw := true } [] [.v 2] (fun e => reaches e ldF 1 8 .read) = true ∧
    (let f : MForm := { ldF with index := .v 9, space := .scratch, fmt := .e4m3x4 }
     memAt (machine ctx (scratchGrp (warp .s32 8191))) .lds f [] [.v 2] fun e => reaches e f 4 4 .read) = true := by decide +kernel

theorem witness_StoresComplete :
    memAt (run (lane63 (based (warp .s64) 0x2000))) .st ldF [Opnd.any (.v 2) .s64] [] (fun e =>
      e.s.mem.wf && reaches e ldF 1 8 .write && (Mask.lanes e.eff == [63])) = true ∧
    (let f : MForm := { ldF with index := .v 9, space := .scratch, fmt := .b32 }
     memAt (machine ctx (scratchGrp (warp .b32 0))) .sts f [Opnd.any (.v 2) .b32] [] fun e =>
       e.s.mem.wf && reaches e f 4 4 .write) = true := by decide +kernel

/-- LDU and STU through s4:s5. -/
def lduF : MForm := { mf with data := .s 62, base := .s 4, fmt := .n64 }
def leekLduF : MForm := { mf with data := .g 31, base := .g 2 }

/-- A Leek thread with its g registers all `x`. -/
def leekG (x : W64) : Leek := { leek with g := Vector.replicate 32 x }

/-- Whether an access is allowed and clean. -/
def clean (s : State) (n : Nat) : Resolved → Bool
  | .ok p _ _ => !s.marked p n
  | .bad _ _ => false

theorem witness_UniformAccessesComplete :
    warpAt (run { warp .b32 with exec := 0 }) (.m .ldu lduF) (fun _ _ w => w.bad.isEmpty && w.eff (.m .ldu lduF) == 0) = true ∧
    (let s := run (based (warp .b32) 0x2000)
     warpAt s (.m .ldu lduF) (fun c g w => w.bad.isEmpty && w.eff (.m .ldu lduF) != 0 &&
       clean s 8 (target (envOf s c g w (.m .ldu lduF)) lduF 1 8 .read 0)) ∧
     warpAt s (.m .stu lduF) (fun c g w => s.mem.wf &&
       clean s 8 (target (envOf s c g w (.m .stu lduF)) lduF 1 8 .write 0))) ∧
    leekAt (runLeek leek) (.m .stu { leekLduF with pred := 7 }) (fun _ _ l => !l.takes false 7) = true ∧
    (let s := runLeek (leekG 0x2000)
     leekAt s (.m .ldu leekLduF) (fun c g l => l.takes false 0 && clean s 4
       (s.resolve (leekEnvOf s c g l).viewer .generic ((leekEnvOf s c g l).ea leekLduF).toNat 4 4 .read false)) ∧
     leekAt s (.m .stu leekLduF) (fun c g l => s.mem.wf && clean s 4
       (s.resolve (leekEnvOf s c g l).viewer .generic ((leekEnvOf s c g l).ea leekLduF).toNat 4 4 .write false))) := by
  decide +kernel

theorem witness_AtomicsComplete :
    (let f : MForm := { mf with data := .v 4, base := .s 4, fmt := .n32, sub := 7 }
     memAt (run (based (warp .n32) 0x2000)) .atom f (atomOs f) [] fun e => reaches e f 1 4 .atomic) = true ∧
    (let f : MForm := { mf with data := .v 8, base := .s 4, fmt := .b32, sub := 5 }
     memAt (run (based (warp .b32) 0x2000)) .vatom f (vatomOs f) [] fun e => reaches e f 1 32 .atomic) = true ∧
    (let f : MForm := { mf with data := .v 4, base := .s 4, fmt := .bf16x2 }
     let a : AtomEvent := { lane := 63, el := 1, place := 0x2002, v := 0x3F80 }
     [{ based (warp .bf16x2) 0x2000 with exec := 0 }, based (warp .bf16x2) 0x2000,
      { based (warp .bf16x2) 0x2000 with progress := some (Says.clean 0x555 1 (.atoms [a] [])), wait := .events }].all fun w =>
       memAt (run w) .atom f (atomOs f) [] fun e => (run w).errorAt a.place 2 == none &&
         (w.progress.isSome || (reaches e f 1 4 .atomic &&
           ((accesses e f 1 4 .atomic).flatMap fun x => atomEvents f.fmt x.1 x.2.2.1 [srcAt w none (atomOs f) 0 x.1]).length ==
             (if w.exec == 0 then 0 else 128)))) = true ∧
    (run (warp .b32)).mem.wf = true := by decide +kernel

/-- A context whose remote map at 0x5000 pairs it with context 0 of owner 0. -/
def remoteCtx : Context := { ctx with remMap := 0x5000 }
def remote (w : Warp) : State :=
  { run w remoteCtx with mem := Memory.write (placedMem [] []) 0x5000 (toBytesLE 8 0x800) }

/-- Decides what the remote statement calls free. -/
def freeAt (e : Env) (f : MForm) (n : Nat) : Bool :=
  (e.checkRemote e.eff (e.ea f 1) n).isNone && (e.fullWindow (mergeLanes (Mask.lanes e.eff) (e.ea f 1))).isNone

/-- A warp that waits for the answer of operation 7, and that operation. -/
def waiting : Warp := lane63 { based (warp .n32) 0x2000 with wait := .remote [7] }
def answered : Outstanding :=
  { tag := 7, agent := .warp 0 0, owner := 0, part := none, lanes := [63], posted := false, tries := 1, sentAt := 0, refusedAt := none
    done := some (.ok, [5], none)
    request := { requester := 0, ctx := 0, gen := 0, rsn := none, watermark := 0xFFFFFFFF, epoch := 0, ownerCtx := 0, va := 0x2000
                 op := .load .n32 false, tag := 7 } }

theorem witness_RemoteAccessesComplete :
    (let f : MForm := { ldF with space := .remote, fmt := .n32 }
     let s := remote (lane63 (based (warp .n32) 0x2000))
     memAt s .st f [Opnd.any f.data f.fmt] [] (fun e => freeAt e f 4) ∧
     memAt s .ld { f with nw := true } [] [f.data] (fun e => freeAt e f 4) ∧
     memAt s .ld f [] [f.data] (fun e => freeAt e f 4 && e.eff != 0 && e.w.wait == .ready) ∧
     memAt s .atom { f with nw := true } (atomOs f) [] (fun e => freeAt e f 4) ∧
     memAt s .atom f (atomOs f) [] (fun e => freeAt e f 4 && e.eff != 0 && e.w.wait == .ready && e.w.progress.isNone) ∧
     memAt (remote { warp .n32 with exec := 0 }) .ld f [] [f.data] (fun e => e.eff == 0 && e.w.wait == .ready && e.w.progress.isNone) ∧
     memAt (remote { warp .n32 with exec := 0 }) .atom f (atomOs f) [] (fun e => e.eff == 0) ∧
     memAt { remote waiting with outRemote := [answered] } .ld f [] [f.data] (fun e => e.w.wait == .remote [7] &&
       (Mask.lanes e.eff).all fun l => (e.s.answerOf [7] l).2.isNone) ∧
     memAt { remote waiting with outRemote := [answered] } .atom f (atomOs f) [] (fun e => e.w.wait == .remote [7])) ∧
    (let f : MForm := { mf with space := .remote, data := .v 8, base := .s 4, fmt := .b32, sub := 5 }
     memAt (remote (lane63 (based (warp .b32) 0x2000))) .vatom f (vatomOs f) [] fun e => freeAt e f 32) = true := by decide +kernel

/-- A group with a buffer record at 0x4000: BASE 0x2000, RAW elements of RFMT B32, EXTENT 2^20. -/
def recorded (w : Warp) : State :=
  { machine ctx (grp w { KDesc.plain with nbrec := 1, brecBase := 0x4000 }) with
    mem := Memory.write (placedMem [] []) 0x4000 (toBytesLE 8 0x2000 ++ toBytesLE 8 (2 ^ 20)) }

/-- An LDB or STB of lane 63 through that record. -/
def recF : MForm := { mf with data := .v 2, base := .s 4, brec := 0 }
def recordBs : List Byte := toBytesLE 8 0x2000 ++ toBytesLE 8 (2 ^ 20) ++ List.replicate 24 0

/-- Decides the premises of the statement about buffer records at issue. -/
def recordAt (f : MForm) (load : Bool) : Bool :=
  let s := recorded (lane63 (warp .b32))
  memAt s (if load then .ldb else .stb) f (if load then [] else [Opnd.any f.data f.fmt]) (if load then [f.data] else []) fun e =>
    decide (f.brec.toNat < e.g.desc.nbrec) && e.eff != 0 && s.poison.isEmpty && e.w.progress.isNone && match e.recordBytes f with
      | .ok (bytes, _) => bytes.length == 40
      | .error _ => false

/-- An LDB or STB between two of its events, and a condition on it. -/
def recordOn (op : MOp) (stage : Stage) (p : Env → Bool) (f : MForm := recF) : Bool :=
  let s := recorded { lane63 (warp .b32) with wait := .events, progress := some (Says.clean 0x555 1 stage) }
  memAt s op f (if op == .ldb then [] else [Opnd.any f.data f.fmt]) (if op == .ldb then [f.data] else []) fun e =>
    s.poison.isEmpty && e.eff != 0 && e.w.progress == some (Says.clean 0x555 1 stage) && p e

/-- Decides that a record that has come passes its checks. -/
def recordPasses (f : MForm) (load : Bool) (e : Env) : Bool :=
  let r := BRec.ofBytes recordBs
  !r.tagBad f.fmt && !r.storeIllegal && r.extent == 2 ^ 20 && match
    reportFault (if load then .read else .write) (e.recChecks f r load (r.elems f.fmt load e.eff (e.ea f 1)) e.eff) with
    | none => true
    | some _ => false

/-- An LDB with one element to read, with the table of its block or without. -/
def reading (tables : List TableRead) : RecLoad :=
  { record := recordBs, tables := tables, bytes := []
    todo := [{ lane := 63, e := 0, index := 0, places := [(0x2000, false), (0x2001, false), (0x2002, false), (0x2003, false)] }], got := [] }

theorem witness_BufferRecordAccessesComplete :
    ([true, false].all fun load => recordAt recF load &&
      let op : MOp := if load then .ldb else .stb
      recordOn op (.record [(0x4027, 0x4027, false)] (recordBs.take 39)) (fun _ => true) &&
      recordOn op (.record [] recordBs) (recordPasses recF load)) = true ∧
    recordOn .ldb (.record [] recordBs) (recordPasses { recF with nw := true } true) { recF with nw := true } = true ∧
    (recordOn .ldb (.load (reading [])) (fun _ => (reading []).nextTable.isNone) &&
     (let x := reading [{ block := 0, lanes := 1, places := [(0x203F, false)] }]
      recordOn .ldb (.load x) fun _ => x.nextTable == some 0x101) &&
     recordOn .ldb (.appends (mkLanes fun _ => (0, 0)) [5] 0x3000) (fun _ => true) &&
     recordOn .stb (.stores [[(0x2000, [1, 2, 3, 4])]] 0 [] 0) (fun _ => true) &&
     recordOn .stb (.stores [] 0 [5] 0x3000) (fun _ => true)) = true := by decide +kernel

theorem witness_HintsAndRemoteWaitsComplete :
    memAt (run (warp .b32)) .pref { mf with base := .s 4 } [] [] (fun _ => true) = true ∧
    memAt (run (warp .b32)) .own { mf with base := .s 4, index := .s 63 } [] [] (fun _ => true) = true ∧
    warpAt (run (warp .b32)) (.m .isync mf) (fun _ _ w => w.eff (.m .isync mf) != 0) = true ∧
    warpAt (run (warp .b32)) (.m .isync { mf with pneg := true }) (fun _ _ w => w.eff (.m .isync { mf with pneg := true }) == 0) = true ∧
    warpAt { run (warp .b32) with outRemote := [answered] } (.m .waitr { mf with data := .s 63 }) (fun _ _ w =>
      w.eff (.m .waitr { mf with data := .s 63 }) != 0 && answered.done.isSome) = true ∧
    warpAt (run { warp .b32 with exec := 0 }) (.m .waitr { mf with data := .s 63 }) (fun _ _ w =>
      w.eff (.m .waitr { mf with data := .s 63 }) == 0) = true := by decide +kernel

/-- Decides `reports`. -/
def reportsB (rs : List (Fin 64 × W64 × Resolved)) (k : AddrFault) (l : Fin 64) (ea : W64) : Bool :=
  rs.any (fun x => x.1 == l && x.2.1 == ea && faultIn x.2.2 == some k) && rs.all fun y => match faultIn y.2.2 with
    | some k' => decide (k.rank < k'.rank ∨ (k' = k ∧ (l < y.1 ∨ (l = y.1 ∧ ea.toNat ≤ y.2.1.toNat))))
    | none => true

theorem reports_of {rs : List (Fin 64 × W64 × Resolved)} {k : AddrFault} {l : Fin 64} {ea : W64} (h : reportsB rs k l ea = true) :
    reports rs k l ea := by
  simp only [reportsB, Bool.and_eq_true, List.any_eq_true, List.all_eq_true, beq_iff_eq] at h
  obtain ⟨⟨x, hx, ⟨h1, h2⟩, h3⟩, hall⟩ := h
  refine ⟨⟨x, hx, h1, h2, h3⟩, fun y hy k' hk => ?_⟩
  have := hall y hy
  rw [hk] at this
  exact of_decide_eq_true this

/-- A machine whose page 0x2000 is approximate, and 0x3000 may only be read. -/
def pageMem : Memory :=
  [(0x1000, 0x2001), (0x2000, 0x3001), (0x3010, 0x203D), (0x3018, 0x3005)].foldl
    (fun m x => m.write (placedTables + x.1) (toBytesLE 8 (x.2 + if x.1 < 0x3000 then placedTables else 0))) (placedMem [] [])

/-- Decides that the lanes' accesses of an instruction report a fault. -/
def faultAt (s : State) (x : LaneAccess) (f : MForm) (k : AddrFault) (l : Fin 64) (ea : W64) : Bool :=
  memAt s x.op f (x.data f) (x.dsts f) fun e => e.w.progress.isNone && !e.w.trapMode && e.c.trapBase != 0 &&
    reportsB (x.checks e f) k l ea

/-- A load or store of a warp whose lanes' indexes are all `x`. -/
def indexed (x : W32) : Warp := lane63 (warp .b32 x)
def ixF : MForm := { mf with data := .v 2, base := .s 4, index := .v 9 }

theorem witness_AddressFaultsStopBeforeAnyAccess :
    (laneAccesses.all fun x => let f : MForm := if x.op == .lds || x.op == .sts then { ixF with space := .scratch }
        else { ixF with data := .v 8, sub := if x.op == .vatom then 5 else 0, fmt := if x.op == .atom then .n32 else .b32 }
      if x.op == .lds || x.op == .sts then faultAt (machine ctx (scratchGrp (indexed 8192))) x f .bounds 63 0x8000
      else faultAt (run { indexed 0x2001 with v := (warp .n32 0x2001).v }) x f .misalign 63 0x2001) = true ∧
    (loadsAndStores.any fun x => x.op == .ld && faultAt (machine ctx { scratchGrp (indexed 0x40007FFC) with scrBase := 0x40000000 }) x
      { ixF with fmt := .s64 } .misalign 63 0x40007FFC) = true ∧
    -- an approximate page, a page without the right, one that is absent, and the order among lanes that meet different kinds
    (let s (x : W32) : State := { run (indexed x) with mem := pageMem }
     (loadsAndStores.any fun x => x.op == .ld && faultAt (s 0x2000) x ixF .apxflow 63 0x2000 && faultAt (s 0x40000000) x ixF .absent 63 0x40000000) &&
     (loadsAndStores.any fun x => x.op == .st && faultAt (s 0x3000) x ixF .perm 63 0x3000 &&
       faultAt { s 0 with groups := [grp (setV { warp .b32 0x3000 with exec := 0xF } 9 .b32 fun l => [0x40000000, 0x2000, 0x3FFC, 0x3000].getD l.val 0)] }
         x ixF .perm 2 0x3FFC)) = true ∧
    (let s := run (lane63 (based (warp .b32) 0x2001))
     [(MOp.ldu, Access.read), (.stu, .write)].all fun p => warpAt s (.m p.1 lduF) fun c g w =>
       let e := envOf s c g w (.m p.1 lduF)
       w.bad.isEmpty && e.eff != 0 && reportsB [(0, e.ea lduF 1 0, target e lduF 1 8 p.2 0)] .misalign 0 0x2001) = true ∧
    ([(0x40000000, AddrFault.absent), (0x2002, .misalign)].all fun x => let s := runLeek (leekG x.1)
      leekAt s (.m .ldu leekLduF) fun c g l => l.takes false 0 &&
        faultIn (s.resolve (leekEnvOf s c g l).viewer .generic ((leekEnvOf s c g l).ea leekLduF).toNat 4 4 .read false) == some x.2) = true ∧
    -- records: none, one on an absent page, one with a codebook stored through, a reserved one, and one whose elements are misplaced
    ([true, false].all fun load =>
      let op : MOp := if load then .ldb else .stb
      let f := recF
      let at' (d : KDesc) (p : Env → Bool) : Bool :=
        memAt (machine ctx (grp (lane63 (warp .b32)) d)) op f (if load then [] else [Opnd.any f.data f.fmt])
          (if load then [f.data] else []) fun e => e.eff != 0 && e.w.progress.isNone && p e
      let rec' (bs : List Byte) (p : Env → BRec → Bool) : Bool :=
        recordOn op (.record [] bs) fun e => !e.w.trapMode && e.c.trapBase != 0 && p e (BRec.ofBytes bs)
      at' KDesc.plain (fun e => decide (e.g.desc.nbrec ≤ f.brec.toNat)) &&
      at' { KDesc.plain with nbrec := 1, brecBase := 0x40000000 } (fun e => reportsB
        ((List.range 40).map fun k => (0, byteAt 0x40000000 k, e.checkByte (byteAt 0x40000000 k) .read f.a)) .absent 0 0x40000000) &&
      rec' (toBytesLE 8 0x2000 ++ toBytesLE 8 (2 ^ 63)) (fun _ r => !r.storeIllegal && r.tagBad f.fmt) &&
      rec' (toBytesLE 8 0x2000 ++ toBytesLE 8 (9 * 2 ^ 40)) (fun _ r => r.storeIllegal) &&
      rec' (toBytesLE 8 0x2001 ++ toBytesLE 8 (2 ^ 20)) (fun e r => !r.storeIllegal && !r.tagBad f.fmt && reportsB
        (e.recChecks f r load (r.elems f.fmt load e.eff (e.ea f 1)) e.eff) .misalign 63 0x2001)) = true ∧
    -- the ring of a partition, with room and full
    (let s (cap : Nat) : State := { run (warp .b32) with
       parts := [{ Partition.blank 0 0 with ring := 0x6000 }], mem := (placedMem [] []).write 0x6000 (toBytesLE 8 cap) }
     [1, 0].all fun cap => ((s cap).part? (partOf 0)).any (fun p => p.ring == 0x6000) && (s cap).mem.wf && (s cap).faultWait.isEmpty &&
       ((s cap).mem.read64 0x6000).toNat == cap && ((s cap).mem.read64 0x6008) - ((s cap).mem.read64 0x6010) == 0) = true := by
  decide +kernel

/-! ### Copies, windows, banks and barriers -/

/-- A copy of 32 bytes between generic addresses. -/
def copyF : MForm := { mf with data := .s 8, base := .s 4, index := .s 10 }
def copyWarp : Warp := { warp .b32 with s := ((Vector.replicate 64 0).set 4 0x2000).set 8 0x3000 |>.set 10 32 |>.set 11 0x10000 }
def copyOf (done : Nat) (ctl : W32) : Copy :=
  { uid := 4, ctx := 0, group := 0, cluster := 0, agent := .warp 0 0, shadow := false, publish := false, scratch := false, src := 0x2000
    dst := 0x3000, count := 32, done := done, written := done, ctl := ctl, status := 0, held := none }

theorem witness_CopiesRunToCompletion :
    warpAt (run { warp .b32 with exec := 0 }) (.m .acopy copyF) (fun _ _ w => w.eff (.m .acopy copyF) == 0) = true ∧
    warpAt (run copyWarp) (.m .acopy copyF) (fun c g w => w.eff (.m .acopy copyF) != 0 && decide (w.bad = [] ∧ copyAllowed (run copyWarp)
      { ctx := c, grp := g } copyF (w.uni (.s 8) none .n64) (w.uni (.s 4) none .n64) 32 0x10000)) = true ∧
    (let l : Leek := { leek with g := ((Vector.replicate 32 0).set 4 0x2000).set 8 0x3000 |>.set 10 0x1000000000020 }
     let f : MForm := { mf with data := .g 8, base := .g 4, index := .g 10 }
     leekAt (runLeek l) (.m .acopy f) fun c g l => l.takes false 0 && decide (copyAllowed (runLeek l) { ctx := c, grp := g } f
       (l.src .n64 (.g 8) none) (l.src .n64 (.g 4) none + offOf f) 32 0x10000)) = true ∧
    (let s : State := { run (warp .b32) with copies := [copyOf 0 0] }
     let v : Viewer := { ctx := ctx, grp := grp (warp .b32) }
     (copyOf 0 0).over = false ∧ (s.ctx? 0).isSome ∧ (s.group? 0).isSome ∧
     (match s.resolveAny v .generic 0x2000 .read, s.resolveAny v .generic 0x3000 .write with
      | .ok p a _, .ok _ _ _ => !s.poisoned p 32 && !a && State.poisoned { s with poison := [granuleOf 4 0x201F] } p 32
      | _, _ => false) = true) ∧
    (copyOf 0 0).held = none ∧ (copyOf 0 0).uid = 4 ∧ Copy.over { copyOf 0 0 with held := some (List.replicate 32 7) } = false ∧
    (copyOf 32 0x3F0000).over = true ∧ ctlEv (copyOf 32 0x3F0000).ctl = true ∧ ((run (warp .b32)).cluster 0).events.length < 64 := by
  decide +kernel

/-- A context whose pages have the WIN attribute, with one publish window. -/
def window : Window := { n := 63, base := 0x10000, size := 2 ^ 16 }
def winCtx : Context := { ctx with windows := [window] }
def winRun (w : Warp) : State :=
  { run w winCtx with mem := (placedMem [] []).write (placedTables + 0x1000) (toBytesLE 8 0x19D) }
def winF : MForm := { mf with data := .s 8, base := .s 4, index := .s 10 }
def winWarp (size : W32) : Warp := { warp .b32 with s := ((Vector.replicate 64 0).set 4 0x20000).set 8 62 |>.set 10 size }
def pubWarp : Warp := based (warp .b32) 0x1FFFF

theorem witness_WindowInstructionsComplete :
    ([0, 0x10000].all fun size => warpAt (winRun (winWarp size)) (.m .winset winF) fun c g w => w.bad.isEmpty &&
      w.eff (.m .winset winF) != 0 && let e := envOf (winRun (winWarp size)) c g w (.m .winset winF)
        !e.winsetBad 62 0x20000 size.toNat && (e.shadowRange [(0x20000, 0x20000 + size.toNat)]).isNone) = true ∧
    (let w : Warp := { warp .b32 with s := ((Vector.replicate 64 0).set 4 0x10000).set 8 63 }
     let s : State := { winRun w with copies := [{ copyOf 0 0 with shadow := true, dst := 0x10000 }], nextUid := 5 }
     warpAt s (.m .winset winF) fun c g w => w.bad.isEmpty && w.eff (.m .winset winF) != 0 &&
       let e := envOf s c g w (.m .winset winF)
       !e.winsetBad 63 0x10000 0 && (e.shadowRange [(0x10000, 0x10000), (0x10000, 0x20000)]) == some (0x10000, 0x20000)) = true ∧
    (let f : MForm := { mf with base := .s 4, index := .s 10 }
     let shadow : Copy := { copyOf 0 0 with shadow := true, dst := 0x10000 }
     [winRun pubWarp, { winRun pubWarp with copies := [shadow], nextUid := 5 }].all fun s =>
       warpAt s (.m .publish f) fun c g w => w.eff (.m .publish f) != 0 && w.wait == .ready && !ctlBad 0 g &&
         c.windowOf 0x1FFFF 1 == some window && s.shadowInto 0 0x10000 0x20000 s.nextUid == !s.copies.isEmpty) = true ∧
    -- a PUBLISH that waits from number 4 on, beside a SHADOW copy issued before, and after
    (let f : MForm := { mf with base := .s 4, index := .s 10 }
     [3, 4].all fun u =>
       let s : State := { winRun { pubWarp with wait := .shadows 0x10000 0x20000 4 } with
         copies := [{ copyOf 0 0 with uid := u, shadow := true, dst := 0x10000 }], nextUid := 5 }
       warpAt s (.m .publish f) fun c g w => w.eff (.m .publish f) != 0 && w.wait == .shadows 0x10000 0x20000 4 && !ctlBad 0 g &&
         c.windowOf 0x1FFFF 1 == some window && s.shadowInto 0 0x10000 0x20000 4 == (u == 3)) = true ∧
    ([MOp.winset].all fun op => warpAt (winRun { winWarp 0 with exec := 0 }) (.m op winF) fun _ _ w =>
      w.eff (.m op winF) == 0) = true ∧
    (let f : MForm := { mf with base := .s 4, index := .s 10 }
     warpAt (winRun { pubWarp with exec := 0 }) (.m .publish f) fun _ _ w => w.eff (.m .publish f) == 0) = true := by
  decide +kernel

/-- FIFO accesses to block 31 through s4, with `n` slots in it. -/
def fifoF : MForm := { mf with data := .v 2, index := .s 4, space := .scratch }
def fifoGrp (n : Nat) (w : Warp) : Group :=
  { scratchGrp w with fifos := [(31, List.replicate n { bytes := List.replicate 256 0, bad := [] })] }
def fifoLeek : State :=
  machine ctx { fifoGrp 1 (warp .b32) with leek := some (leekG 31), desc := { scratchDesc with leek := true } } (.leek 0)

theorem witness_BanksAndFifosComplete :
    (let f : MForm := { mf with data := .s 8, sub := 2 }
     warpAt (machine ctx (scratchGrp (warp .b32))) (.m .bankset f) (fun _ g w => w.bad.isEmpty && w.eff (.m .bankset f) != 0 &&
       (g.block 0).valid && !(g.block 0).spill && w.wait == .ready && (g.block 0).bank == 0) ∧
     ([(.drain 0, []), (.quiet 0, []), (.drain 0, [{ warp .b32 with id := 1, progress := some (Says.clean 0 1 (.atoms [] [])) }])].all
       fun (x : Wait × List Warp) =>
         let w : Warp := { warp .b32 with wait := x.1 }
         let s := machine ctx { scratchGrp w with warps := w :: x.2 }
         warpAt s (.m .bankset f) fun _ g w => w.wait == x.1 && s.blockBusy g 0 == !x.2.isEmpty)) ∧
    (let spilled (w : Warp) (more : List Warp) : State := machine ctx { scratchGrp w with
       blocks := (Vector.replicate 32 BlockEntry.none').set 0 { slot := 2, valid := true, spill := true, apx := false, fifo := false, bank := 0 }
       warps := w :: more }
     let f : MForm := { mf with data := .s 8 }
     let busy : Warp := { warp .b32 with id := 1, progress := some (Says.clean 0 1 (.atoms [] [])) }
     [[], [busy]].all fun more => let s := spilled (warp .b32) more
       (warpAt s (.m .bankset f) fun _ g w => (g.block 0).spill && w.eff (.m .bankset f) != 0 && s.blockBusy g 0 == !more.isEmpty) &&
         warpAt s (.m .bankset { f with sub := 1 }) fun c g w => (g.block 0).spill && !w.trapMode && c.trapBase != 0) = true ∧
    ([(32 : W32), 1].all fun n => let w := { warp .b32 with s := (Vector.replicate 64 0).set 8 n }
       warpAt (machine ctx (scratchGrp w)) (.m .bankset { mf with data := .s 8 }) fun c g w => !w.trapMode && c.trapBase != 0 &&
         (w.uni (.s 8) none .n32).toNat == n.toNat && (n == 32 || !(g.block 1).valid)) = true ∧
    (let s := (machine ctx (scratchGrp (warp .b32))).mapCluster 255 fun k => { k with drains := [31] }
     let busy : State := machine ctx (scratchGrp { warp .b32 with progress := some (Says.clean 0 1 (.atoms [] [])) })
     (s.groups.all fun g => g.cluster != 255 || !g.draining.contains 31) && (s.cluster 255).drains.contains 31 &&
       !s.bankBusy 255 31 && busy.bankBusy 0 0 && (busy.groups.all fun g => !(g.cluster == 0 && g.draining.contains 0)) &&
       { scratchGrp (warp .b32) with draining := [5] }.draining.contains 5) = true ∧
    ([128, 127].all fun n => warpAt (machine ctx (fifoGrp n (based (warp .s64) 31))) (.m .fpush { fifoF with fmt := .s64 }) fun _ g _ =>
      decide (128 < (g.fifo 31).length + 2)) = true ∧
    (warpAt (machine ctx (fifoGrp 1 (based (warp .s64) 31))) (.m .fpop { fifoF with fmt := .s64 }) fun _ g _ =>
      decide ((g.fifo 31).length < 2)) = true ∧
    (let full : State := machine ctx { fifoGrp 128 (warp .b32) with leek := some (leekG 31), desc := { scratchDesc with leek := true } } (.leek 0)
     let none' : State := machine ctx { fifoGrp 0 (warp .b32) with leek := some (leekG 31), desc := { scratchDesc with leek := true } } (.leek 0)
     leekAt full (.m .fpush { mf with data := .g 2, index := .g 4, space := .scratch }) (fun _ g l => l.takes false 0 &&
       decide (128 ≤ (g.fifo 31).length)) &&
     leekAt none' (.m .fpop { mf with data := .g 2, index := .g 4, space := .scratch }) (fun _ g l => l.takes false 0 && (g.fifo 31).isEmpty)) = true ∧
    (warpAt (machine ctx (fifoGrp 126 (based (warp .s64) 31))) (.m .fpush { fifoF with fmt := .s64 }) fun _ g w =>
      w.eff (.m .fpush fifoF) != 0 && (g.block 31).valid && (g.block 31).fifo && !(g.block 31).apx && (g.fifo 31).length == 126 &&
      w.operandFault g.desc.apxFrom false [Opnd.any (.v 2) .s64] [] [] == none) = true ∧
    (warpAt (machine ctx (fifoGrp 2 (based (warp .s64) 31))) (.m .fpop { fifoF with fmt := .s64 }) fun _ g w =>
      (g.fifo 31).length == 2 && ((g.fifo 31).all fun x => x.bad.isEmpty) && w.operandFault g.desc.apxFrom false [] [] [.v 2] == none) = true ∧
    leekAt fifoLeek (.m .fpush { mf with data := .g 2, index := .g 4, space := .scratch }) (fun _ g l => l.takes false 0 && (g.block 31).fifo &&
      decide ((g.fifo 31).length < 128)) = true ∧
    leekAt fifoLeek (.m .fpop { mf with data := .g 2, index := .g 4, space := .scratch }) (fun _ g l => l.takes false 0 && !(g.fifo 31).isEmpty) = true := by
  decide +kernel

/-- The barrier gb15 of a group of one or two warps in a state, and a machine with it. -/
def barrier (b : Barrier) (w : Warp) (more : List Warp := []) : Group :=
  { scratchGrp w with bars := (Vector.replicate 16 Barrier.init).set 15 b, warps := w :: more }
def barRun (b : Barrier) (w : Warp) (more : List Warp := []) : State := machine ctx (barrier b w more)
def gb : BarId := .gb 0 15
def barF : LForm := { lf with imm := some 15 }

/-- A barrier with the warp's arrival in the current phase, over or not. -/
def arrivedIn (phase latest : Nat) : Barrier :=
  { Barrier.init with phase := phase, arrived := if phase = latest then [.warp 0 0] else [], latest := [(.warp 0 0, latest)] }

theorem witness_PhasesCompleteWhenAllHaveArrived :
    inRange gb ∧ inRange (.sb 0 7) ∧ (barRun Barrier.init (warp .b32)).bar? gb = some Barrier.init ∧
    (let other : Warp := { warp .b32 with id := 1 }
     ((barRun Barrier.init (warp .b32) [other]).members gb).any (fun m => m.agent == .warp 0 1) = true ∧
     ((barRun Barrier.init (warp .b32)).members gb).map Member.agent = [.warp 0 0]) ∧
    ((barRun { Barrier.init with bytes := 1 } (warp .b32)).bar? gb).map Barrier.bytes = some 1 ∧
    (let full : Barrier := { arrivedIn 3 3 with bytes := 1 }
     ((barRun full (warp .b32)).members gb).all (fun m => full.arrived.contains m.agent) = true ∧
     ((barRun full (warp .b32)).bar? gb) = some full ∧ full.bytes + -1 = 0 ∧
     (∃ g, (barRun full (warp .b32)).group? 0 = some g ∧ gb = .gb g.uid 15)) := by
  refine ⟨by show 15 < 16; decide, by show 7 < 8; decide, by decide +kernel, by decide +kernel, by decide +kernel,
    by decide +kernel, by decide +kernel, by decide, ⟨_, rfl, rfl⟩⟩

/-- Decides that a warp's barrier instruction names gb15 in a state. -/
def barAt (op : LOp) (f : LForm) (spec : Bool) (s : State) (p : Barrier → Warp → Bool) : Bool :=
  warpAt s (.l op f) fun c g w => decide (names s c g w (.l op f) f (op == .barstat) (spec || op == .barexp) gb) &&
    match (dropped s g w).bar? gb with
    | some b => p b w
    | none => false

theorem witness_BarrierArrivalsAndWaits :
    barAt .bararr barF false (barRun Barrier.init (warp .b32)) (fun b _ => !b.arrived.contains (.warp 0 0)) = true ∧
    barAt .bararr barF false (barRun (arrivedIn 3 3) (warp .b32)) (fun b _ => b.arrived.contains (.warp 0 0) && !b.stopped) = true ∧
    barAt .bararr barF false (barRun { arrivedIn 3 3 with stopped := true } (warp .b32)) (fun b w => b.stopped && !w.trapMode) = true ∧
    barAt .barwait barF false (barRun (arrivedIn 3 2) (warp .b32)) (fun b _ => b.latestOf (.warp 0 0) == some 2 && b.phase == 3) = true ∧
    barAt .barwait barF false (barRun (arrivedIn 3 3) (warp .b32)) (fun b _ => b.latestOf (.warp 0 0) == some 3 && b.phase == 3) = true ∧
    barAt .barwait { barF with sub := 1 } true (barRun (arrivedIn 3 3) (warp .b32)) (fun _ w => w.noSpec.isNone) = true ∧
    (let other : Warp := { warp .b32 with id := 1 }
     [([], Barrier.init), ([other], Barrier.init), ([], { Barrier.init with bytes := -1 }),
       ([other], { Barrier.init with stopped := true })].all fun x => barAt .barsync barF false (barRun x.2 (warp .b32) x.1) fun b w =>
       !b.arrived.contains (.warp 0 0) && !w.wait.afterArrival && w.noSpec.isNone &&
       match ((dropped (barRun x.2 w x.1) (barrier b w x.1) w).arrive gb (.warp 0 0)).bar? gb with
       | some b2 => b2.latestOf (.warp 0 0) == some 0 && b2.phase == (if x.1.isEmpty && x.2.bytes == 0 then 1 else 0) &&
           b2.stopped == (x.2.stopped || x.2.bytes != 0)
       | none => false) = true ∧
    (let halted : Barrier := { arrivedIn 3 3 with stopped := true }
     barAt .barwait barF false (barRun halted (warp .b32)) (fun b w => b.latestOf (.warp 0 0) == some 3 && b.stopped && !w.trapMode) &&
     barAt .barsync barF false (barRun halted (warp .b32)) (fun b w => b.arrived.contains (.warp 0 0) && b.stopped && !w.wait.afterArrival) &&
     barAt .barsync barF false (barRun (arrivedIn 3 3) (warp .b32)) (fun b _ => b.arrived.contains (.warp 0 0) && !b.stopped) &&
     (let w : Warp := { warp .b32 with wait := .phase gb 3 }
      barAt .barsync barF false (barRun (arrivedIn 3 2) w) (fun b w => w.wait.afterArrival && b.latestOf (.warp 0 0) == some 2) &&
      barAt .barsync barF false (barRun (arrivedIn 3 3) w) (fun b w => w.wait.afterArrival && !b.stopped) &&
      barAt .barsync { barF with sub := 1 } true (barRun (arrivedIn 3 3) { w with noSpec := some w.pc }) (fun _ w => w.noSpec == some w.pc) &&
      barAt .barsync barF false (barRun halted w) (fun b w => w.wait.afterArrival && b.stopped && !w.trapMode))) = true := by decide +kernel

/-- A warp that speculates past gb15, with some reads, stores and shadows; and a machine with it. -/
def specOf (w : Warp) (reads : List Nat) (stores : List (Nat × List Byte)) (shadows : List (Nat × VReg)) : Spec :=
  { w.checkpoint 15 0 with reads := reads, stores := stores, shadows := shadows }
def specWarp (w : Warp) (reads : List Nat := []) (stores : List (Nat × List Byte) := []) (shadows : List (Nat × VReg) := []) : Warp :=
  { w with spec := some (specOf w reads stores shadows) }

/-- Decides that the issuing warp speculates and meets the rest of `Speculates`, and a condition. -/
def specAt (s : State) (sh : Shape) (p : Env → Spec → Bool) : Bool :=
  match s.issuer with
  | some (.warp c g w) => match w.spec with
    | some q => sh.legal false g.desc.vcount g.desc.scount && sh.modeOk w.trapMode c.system && !w.sigBad (issueOf sh w) && !sh.stalls &&
        p (envOf s c g w sh) q
    | none => false
  | _ => false

theorem specAt_speculates {s : State} {sh : Shape} {p : Env → Spec → Bool} (h : specAt s sh p = true) :
    ∃ c g w q, Speculates s c g w q sh ∧ p (envOf s c g w sh) q = true := by
  unfold specAt at h
  split at h
  · next c g w hi =>
    split at h
    · next q hq =>
      simp only [Bool.and_eq_true, Bool.not_eq_true'] at h
      obtain ⟨⟨⟨⟨h1, h2⟩, h3⟩, h4⟩, h5⟩ := h
      exact ⟨c, g, w, q, ⟨hi, hq, h1, h2, h3, h4⟩, h5⟩
    · cases h
  · cases h

/-- Thirty-two shadows, none of them of v2; and 129 sectors' stores. -/
def fullShadows : List (Nat × VReg) := (List.range 32).map fun n => (n + 3, { lanes := mkLanes fun _ => 0, tag := .b32 })
def fullStores : List (Nat × List Byte) := (List.range 128).map fun n => (0x4000 + 32 * n, [1])

theorem witness_SpeculationBuffersStallsAndRollsBack :
    -- forbidden by the descriptor, and an EXIT that would end the warp
    (specAt (machine ctx (grp (specWarp (warp .s32)))) (.l .add addF) (fun e _ =>
        !(Shape.l .add { addF with dst := .v 255, fmt := .s64 }).legal false e.g.desc.vcount e.g.desc.scount) &&
      specAt (run (specWarp (warp .s32))) (.b .exit bf) (fun e _ => (unwind e.w.dead (e.w.exec &&& ~~~(takers e.w false 0)) (e.w.pc + 8)
        (e.w.join.map (JoinEntry.without (takers e.w false 0)))).2.isNone)) = true ∧
    (specAt (run (specWarp (warp .s32))) (.sb .exit 0 false 0) (fun e _ => (unwind e.w.dead (e.w.exec &&& ~~~(takers e.w false 0))
        (e.w.pc + 4) (e.w.join.map (JoinEntry.without (takers e.w false 0)))).2.isNone)) = true ∧
    -- an LDB and an STB through a record with XL = 1
    ([true, false].all fun load =>
      let s := recorded (specWarp (lane63 (warp .b32)))
      specAt { s with mem := s.mem.write 0x400F [0x10] } (.m (if load then .ldb else .stb) recF) fun e _ =>
        e.w.progress.isNone && decide (recF.brec.toNat < e.g.desc.nbrec) && e.s.poison.isEmpty && e.eff != 0 &&
          decide (addressable e.g e.w recF (if load then [] else [Opnd.any recF.data recF.fmt]) (if load then [recF.data] else [])) &&
          match e.recordBytes recF with
          | .ok (bytes, _) => (BRec.ofBytes (e.s.bytesAt e.w (bytes.map fun b => b.2.1))).xl
          | _ => false) = true ∧
    -- an operand fault, a first write with a shadow, and one without
    ((specAt (run (specWarp (warp .f32))) (.l .add addF) fun e _ =>
        (e.w.operandFault e.g.desc.apxFrom addF.a (opAdd.os addF) [] [addF.dst]).isSome) &&
      ([[], fullShadows].all fun sh => specAt (run (specWarp (warp .s32) [] [] sh)) (.l .add addF) fun e p =>
        decide (readable e.g e.w addF.a (opAdd.os addF) [] [addF.dst]) && decide (hasShadows p 2 false) == sh.isEmpty &&
          (e.w.writeVec 2 { eff := 1, sel := 1, kill := 0, vals := fun _ => 0, wide := false, tag := .s32, a := false, nw := false }).isSome
            == sh.isEmpty)) = true ∧
    -- a load that would fault; one with room, without a shadow, and without room in the read set
    (let at' (reads : List Nat) (sh : List (Nat × VReg)) (x : W32) (p : Env → Spec → Bool) : Bool :=
       specAt (run (specWarp (lane63 (based (warp .b32) x)) reads [(0x2000, [9])] sh)) (.m .ld ldF) fun e q =>
         decide (addressable e.g e.w ldF [] [ldF.data]) && e.s.poison.isEmpty && p e q
     let more (e : Env) (q : Spec) : Spec := readsMore q ((accesses e ldF 1 8 .read).flatMap fun y => sectorsOf y.2.2.1 8)
     at' [] [] 0x2001 (fun e _ => reportsB ((Mask.lanes e.eff).map fun l => (l, e.ea ldF 1 l, target e ldF 1 8 .read l)) .misalign 63 0x2001) &&
     at' [] [] 0x2000 (fun e q => reaches e ldF 1 8 .read && decide (hasShadows q 2 true) && decide ((more e q).reads.length ≤ 256)) &&
     at' [] fullShadows 0x2000 (fun e q => reaches e ldF 1 8 .read && !decide (hasShadows q 2 true)) &&
     at' ((List.range 256).map (· + 0x1000)) [] 0x2000 (fun e q => reaches e ldF 1 8 .read && decide (256 < (more e q).reads.length))) = true ∧
    -- stores with room in the buffer, and without
    ([[], fullStores].all fun st =>
      (specAt (run (specWarp (lane63 (based (warp .s64) 0x2000)) [] st)) (.m .st ldF) fun e q =>
        decide (addressable e.g e.w ldF [Opnd.any ldF.data ldF.fmt] []) && reaches e ldF 1 8 .write &&
          decide (bufferFits (storesMore q (storesOf e ldF 1))) == st.isEmpty) &&
      specAt (run (specWarp (lane63 (based (warp .s64) 0x2000)) [] st)) (.m .stu lduF) fun e q =>
        e.w.bad.isEmpty && e.eff != 0 && clean e.s 8 (target e lduF 1 8 .write 0) &&
          decide (bufferFits (storesMore q [(0x2000, List.replicate 8 0)])) == st.isEmpty) = true ∧
    -- shadows and stores to come back to, a sector that is read, and one that is not
    ((fullShadows.map Prod.fst).contains 34 ∧ 0x100 ∈ sectorsOf 0x2000 8 ∧
      (specOf (warp .b32) [0x100] [(0x2000, [9])] []).reads = [0x100] ∧ 0x101 ∉ (specOf (warp .b32) [0x100] [] []).reads) ∧
    -- a phase that completes with the warp past it
    (let s := barRun (arrivedIn 3 3) (specWarp (warp .b32))
     (s.bar? gb).any (fun b => !b.stopped && b.bytes == 0 && !(s.members gb).isEmpty && (s.members gb).all fun m => b.arrived.contains m.agent)
       && (specOf (warp .b32) [] [] []).bar == 15) = true := by decide +kernel

/-- The same for the Leek thread, which is a member of gb15, in a wait. -/
def leekBarAtIn (wait : Wait) (op : LOp) (f : LForm) (b : Barrier) (p : Barrier → Leek → Bool) : Bool :=
  let s := machine ctx
    { barrier b (warp .b32) with leek := some { leek with wait := wait }, desc := { scratchDesc with leek := true } } (.leek 0)
  leekAt s (.l op f) fun c g l => decide (leekNames s c g l f (op == .barstat) gb) && match s.bar? gb with
    | some b => p b l
    | none => false
def leekBarAt (op : LOp) (f : LForm) (b : Barrier) (p : Barrier → Leek → Bool) : Bool := leekBarAtIn .ready op f b p

theorem witness_TimedWaitsAndBarrierStateComplete :
    barAt .barwaitt { barF with dst := .k 1, src1 := .s 3 } false (barRun (arrivedIn 3 2) (warp .b32)) (fun b w =>
      b.latestOf (.warp 0 0) == some 2 && b.phase == 3 && w.wait == .ready) = true ∧
    barAt .barwaitt { barF with dst := .s 1, src1 := .s 3 } false (barRun (arrivedIn 3 3) (warp .b32)) (fun b w =>
      b.phase == 3 && !b.stopped && (lo32 (w.uni (.s 3) none .n32)).toNat == 0) = true ∧
    barAt .barwaitt { barF with dst := .s 1, src1 := .s 3 } false (barRun (arrivedIn 3 3) (scalars (warp .b32) 0xFFFFFFFF)) (fun _ w =>
      (lo32 (w.uni (.s 3) none .n32)).toNat != 0) = true ∧
    (let f : LForm := { barF with dst := .s 1, src1 := .s 3 }
     let halted : Barrier := { arrivedIn 3 3 with stopped := true }
     barAt .barwaitt f false (barRun halted (warp .b32)) (fun b w => b.stopped && b.latestOf (.warp 0 0) == some 3 && !w.trapMode) &&
     ([2, 3].all fun n => barAt .barwaitt f false (barRun (arrivedIn 3 n) { warp .b32 with wait := .expired gb n 9 true }) (fun b w =>
       w.wait == .expired gb n 9 true && b.phase == 3 && b.doneAt ≤ 9)) &&
     ([2, 3].all fun n => barAt .barwaitt f false (barRun (arrivedIn 3 n) { warp .b32 with wait := .timed gb n 9 }) (fun b w =>
       w.wait == .timed gb n 9 && !b.stopped))) = true ∧
    barAt .barexp { barF with src1 := .s 3 } true (barRun Barrier.init (warp .b32)) (fun _ _ => true) = true ∧
    barAt .barstat { barF with dst := .s 2, imm := some 0x70F } false (barRun Barrier.init (warp .b32)) (fun _ _ => true) = true ∧
    leekBarAt .bararr barF Barrier.init (fun b _ => !b.arrived.contains (.leek 0)) = true ∧
    leekBarAt .barwait barF Barrier.init (fun b _ => b.latestOf (.leek 0) == none) = true ∧
    leekBarAt .barexp { barF with src1 := .g 3 } Barrier.init (fun _ _ => true) = true ∧
    leekBarAt .barstat { barF with dst := .g 3, imm := some 0x70F } Barrier.init (fun _ _ => true) = true ∧
    leekBarAt .barwaitt { barF with dst := .k 3, src1 := .g 1 } Barrier.init (fun b l =>
      b.latestOf (.leek 0) == none && l.wait == .ready) = true ∧
    (let at' (phase latest : Nat) (stopped : Bool) : Barrier := { Barrier.init with
       phase := phase, arrived := if phase = latest then [.leek 0] else [], latest := [(.leek 0, latest)], stopped := stopped }
     let f : LForm := { barF with dst := .g 3, src1 := .g 1 }
     ([false, true].all fun halted =>
       leekBarAt .bararr barF (at' 3 3 halted) (fun b _ => b.arrived.contains (.leek 0) && b.stopped == halted) &&
       leekBarAt .barwait barF (at' 3 3 halted) (fun b _ => b.latestOf (.leek 0) == some 3 && b.stopped == halted) &&
       leekBarAt .barsync barF (at' 3 3 halted) (fun b l => b.arrived.contains (.leek 0) && !l.wait.afterArrival && b.stopped == halted) &&
       leekBarAt .barwaitt f (at' 3 3 halted) (fun b l => b.latestOf (.leek 0) == some 3 && b.stopped == halted && l.wait == .ready)) &&
     leekBarAt .barsync barF (at' 3 2 false) (fun b l => !b.arrived.contains (.leek 0) && !l.wait.afterArrival) &&
     ([(Wait.phase gb 3, 3, false), (.phase gb 3, 3, true), (.phase gb 2, 2, false)].all fun x =>
       leekBarAtIn x.1 .barsync barF (at' 3 x.2.1 x.2.2) (fun b l => l.wait.afterArrival && b.latestOf (.leek 0) == some x.2.1)) &&
     ([2, 3].all fun n => leekBarAtIn (.expired gb n 9 false) .barwaitt f (at' 3 n false) (fun _ l => l.wait == .expired gb n 9 false)) &&
     ([2, 3].all fun n => leekBarAtIn (.timed gb n 9) .barwaitt f (at' 3 n false) (fun b l => l.wait == .timed gb n 9 && !b.stopped)))
       = true ∧
    (let s := barRun { Barrier.init with count := 2 ^ 32 } (warp .b32)
     (s.bar? gb).isSome = true ∧ (s.barGroup gb).isSome = true ∧ (s.ctx? 0).map (fun c => watchLimit c scratchDesc) = some (2 ^ 32)) := by
  decide +kernel

/-! ### Pods, counters, events, system instructions, repeat units -/

/-- A context with launch queues at 0x6000, and memory with one descriptor of 4 slots at 0x7000, `free` of them free. -/
def lqCtx : Context := { ctx with lqBase := 0x6000 }
def queueMem (free : Nat) (tail : Nat := 0) : Memory :=
  (placedMem [] []).write 0x6000 ([0x7000, 4, 0, tail, free].flatMap (toBytesLE 8))
def queueRun (w : Warp) (free : Nat) : State := { run w lqCtx with mem := queueMem free }

/-- EMIT of one pod from s16 to s31 to the launch queue of its priority. -/
def emitF (sub : BitVec 4) : LForm :=
  { lf with src0 := .s 16, src1 := .imm, imm := some 0x100, sub := sub, dst := if sub = 1 then .k 7 else .zero }
def emitAt (s : State) (sub : BitVec 4) (p : Bool → Bool) : Bool :=
  let f := emitF sub
  warpAt s (.l .emit f) fun c g w => ((podOs f).all fun o => !w.isApx g.desc.apxFrom o.reg) && s.held.isEmpty &&
    let e := envOf s c g w (.l .emit f)
    let pods := e.pods f e.eff
    let needs := emitNeeds 0x100 pods
    let s1 := s.stopBroken c (needs.map Prod.fst)
    e.eff != 0 && !pods.isEmpty && (match e.emitFault f 0x100 pods e.eff with
      | none => true
      | some _ => false) && p (needs.all fun x => x.2 ≤ s1.roomIn ((s1.ctx? c.id).getD c) x.1)

/-- JOINDEC by 1 of the counter at 0x2000. -/
def joinF : LForm := { lf with src0 := .s 4, src1 := .imm, dst := .s 0, imm := some 1 }
def joinAt (x : Nat) (p : W64 → Bool) : Bool :=
  let s : State := { run (based (warp .b32) 0x2000) with mem := (placedMem [] []).write 0x2000 (toBytesLE 8 x) }
  warpAt s (.l .joindec joinF) fun c g w => w.eff (.l .joindec joinF) != 0 && s.held.isEmpty &&
    match s.resolveCounter { ctx := c, grp := g } (w.uni (.s 4) none .n64) with
    | .ok place _ _ => !s.poisoned place 8 && p (s.mem.read64 place)
    | .bad _ _ => false

theorem witness_EmissionAndJoinsComplete :
    warpAt (run { warp .b32 with exec := 0 }) (.l .emit (emitF 0)) (fun _ _ w => w.eff (.l .emit (emitF 0)) == 0) = true ∧
    emitAt (queueRun (warp .b32) 1) 0 (fun room => room) = true ∧ emitAt (queueRun (warp .b32) 0) 1 (fun room => !room) = true ∧
    emitAt (queueRun (warp .b32) 0) 0 (fun room => !room) = true ∧
    warpAt (run { warp .b32 with exec := 0 }) (.l .joindec joinF) (fun _ _ w => w.eff (.l .joindec joinF) == 0) = true ∧
    joinAt 0 (fun x => lo32 x < 1) = true ∧ joinAt 1 (fun x => 1 ≤ lo32 x) = true ∧
    -- a counter whose event waits for a page
    (let h : HeldItem := { uid := 1, item := .dec 0 0x2000 0 0 0, page := some 0x2000 }
     let w : Warp := { based (warp .b32) 0x2000 with s := (Vector.replicate 64 0).set 4 0x2000 |>.set 20 0x2000 }
     let s : State := { queueRun w 1 with held := [h] }
     warpAt s (.l .joindec joinF) (fun c g w => s.counterHeld c.id 0x2000 && w.uni (.s 4) none .n64 == 0x2000 &&
       match s.resolveCounter { ctx := c, grp := g } 0x2000 with
       | .ok _ _ _ => true
       | .bad _ _ => false) &&
     warpAt s (.l .emit (emitF 0)) fun c g w =>
       let e := envOf s c g w (.l .emit (emitF 0))
       (e.pods (emitF 0) e.eff).any fun p => (Pod.ofBytes p.2).join == 0x2000) = true := by decide +kernel

/-- A machine with `n` records in the event queue of the group's cluster. -/
def records (s : State) (n : Nat) : State :=
  s.mapCluster 0 fun k => { k with events := List.replicate n { group := 0, record := 1 } }

theorem witness_EventAndClockInstructionsComplete :
    warpAt (run (warp .b32)) (.l .evpop { lf with dst := .s 60 }) (fun _ _ w => w.eff (.l .evpop { lf with dst := .s 60 }) != 0) = true ∧
    leekAt (records (runLeek leek) 1) (.l .evpop { lf with dst := .g 30 }) (fun _ _ l => l.takes false 0) = true ∧
    (let f : LForm := { lf with src0 := .imm, imm := some 64 }
     warpAt (records (run (warp .b32)) 64) (.l .evwait f) (fun _ g w => w.bad.isEmpty && w.eff (.l .evwait f) != 0 &&
       decide ((lo32 (w.uni .imm (some 64) .n32)).toNat = 64 ∧ 64 ≤ ((records (run (warp .b32)) 64).recordsOf g).length)) ∧
     warpAt (records (run (warp .b32)) 63) (.l .evwait f) (fun _ g _ => decide (((records (run (warp .b32)) 63).recordsOf g).length < 64)) ∧
     leekAt (records (runLeek leek) 64) (.l .evwait f) (fun _ g l => l.takes false 0 &&
       decide ((lo32 (l.src .n32 .imm (some 64))).toNat = 64 ∧ 64 ≤ ((records (runLeek leek) 64).recordsOf g).length))) ∧
    warpAt (run (warp .b32)) (.l .clock { lf with dst := .s 62 }) always = true ∧
    leekAt (runLeek leek) (.l .clock { lf with dst := .g 31 }) always = true ∧
    (let f : LForm := { lf with dst := .s 62, src0 := .imm, imm := some 0x100 }
     warpAt (queueRun (warp .b32) 1) (.l .qstat f) fun c g w => w.bad.isEmpty && w.eff (.l .qstat f) != 0 && qselValid 0x100 c.nEdge &&
       match (envOf (queueRun (warp .b32) 1) c g w (.l .qstat f)).queueFill (c.queueAddr (qselQueue 0x100 g.prio)) with
       | some x => (queueRun (warp .b32) 1).errorFor 0 x.2.1 64 x.2.2 == none
       | none => false) = true := by decide +kernel

theorem witness_SystemInstructionsComplete :
    (let f : LForm := { lf with src0 := .s 2, imm := some 0x0F }
     warpAt (run (scalars (warp .b32) 3)) (.l .movsr f) fun _ _ w => w.bad.isEmpty && w.eff (.l .movsr f) != 0 &&
       (w.writeSpecial 0x0F (w.uni (.s 2) none .n32)).isSome) = true ∧
    warpAt (run (trapWarp 0)) (.l .ovfld { lf with src0 := .imm, imm := some 0xAAA }) (fun _ _ _ => ovftOk 0xAAA) = true ∧
    warpAt ((run (warp .b32)).mapCluster 0 fun k => { k with level := 7 }) (.l .railset { lf with src0 := .imm, imm := some 7 })
      (fun _ g _ => decide ((((run (warp .b32)).mapCluster 0 fun k => { k with level := 7 }).cluster g.cluster).level.toNat ≤ 7)) = true ∧
    warpAt ((run (warp .b32)).mapCluster 0 fun k => { k with level := 7 }) (.l .railset { lf with src0 := .imm, imm := some 6 })
      (fun _ g _ => decide (6 < (((run (warp .b32)).mapCluster 0 fun k => { k with level := 7 }).cluster g.cluster).level.toNat)) = true ∧
    warpAt (run (warp .b32)) (.l .sigseed { lf with src0 := .imm, imm := some 0xFFFF }) always = true ∧
    warpAt (run (warp .b32) { ctx with system := true }) (.l .tlbinv { lf with sub := 1 }) always = true ∧
    warpAt (run (warp .b32)) (.l .wdset { lf with imm := some 5 }) always = true ∧
    warpAt (run (based (warp .b32) 0x2000)) (.l .wdset { lf with src0 := .s 2, src1 := .s 4 }) (fun c g w =>
      match (envOf (run (based (warp .b32) 0x2000)) c g w (.l .wdset { lf with src0 := .s 2, src1 := .s 4 })).diagFault
          (w.uni (.s 4) none .n64) with
      | none => true
      | some _ => false) = true ∧
    warpAt (run (warp .b32)) (.l .perfrd { lf with dst := .s 62, src0 := .imm, imm := some 7 }) (fun _ _ w =>
      w.eff (.l .perfrd { lf with dst := .s 62, src0 := .imm, imm := some 7 }) != 0) = true ∧
    (let big (w : Warp) : Warp := scalars w 0x10000
     let ok (s : State) (op : LOp) (f : LForm) : Bool := warpAt s (.l op f) fun c _ w => w.bad.isEmpty && !w.trapMode && c.trapBase != 0 &&
       w.eff (.l op f) != 0 && (w.uni f.src0 f.imm .n32).toNat == 0x10000
     ok (run (big (warp .b32))) .railset { lf with src0 := .s 9 } && ok (run (big (warp .b32))) .sigseed { lf with src0 := .s 9 } &&
     warpAt (run (scalars (trapWarp 0) 3)) (.l .ovfld { lf with src0 := .s 9 }) (fun _ _ w => w.bad.isEmpty && !ovftOk (w.uni (.s 9) none .n32 |> lo32)) &&
     ok (run (big (warp .b32))) .perfrd { lf with dst := .s 62, src0 := .s 9 } &&
     warpAt (run (big (warp .b32))) (.l .movsr { lf with src0 := .s 2, imm := some 0x0F }) (fun _ _ w =>
       (w.writeSpecial 0x0F 0x10000).isNone)) = true := by decide +kernel

/-- A unit of `n` iterations over ADD.S32, placed at the warp's address. -/
def repP (n : BitVec 6) : RepPrefix := { stride := 0, step := 3, count := n }
def repRun (n : BitVec 6) (at' : Option RepState) : State :=
  { run { warp .s32 with rep := at' } with
    mem := placedMem [] (encodeBytes (.rep (repP n)) ++ encodeBytes (.add addF)) }
def repAt (n : BitVec 6) (at' : Option RepState) (i : Nat) : Bool :=
  let s := repRun n at'
  match s.issuer with
  | some (.warp c g w) => w.spec.isNone && (w.rep.map RepState.iter).getD 0 == i &&
    match s.fetchInstr c w.fetched w.holds (w.pc + 4).toNat with
    | .ok bs _ _ => followerOf bs == some (.add, addF) && repLegal (repP n) .add addF g.desc.vcount g.desc.scount &&
      match stepForm (repP n) i addF with
      | some f' => decide (readable g w f'.a (opAdd.os f') [] [f'.dst])
      | none => false
    | _ => false
  | _ => false

/-- Decides the premises of the clause about a unit that R51 refuses, but for the follower read. -/
def unitAt (bs : List Byte) (p : List Byte → Bool) : Bool :=
  let s := { run (warp .s32) with mem := placedMem [] (encodeBytes (.rep (repP 2)) ++ bs) }
  match s.issuer with
  | some (.warp c _ w) => w.spec.isNone && !w.trapMode && c.trapBase != 0 && match s.fetchInstr c w.fetched w.holds (w.pc + 4).toNat with
    | .ok bs _ _ => p bs
    | _ => false
  | _ => false

/-- A follower read as an instruction of form L, and a condition on it. -/
def followsWith (p : LOp → LForm → Bool) (bs : List Byte) : Bool := (followerOf bs).any fun x => p x.1 x.2

theorem witness_RepeatUnitsRunTheirIterations :
    repAt 2 none 0 = true ∧ repAt 0 (some { iter := 63, masks := some (5, 7) }) 63 = true ∧
    -- the malformed prefixes, and the units that R51 refuses
    ((0x4107#32).extractLsb' 14 18 ≠ 0 ∧ (0x7#32).extractLsb' 8 4 = 0 ∧ (0x7#32).extractLsb' 0 2 = 3) ∧
    (unitAt (encodeBytes .nopShort) (fun bs => (followerOf bs).isNone) && unitAt (encodeBytes (.rep (repP 2))) (fun bs => (followerOf bs).isNone) &&
     unitAt (encodeBytes (.movs { lf with dst := .v 3, imm := some 3 })) (followsWith fun op _ => op.code.toNat == 0x42) &&
     unitAt (encodeBytes (.add { addF with src0 := .s 4 })) (followsWith fun _ f => steppedField f 1 == .s 4 && (repP 2).step.getLsbD 1) &&
     unitAt (encodeBytes (.add { addF with src0 := .v 4, fmt := .s64 })) (followsWith fun op f => wideField op f 1 && (repP 2).stride == 0) &&
     unitAt (encodeBytes (.add { addF with dst := .v 255 })) (followsWith fun _ f => steppedField f 0 == .v 255 && repTimes (repP 2) == 2)) = true ∧
    -- a TAG of iteration 2
    (let p := repP 5
     let w : Warp := { warp .s32 with rep := some { iter := 2, masks := some (5, 7) }, v := vmod (warp .s32).v 5 fun r => { r with tag := .f32 } }
     w.trapMode == false && (stepForm p 2 addF).any fun f =>
       w.operandFault 256 f.a (opAdd.os f) [] [f.dst] == some .tag) = true := by decide +kernel

/-! ### The matrix unit -/

/-- A cluster state with slot 15 held by the group as `ac15`, a Leek thread, and its machine. -/
def matLeek : Leek := { leek with tiles := Vector.replicate 8 { data := [], tag := .f16x2 }, g := (Vector.replicate 32 0).set 5 64 }
def matGrp (l : Leek) : Group :=
  { scratchGrp (warp .b32) with
    leek := some l, names := (Vector.replicate 16 none).set 15 (some 15), desc := { scratchDesc with leek := true } }
def slot (type : SlotType) : AccSlot := { n := 15, group := 0, data := [], type := type, release := false }
def matRun (l : Leek) (type : SlotType := .f32) : State :=
  (machine ctx (matGrp l) (.leek 0)).mapCluster 0 fun k => { k with slots := [slot type] }

/-- Decides that a matrix instruction is issued with room in the queue, and a condition. -/
def matAt (op : LOp) (f : LForm) (p : LeekEnv → Bool) (s : State := matRun matLeek) : Bool :=
  leekAt s (.l op f) fun c g l => l.takes f.pneg f.pred && decide (l.pending < 8) && p (leekEnvOf s c g l)

/-- Decides that a range of scratch may be accessed. -/
def scratchOk (e : LeekEnv) (acc : Access) (ps : List Nat) : Bool :=
  (e.s.scratchFault { ctx := e.c, grp := e.g } acc ps).isNone

def started (k : MatKind) (on : Bool) : MatOp :=
  { id := 3, kind := k, name := none, started := on, events := 0, held := [], ovft := 0, pc := 0 }

theorem witness_MatrixInstructionsQueueTheirOperation :
    (let f : LForm := { lf with src0 := .g 2, fmt := .f16x2 }
     matAt .tld { f with dst := .t 7 } (fun e => scratchOk e .read (pieces 0 64 128 64)) ∧
     leekAt (matRun matLeek) (.l .tld { f with dst := .t 7, pred := 7 }) (fun c g l => !l.takes false 7 &&
       !(leekEnvOf (matRun matLeek) c g l).matTag { f with dst := .t 7, pred := 7 }) ∧
     matAt .mma { f with dst := .ac 15, src0 := .t 7 } (fun e => !e.matTag { f with dst := .ac 15, src0 := .t 7 }) ∧
     matAt .acdrn { f with src0 := .ac 15, src1 := .g 2, src2 := .imm, imm := some 256 } (fun e =>
       decide (acdrnRow .f16x2 ≤ 256) && scratchOk e .write (pieces 0 256 128 (acdrnRow .f16x2)))) ∧
    -- a tile of another tag, and an S32 slot drained in another format, with a predicate that does not hold
    (let f : LForm := { lf with dst := .ac 15, src0 := .t 7, fmt := .e4m3x4, pred := 7 }
     leekAt (matRun matLeek) (.l .mma f) (fun c g l => !l.takes false 7 && (leekEnvOf (matRun matLeek) c g l).matTag f) &&
     (let d : LForm := { lf with src0 := .ac 15, src1 := .g 2, src2 := .imm, imm := some 256, fmt := .f16x2, pred := 7 }
      leekAt (matRun matLeek .s32) (.l .acdrn d) fun c g l => (leekEnvOf (matRun matLeek .s32) c g l).typeOf 15 == .s32)) ∧
    (let f : LForm := { lf with src0 := .g 2, src1 := .g 3, src2 := .g 4, sub := 1 }
     matAt .agath f (fun e => e.l.wait == .ready && scratchOk e .read (pieces 0 0 1 256)) ∧
     matAt .agath f (fun e => e.l.wait == .gathered) (matRun { matLeek with wait := .gathered })) ∧
    (let f : LForm := { lf with dst := .ac 15, src0 := .t 0, src1 := .g 5, src2 := .g 6, fmt := .e4m3x4, sub := 3 }
     let l : Leek := { matLeek with tiles := Vector.replicate 8 { data := [], tag := .e4m3x4 } }
     matAt .mmas f (fun e => !e.matTag f && scratchOk e .read (pieces 64 0 1 512)) (matRun l)) = true ∧
    matAt .acz { lf with dst := .ac 15 } (fun _ => true) = true ∧ matAt .acrel { lf with dst := .ac 15 } (fun _ => true) = true ∧
    matAt .acrel { lf with dst := .ac 14 } (fun e => e.g.names[(14 : Fin 16)].isNone) = true ∧
    matAt .acz { lf with dst := .ac 14 } (fun e => e.g.names[(14 : Fin 16)].isNone && !e.s.accFull e.g && e.s.slotTurn e.g &&
      e.s.freeSlotList 0 != []) = true ∧
    matAt .acstat { lf with dst := .g 31, src0 := .ac 15 } (fun _ => true) = true ∧
    matAt .mmwait lf (fun e => e.l.queue.isEmpty) = true ∧
    leekAt (matRun { matLeek with queue := [started (.acz 15) false] }) (.l .mmwait lf) (fun _ _ l => !l.queue.isEmpty) = true ∧
    leekAt (matRun matLeek) (.l .lkexit lf) (fun _ _ l => l.takes false 0) = true ∧
    leekAt (matRun matLeek) (.l .lkexit { lf with pred := 1 }) (fun _ _ l => !l.takes false 1) = true := by decide +kernel

/-- An operation of each kind; and one of them in the queue, its memory events so far, and what they read. -/
def matKinds : List MatKind :=
  [.tld 7 0 64, .agath 1 0 0 0, .mma .f16x2 .f16x2 1 7 15, .mmas .e4m3x4 .e4m3x4 1 7 15 0 0, .acz 15, .acdrn .f16x2 .f32 15 0 256, .acrel 15]
def under (k : MatKind) (events : Nat) (bad : List MatGranule := []) : Leek :=
  { matLeek with
    bad := bad, queue := [{ started k (events != 0 || k.memEvents != 0) with events := events, held := List.replicate (32 * events) 0 }] }

theorem witness_MatrixOperationsRun :
    ((matKinds.all fun k => [[], [{ place := .tile 7, granule := 0 }, { place := slotPlace 15, granule := 16383 }]].all fun (bad : List MatGranule) =>
       let l : Leek := { matLeek with queue := [started k false], bad := bad }
       let s := matRun l
       l.nextOp == some (started k false) && !(s.cluster 0).occupied k.res && !s.earlierOp (matGrp l) (started k false) &&
         (s.group? 0).any (fun g => g.leek == some l && (s.ctx? g.ctx).isSome) && (bad == [] || k.reads == [] || k.reads.any fun p => bad.any fun b => b.place == p)) &&
     ([(MatKind.tld 7 0 64, 255), (.agath 1 0 0 0, 0), (.agath 1 0 0 0, 7), (.agath 1 0 0 0, 135), (.mmas .e4m3x4 .e4m3x4 1 7 15 0 0, 15),
       (.acdrn .f16x2 .f32 15 0 256, 1023)].all fun x =>
       let l := under x.1 x.2
       let s := matRun l
       s.mem.wf && l.memOp.any fun o => o.events == x.2 && o.kind == x.1 && match
         s.resolveScratch { ctx := ctx, grp := matGrp l } o.nextAt (if x.1.reads == [slotPlace 15] then .write else .read) false with
         | .ok p _ _ => !s.poisoned p o.nextBytes &&
           (s.scratchFault { ctx := ctx, grp := matGrp l } .read (rowPieces (rowOffsets 0 0 (List.replicate 256 0)))).isNone
         | .bad _ _ => false) &&
     (matKinds.all fun k => let o : MatOp := { started k true with events := k.memEvents }
       Option.any (fun x => x == o) (List.find? (fun x => x.id == 3 && x.started && x.quiet) [o])) &&
     ((slotRows []).length == 128 && ((slotRows []).getD 127 []).length == 128 && slotTypeOf .e4m3x4 == .f32 && slotTypeOf .s8x4 == .s32))
       = true := by decide +kernel

/-! ### Events -/

/-- A machine that is running (READY, STAGE 6). -/
def on (s : State) : State := { s with hw := { s.hw with ready := true, stage := 6 } }

/-- A pod of a kind with ENTRY 0x1000, one span of one group of one warp, and the memory of a kernel: the descriptor before
ENTRY (8 registers, 16 scalars, class 1), a launch queue with that pod at its head. -/
def podOf (kind : Nat) : Pod :=
  { entry := 0x1000, frame := 0, join := 0, shape := BitVec.ofNat 64 (2 ^ 32 + 2 ^ 16 + 1 + kind * 2 ^ 51), args := Vector.replicate 8 7 }
def kernelMem (kind : Nat) : Memory :=
  (((queueMem 3 1).write 0xFC0 (toBytesLE 8 (1 + 2 * 2 ^ 12 + 2 ^ 16 + 2 ^ 26))).write 0x7000 (toBytesLE 8 0x1000)).write 0x7018
    (toBytesLE 8 (podOf kind).shape.toNat)
def podCtx : Context := { lqCtx with gathBase := 0x9000, gathSize := 0x1000 }
def podRun (kind : Nat) (groups : List Group := []) : State :=
  on { machine podCtx (grp (warp .b32)) with mem := kernelMem kind, groups := groups, cur := none, nextUid := 9 }
def work : PodWork :=
  { uid := 5, ctx := 0, queue := .launch 0, addr := 0x7000, pod := podOf 0, next := 0, open' := 0, fault := false, lost := [], since := 0
    order := 0, limit := false, gathered := false, joins := [] }
def gather (offered : Bool) : Gather :=
  { uid := 6, ctx := 0, queue := .launch 0, pod := podOf 1, warps := 1, base := 0x9000, count := 1, joins := [(0, 0)], since := 0
    offered := offered, order := 0, limit := false }

/-- Decides that a source's next span may be placed in a state. -/
def placeable (s : State) (src : PlaceSource) : Bool :=
  match s.ctx? 0, s.part? 0, (s.candidates 0).find? (fun x => x.1.src == src) with
  | some c, some p, some x => s.places c && !s.yields p x.1 && (s.placed p c src).isSome
  | _, _, _ => false

/-- An ended warp and its group. -/
def gone (ended : Option W64) : Group := grp { warp .b32 with ended := ended }

theorem witness_PodsAreGatheredPlacedAndEnded :
    ((podRun 1).ctx? 0).map Context.id = some 0 ∧ ((podRun 1).part? (partOf 0)).isSome = true ∧
    (match (podRun 1).head podCtx (.launch 0) with
     | .pod h => h.pod.kind == 1 && h.pod.refusal == none && ((podRun 1).openGather podCtx (.launch 0) h).isSome &&
         h.pod.shape == (gather false).pod.shape && h.pod.entry == (gather false).pod.entry
     | _ => false) = true ∧
    placeable { podRun 0 with pods := [work] } (.queue 0 (.launch 0)) = true ∧
    placeable { podRun 2 with gathers := [gather true] } (.gathered 6) = true ∧
    (let r : Restart := { uid := 4, orig := grp (warp .b32) { KDesc.plain with vcount := 8, restart := true }, pod := podOf 0, join := 0
                          warp := 0, slice := 0, lane := 63 }
     ((podRun 2).placeRestart (Partition.blank 0 0) podCtx r KDesc.plain).isSome &&
       !(podRun 2).heldBack (Partition.blank 0 0) r.orig.prio &&
       State.heldBack { podRun 0 with pods := [{ work with limit := true }] } (Partition.blank 0 0) r.orig.prio &&
       (match (podRun 2).readDesc podCtx r.pod (r.orig.podAddr + 24) with
        | .ok _ => true
        | _ => false)) = true ∧
    (let s (more : List Group) : State := { podRun 2 with groups := gone (some 0x1000) :: more }
     (s []).groupOver (gone (some 0x1000)) && (s [{ gone none with uid := 1 }]).groupOver (gone (some 0x1000))) = true ∧
    1 ≤ (podRun 2).roomIn podCtx (.launch 0) := by decide +kernel

theorem witness_LaunchSetsTheRegisters :
    (State.launch (podRun 2) podCtx
      { ctx := 0, work := 5, pod := podOf 0, podAddr := 0x7000, desc := { KDesc.plain with scrSize := 64, leek := true, lkEntry := 0x1100 }
        groupId := 65535, groups := 1, spanId := 0, span := 0, warps := [(95, 1)], restart := none }
      { cluster := 31, slices := [5], leek := some 3 }).isSome = true := by decide +kernel

/-- A request of module 3's context 0 to context 0 here. -/
def request (rsn : Option W32) : RemoteRequest :=
  { requester := 3, ctx := 0, gen := 0, rsn := rsn, watermark := 0xFFFFFFFF, epoch := 1, ownerCtx := 0, va := 0x2000
    op := .store [1, 2, 3, 4] false, tag := 9 }
def entry : CacheEntry := { slice := 0, requester := 3, ctx := 0, gen := 0, rsn := 0, status := .ok, values := [] }
def known : Requester := { requester := 3, ctx := 0, gen := 0, watermark := 0xFFFFFFFF, next := 0, skipped := [], last := 0 }

/-- Decides that the owner has heard of a requester in a state, and a condition on the state after. -/
def greets (s : State) (p : State → Bool) : Bool :=
  s.up && !s.partSilent (partOf 0) && match s.greet 3 0 0 0xFFFFFFFF with
    | some u => p u
    | none => false

/-- A state that has sent a packet, which therefore can arrive whatever the module's number is (R335). -/
def sent (s : State) (p : Packet) : State :=
  { s with fabricOut := [p], outRemote := match p with
    | .request _ r => [{ answered with tag := r.tag, done := none }]
    | _ => s.outRemote }
theorem sent_arrives (s : State) (m : Byte) (p : Packet) : (sent s p).arrives m p = true := by
  cases p <;> simp [State.arrives, sent]

/-- A request for two additions to a pair of halves, and the owner in the middle of it (R158). -/
def pairRequest : RemoteRequest := { request (some 0) with op := .atom .add .bf16x2 [(0x3F803F80, 0), (0x3F803F80, 0)] 0 }
def atomEvent (el : Nat) : AtomEvent := { lane := 1, el := el, place := 0x2000 + 2 * el, v := 0x3F80 }
def serving (todo : List AtomEvent) : Serving := { request := pairRequest, todo := todo, got := [(0, 0, 0), (0, 1, 0)] }

/-- Decides the premises for a numbered request that is neither old nor kept, with the RSN that comes next. -/
def newRequest (s : State) (r : RemoteRequest) (n : W32) (p : State → Requester → Bool) : Bool :=
  greets s fun u => !u.oldEpoch r && u.cached 3 0 0 n == none && u.heldReqs.isEmpty && u.serving.isEmpty &&
    (u.requester? 3 0).any (p u)

theorem witness_OwnersAnswerExactlyOnce :
    (∀ s : State, ∀ r, State.arrives (sent s (.request Config.moduleId r)) r.requester (.request Config.moduleId r) = true) ∧
    greets (sent { podRun 2 with partEpoch := [(0, 2)] } (.request Config.moduleId (request (some 0)))) (fun u =>
      u.oldEpoch (request (some 0))) = true ∧
    greets (sent (podRun 2) (.request Config.moduleId (request none))) (fun u => !u.oldEpoch (request none)) = true ∧
    greets { podRun 2 with cache := [{ entry with rsn := 1 }], requesters := [known] } (fun u => !u.oldEpoch (request (some 1)) &&
      u.cached 3 0 0 1 == some { entry with rsn := 1 }) = true ∧
    ([request (some 0), pairRequest].all fun r => newRequest (podRun 2) r 0 fun u q => !ahead q.next 0 &&
      decide ((u.cache.filter fun e => e.slice == u.requestSlice r).length < 1024) &&
      skipTo q.skipped q.skipped.length q.next == 0 && (u.startServing r).isSome == (r.op != (request none).op)) = true ∧
    newRequest { podRun 2 with requesters := [{ known with next := 5 }] } (request (some 4)) 4 (fun _ q => ahead q.next 4) = true ∧
    ([[atomEvent 1], [atomEvent 0, atomEvent 1]].all fun todo =>
      let s : State := { podRun 2 with serving := [serving todo] }
      s.heldReqs.isEmpty && (stepWords pairRequest.op).isSome) = true ∧
    (State.requester? { podRun 2 with requesters := [known] } 3 0) = some known ∧
    (serving [atomEvent 1]).is 3 0 = true ∧ pairRequest.rsn = some 0 ∧ ahead 5 0 = true ∧ ahead 5 known.watermark = true ∧
    (let s := podRun 2
     (s.ownerPlace (request none)).isSome && s.mem.wf) = true := by
  refine ⟨fun s r => sent_arrives s _ _, ?_⟩
  decide +kernel

/-- A slice whose result cache is full refuses the request: the premises of that clause. -/
theorem witness_FullResultCache :
    let s : State := { podRun 2 with
      cache := List.replicate 1024 { entry with rsn := 9, slice := Config.tierOneHome (0x2000 / 64) % 16 } }
    ∃ u, s.greet 3 0 0 0xFFFFFFFF = some u ∧ 1024 ≤ (u.cache.filter fun e => e.slice == u.requestSlice (request (some 0))).length := by
  have h (x : Requester) (c : List CacheEntry) :
      (State.putRequester { podRun 2 with cache := c } x).requestSlice (request (some 0)) = Config.tierOneHome (0x2000 / 64) % 16 := by
    have p : (podRun 2).ownerPlace (request (some 0)) = some (0x2000, false) := by decide +kernel
    have q (s : State) : (State.putRequester { s with cache := c } x).ownerPlace (request (some 0)) = s.ownerPlace (request (some 0)) := rfl
    rw [State.requestSlice, q, p]
    simp [State.homeSlice]
  refine ⟨_, rfl, ?_⟩
  rw [h]
  show 1024 ≤ (List.filter _ (List.replicate 1024 _)).length
  exact Nat.le_of_eq ((congrArg List.length (List.filter_replicate_of_pos (by simp))).trans List.length_replicate).symm

/-- An operation that waits at the requester. -/
def pending (refused : Option Nat) (tries : Nat) : Outstanding :=
  { answered with done := none, refusedAt := refused, tries := tries, posted := true }
def waits (o : Outstanding) (clock : Nat) : State := { podRun 2 with outRemote := [o], clock := clock }
def answer : RemoteAnswer :=
  { owner := 0, ctx := 0, gen := 0, tag := 7, part := 0, epoch := 1, status := .ok, values := [], bad := none }
def peer : Peer := { owner := 0, next := 1, watermark := 0xFFFFFFFF, acked := 0xFFFFFFFF, early := [], kept := 0 }

theorem witness_RequestersCompleteTheirOperations :
    (∀ s : State, State.arrives (sent s (.answer Config.moduleId answer)) 0 (.answer Config.moduleId answer) = true ∧
      State.arrives (sent s (.refusal Config.moduleId answer)) 0 (.refusal Config.moduleId answer) = true) ∧
    ((waits (pending none 1) 0).hear 0 0 1).current? answer = some (pending none 1) ∧
    (waits (pending (some 0) 1) 11200).outstanding? 7 = some (pending (some 0) 1) ∧
    (waits (pending none 1) 11200).outstanding? 7 = some (pending none 1) ∧ min (8 * 2 ^ (1 - 1)) 64 * 1400 ≤ 11200 ∧
    (waits (pending none 16) 89600).outstanding? 7 = some (pending none 16) ∧ (podRun 2).up = true ∧
    ((({ podRun 2 with clock := 280000 } : State).lastPkt.find? fun x => x.1 == 0).map Prod.snd).getD 0 + 280000 ≤ 280000 ∧
    (let c : Context := { podCtx with peers := [peer] }
     State.ctx? { podRun 2 with ctxs := [c] } 0 = some c ∧ (c.peers.find? fun p => p.owner == 0) = some peer) ∧
    ahead (peer.next - 1) peer.acked = true ∧ peer.kept + 14000 ≤ 14000 := by
  refine ⟨fun s => ⟨sent_arrives s _ _, sent_arrives s _ _⟩, ?_⟩
  decide +kernel

/-- A configuration block with SAFEGRANT 1000, and the header of an image with a body of 64 bytes. -/
def cfgBlock : List Byte := toBytesLE 4 0x47464E43 ++ toBytesLE 2 64 ++ [1, 0] ++ toBytesLE 2 1000 ++ List.replicate 54 0
def imageHeader : List Byte :=
  toBytesLE 4 0x4D49574E ++ toBytesLE 4 0 ++ toBytesLE 8 64 ++ List.replicate 48 0 ++ toBytesLE 8 0 ++ toBytesLE 8 64 ++ List.replicate 48 0

/-- Whether the verification of FWGO succeeds rests on the opaque functions of Config; the rest of its premises are met. -/
theorem witness_HostPortEventsComplete :
    failureOk { stage := 2, code := 0x31, detail := 767 } = true ∧
    (let s : State := { State.reset with hw := { HwA.reset with stage := 3, fwSize := 4096 } }
     s.hw.stage = 3 ∧ s.hw.fwAddr.toNat % 4096 = 0 ∧ 4096 ≤ s.hw.fwSize.toNat ∧ s.hw.fwSize.toNat ≤ 2 ^ 26 ∧
       headerOk imageHeader 16800 = true ∧ configBad cfgBlock = none ∧
       s.alive ∧ s.power ∧ verifyBad (s.hostMem.read 0 4096) ((s.hostMem.read 0 4096).take 128) = some 1) ∧
    (podRun 2).hw.stage ≠ 7 ∧
    (let s : State := { State.reset with hw := { HwA.reset with stage := 3, fwSize := 4095 } }
     s.alive && s.power && s.hw.stage == 3 && s.hw.fwSize.toNat < 4096) = true ∧
    (let s : State := { podRun 2 with port := [.register 0x40 5, .look 0] }
     s.port ≠ [] ∧ s.alive ∧ s.power ∧ s.hw.stage ≠ 7 ∧ s.hw.ready) ∧
    (let s : State := { State.reset with hw := { HwA.reset with stage := 3 } }
     s.alive ∧ s.power ∧ s.port = [] ∧ s.aperture (2 ^ 36 - 1) = none) ∧
    ((podRun 2).port = [] ∧ ((podRun 2).hw.write 0x48 0).pRamp = 0 ∧ ((podRun 2).hw.write 0x48 50).pRamp ≠ 0 ∧
      (podRun 2).alive ∧ (podRun 2).power ∧ (podRun 2).hw.ready) ∧
    (podCtx.run != .terminated && podCtx.stopped.isEmpty) = true ∧
    (let s : State := { podRun 2 with hw := { (podRun 2).hw with aper := (Vector.replicate 64 (0, 0)).set 0 (0x800, 0x40000000) } }
     (s.aperture 4).any fun x => x.1 == podCtx && x.2 == 0x40000004 && (s.hostPlace x.1 x.2).isNone) = true ∧
    (let s : State := { podRun 2 with
       port := [.write [(0, [1]), (32, [2])]]
       hw := { (podRun 2).hw with aper := (Vector.replicate 64 (0, 0)).set 0 (0x800, 0x2000) } }
     s.mem.wf && (s.aperture 0).any (fun x => x.2 == 0x2000 && (s.hostPlace x.1 x.2).isSome) && (s.aperture (2 ^ 30)).isNone) = true ∧
    doorbellQueue 0x38 = some (.launch 7) ∧ doorbellQueue 0 = some (.launch 0) ∧ podCtx.hasQueue (.launch 7) = true ∧
    ((podRun 2).queue? podCtx (.launch 0)).any (fun d => d.ok && decide (((2 : W64) - BitVec.ofNat 64 d.tail).toNat ≤ d.free)) = true ∧
    (let s : State := { podRun 2 with hw := { (podRun 2).hw with aper := (Vector.replicate 64 (0, 0)).set 63 (0x800, 0x2000) } }
     (match s.aperture (63 * 2 ^ 30 + 4095) with
      | some (c, va) => match s.hostPlace c va with
        | some (p, apx, _) => va == 0x2FFF && s.errorIn p 1 apx == none
        | none => false
      | none => false) = true) ∧
    (podRun 2).up = true ∧ (0x7FF : W64).toNat < 2 ^ 11 ∧ (podRun 2).mem.wf = true := by decide +kernel

/-- A command of the ring, and a state in which it is accepted. -/
def command (op part ctx : Nat) (a : List W64) : Command :=
  let x (i : Nat) : W64 := (a[i]?).getD 0
  { index := 1, w := #v[BitVec.ofNat 64 (op + part * 2 ^ 8 + ctx * 2 ^ 16), x 0, x 1, x 2, x 3, x 4, x 5], time := 0 }
def commanded (s : State) (c : Command) : State := { s with accepted := [c] }

/-- Decides that a command is the one that an event carries out, and a condition on it and the state after it is taken. -/
def begins (s : State) (fits : Command → Bool) (p : Command → State → Bool) : Bool :=
  match s.begin fits with
  | (some c, t) => p c t
  | (none, _) => false

theorem witness_PartitionCommandsComplete :
    begins (commanded (podRun 2) (command 1 31 0 [0x80000000, 0, 1, 19, 7, 0])) (fun c => c.op == 1) (fun c t =>
      let mask : BitVec 32 := 0x80000000
      decide (c.part = 31 ∧ c.arg1.toNat = mask.toNat ∧ c.arg4.toNat + (t.parts.map Partition.credits).sum ≤ 20 ∧ c.arg5.toNat ≤ 7) &&
        shareOk c.arg2.toNat c.arg3.toNat && (t.part? c.part).isNone && mask &&& t.takenQuarters 32 == 0 &&
        t.parts.all fun x => !shareMeets c.arg2.toNat c.arg3.toNat x) = true ∧
    begins (commanded (podRun 2) (command 2 0 0 [2, 0, 5])) (fun c => c.op == 2 && c.arg2 != 1) (fun c t =>
      (t.part? c.part).any fun p => !p.failed && p.id == c.part) = true ∧
    (let p : Partition := { Partition.blank 0 0 with prepared := true, leaving := 1 }
     begins (commanded { podRun 2 with parts := [p] } (command 2 0 0 [2, 1])) (fun c => c.op == 2 && c.arg2 == 1) fun c t =>
       c.arg1 == 2 && p.quarters &&& ~~~(2 : BitVec 32) &&& ~~~p.leaving == 0 && (2 : BitVec 32) &&& ~~~p.quarters &&& t.takenQuarters p.id == 0)
       = true ∧
    ([(3, (0 : W64)), (4, 0), (5, 7)].all fun x => begins (commanded (podRun 2) (command x.1 0 0 [x.2])) (fun c => c.op == x.1)
      fun c t => (t.part? c.part).any (fun p => !p.failed && p.id == c.part) && t.groups.all fun g => g.ended || partOf g.ctx != 0)
      = true ∧
    (let r : Running := { cmd := command 2 0 0 [2, 0, 5], deadline := 0 }
     let s (gs : List Group) : State := { podRun 2 with running := [r], parts := [{ Partition.blank 0 0 with leaving := 1 }], groups := gs }
     ((s []).preparing 0).isSome && ((s []).residentOn 1 0).isEmpty && !((s [grp (warp .b32)]).residentOn 1 0).isEmpty &&
       decide (r.deadline ≤ (s []).clock)) = true := by decide +kernel

/-- A machine whose context 0 has a run state, and a command on it. -/
def ctxRun (r : CtxRun) (op : Nat) (a : List W64) (debug : Bool := false) (gs : List Group := []) : State :=
  commanded { podRun 2 gs with ctxs := [{ podCtx with run := r, debug := debug }] } (command op 0 0 a)

/-- Decides that a context command finds its live context. -/
def ctxBegins (s : State) (fits : Command → Bool) (p : Command → Context → State → Bool := fun _ _ _ => true) : Bool :=
  begins s fits fun c t => (t.ctx? c.ctx).any fun x => ((t.part? (partOf c.ctx)).all fun p => !p.failed) && x.id == c.ctx && p c x t

theorem witness_ContextCommandsComplete :
    begins (commanded (podRun 2) (command 0x10 0 63 [0x4000])) (fun k => k.op == 0x10) (fun c t =>
      (t.ctx? c.ctx).isNone && c.arg1 == 0x4000 && (t.part? (partOf c.ctx)).any fun p => !p.failed && p.owns 0x4000 128 &&
        ctxDescOk (fun i => t.mem.read64 (0x4000 + 8 * i)) p.id c.part) = true ∧
    ctxBegins (ctxRun .running 0x11 [5]) (fun k => k.op == 0x11) (fun _ x t => x.run != .terminated && t.idle x.id) = true ∧
    ctxBegins (ctxRun .running 0x11 [5] false [grp (warp .b32)]) (fun k => k.op == 0x11)
      (fun _ x t => x.run != .terminated && !t.idle x.id) = true ∧
    ([true, false].all fun saved => ctxBegins (ctxRun (.drained saved) 0x12 []) (fun k => k.op == 0x12) fun _ x _ =>
      x.run == .drained saved) = true ∧
    ([0x13, 0x14, 0x16, 0x17].all fun op => ctxBegins (ctxRun .terminated op []) fun k => k.op == op) = true ∧
    ctxBegins (ctxRun .running 0x15 [0, 1]) (fun k => k.op == 0x15) (fun c _ _ => decide (c.arg2.toNat ≤ 1)) = true ∧
    (let gs : List Group := [grp { warp .b32 with halted := true }]
     let ok (c : Command) (t : State) : Bool := t.debugAgent c == some (.warp 0 0) && (t.group? 0).any fun g => (g.warp? 0).isSome
     ctxBegins (ctxRun .running 0x18 [] true gs) (fun c => c.op == 0x18 && !(1 ≤ c.arg3.toNat && c.arg3.toNat ≤ 3))
       (fun c x t => x.debug && ok c t) &&
     ctxBegins (ctxRun .running 0x18 [0, 0, 1] true gs) (fun k => k.op == 0x18 && k.arg3 == 1) (fun c _ t => ok c t) &&
     ctxBegins (ctxRun .running 0x18 [0, 0, 2, 0x2000, 0xFF] true gs) (fun k => k.op == 0x18 && k.arg3 == 2) (fun c _ t => ok c t &&
       (debugWarp (grp (warp .b32)) (warp .b32) c.arg5.toNat).isSome) &&
     ctxBegins (ctxRun .running 0x18 [0, 0, 3, 0x2000, 0x103] true gs) (fun k => k.op == 0x18 && k.arg3 == 3) (fun c x t => ok c t &&
       match t.partRead x c.arg4.toNat (debugSize c.arg5.toNat) with
       | .ok bs => (debugSet (warp .b32) c.arg5.toNat bs).isSome
       | _ => false)) = true ∧
    (ctxRun (.draining 0) 0 []).idle 0 = true ∧ (ctxRun (.draining 0) 0 [] false [grp (warp .b32)]).idle 0 = false := by decide +kernel

/-- A running machine with fabric port 7 up, or training with a retrain command under way. -/
def ported (up training : Bool) : State :=
  let s := podRun 2
  { s with hw := { s.hw with up := if up then 0x80 else 0, training := if training then 0x80 else 0 }
           running := if training then [{ cmd := command 0x40 0 0 [7, 1], deadline := 0 }] else [] }

theorem witness_ContainmentEventsComplete :
    begins (commanded (podRun 2) (command 0x20 0 0 [0xFFF])) (fun c => c.op == 0x20) (fun c t =>
      decide (c.arg1.toNat < 2 ^ 12) && !(t.cluster 255).retired.contains 15 && (t.cluster 255).slots.isEmpty) = true ∧
    begins (commanded (matRun matLeek) (command 0x20 0 0 [0xF00])) (fun c => c.op == 0x20) (fun _ t =>
      (t.cluster 0).slots.any fun x => x.n == 15) = true ∧
    begins (commanded (podRun 2) (command 0x30 0 0 [])) (fun c => c.op == 0x30) (fun _ _ => true) = true ∧
    begins (commanded (podRun 2) (command 0x40 0 0 [7, 0])) (fun c => c.op == 0x40 && !(c.arg2 == 1 && (linkPort c).isSome))
      (fun c _ => linkPort c == some 7 && c.arg2 == 0) = true ∧
    begins (commanded (podRun 2) (command 0x40 0 0 [7, 1])) (fun c => c.op == 0x40 && c.arg2 == 1 && (linkPort c).isSome)
      (fun c _ => linkPort c == some 7) = true ∧
    (ported false true).up = true ∧ (ported false true).hw.training.getLsbD 7 = true ∧
    ((ported false true).running.find? fun r => retrains 7 r.cmd).isSome = true ∧ (ported true false).hw.up.getLsbD 7 = true ∧
    (podRun 2).hw.dieFailed.getLsbD 7 = false := by decide +kernel

/-- A loan of this module. -/
def loan (side : LoanSide) (recalled fenced : Option Nat) : Loan :=
  { uid := 2, side := side, port := 7, tokens := 1, since := 0, recalled := recalled, fenced := fenced }
def lent (l : Loan) (clock : Nat) : State := { podRun 2 with loans := [l], clock := clock }

theorem witness_PowerAndErrorEventsComplete :
    (lent (loan .borrower none none) 700000000).up = true ∧ (lent (loan .borrower none none) 700000000).lastGrant = 0 ∧
    (let s : State := { ported true false with hw := { (ported true false).hw with pTrade := 0x7FF } }
     s.hw.trading = true ∧ s.hw.up.getLsbD 7 = true ∧ s.hw.pBorrow.toNat + 1023 < 2 ^ 10) ∧
    -- a module that draws 499 W of 1,000 tokens may lend 950 of them, unless it drew 500 W for a whole ms within the last 10 ms
    (let s (ds : List (Nat × Nat × Nat)) : State := { ported true false with
       clock := 15400000, draws := ds.map fun d => ⟨d.1, d.2.1, d.2.2 * 1400000⟩
       hw := { (ported true false).hw with pTrade := 0x7FF, pGrant := 1000 } }
     ((s [(0, 15400000, 499)]).mayLend 950 && !(s [(0, 15400000, 499)]).mayLend 951 &&
       !(s [(0, 1400000, 500), (1400000, 15400000, 499)]).mayLend 950 &&
       (s [(0, 700000, 500), (700000, 15400000, 499)]).mayLend 950 && (s [(0, 15400000, 499)]).pDraw == 499 &&
       (s [(14700000, 15400000, 998)]).pDraw == 499) = true) ∧
    (lent (loan .borrower none none) 140000000).loan? 2 = some (loan .borrower none none) ∧
    (lent (loan .lender none none) 0).loan? 2 = some (loan .lender none none) ∧
    (lent (loan .lender (some 0) none) 2800000).loan? 2 = some (loan .lender (some 0) none) ∧
    (lent (loan .lender none (some 0)) 2800000).loan? 2 = some (loan .lender none (some 0)) ∧
    (lent (loan .lender (some 0) (some 5)) 2800004).loan? 2 = some (loan .lender (some 0) (some 5)) ∧
    (podRun 2).railTarget 255 = 7 ∧
    (let s : State := ({ podRun 2 with hw := { (podRun 2).hw with pRamp := 40 } } : State).mapCluster 35 fun k =>
       { k with waiters := [.warp 0 0] }
     s.hw.pRamp ≠ 0 ∧ s.admitNext ≤ s.clock ∧ (nextAdmitted s.admitDie s.admitPos s.limited).isSome = true) ∧
    ((podRun 2).alive = true ∧ (podRun 2).power = true ∧ preciseBank (23 * 2 ^ 15 + 5) = true ∧ preciseBank (24 * 2 ^ 15) = false ∧
      (podRun 2).poison = [] ∧ granuleOf 2 (sramAt + 5) ∈ State.poison { podRun 2 with poison := [granuleOf 2 (sramAt + 5)] }) ∧
    (granuleOf 2 (sramAt + 5) ≠ copyGranule 255 (sramAt - 8) ∧ copyGranule 255 0x2000 ∉ (podRun 2).poison) ∧
    (lineSource 3 0x2000 && lineSource 4 0x2000 && lineSource 5 tierTwoAt && ((podRun 2).pagePlace 0 0x2000 false).isSome &&
      State.pagePlace { podRun 2 with mem := (kernelMem 2).write (placedTables + 0x1000) (toBytesLE 8 0x13D) } 0 0x2000 true == some 0x2000)
      = true ∧
    (let l : Latch := { lanes := mkLanes fun _ => 0, wide := false, tag := .b32, apx := false }
     let w : Warp := { warp .b32 with latches := Vector.replicate 4 (some l), bad := [.v 255 63] }
     (run w).latchValid 0 0 3 && ((run w).group? 0).any (fun g => (g.warp? 0).any fun w =>
       w.ended.isNone && w.bad.contains (.v 255 63) && !w.bad.contains (.crossbar 63) && !w.bad.contains (.qb 3 63 true))) = true ∧
    ((runLeek leek).group? 0).any (fun g => g.leek.any fun l => l.ended.isNone && l.bad.isEmpty) = true ∧
    15 < granulesOf (.tile 7) ∧ granulesOf (slotPlace 15) = 2 ^ 14 ∧
    (∃ x ∈ State.datapath { podRun 2 with datapath := [(0x2000, 4)] }, x.1 ≤ 0x2003 ∧ 0x2003 < x.1 + x.2) ∧
    (((machine ctx (fifoGrp 128 (warp .b32))).group? 0).any fun g => ((g.fifo 31)[127]?).any fun x => !x.bad.contains 31) = true ∧
    (let g : Group := { fifoGrp 0 (warp .b32) with fifos := [(31, [{ bytes := [], bad := [31] }])] }
     ((machine ctx g).group? 0).any fun g => ((g.fifo 31)[0]?).any fun x => x.bad.contains 31) = true := by
  decide +kernel

/-! ## Well-formedness

An ill-formed term for each check. -/

theorem test_wf_shapes :
    ([.unassignedOp 0, .unassignedOp 0x3FF, .add lf, .add { addF with dst := .s 2 }, .add { addF with fmt := .b32 },
      .add { addF with sub := 2 }, .add { addF with src0 := .k 1 }, .add { addF with src2 := .v 1 }, .add { addF with a := true },
      .add { addF with imm := some 1 }, .add { addF with src1 := .imm }, .mul { addF with dst := .v 3, fmt := .s64 },
      .movi { lf with dst := .v 2, fmt := .q64, imm := some 0 }, .cmp { lf with dst := .k 1, fmt := .s32, nw := true },
      .tret { lf with pred := 1 }, .nperm { lf with dst := .v 2, src0 := .v 2, sub := 1 }, .movs { lf with dst := .s 2, imm := some 0 },
      .spin { lf with imm := some 17 }, .tagset { lf with dst := .v 2, src0 := .v 4, src1 := .imm, imm := some 16 },
      .qset { lf with dst := .qm 1, src0 := .v 2, src1 := .v 4, fmt := .n64 }, .barsync { lf with sub := 1, imm := some 16 },
      .ld { mf with data := .v 2, base := .s 5 }, .ld { mf with data := .v 2, base := .s 4, brec := 0 },
      .lds { mf with data := .v 2, base := .s 4 }, .st { mf with data := .latch 0, base := .s 4 }, .ldb { mf with data := .v 2, base := .s 4 },
      .st { mf with data := .v 2, base := .s 4, nw := true }, .acopy { mf with data := .s 2, base := .s 4, index := .s 7 },
      .mark { bf with pred := 1 }, .join { bf with offset := 1 }, .exit { bf with offset := 1 }, .rep { stride := 0, step := 0, count := 1 }
      ] : List Instr).all (fun i => !i.wf) = true := by decide +kernel

theorem test_wf_events :
    ([.gatherTake 2048 (.launch 0), .gatherTake 0 (.launch 8), .groupPlace (.queue 2048 (.edge 0)), .groupPlace (.queue 0 (.edge 256)),
      .bartimeout (.gb 0 16), .bartimeout (.sb 0 8), .keepalive 2048 0, .resultCacheExpiry 0 2048, .registerWrite (2 ^ 24) 0,
      .registerWrite 4 0, .doorbell 2048 0 0, .doorbell 0 4096 0, .doorbell 0 4 0, .hostWrite (2 ^ 36) [0], .hostRead (.hwB (2 ^ 36)) 1,
      .hostRead (.hwA (2 ^ 24)) 8, .hostRead (.hwA 4) 8, .hostRead (.hwA 0) 4,
      .prepareComplete 32, .resizeDeadline 32, .drainComplete 2048, .drainDeadline 2048, .retrainDeadline 8, .linkFence 8,
      .linkTrainingPass 8, .dieFailure 8, .loanOffer .lender 8 1, .railSettle 256 0, .sliceRatioChange 256 0 1, .sliceRatioChange 0 6 1,
      .sliceRatioChange 0 0 0, .sliceRatioChange 0 0 9, .bankDrainComplete 256 0, .bankDrainComplete 0 32] : List Instr).all
      (fun i => !i.wf) = true ∧
    ([.gatherTake 2047 (.launch 7), .registerWrite (2 ^ 24 - 8) 0, .loanOffer .borrower 7 1, .bankDrainComplete 255 31, .powerLoss] :
      List Instr).all (fun i => i.wf && i.isEvent) = true := by decide +kernel

/-! ## Results that the specification states -/

/-- Decides a condition on the warp after one instruction. -/
def after (i : Instr) (s : State) (p : Warp → Bool) : Bool :=
  match exec i s with
  | .next t => ((t.group? 0).bind fun g => g.warp? 0).any p
  | _ => false

/-- The state after the first events of an instruction whose events are not consecutive (R332). -/
def events (i : Instr) : Nat → State → State
  | 0, s => s
  | n + 1, s => match exec i s with
    | .next t => events i n t
    | _ => s

def lane (w : Warp) (n : Nat) (l : Fin 64) : W32 := (w.vreg n).lanes[l]

/-- The worked addition of the carry instruction: 0x1_FFFF_FFF0 + 0x2_0000_0020. -/
theorem test_addc :
    (let w := setV (setV (warp .n32) 0 .n32 fun _ => 0xFFFFFFF0) 2 .n32 fun _ => 0x20
     after (.addc { lf with dst := .v 4, src0 := .v 0, src1 := .v 2, src2 := .k 1, fmt := .n32 }) (run w) fun x =>
       lane x 4 63 == 0x10 && x.kmask 1 == BitVec.allOnes 64) = true ∧
    (let w := setV (setV { warp .n32 with k := (Vector.replicate 8 0).set 1 1 } 1 .n32 fun _ => 1) 3 .n32 fun _ => 2
     after (.addc { lf with dst := .v 5, src0 := .v 1, src1 := .v 3, src2 := .k 1, fmt := .n32 }) (run w) fun x =>
       lane x 5 0 == 4 && lane x 5 1 == 3 && x.kmask 1 == 0) = true := by decide +kernel

/-- R101's example: bits 8 to 5 of 0x1E0 are 0b1111, which BFX.S32 returns as -1. -/
theorem test_bfx : lo32 (opBfx.value { lf with fmt := .s32 } 0x1E0 0x405 0) = 0xFFFFFFFF := by decide +kernel

/-- The worked conversion of R122. -/
theorem test_cvt :
    (let f : LForm := { lf with dst := .v 8, fmt := .e4m3x4 }
     let w := setV (setV (warp .f32) 0 .f32 fun _ => 0x3F800000) 1 .f32 fun _ => 0xBE99999A
     let x := setV (setV (warp .f32) 2 .f32 fun _ => 0x43FA0000) 3 .f32 fun _ => 0x3C000000
     after (.cvt { f with src0 := .v 0, src1 := .v 1 }) (run w) (fun y => lane y 8 9 == 0xAA38 && (y.vreg 8).tag == .e4m3x4) &&
     after (.cvt { f with src0 := .v 2, src1 := .v 3 }) (run x) (fun y => lane y 8 9 == 0x47F && y.flags == 0x14)) = true := by
  decide +kernel

/-- The block scales and codes of R84's example. -/
theorem test_block_scale :
    (let v (c : Nat) : FVal := FFmt.f32.decode c
     let code (c : Nat) (k : Int) : Nat × Byte := FFmt.e4m3.scaled (v c) k .rne 0x555
     let k := blockScale .e4m3 [v 0x43FA0000, v 0xC1500000, v 0x3A83126F]
     k == 0 && (code 0x43FA0000 k).1 == 0x7E && (code 0xC1500000 k) == (0xD5, 0) && (code 0x3A83126F k).1 == 1 &&
       blockScale .e4m3 [v 0x3F400000] == -9 && (code 0x3F400000 (-9)).1 == 0x7C) = true := by decide +kernel

/-- The modular example: q = 97 with its constant 168, and with a wrong constant 0. -/
theorem test_qmul :
    (let f : LForm := { lf with dst := .v 8, src0 := .v 4, src1 := .v 6, fmt := .q64 }
     let w (m : W64) := setV (setV (modWarp 97 m 0) 4 .q64 fun _ => 50) 6 .q64 fun _ => 60
     after (.qmul f) (run (w 168)) (fun x => lane x 8 7 == 90 && x.flags == 0) &&
       after (.qmul f) (run (w 0)) (fun x => lane x 8 7 == 2806 && x.flags == 0x80)) = true := by decide +kernel

/-- Steps 2 and 3 of the control example: CMP writes k1, and BRA pushes the lanes that take it. -/
theorem test_diverging_branch :
    (let w := { setV (warp .s32) 0 .s32 (fun l => [5, -2, 0, -7].getD l.val 0) with exec := 0xF, join := [.rejoin 0x1028 0xF] }
     after (.cmp { lf with dst := .k 1, src0 := .v 0, fmt := .s32, sub := 2 }) (run w) (fun x => x.kmask 1 == 0xA) &&
     after (.braShort 3 false 1) (run { w with k := (Vector.replicate 8 0).set 1 0xA }) (fun x => x.exec == 5 &&
       x.join == [.path 0x100C 0xA, .rejoin 0x1028 0xF] && x.pc == 0x1004)) = true := by decide +kernel

/-- The worked merge of three lanes of ATOM, six events. -/
theorem test_atom :
    (let f : MForm := { mf with data := .v 4, base := .s 4, index := .v 6, fmt := .bf16x2, pred := 1 }
     let w := setV (setV { based (warp .b32) 0x2000 with k := (Vector.replicate 8 0).set 1 0x29 } 6 .n32 fun _ => 0x40) 4 .bf16x2
       fun l => if l = 0 then 0x00013B80 else if l = 3 then 0x80013B80 else 0x00023C00
     let s : State := { run w with mem := (placedMem [] []).write 0x2040 (toBytesLE 4 0x00013F80) }
     after (.atom f) (events (.atom f) 5 s) (fun x => lane x 4 0 == 0x00013F80 && lane x 4 3 == 0x00023F80 && lane x 4 5 == 0x00013F80) &&
       match exec (.atom f) (events (.atom f) 5 s) with
       | .next t => t.mem.read 0x2040 4 == toBytesLE 4 0x00033F81
       | _ => false) = true := by decide +kernel

/-- The worked load of a codebook index across a word boundary, two events of the record and five of its data (R154, R322 to
R326, R332). -/
theorem test_ldb :
    (let m := ((((placedMem [] []).write 0x4000 (toBytesLE 8 0x2000 ++ toBytesLE 8 (256 + 10 * 2 ^ 40 + 5 * 2 ^ 45 + 7 * 2 ^ 56)
       ++ toBytesLE 8 0x3F800000 ++ toBytesLE 8 0x3000)).write 0x2000 [0, 0, 0, 0xC0, 1]).write 0x300E [0, 0xBF]).write 0x3002 [0x80, 0x3E]
     let w := setV { warp .n32 with exec := 0x30 } 2 .n32 fun l => BitVec.ofNat 32 (2 * l.val)
     let s : State := { machine ctx (grp w { KDesc.plain with nbrec := 1, brecBase := 0x4000 }) with mem := m }
     let i : Instr := .ldb { mf with data := .v 4, base := .s 6, index := .v 2, brec := 0, fmt := .bf16x2 }
     after i (events i 6 s) fun x =>
       lane x 4 5 == 0xBF00 && lane x 4 4 == 0 && (x.vreg 4).tag == .bf16x2 && x.flags == 0) = true := by decide +kernel

/-- The worked barrier: 4,096 bytes before the count is posted, and the last arrival completes the phase (R205, R206). -/
theorem test_barrier_bytes :
    (let b : Barrier := { Barrier.init with bytes := -4096 }
     let other : Warp := { warp .b32 with id := 1 }
     let s := (barRun b (warp .b32) [other]).addBytes gb 4096
     let t := s.arrive gb (.warp 0 1)
     let bar (s : State) : Option (Nat × Int × Bool) := (s.bar? gb).map fun b => (b.phase, b.bytes, b.stopped)
     bar s == some (0, 0, false) && bar t == some (0, 0, false) && bar (t.arrive gb (.warp 0 0)) == some (1, 0, false) &&
       bar ((((barRun b (warp .b32) [other]).addBytes gb 2048).arrive gb (.warp 0 1)).arrive gb (.warp 0 0)) == some (0, -2048, true)) = true := by
  decide +kernel

/-- The worked order of the ramp limiter: 70, 3, 40, 7, 33 (R311). -/
theorem test_limiter_order :
    (let next (die : Nat) (pos : List (Nat × Nat)) (l : List Nat) := nextAdmitted die pos l
     next 1 [(1, 35)] [3, 7, 33, 40, 70] == some 70 && next 2 [(2, 70), (1, 35)] [3, 7, 33, 40] == some 3 &&
       next 0 [(0, 3), (2, 70), (1, 35)] [7, 33, 40] == some 40 && next 1 [(1, 40), (0, 3), (2, 70)] [7, 33] == some 7 &&
       next 0 [(0, 7), (1, 40), (2, 70)] [33] == some 33) = true := by decide +kernel

/-- R393's example entry maps 2 MiB at 0x0000_0100_0020_0000 to 0x40_0060_0000, in quarter 16. -/
theorem test_translation :
    (let root := 0x10000
     let m := (((Memory.write [] (root + 16) (toBytesLE 8 0x11001)).write 0x11000 (toBytesLE 8 0x12001)).write 0x12008
       (toBytesLE 8 0x000000400060010D))
     let s : State := { run (warp .b32) with mem := m, parts := [{ Partition.blank 0 0 with quarters := 0x10001 }] }
     (match s.translate ctx 0x0000010000212345 with
      | .ok place _ _ => place == 0x0000004000612345
      | _ => false) && match s.translate ctx 0x0000010000412345 with
      | .absent => true
      | _ => false) = true := by decide +kernel

/-- R393: a large leaf that was used at one page acts at the others of its gibibyte until an invalidation, whatever its entry holds by
now. -/
theorem test_entry_in_force :
    (let s : State := run (warp .b32)
     let place (s : State) (va : Nat) : Option Nat := match s.translate ctx va with
       | .ok p _ _ => some p
       | _ => none
     match s.translate ctx 0x2345 with
     | .ok _ _ fill =>
       let t := { s.fillTlb fill with mem := s.mem.write (placedTables + 0x1000) (toBytesLE 8 0) }
       place t 0x3FFFFFFF == some 0x3FFFFFFF && place (t.dropTlb 0 (some 0x40000000)) 0x2345 == some 0x2345 &&
         place (t.dropTlb 0 (some 0x7000)) 0x2345 == none
     | _ => false) = true := by decide +kernel

/-- R335, R364: a watermark that has passed the request in service makes its other events before what comes with it. -/
theorem test_watermark_finishes :
    (let s : State := { podRun 2 with serving := [serving [atomEvent 0, atomEvent 1]], requesters := [known] }
     match s.greet 3 0 0 0 with
     | some u => u.serving.isEmpty && u.mem.read 0x2000 4 == [0x80, 0x3F, 0x80, 0x3F] && u.requesters.map Requester.next == [1]
     | none => false) = true := by decide +kernel

/-- R292's worked shape. -/
theorem test_pod_shape :
    (let p : Pod := { podOf 0 with shape := BitVec.ofNat 64 (ofBytesLE [4, 0, 2, 0, 1, 0, 3, 0]) }
     p.warps == 4 && p.groups == 2 && p.spans == 1 && p.prio == 3 && p.kind == 0) = true := by decide +kernel

/-- R300's worked case: 70 pods of one key in a group of two warps. -/
theorem test_gathered_masks : (filledWarps 2 70).map Prod.snd = [BitVec.allOnes 64, 0x3F] := by decide +kernel

/-- The published check value of the polynomial of R54 with its seed 0xFFFF: "123456789" gives 0x29B1. -/
theorem test_crc : crcBytes 0xFFFF [0x31, 0x32, 0x33, 0x34, 0x35, 0x36, 0x37, 0x38, 0x39] = 0x29B1 := by decide +kernel

/-- Trap entry of TRAP #5 (R245 to R247): cause 0x10, trap mode, TPC the next instruction, fetch at TRAPBASE. -/
theorem test_trap :
    after (.trap { lf with imm := some 5, pred := 0 }) (run (warp .b32)) (fun x => x.tsw == 0x80000010 && x.tpc == 0x100C &&
      x.taddr == 5 && x.tfirst == 0x1000 && x.tlanes == BitVec.allOnes 64 && x.pc == 0x8000) = true := by decide +kernel

/-- What reset leaves without a program: nothing that can issue. -/
theorem test_reset_step : step State.reset = .next State.reset := rfl

end Sys2Proof.Tests
end

section
/-!
PROOF. Every step keeps both memories in canonical form. A lemma for each function that a step is made of says that it keeps
`State.Inv`, and is named after it; this part: state updates and stores.
-/
namespace Sys2Proof.Machine

variable {s t : State}

theorem State.Inv.foldl {α : Type} {f : State → α → State} {l : List α} (hf : ∀ s a, s.Inv → (f s a).Inv) (h : s.Inv) :
    (l.foldl f s).Inv := by
  induction l generalizing s with
  | nil => exact h
  | cons a l ih => exact ih (hf s a h)

theorem State.Inv.ite {p : Prop} [Decidable p] (hs : s.Inv) (ht : t.Inv) : (if p then s else t).Inv := by
  split
  · exact hs
  · exact ht

theorem State.Inv.getD {o : Option State} (h : s.Inv) (ho : ∀ t, o = some t → t.Inv) : (o.getD s).Inv := by
  cases o with
  | none => exact h
  | some t => exact ho t rfl

theorem State.Inv.mapGroup {u f} (h : s.Inv) : (s.mapGroup u f).Inv := h
theorem State.Inv.mapWarp {u w f} (h : s.Inv) : (s.mapWarp u w f).Inv := h
theorem State.Inv.mapLeek {u f} (h : s.Inv) : (s.mapLeek u f).Inv := h
theorem State.Inv.mapCtx {c f} (h : s.Inv) : (s.mapCtx c f).Inv := h
theorem State.Inv.mapPart {p f} (h : s.Inv) : (s.mapPart p f).Inv := h
theorem State.Inv.mapSpan {u f} (h : s.Inv) : (s.mapSpan u f).Inv := h
theorem State.Inv.mapPod {u f} (h : s.Inv) : (s.mapPod u f).Inv := h
theorem State.Inv.nextGen {c} (h : s.Inv) : (s.nextGen c).Inv := h
theorem State.Inv.newEpoch {p} (h : s.Inv) : (s.newEpoch p).Inv := h
theorem State.Inv.fillTlb {fill} (h : s.Inv) : (s.fillTlb fill).Inv := h

theorem State.Inv.mapCluster {k f} (h : s.Inv) : (s.mapCluster k f).Inv := by
  unfold State.mapCluster; split <;> exact h
theorem State.Inv.perfAdd {c n k} (h : s.Inv) : (s.perfAdd c n k).Inv := by
  unfold State.perfAdd; split <;> exact h
theorem State.Inv.mapCount {p f} (h : s.Inv) : (s.mapCount p f).Inv := by
  unfold State.mapCount; split <;> exact h
theorem State.Inv.conflict {who xs} (h : s.Inv) : (s.conflict who xs).Inv := by
  unfold State.conflict; split <;> exact h

theorem State.Inv.store {who a bs} (h : s.Inv) : (s.store who a bs).Inv := by
  unfold State.store
  exact State.Inv.conflict ⟨Memory.wf_write a bs h.1, h.2⟩

theorem State.Inv.zero {lo hi} (h : s.Inv) : (s.zero lo hi).Inv := ⟨Memory.wf_clear lo hi h.1, h.2⟩

theorem State.Inv.storeAll {who xs} (h : s.Inv) : (s.storeAll who xs).Inv := by
  induction xs generalizing s with
  | nil => exact h
  | cons x xs ih => exact ih h.store

theorem State.Inv.commitAll {u bar ws} (h : s.Inv) : (s.commitAll u bar ws).Inv := by
  induction ws generalizing s with
  | nil => exact h
  | cons w ws ih =>
    unfold State.commitAll
    split
    · split
      · exact ih (h.mapWarp.storeAll.perfAdd)
      · exact ih h
    · exact ih h

end Sys2Proof.Machine
end

section
/-!
PROOF. The invariant of both memories, continued: records, counters, barriers, ends of agents and contexts, and completion.
-/
namespace Sys2Proof.Machine

variable {s t : State}

/-! ### Records and queues -/

theorem State.Inv.of_ctxWrite (h : s.Inv) {c va bs} (e : s.ctxWrite c va bs = some t) : t.Inv := by
  unfold State.ctxWrite at e
  split at e
  · split at e
    · cases e; exact h.fillTlb.store
    · cases e
  · cases e

theorem State.Inv.ctxWriteD {c va bs} (h : s.Inv) : ((s.ctxWrite c va bs).getD s).Inv := h.getD fun _ => h.of_ctxWrite

theorem State.Inv.touch {c vas} (h : s.Inv) : (s.touch c vas).Inv := by
  refine State.Inv.foldl (fun s va h => ?_) h
  split
  · exact h.fillTlb
  · exact h

theorem State.Inv.putEntries {c base cap size n es} (h : s.Inv) : (s.putEntries c base cap size n es).Inv := by
  induction es generalizing s n with
  | nil => exact h
  | cons e es ih => exact ih h.ctxWriteD

theorem State.Inv.closeRecord {c q n} (h : s.Inv) : (s.closeRecord c q n).Inv := h.ctxWriteD (s := s)

theorem State.Inv.recordNow {c es} (h : s.Inv) : (s.recordNow c es).Inv := by
  unfold State.recordNow
  split
  · exact h
  · split
    · split
      · exact h.putEntries.closeRecord
      · exact h.ctxWriteD
    · exact h

theorem State.Inv.record {c es} (h : s.Inv) : (s.record c es).Inv := by
  unfold State.record
  split
  · exact h
  · split
    · exact h
    · exact h.recordNow

theorem State.Inv.putRec {c r} (h : s.Inv) : (s.putRec c r).Inv := h.record

theorem State.Inv.faultRing {c va acc k} (h : s.Inv) : (s.faultRing c va acc k).Inv := by
  unfold State.faultRing
  split
  · exact h
  · split
    · exact h
    · dsimp only
      split
      · exact h.store.store
      · exact h.store

theorem State.Inv.complete {c st r} (h : s.Inv) : (s.complete c st r).Inv := by
  unfold State.complete
  split
  · exact h
  · exact ⟨h.1, Memory.wf_write _ _ h.2⟩

theorem State.Inv.finishRunning {p st} (h : s.Inv) : (s.finishRunning p st).Inv :=
  State.Inv.foldl (fun _ _ h => h.complete) h

theorem State.Inv.stopQueue {c q} (h : s.Inv) : (s.stopQueue c q).Inv := by
  unfold State.stopQueue
  split
  · exact h
  · exact h.mapCtx.putRec

theorem State.Inv.setQueueWord {c q k x} (h : s.Inv) : (s.setQueueWord c q k x).Inv := h.ctxWriteD

theorem State.Inv.noteArrivals {c q is} (h : s.Inv) : (s.noteArrivals c q is).Inv := h

theorem State.Inv.enqueue {c q pod} (h : s.Inv) : (s.enqueue c q pod).Inv := by
  unfold State.enqueue
  split
  · exact h
  · split
    · exact h.stopQueue
    · exact h.ctxWriteD.setQueueWord.setQueueWord.noteArrivals

/-! ### Counter events -/

theorem State.Inv.hold {x page acc} (h : s.Inv) : (s.hold x page acc).Inv := by
  cases page with
  | none => exact h
  | some va =>
    unfold State.hold
    exact State.Inv.faultRing h

theorem State.Inv.dropHeld {x a} (h : s.Inv) : (s.dropHeld x a).Inv := h.putRec

theorem State.Inv.releaseRead {c a} (h : s.Inv) : (s.releaseRead c a).Inv := by
  unfold State.releaseRead
  split
  · exact h
  · split
    · exact h
    · dsimp only
      split
      · exact h.dropHeld
      · exact h.hold
      · exact h.dropHeld
      · exact h.hold
      · split
        · exact h.fillTlb.fillTlb.putRec
        · split
          · exact h.fillTlb.fillTlb.putRec
          · split
            · exact h.fillTlb.fillTlb.dropHeld
            · exact h.fillTlb.fillTlb.hold
            · exact h.fillTlb.fillTlb.fillTlb.hold

theorem State.Inv.counterNow {x} (h : s.Inv) : (s.counterNow x).Inv := by
  unfold State.counterNow
  split
  · exact h
  · exact h.releaseRead
  · split
    · exact h
    · split
      · exact h.dropHeld
      · exact h.hold
      · dsimp only
        split
        · exact h.fillTlb.store.releaseRead
        · exact h.fillTlb.store

theorem State.Inv.counterEvent {x} (h : s.Inv) : (s.counterEvent x).Inv := by
  unfold State.counterEvent
  split
  · exact h.hold
  · exact h.counterNow

theorem State.Inv.retryHeld {c} (h : s.Inv) : (s.retryHeld c).Inv :=
  State.Inv.foldl (fun _ _ h => h.counterEvent) h

theorem State.Inv.joinEvent {j x} (h : s.Inv) : (s.joinEvent j x).Inv := by
  unfold State.joinEvent
  split
  · exact h
  · exact h.counterEvent

theorem State.Inv.partStep {c} (h : s.Inv) : (s.partStep c).Inv := by
  unfold State.partStep
  split
  · exact h
  · rename_i t _
    have ht : State.Inv { s with todo := s.todo.erase t } := h
    dsimp only
    split
    · exact ht.counterEvent
    · exact ht.store
    · exact ht.recordNow

theorem State.Inv.partSteps {c} (h : s.Inv) : (s.partSteps c).Inv := State.Inv.foldl (fun _ _ h => h.partStep) h

/-! ### Barriers -/

theorem State.Inv.mapBar {b f} (h : s.Inv) : (s.mapBar b f).Inv := by
  cases b with
  | gb => exact h
  | sb => exact h

theorem State.Inv.limit {id b} (h : s.Inv) : (s.limit id b).Inv := by
  unfold State.limit
  split
  · exact h
  · dsimp only
    split
    all_goals exact State.Inv.foldl (fun _ _ h => h.mapCluster) h

theorem State.Inv.rollbackBar {u n} (h : s.Inv) : (s.rollbackBar u n).Inv := by
  unfold State.rollbackBar
  split
  · exact h
  · exact h.mapGroup.perfAdd

theorem State.Inv.stopBar {id} (h : s.Inv) : (s.stopBar id).Inv := by
  cases id with
  | gb => exact h.mapBar.rollbackBar
  | sb => exact h.mapBar

theorem State.Inv.settle {id} (h : s.Inv) : (s.settle id).Inv := by
  unfold State.settle
  split
  · exact h
  · dsimp only
    split
    · exact h
    · split
      · split
        · exact h.mapBar.commitAll
        · exact h.mapBar.limit
      · split
        · exact h.stopBar
        · exact h

theorem State.Inv.arrive {id a} (h : s.Inv) : (s.arrive id a).Inv := h.mapBar.settle

theorem State.Inv.addBytes {id n} (h : s.Inv) : (s.addBytes id n).Inv := by
  unfold State.addBytes
  split
  · exact h
  · split
    · exact h
    · split
      · exact h.stopBar
      · exact h.mapBar.settle

theorem State.Inv.depart {g a} (h : s.Inv) : (s.depart g a).Inv := h

/-! ### Ends of agents and contexts -/

theorem State.Inv.freeSlots {k gone} (h : s.Inv) : (s.freeSlots k gone).Inv := by
  unfold State.freeSlots
  dsimp only
  split
  · exact h.mapCluster
  · exact h.mapCluster.finishRunning

theorem State.Inv.releaseNames {g} (h : s.Inv) : (s.releaseNames g).Inv := h.freeSlots.mapGroup

theorem State.Inv.endWarp {g w a} (h : s.Inv) : (s.endWarp g w a).Inv := h

theorem State.Inv.endLeek {g a} (h : s.Inv) : (s.endLeek g a).Inv := h.mapLeek.depart.mapCluster.releaseNames

theorem State.Inv.clearCtx {c} (h : s.Inv) : (s.clearCtx c).Inv := by
  unfold State.clearCtx
  have hs : ∀ l : List Group, (l.foldl (fun s (g : Group) => s.freeSlots g.cluster fun x => x.group == g.uid) s).Inv :=
    fun _ => State.Inv.foldl (fun _ _ h => h.freeSlots) h
  exact State.Inv.retryHeld (hs _)

theorem State.Inv.endCtx {c r} (h : s.Inv) : (s.endCtx c r).Inv := h.clearCtx.nextGen.mapCtx

theorem State.Inv.forceReset {c r} (h : s.Inv) : (s.forceReset c r).Inv :=
  State.Inv.foldl (fun _ _ h => h.joinEvent) h.partSteps.endCtx

theorem State.Inv.terminate {c before} (h : s.Inv) : (s.terminate c before).Inv := by
  unfold State.terminate
  have hc : (s.endCtx c .terminated).Inv := h.endCtx
  exact State.Inv.mapCount hc

/-! ### Faults and errors -/

theorem State.Inv.takeFault {c g w p} (h : s.Inv) : (s.takeFault c g w p).Inv := by
  unfold State.takeFault
  split
  · exact h.putRec.terminate
  · split
    · exact h.putRec.terminate
    · exact h.mapWarp.perfAdd

theorem State.Inv.leekFault {c g l k a} (h : s.Inv) : (s.leekFault c g l k a).Inv := h.putRec.terminate

theorem State.Inv.requestRestart {c g w l} (h : s.Inv) : (s.requestRestart c g w l).Inv := by
  unfold State.requestRestart
  dsimp only
  split
  · exact h
  · exact State.Inv.joinEvent h

theorem State.Inv.killLanes {c g w m k a} (h : s.Inv) : (s.killLanes c g w m k a).Inv := by
  unfold State.killLanes
  dsimp only
  split
  · exact h
  · have hr : ∀ r f, ((((s.mapWarp g.uid w.id f).perfAdd c.id 5 (Mask.lanes (m &&& ~~~w.dead)).length).mapCount (partOf c.id)
        fun k => { k with lanes := k.lanes + (Mask.lanes (m &&& ~~~w.dead)).length }).putRec c.id r).Inv :=
      fun _ _ => h.mapWarp.perfAdd.mapCount.putRec
    split
    · exact State.Inv.foldl (fun _ _ h => h.requestRestart) (hr _ _)
    · exact (hr _ _).mapGroup

theorem State.Inv.postedError {c g w k a} (h : s.Inv) : (s.postedError c g w k a).Inv := h.putRec

theorem State.Inv.killLeek {c g l k a} (h : s.Inv) : (s.killLeek c g l k a).Inv := h.putRec.mapCount.mapGroup.endLeek

theorem State.Inv.killWarp {c g w x} (h : s.Inv) : (s.killWarp c g w x).Inv := h.putRec.mapCount.mapGroup.endWarp

/-! ### Completion of an instruction -/

theorem State.Inv.retire {c g w i pc marks} (h : s.Inv) : (s.retire c g w i pc marks).Inv := by
  unfold State.retire
  dsimp only
  split
  · exact h.perfAdd
  · split
    · exact h.perfAdd.killWarp
    · exact h.perfAdd.mapWarp

theorem State.Inv.setWait {a wt} (h : s.Inv) : (s.setWait a wt).Inv := by
  cases a with
  | warp => exact h
  | leek => exact h

theorem State.Inv.retireLeek {g pc} (h : s.Inv) : (s.retireLeek g pc).Inv := h

/-- Every state that an effect carries has its memories in canonical form. -/
def Effect.Inv : Effect → Prop
  | .fault _ _ _ | .absent _ _ _ _ => True
  | .wait s _ | .done s | .rest s _ | .flow s _ _ | .exits s _ | .gone s => s.Inv

theorem State.Inv.finishWarp {c g w i} (h : s.Inv) {e : Effect} (he : e.Inv) : (s.finishWarp c g w i e).Inv := by
  cases e with
  | fault =>
    unfold State.finishWarp
    dsimp only
    split
    · exact h.setWait
    · exact h.perfAdd.takeFault
  | absent =>
    unfold State.finishWarp
    dsimp only
    split
    · exact h.setWait
    · exact h.faultRing.mapWarp
  | wait t wt => exact State.Inv.setWait he
  | done t => exact State.Inv.retire he
  | rest t wt =>
    unfold State.finishWarp
    dsimp only
    split
    · exact State.Inv.retire he
    · exact (State.Inv.retire he).setWait
  | flow t pc marks =>
    unfold State.finishWarp
    dsimp only
    split
    all_goals exact State.Inv.retire he
  | exits t marks =>
    unfold State.finishWarp
    dsimp only
    split
    · exact State.Inv.retire he
    · exact (State.Inv.retire he).endWarp
  | gone t => exact he

theorem State.Inv.finishLeek {c g l n} (h : s.Inv) {e : Effect} (he : e.Inv) : (s.finishLeek c g l n e).Inv := by
  cases e with
  | fault => exact h.leekFault
  | absent => exact h.faultRing.setWait
  | wait t wt => exact State.Inv.setWait he
  | done t => exact he
  | rest t wt => exact State.Inv.setWait he
  | flow t pc marks => exact he
  | exits t marks => exact State.Inv.endLeek he
  | gone t => exact he

end Sys2Proof.Machine
end

section
/-!
PROOF. The invariant of both memories, continued: the issue of instructions, and instructions that write registers or move the program counter.
-/
namespace Sys2Proof.Machine

variable {s t : State} {e : Env} {le : LeekEnv}

theorem Effect.Inv.ite {p : Prop} [Decidable p] {a b : Effect} (ha : a.Inv) (hb : b.Inv) : (if p then a else b).Inv := by
  split
  · exact ha
  · exact hb

/-! ### Issue -/

/-- The state that an outcome answers has its memories in canonical form. -/
def OutcomeInv : Host.Outcome State Fault Refusal → Prop
  | .next t => t.Inv
  | _ => True

theorem State.Inv.issue {sh : Shape} {wb : Env → Effect} {lb : LeekEnv → Effect} (h : s.Inv)
    (hw : ∀ e : Env, e.s.Inv → (wb e).Inv) (hl : ∀ e : LeekEnv, e.s.Inv → (lb e).Inv) : OutcomeInv (issue sh s wb lb) := by
  unfold Machine.issue
  split
  · trivial
  · refine h.finishWarp ?_
    unfold warpEffect
    split
    · exact h
    · split
      · trivial
      · exact hw _ h
  · refine h.finishLeek ?_
    unfold leekEffect
    split
    · trivial
    · split
      · exact h
      · exact hl _ h

theorem noLeek_inv (e : LeekEnv) (_ : e.s.Inv) : (noLeek e).Inv := trivial

theorem noWarp_inv (e : Env) (_ : e.s.Inv) : (noWarp e).Inv := trivial

/-- An opcode that only a warp may issue (R67). -/
theorem State.Inv.issueWarp {sh : Shape} {wb : Env → Effect} (h : s.Inv) (hw : ∀ e : Env, e.s.Inv → (wb e).Inv) :
    OutcomeInv (Machine.issue sh s wb noLeek) := h.issue hw noLeek_inv

/-- An opcode that only the Leek core may issue (R67). -/
theorem State.Inv.issueLeek {sh : Shape} {lb : LeekEnv → Effect} (h : s.Inv) (hl : ∀ e : LeekEnv, e.s.Inv → (lb e).Inv) :
    OutcomeInv (Machine.issue sh s noWarp lb) := h.issue noWarp_inv hl

/-! ### Instructions that write registers -/

theorem State.Inv.drawn {n} (h : s.Inv) : (s.drawn n).Inv := by
  unfold State.drawn; split <;> exact h

theorem State.Inv.runKill {x kills} (h : e.s.Inv) : (e.runKill x kills).Inv := by
  unfold Env.runKill
  split
  · trivial
  · split
    · trivial
    · split
      · exact h
      · exact State.Inv.killLanes (State.Inv.drawn h)

theorem State.Inv.run {x} (h : e.s.Inv) : (e.run x).Inv := h.runKill

theorem State.Inv.leekRun {f x} (h : le.s.Inv) : (le.run f x).Inv := by
  unfold LeekEnv.run; split <;> exact h

theorem State.Inv.intOp {o : IntOp} {op f} (h : s.Inv) : OutcomeInv (o.exec op f s) :=
  h.issue (fun _ h => h.run) (fun _ h => h.leekRun)

theorem State.Inv.addc {f} (h : e.s.Inv) : (addcBody f e).Inv := by
  unfold addcBody
  dsimp only
  split
  · trivial
  · exact State.Inv.run h

theorem State.Inv.addcLeek {f} (h : le.s.Inv) : (addcLeek f le).Inv := by
  unfold Machine.addcLeek
  split
  · dsimp only
    split
    · unfold Effect.Inv; dsimp only; split <;> exact h
    · exact h
  · trivial

theorem State.Inv.cmpLeek {f} (h : le.s.Inv) : (cmpLeek f le).Inv := by
  unfold Machine.cmpLeek
  dsimp only
  split
  · unfold Effect.Inv; dsimp only; split <;> exact h
  · trivial

theorem State.Inv.selLeek {f} (h : le.s.Inv) : (selLeek f le).Inv := by
  unfold Machine.selLeek
  split
  · exact h.leekRun
  · trivial

theorem State.Inv.plog {f} (h : e.s.Inv) : (plogBody f e).Inv := by
  unfold plogBody
  split
  · exact h
  · trivial

theorem State.Inv.lea {f} (h : e.s.Inv) : (leaBody f e).Inv := by
  unfold leaBody
  dsimp only
  split
  · trivial
  · exact h.run

/-! ### Floating instructions -/

theorem State.Inv.cvt {f} (h : e.s.Inv) : (cvtBody f e).Inv := by
  unfold cvtBody
  split
  · trivial
  · split
    · trivial
    · exact h.run

theorem State.Inv.quant {f} (h : e.s.Inv) : (quantBody f e).Inv := by
  unfold quantBody
  split
  · trivial
  · split
    · trivial
    · dsimp only
      split
      · trivial
      · split
        · split
          · exact h
          · exact State.Inv.killLanes h
        · trivial

theorem State.Inv.endorse {f} (h : e.s.Inv) : (endorseBody f e).Inv := by
  unfold endorseBody
  dsimp only
  split
  · trivial
  · split
    · trivial
    · split
      · trivial
      · split
        · split
          · exact h
          · exact State.Inv.killLanes h
        · trivial

theorem State.Inv.tagset {f} (h : e.s.Inv) : (tagsetBody f e).Inv := by
  unfold tagsetBody
  exact .ite trivial h.run

theorem State.Inv.tagget {f} (h : e.s.Inv) : (taggetBody f e).Inv := by
  unfold taggetBody
  split
  · trivial
  · split
    · trivial
    · exact h.run

theorem State.Inv.rand {f} (h : e.s.Inv) : (randBody f e).Inv := by
  unfold randBody
  dsimp only
  split
  · trivial
  · exact State.Inv.run h

/-! ### Modular instructions -/

theorem State.Inv.qset {f} (h : e.s.Inv) : (qsetBody f e).Inv := by
  unfold qsetBody
  dsimp only
  split
  · trivial
  · split
    · trivial
    · exact State.Inv.killLanes h

theorem State.Inv.runBoth {f os faults kills put flags} (h : e.s.Inv) : (e.runBoth f os faults kills put flags).Inv := by
  unfold Env.runBoth
  split
  · trivial
  · split
    · trivial
    · split
      · exact h
      · exact State.Inv.killLanes h

/-! ### Cross-lane instructions -/

theorem State.Inv.matchLanes {f} (h : e.s.Inv) : (matchBody f e).Inv := by
  unfold matchBody
  dsimp only
  split
  · trivial
  · exact h.runKill

/-! ### Repeat units -/

theorem State.Inv.follower {op f} (h : e.s.Inv) : (followerBody op f e).Inv := by
  cases op with
  | addc => exact h.addc
  | lea => exact h.lea
  | cvt => exact h.cvt
  | quant => exact h.quant
  | qbfct | qbfgs => exact h.runBoth
  | add | sub | mul | mulh | mad | madw | min | max | abs | neg | and | or | xor | not | andn | shl | shr | sar | rot
  | bfx | bfi | clz | ffs | popc | brev | bytep | cmp | sel | mov | movi | fadd | fsub | fmul | fma | fmin | fmax | fsgn
  | fcmp | fclass | rcp | rsq | sqrt | exp2 | log2 | sin | cos | scaleb | frnd | qmul | qmac | qadd | qsub | qneg | qred
  | qshoup =>
    exact h.run
  | _ => trivial

/-! ### Control instructions -/

theorem State.Inv.bra {n target u pneg pred} (h : e.s.Inv) : (braBody n target u pneg pred e).Inv := by
  unfold braBody
  split
  · exact h
  · dsimp only
    split
    · trivial
    · split
      · trivial
      · exact h

theorem State.Inv.transfer {target link os pneg pred} (h : e.s.Inv) : (transferBody target link os pneg pred e).Inv := by
  unfold transferBody
  split
  · trivial
  · exact h
  · split
    · trivial
    · exact State.Inv.killLanes h

theorem State.Inv.transferLeek {target link pneg pred} (h : le.s.Inv) : (transferLeek target link pneg pred le).Inv := by
  unfold Machine.transferLeek
  dsimp only
  split
  · split
    · trivial
    · unfold Effect.Inv; dsimp only; split <;> exact h
  · exact h

theorem State.Inv.mark {n target} (h : e.s.Inv) : (markBody n target e).Inv := by
  unfold markBody
  split
  · trivial
  · exact h

theorem State.Inv.join (h : e.s.Inv) : (joinBody e).Inv := by
  unfold joinBody
  split
  · trivial
  · exact h

theorem State.Inv.exit {n pneg pred} (h : e.s.Inv) : (exitBody n pneg pred e).Inv := by
  unfold exitBody
  dsimp only
  split
  · exact h
  · split <;> exact h

theorem State.Inv.getx {f} (h : e.s.Inv) : (getxBody f e).Inv := by
  unfold getxBody
  split
  · exact h
  · exact h
  · trivial

theorem State.Inv.setx {f} (h : e.s.Inv) : (setxBody f e).Inv := by
  exact State.Inv.killLanes h

theorem State.Inv.brk (h : e.s.Inv) : (brkBody e).Inv := by
  unfold brkBody Effect.Inv; dsimp only; split <;> exact h

theorem State.Inv.spin {f} (h : e.s.Inv) : (spinBody f e).Inv := by
  unfold spinBody Effect.Inv; dsimp only; split <;> exact h

theorem State.Inv.sleep {f} (h : e.s.Inv) : (sleepBody f e).Inv := by
  unfold sleepBody
  dsimp only
  split
  · exact h.killLanes
  · split
    · exact h.killLanes.mapWarp
    · exact h.killLanes

end Sys2Proof.Machine
end

section
/-!
PROOF. The invariant of both memories, continued: memory instructions.
-/
namespace Sys2Proof.Machine

variable {s t : State} {e : Env} {le : LeekEnv}

/-! ### Checks and requests -/

theorem State.Inv.wrote {xs} (h : s.Inv) : (s.wrote xs).Inv := h

/-- What a check reports carries no state. -/
theorem reportFault_inv {acc rs x} (hx : reportFault acc rs = some x) : x.Inv := by
  unfold reportFault at hx
  split at hx
  · cases hx
  · dsimp only at hx
    split at hx
    · cases hx
    · split at hx
      · cases hx; trivial
      · cases hx; trivial

theorem check_inv {m ea sp n acc a x} (hx : e.check m ea sp n acc a = .bad x) : x.Inv := by
  unfold Env.check at hx
  dsimp only at hx
  split at hx
  · rename_i hr; cases hx; exact reportFault_inv hr
  · cases hx

theorem checkUni_inv {v lanes f ea acc x} (hx : s.checkUni v lanes f ea acc = .bad x) : x.Inv := by
  unfold State.checkUni at hx
  dsimp only at hx
  split at hx
  · cases hx
  · cases hx; trivial
  · cases hx; trivial

theorem recordBytes_inv {f x} (hx : e.recordBytes f = .error x) : x.Inv := by
  unfold Env.recordBytes at hx
  dsimp only at hx
  split at hx
  · cases hx; trivial
  · cases hx; trivial
  · rename_i hr; cases hx; exact reportFault_inv hr
  · cases hx

theorem State.Inv.killMasks {c g w live errs} (h : s.Inv) : (s.killMasks c g w live errs).Inv := by
  induction errs generalizing s live with
  | nil => exact h
  | cons x errs ih => exact ih h.killLanes

theorem State.Inv.deliverLoad {w f vals kills errs} (he : e.s.Inv) (h : s.Inv) : (e.deliverLoad s w f vals kills errs).Inv := by
  unfold Env.deliverLoad
  dsimp only
  split
  · split
    · exact he
    · exact h.mapWarp.killLanes.killMasks
  · trivial

theorem State.Inv.atomStep {who a op f o v x} (h : s.Inv) : (s.atomStep who a op f o v x).2.Inv := h.store.wrote

theorem State.Inv.atomEvent {who op f o a} (h : s.Inv) : (s.atomEvent who op f o a).2.Inv := h.store.wrote

theorem State.Inv.startSilence {o} (h : s.Inv) : (s.startSilence o).Inv := by
  unfold State.startSilence; split <;> exact h

theorem State.Inv.sendRequest {c a ea ls op n p} (h : s.Inv) : (s.sendRequest c a ea ls op n p).Inv := by
  unfold State.sendRequest
  split
  · exact h
  · dsimp only
    split
    all_goals exact h.startSilence

theorem State.Inv.sendAll {c a op n p xs} (h : s.Inv) : (s.sendAll c a op n p xs).Inv := by
  induction xs generalizing s with
  | nil => exact h
  | cons x xs ih => exact ih h.sendRequest

theorem State.Inv.post {act kills ea n op k} (h : e.s.Inv) : (e.post act kills ea n op k).Inv := by
  unfold Env.post
  split
  · rename_i hx; exact reportFault_inv hx
  · dsimp only
    split
    · exact h
    · exact h.sendAll.killLanes

theorem State.Inv.await {act kills ea n op k f} (h : e.s.Inv) : (e.await act kills ea n op k f).Inv := by
  unfold Env.await
  split
  · exact State.Inv.deliverLoad h h
  · split
    · rename_i hx; exact reportFault_inv hx
    · dsimp only
      split
      · exact h.deliverLoad h
      · split
        · exact h
        · exact h.sendAll

/-! ### Loads and stores -/

theorem State.Inv.loadLocal {f scale act kills} (h : e.s.Inv) : (loadLocal f scale act kills e).Inv := by
  unfold Machine.loadLocal
  dsimp only
  split
  · rename_i hx; exact check_inv hx
  · split
    · exact h.fillTlb.killLanes
    · split
      · exact h.fillTlb
      · exact h.deliverLoad h.fillTlb.drawn

theorem State.Inv.load {f scale} (h : e.s.Inv) : (loadBody f scale e).Inv := by
  unfold loadBody
  split
  · trivial
  · dsimp only
    split
    · split
      · exact h.post
      · exact h.await
    · exact h.loadLocal

theorem State.Inv.storeLocal {f scale act kills} (h : e.s.Inv) : (storeLocal f scale act kills e).Inv := by
  unfold Machine.storeLocal
  dsimp only
  split
  · rename_i hx; exact check_inv hx
  · split
    · split
      · exact h.fillTlb
      · exact h.fillTlb.mapWarp.killLanes
    · exact h.fillTlb.killLanes.storeAll

theorem State.Inv.storeIns {f scale} (h : e.s.Inv) : (storeBody f scale e).Inv := by
  unfold storeBody
  split
  · trivial
  · dsimp only
    split
    · exact h.post
    · exact h.storeLocal

theorem State.Inv.ldu {f} (h : e.s.Inv) : (lduBody f e).Inv := by
  unfold lduBody
  dsimp only
  split
  · exact h
  · split
    · exact State.Inv.killLanes h
    · split
      · rename_i hx; exact checkUni_inv hx
      · split
        · exact h.fillTlb
        · split
          · exact h.fillTlb
          · split
            · split
              · exact h.fillTlb.mapWarp.killLanes
              · exact h.fillTlb.mapWarp
            · trivial

theorem State.Inv.lduLeek {f} (h : le.s.Inv) : (lduLeek f le).Inv := by
  unfold Machine.lduLeek
  dsimp only
  split
  · exact h
  · split
    · rename_i hx; exact checkUni_inv hx
    · split
      · exact h.fillTlb
      · split
        · exact h.fillTlb.killLeek
        · exact h.fillTlb.mapLeek

theorem State.Inv.stu {f} (h : e.s.Inv) : (stuBody f e).Inv := by
  unfold stuBody
  dsimp only
  split
  · exact h
  · split
    · exact h.killLanes
    · split
      · rename_i hx; exact checkUni_inv hx
      · split
        · split
          · exact h.fillTlb
          · exact h.fillTlb.mapWarp
        · exact h.fillTlb.store

theorem State.Inv.stuLeek {f} (h : le.s.Inv) : (stuLeek f le).Inv := by
  unfold Machine.stuLeek
  split
  · exact h
  · split
    · rename_i hx; exact checkUni_inv hx
    · exact h.fillTlb.store

/-! ### Atomics -/

theorem State.Inv.atomSteps {f xs} (h : s.Inv) : (e.atomSteps f s xs).2.Inv := by
  induction xs generalizing s with
  | nil => exact h
  | cons x xs ih => exact ih h.atomStep

theorem State.Inv.postedErrors {errs} (h : s.Inv) : (e.postedErrors s errs).Inv := by
  induction errs generalizing s with
  | nil => exact h
  | cons x errs ih => exact ih h.postedError

theorem State.Inv.pause {p} (h : s.Inv) : (e.pause s p).Inv := h

theorem State.Inv.atomDone {f posted kills errs olds} (he : e.s.Inv) (h : s.Inv) :
    (e.atomDone f posted s kills errs olds).Inv := by
  unfold Env.atomDone
  split
  · exact h.killLanes.postedErrors
  · exact he.deliverLoad h

theorem State.Inv.atomNext {f posted p todo got} (he : e.s.Inv) (h : s.Inv) : (e.atomNext f posted s p todo got).Inv := by
  unfold Env.atomNext
  dsimp only
  split
  · exact .ite (he.atomDone h) h.pause
  · split
    · exact .ite (he.atomDone h) h.pause
    · exact .ite (he.atomDone h.atomEvent) h.atomEvent.pause

theorem State.Inv.atomLocal {f posted kills n words act} (h : e.s.Inv) : (e.atomLocal f posted kills n words act).Inv := by
  unfold Env.atomLocal
  split
  · rename_i hx; exact check_inv hx
  · dsimp only
    split
    · exact h.atomDone h.fillTlb.atomSteps.wrote
    · exact h.atomNext h.fillTlb

theorem State.Inv.orGoOn {f posted} {start : Effect} (h : e.s.Inv) (hs : start.Inv) : (e.orGoOn f posted start).Inv := by
  unfold Env.orGoOn
  split
  · split
    · exact h.atomNext h
    · exact hs
  · exact hs

theorem State.Inv.atom {f} (h : e.s.Inv) : (atomBody f e).Inv := by
  refine h.orGoOn ?_
  split
  · trivial
  · dsimp only
    split
    · split
      · exact h.post
      · exact h.await
    · exact h.atomLocal

theorem State.Inv.vatom {f} (h : e.s.Inv) : (vatomBody f e).Inv := by
  refine h.orGoOn ?_
  split
  · trivial
  · exact .ite h.post h.atomLocal

theorem State.Inv.waitr {f} (h : e.s.Inv) : (waitrBody f e).Inv := by
  unfold waitrBody
  split
  · exact h
  · split
    · unfold Effect.Inv; dsimp only; split <;> exact h
    · exact h

theorem State.Inv.hint {f} (h : e.s.Inv) : (hintBody f e).Inv := by
  unfold hintBody
  split
  · trivial
  · exact h.killLanes

theorem State.Inv.isync (h : e.s.Inv) : (isyncBody e).Inv := by
  unfold isyncBody Effect.Inv; dsimp only; split <;> exact h

/-! ### LDB and STB -/

theorem State.Inv.append {hdr k} (h : s.Inv) : (e.append s hdr k).Inv := by
  unfold Env.append
  dsimp only
  split
  · split
    · split
      · exact h.fillTlb.fillTlb.store.store
      · exact h.fillTlb.store
    · exact h.fillTlb.store
  · exact h

theorem State.Inv.finishLdb {w f vals kills errs} (he : e.s.Inv) (h : s.Inv) : (e.finishLdb s w f vals kills errs).Inv := by
  unfold Env.finishLdb
  dsimp only
  split
  · split
    · exact he
    · exact h.mapWarp.killLanes.killMasks
  · trivial

theorem State.Inv.drawnFor {ps} (h : s.Inv) : (s.drawnFor ps).Inv := h.drawn

theorem State.Inv.recSettle {f p} (he : e.s.Inv) (h : s.Inv) : (e.recSettle f s p).Inv := by
  unfold Env.recSettle
  dsimp only
  split
  · exact he.finishLdb h
  · exact h.mapWarp.killLanes
  · exact h.pause

theorem State.Inv.recNext {f p} (he : e.s.Inv) (h : s.Inv) : (e.recNext f s p).Inv := by
  unfold Env.recNext
  split
  · exact he.recSettle h.drawnFor
  · exact he.recSettle h.storeAll.wrote
  · exact he.recSettle h.append
  · exact he.recSettle h.append
  · exact he.recSettle h

theorem State.Inv.tracked {w} (h : s.Inv) : (e.tracked s w).Inv := by
  unfold Env.tracked; split <;> exact h

theorem State.Inv.ldbMove {f r record es kills w} (he : e.s.Inv) (h : s.Inv) :
    (ldbMove f r record es kills s w e).Inv := by
  unfold Machine.ldbMove
  dsimp only
  split
  · exact h.tracked.killLanes
  · split
    · split
      · exact h
      · exact he.finishLdb h.drawnFor
    · exact he.recNext h

theorem State.Inv.stbMove {f r es kills w} (he : e.s.Inv) (h : s.Inv) : (stbMove f r es kills s w e).Inv := by
  unfold Machine.stbMove
  dsimp only
  split
  · split
    · exact h
    · exact h.mapWarp.killLanes
  · exact he.recNext h

theorem State.Inv.recordLost {load f w err} (he : e.s.Inv) (h : s.Inv) : (e.recordLost load f s w err).Inv := by
  unfold Env.recordLost
  split
  · exact he.finishLdb h
  · exact h.tracked.killMasks

theorem State.Inv.recordEvent {load f todo got} (he : e.s.Inv) (h : s.Inv) : (e.recordEvent load f s todo got).Inv := by
  obtain ⟨err, -, hx⟩ | ⟨-, hx⟩ := e.recordEvent_cases load f s todo got <;> rw [hx]
  · exact he.recordLost h
  · exact h.pause

theorem State.Inv.recordReady {load f w record} (he : e.s.Inv) (h : s.Inv) : (e.recordReady load f s w record).Inv := by
  unfold Env.recordReady
  dsimp only
  split
  · trivial
  · split
    · trivial
    · split
      · rename_i hx; exact reportFault_inv hx
      · split
        · exact h
        · split
          · exact he.ldbMove h.fillTlb
          · exact he.stbMove h.fillTlb

theorem State.Inv.recStart {load f} (h : e.s.Inv) : (recStart load f e).Inv := by
  unfold Machine.recStart
  split
  · trivial
  · split
    · trivial
    · split
      · split
        · exact h.finishLdb h
        · exact h
      · split
        · rename_i hx; exact recordBytes_inv hx
        · dsimp only
          split
          · split
            · exact h.fillTlb
            · split
              · exact h.recordLost h.fillTlb
              · exact h.recordReady h.fillTlb
          · exact h.recordEvent h.fillTlb

theorem State.Inv.recIns {load f} (h : e.s.Inv) : (recBody load f e).Inv := by
  unfold recBody
  split
  · split
    · exact h.recordReady h
    · exact h.recordEvent h
    · exact h.recNext h
  · exact h.recStart

end Sys2Proof.Machine
end

section
/-!
PROOF. The invariant of both memories, continued: copies, windows, banks, FIFOs and barrier operations.
-/
namespace Sys2Proof.Machine

variable {s t : State} {e : Env} {le : LeekEnv}

/-! ### Copies and windows -/

theorem State.Inv.completeCopy {c} (h : s.Inv) : (s.completeCopy c).Inv := by
  unfold State.completeCopy
  split
  · exact h
  · split
    · exact h
    · have hd : State.Inv { s with copies := s.copies.filter fun x => x.uid != c.uid } := h
      exact .ite (State.Inv.ite hd.mapCluster hd).addBytes (.ite hd.mapCluster hd)

theorem State.Inv.startCopy {mk} (h : s.Inv) : (s.startCopy mk).Inv := by
  unfold State.startCopy
  exact State.Inv.completeCopy h

theorem State.Inv.acopy {v agent f lanes dst src count ctl} (h : s.Inv) :
    (acopyRun s v agent f lanes dst src count ctl).Inv := by
  unfold acopyRun
  dsimp only
  refine .ite trivial (.ite trivial (.ite trivial (.ite trivial ?_)))
  split
  · split <;> trivial
  · trivial
  · split
    · trivial
    · exact h.startCopy

theorem State.Inv.once {os} {k : Effect} (h : e.s.Inv) (hk : k.Inv) : (e.once os k).Inv := by
  unfold Env.once
  dsimp only
  split
  · exact h
  · split
    · exact h.killLanes
    · exact hk

theorem State.Inv.acopyLeek {f} (h : le.s.Inv) : (acopyLeek f le).Inv := by
  unfold Machine.acopyLeek
  dsimp only
  split
  · exact h.acopy
  · exact h

theorem State.Inv.copyWrite {c va a bs} (h : s.Inv) : (s.copyWrite c va a bs).Inv := by
  unfold State.copyWrite
  split
  · exact h.mapCtx
  · exact h.store

theorem State.Inv.moveSector {c} (h : s.Inv) : (s.moveSector c).Inv := by
  unfold State.moveSector
  dsimp only
  split
  · split
    · split
      · split <;> exact h
      · exact h
    · split
      · exact h.fillTlb.copyWrite
      · exact h
  · exact h

theorem State.Inv.winset {f} (h : e.s.Inv) : (winsetBody f e).Inv := by
  refine h.once ?_
  dsimp only
  split
  · trivial
  · split
    · exact h
    · exact h.mapCtx

theorem Memory.wf_put {m : Memory} {a b : Nat} {es : Memory} (w : m.wf = true) : (m.put a b es).wf = true := by
  unfold Memory.put
  induction es generalizing m with
  | nil => exact w
  | cons c es ih => exact ih (Memory.wf_set _ _ w)

theorem State.Inv.swapPage {c va a} (h : s.Inv) : (s.swapPage c va a).Inv := by
  unfold State.swapPage
  dsimp only
  split
  · exact h
  · exact ⟨Memory.wf_put (Memory.wf_clear _ _ h.1), h.2⟩

theorem State.Inv.swapPages {c va n} (h : s.Inv) : (s.swapPages c va n).1.Inv := by
  induction n with
  | zero => exact h
  | succ n ih =>
    unfold State.swapPages
    dsimp only
    split
    · exact ih.fillTlb.swapPage
    · exact ih

theorem State.Inv.swapWindow {c w who} (h : s.Inv) : (s.swapWindow c w who).Inv := h.swapPages.conflict

theorem State.Inv.publish {f} (h : e.s.Inv) : (publishBody f e).Inv := by
  refine h.once ?_
  dsimp only
  split
  · trivial
  · split
    · trivial
    · exact .ite h h.swapWindow.startCopy

/-! ### Banks and FIFOs -/

theorem State.Inv.zeroBank {k b} (h : s.Inv) : (s.zeroBank k b).Inv := h.zero

theorem State.Inv.rollBlock {c g n} (h : s.Inv) : (s.rollBlock c g n).Inv := h.mapGroup.perfAdd

theorem State.Inv.setBank {g mode n} (h : s.Inv) : (s.setBank g mode n).Inv := by
  unfold State.setBank
  dsimp only
  split
  · split <;> exact h
  · exact h.zeroBank.mapGroup
  · exact h

theorem State.Inv.bankset {f} (h : e.s.Inv) : (banksetBody f e).Inv := by
  refine h.once ?_
  exact .ite trivial (.ite (.ite h h.rollBlock.setBank) h.mapCluster)

theorem State.Inv.bankDrainComplete {k b} (h : s.Inv) : OutcomeInv (execBankDrainComplete k b s) := by
  unfold execBankDrainComplete
  dsimp only
  split
  · exact h.zero (lo := (bankRange k b).1) (hi := (bankRange k b).2)
  · split
    · exact h.mapCluster
    · exact h

theorem State.Inv.mapFifo {u n f} (h : s.Inv) : (s.mapFifo u n f).Inv := h

theorem State.Inv.fpush {f} (h : e.s.Inv) : (fpushBody f e).Inv := by
  unfold fpushBody
  dsimp only
  split
  · trivial
  · refine h.once ?_
    split
    · trivial
    · exact .ite h.mapFifo.killLanes h
    · trivial

theorem State.Inv.fpushLeek {f} (h : le.s.Inv) : (fpushLeek f le).Inv := by
  unfold Machine.fpushLeek
  dsimp only
  split
  · exact h
  · split
    · trivial
    · split <;> exact h

theorem State.Inv.fpop {f} (h : e.s.Inv) : (fpopBody f e).Inv := by
  unfold fpopBody
  split
  · trivial
  · dsimp only
    refine .ite (h.deliverLoad h) ?_
    split
    · trivial
    · exact .ite h (h.deliverLoad h.mapFifo)

theorem State.Inv.fpopLeek {f} (h : le.s.Inv) : (fpopLeek f le).Inv := by
  unfold Machine.fpopLeek
  dsimp only
  split
  · exact h
  · split
    · trivial
    · split
      · exact h
      · exact .ite h.mapFifo.killLeek h

/-! ### Barriers as instructions -/

/-- The state that a barrier operation answers has its memories in canonical form. -/
def BarOut.Inv : BarOut → Prop
  | .done s | .wait s _ => s.Inv
  | .over => True

theorem State.Inv.barArrive {id a} (h : s.Inv) : (s.barArrive id a).Inv := by
  unfold State.barArrive
  split
  · exact h
  · split
    · split
      · trivial
      · exact h
    · exact h.arrive

theorem State.Inv.barWait {id a} (h : s.Inv) : (s.barWait id a).Inv := by
  unfold State.barWait
  split
  · exact h
  · split
    · exact h
    · split
      · exact h
      · split
        · trivial
        · exact h

theorem State.Inv.barSync {id a arrived} (h : s.Inv) : (s.barSync id a arrived).Inv := by
  unfold State.barSync
  have ha : (s.barArrive id a).Inv := h.barArrive
  split
  · exact h.barWait
  · split
    · rename_i t heq
      rw [heq] at ha
      split
      · exact ha
      · exact State.Inv.barWait ha
    · exact ha

theorem BarOut.Inv.barEffect {f} {x : BarOut} (h : x.Inv) : (e.barEffect f x).Inv := by
  cases x with
  | done | wait => exact h
  | _ => trivial

theorem BarOut.Inv.leekEffect {f} {x : BarOut} (h : x.Inv) : (le.barEffect f x).Inv := by
  cases x with
  | done | wait => exact h
  | _ => trivial

theorem BarOut.Inv.waitEffect {f} {x : BarOut} (h : x.Inv) : (e.waitEffect f x).Inv := by
  unfold Env.waitEffect
  split
  · exact h
  · exact .ite h h
  · exact h.barEffect

theorem State.Inv.dropped (h : e.s.Inv) : e.dropped.Inv := h

theorem State.Inv.withBar {f item gbOnly zero} {k : BarId → Effect} (h : e.s.Inv) (hk : ∀ b, (k b).Inv) :
    (e.withBar f item gbOnly zero k).Inv := by
  unfold Env.withBar
  dsimp only
  refine .ite trivial (.ite (State.Inv.killLanes h) ?_)
  split
  · trivial
  · exact hk _

theorem withBarLeek_inv {f item gbOnly} {k : BarId → Effect} (hk : ∀ b, (k b).Inv) : (le.withBar f item gbOnly k).Inv := by
  unfold LeekEnv.withBar
  split
  · trivial
  · exact hk _

end Sys2Proof.Machine
end

section
/-!
PROOF. The invariant of both memories, continued: barrier instructions, emission, records and the scheduler.
-/
namespace Sys2Proof.Machine

variable {s t : State} {e : Env} {le : LeekEnv}

theorem State.Inv.bararr {f} (h : e.s.Inv) : (bararrBody f e).Inv := h.withBar fun _ => h.barArrive.barEffect
theorem State.Inv.bararrLeek {f} (h : le.s.Inv) : (bararrLeek f le).Inv := withBarLeek_inv fun _ => h.barArrive.leekEffect
theorem State.Inv.barwait {f} (h : e.s.Inv) : (barwaitBody f e).Inv := h.withBar fun _ => h.dropped.barWait.waitEffect
theorem State.Inv.barwaitLeek {f} (h : le.s.Inv) : (barwaitLeek f le).Inv := withBarLeek_inv fun _ => h.barWait.leekEffect
theorem State.Inv.barsync {f} (h : e.s.Inv) : (barsyncBody f e).Inv := h.withBar fun _ => h.dropped.barSync.waitEffect
theorem State.Inv.barsyncLeek {f} (h : le.s.Inv) : (barsyncLeek f le).Inv := withBarLeek_inv fun _ => h.barSync.leekEffect

theorem State.Inv.barwaitt {f} (h : e.s.Inv) : (barwaittBody f e).Inv := by
  unfold barwaittBody
  refine h.withBar fun b => ?_
  split
  · exact h
  · exact h
  · trivial

theorem State.Inv.barwaittLeek {f} (h : le.s.Inv) : (barwaittLeek f le).Inv := by
  refine withBarLeek_inv fun b => ?_
  split
  · exact h
  · exact h
  · trivial

theorem State.Inv.barwaittTimeout {a} (h : s.Inv) : OutcomeInv (execBarwaittTimeout a s) := by
  cases a with
  | warp => exact h
  | leek => exact h

theorem State.Inv.barexp {f} (h : e.s.Inv) : (barexpBody f e).Inv := h.withBar fun _ => h.addBytes
theorem State.Inv.barexpLeek {f} (h : le.s.Inv) : (barexpLeek f le).Inv := withBarLeek_inv fun _ => h.addBytes
theorem State.Inv.barstat {f} (h : e.s.Inv) : (barstatBody f e).Inv := h.withBar fun _ => h
theorem State.Inv.barstatLeek {f} (h : le.s.Inv) : (barstatLeek f le).Inv := withBarLeek_inv fun _ => h

/-! ### Emission and join counters -/

theorem State.Inv.stopBroken {c qs} (h : s.Inv) : (s.stopBroken c qs).Inv := by
  refine State.Inv.foldl (fun s q h => ?_) h
  split
  · exact .ite h h.stopQueue
  · exact h

theorem State.Inv.emitPod {c q bs} (h : s.Inv) : (s.emitPod c q bs).Inv := by
  unfold State.emitPod
  split
  · exact h
  · exact h.joinEvent.enqueue

theorem emitFault_inv {f q pods m x} (hx : e.emitFault f q pods m = some x) : x.Inv := by
  unfold Env.emitFault at hx
  dsimp only at hx
  split at hx
  · cases hx; trivial
  · split at hx
    · cases hx; trivial
    · split at hx
      · cases hx; trivial
      · split at hx
        · cases hx; trivial
        · cases hx; trivial
        · exact reportFault_inv hx

theorem State.Inv.emit {f} (h : e.s.Inv) : (emitBody f e).Inv := by
  unfold emitBody
  dsimp only
  refine .ite trivial (.ite h ?_)
  generalize (if (e.w.operandKills [Opnd.any f.src1 .n32] e.eff).1 = 0 then _ else _) = pods
  refine .ite (State.Inv.killLanes h) ?_
  split
  · rename_i hx; exact emitFault_inv hx
  · split
    · exact h
    · refine .ite ?_ (.ite h.stopBroken h.stopBroken.mapWarp.killLanes)
      exact (State.Inv.foldl (fun _ _ h => h.emitPod) h.stopBroken).mapWarp.killLanes

theorem State.Inv.joinDec {who c a p n} (h : s.Inv) : (s.joinDec who c a p n).2.Inv := by
  unfold State.joinDec
  dsimp only
  split
  · exact h
  · dsimp only
    split
    · exact h.store.releaseRead
    · exact h.store

theorem State.Inv.joindec {f} (h : e.s.Inv) : (joindecBody f e).Inv := by
  unfold joindecBody
  dsimp only
  refine .ite h (.ite (State.Inv.killLanes h) ?_)
  split
  · trivial
  · trivial
  · refine .ite h ?_
    split
    · split
      · exact h.fillTlb.mapWarp.killLanes
      · exact h.fillTlb.postedError
    · exact h.fillTlb.joinDec.mapWarp

/-! ### Records, the clock and queues -/

theorem State.Inv.popRecord {g} (h : s.Inv) : (s.popRecord g).2.Inv := by
  unfold State.popRecord
  split
  · exact h
  · exact h.mapCluster

theorem State.Inv.evpop {f} (h : e.s.Inv) : (evpopBody f e).Inv := .ite h h.popRecord.mapWarp

theorem State.Inv.evpopLeek {f} (h : le.s.Inv) : (evpopLeek f le).Inv := .ite h h.popRecord.mapLeek

theorem State.Inv.evwait {g m lanes} (h : s.Inv) : (evwaitEffect s g m lanes).Inv := .ite trivial (.ite h h)

theorem State.Inv.evwaitLeek {f} (h : le.s.Inv) : (evwaitLeek f le).Inv := .ite h.evwait h

theorem State.Inv.clockIns {f} (h : e.s.Inv) : (clockBody f e).Inv := State.Inv.ite h h

theorem State.Inv.clockLeek {f} (h : le.s.Inv) : (clockLeek f le).Inv := State.Inv.ite h h

theorem State.Inv.qstat {f} (h : e.s.Inv) : (qstatBody f e).Inv := by
  unfold qstatBody
  dsimp only
  refine .ite h (.ite (State.Inv.killLanes h) (.ite trivial ?_))
  split
  · exact State.Inv.drawn h
  · split
    · exact h
    · split
      · exact State.Inv.killLanes h
      · exact h

/-! ### Taking pods -/

theorem State.Inv.refusePod {c k p a pa} (h : s.Inv) : (s.refusePod c k p a pa).Inv := by
  exact .ite h.putRec.joinEvent h.putRec

theorem State.Inv.takeHead {c q i} (h : s.Inv) : (s.takeHead c q i).Inv := h.touch.setQueueWord (s := _)

theorem State.Inv.freeSlot {c q} (h : s.Inv) : (s.freeSlot c q).Inv := by
  unfold State.freeSlot
  split
  · exact h
  · split
    · exact .ite h.stopQueue (.ite h.setQueueWord h.setQueueWord.stopQueue)
    · exact h

theorem State.Inv.zeroPage {c va} (h : s.Inv) : (s.zeroPage c va).Inv := by
  unfold State.zeroPage
  split
  · exact h.fillTlb.zero
  · exact h

theorem State.Inv.zeroSpill {c bs} (h : s.Inv) : (s.zeroSpill c bs).Inv := State.Inv.foldl (fun _ _ h => h.zeroPage) h

/-! ### Placement -/

theorem State.Inv.of_launch {c l seat} (h : s.Inv) (ht : s.launch c l seat = some t) : t.Inv := by
  unfold State.launch at ht
  split at ht
  · cases ht
  · cases ht
    have hu : s.newUid.2.Inv := h
    exact hu.touch.zeroSpill.mapCtx.mapCluster (s := _)

theorem State.Inv.of_launchAll {p c mk is} (h : s.Inv) (ht : s.launchAll p c mk is = some t) : t.Inv := by
  induction is generalizing s with
  | nil => cases ht; exact h
  | cons i is ih =>
    unfold State.launchAll at ht
    split at ht
    · cases ht
    · dsimp only at ht
      split at ht
      · cases ht
      · split at ht
        · cases ht
        · rename_i hl; exact ih (h.of_launch hl) ht

theorem State.Inv.newSpan {c w} (h : s.Inv) : (s.newSpan c w).2.Inv := h

theorem State.Inv.of_placeSpan {p w d n} (h : s.Inv) (ht : s.placeSpan p w d n = some t) : t.Inv :=
  h.newSpan.of_launchAll ht

theorem State.Inv.of_placed {p c src} (h : s.Inv) (ht : s.placed p c src = some t) : t.Inv := by
  unfold State.placed at ht
  split at ht
  · split at ht
    · cases ht
    · split at ht
      · obtain ⟨u, hu, rfl⟩ := Option.map_eq_some_iff.mp ht
        exact (h.of_placeSpan hu).mapPod
      · cases ht
  · split at ht
    · cases ht
    · split at ht
      · cases ht
      · split at ht
        · obtain ⟨u, hu, rfl⟩ := Option.map_eq_some_iff.mp ht
          have hn : s.newUid.2.Inv := h
          have hp := hn.of_placeSpan hu
          exact hp
        · cases ht

theorem State.Inv.takeGroupPod {c q} (h : s.Inv) : (s.takeGroupPod c q).Inv := by
  unfold State.takeGroupPod
  split
  · exact h
  · exact h.stopQueue
  · refine .ite h ?_
    split
    · exact h.takeHead.refusePod.freeSlot
    · split
      · exact h.faultRing
      · exact h.takeHead.refusePod.freeSlot
      · exact .ite h h.takeHead

theorem State.Inv.tryPlace {p c src} (h : s.Inv) : (s.tryPlace p c src).Inv := by
  unfold State.tryPlace
  split
  · exact h
  · exact .ite h (h.getD fun _ => h.of_placed)

theorem State.Inv.endWork {w} (h : s.Inv) : (s.endWork w).Inv := by
  have hp : State.Inv { s with pods := s.pods.filter fun x => x.uid != w.uid } := h
  exact .ite (State.Inv.foldl (fun _ _ h => h.joinEvent) hp.mapCtx) hp.joinEvent.freeSlot

theorem State.Inv.settleWork {u} (h : s.Inv) : (s.settleWork u).Inv := by
  unfold State.settleWork
  split
  · exact h
  · exact .ite h.endWork h

theorem State.Inv.refuseRest {w k a} (h : s.Inv) : (s.refuseRest w k a).Inv := h.putRec.mapPod.settleWork

theorem State.Inv.refuseGather {g k a} (h : s.Inv) : (s.refuseGather g k a).Inv :=
  State.Inv.foldl (fun _ _ h => h.refusePod) h

theorem State.Inv.groupPlace {src} (h : s.Inv) : OutcomeInv (execGroupPlace src s) := by
  unfold execGroupPlace
  split
  · split
    · split
      · exact h
      · dsimp only
        generalize hu : (if (s.current _ _).isSome = true then s else _) = u
        have hi : u.Inv := by
          subst hu
          split
          · exact h
          · exact h.takeGroupPod
        split
        · exact hi
        · split
          · exact hi.faultRing
          · exact hi.refuseRest
          · exact hi.tryPlace
    · exact h
  · split
    · exact h
    · split
      · split
        · exact h
        · split
          · exact h.faultRing
          · exact h.refuseGather
          · exact h.tryPlace
      · exact h

/-! ### The gatherer -/

theorem State.Inv.zeroSpace {c va n} (h : s.Inv) : (s.zeroSpace c va n).Inv := State.Inv.foldl (fun _ _ h => h.ctxWriteD) h

theorem State.Inv.fillLane {c g x} (h : s.Inv) : (s.fillLane c g x).Inv := h.ctxWriteD (s := s)

theorem State.Inv.of_openGather {c q x g} (h : s.Inv) (ht : s.openGather c q x = some (g, t)) : t.Inv := by
  unfold State.openGather at ht
  dsimp only at ht
  split at ht
  · cases ht
  · cases ht
    have hu : s.newUid.2.Inv := h
    exact hu.mapCtx.zeroSpace

theorem State.Inv.gatherTake {c q} (h : s.Inv) : OutcomeInv (execGatherTake c q s) := by
  unfold execGatherTake
  split
  · exact h
  · split
    · exact h
    · split
      · exact h
      · exact h.stopQueue
      · split
        · exact h
        · split
          · exact h.takeHead.refusePod.freeSlot
          · dsimp only
            split
            · exact h
            · rename_i g u hg
              have hu : u.Inv := by
                split at hg
                · cases hg; exact h
                · exact h.of_openGather hg
              exact hu.fillLane.takeHead.freeSlot

/-! ### Ends of groups, restarts and continuations -/

theorem State.Inv.freeGroup {g} (h : s.Inv) : (s.freeGroup g).Inv := h.freeSlots.mapCluster.mapCtx.mapGroup

theorem State.Inv.groupEnd {u} (h : s.Inv) : OutcomeInv (execGroupEnd u s) := by
  unfold execGroupEnd
  split
  · exact h
  · rename_i g _
    split
    · exact h
    · dsimp only
      have hf : ((s.freeGroup g).mapPod g.pod id).Inv := h.freeGroup.mapPod
      cases hr : g.restart with
      | some j =>
        simp only [Option.isSome_some, if_true]
        generalize (Held.dec g.ctx j _ _ _) = x
        split
        · exact State.Inv.joinEvent hf
        · exact State.Inv.joinEvent hf
      | none =>
        simp only [Option.isSome_none, Bool.false_eq_true, if_false]
        split
        · exact hf
        · refine State.Inv.settleWork (State.Inv.mapPod ?_)
          exact hf

theorem State.Inv.of_placeRestart {p c r d} (h : s.Inv) (ht : s.placeRestart p c r d = some t) : t.Inv := by
  unfold State.placeRestart at ht
  dsimp only at ht
  split at ht
  · cases ht
  · obtain ⟨u, hu, rfl⟩ := Option.map_eq_some_iff.mp ht
    have hl := h.newSpan.of_launch hu
    exact hl

theorem State.Inv.restartGroup {u} (h : s.Inv) : OutcomeInv (execRestartGroup u s) := by
  unfold execRestartGroup
  split
  · exact h
  · split
    · split
      · exact h
      · split
        · exact h.faultRing
        · exact State.Inv.refusePod h
        · exact h.getD fun _ => h.of_placeRestart
    · exact h

theorem State.Inv.continuationEnqueue {u} (h : s.Inv) : OutcomeInv (execContinuationEnqueue u s) := by
  unfold execContinuationEnqueue
  split
  · split
    · exact h
    · split
      · exact State.Inv.enqueue h
      · split
        · split
          · exact h
          · exact h.stopQueue
        · exact h
  · exact h

/-! ### Limiter and watchdog -/

theorem State.Inv.limiterAdmit (h : s.Inv) : OutcomeInv (execLimiterAdmit s) := by
  unfold execLimiterAdmit
  split
  · exact h
  · split
    · exact h
    · split
      · exact h
      · exact h.mapCluster (s := s)

theorem State.Inv.spinEnd {u w} (h : s.Inv) : OutcomeInv (execSpinEnd u w s) := by
  unfold execSpinEnd
  split
  · exact h
  · exact h.mapWarp

theorem State.Inv.writeDiag {c g ws} (h : s.Inv) : (s.writeDiag c g ws).1.Inv := h.storeAll

theorem State.Inv.bartimeout {id} (h : s.Inv) : OutcomeInv (execBartimeout id s) := by
  unfold execBartimeout
  split
  · split
    · exact h
    · dsimp only
      split
      · exact h
      · exact h.writeDiag.terminate
  · exact h

end Sys2Proof.Machine
end

section
/-!
PROOF. The invariant of both memories, continued: the host port and remote operations.
-/
namespace Sys2Proof.Machine

variable {s t : State}

/-! ### The host port and bring-up -/

theorem State.Inv.telemetry (h : s.Inv) : s.telemetry.Inv := .ite h h

theorem State.Inv.newRamp (h : s.Inv) : s.newRamp.Inv := .ite h h

theorem State.Inv.writeRegister {a v} (h : s.Inv) : (s.writeRegister a v).Inv := by
  unfold State.writeRegister
  split
  · dsimp only
    split
    · exact State.Inv.newRamp h
    · exact h
  · exact h

theorem State.Inv.badDoorbell {c a} (h : s.Inv) : (s.badDoorbell c a).Inv := h.putRec

theorem State.Inv.doorbell {c a v} (h : s.Inv) : (s.doorbell c a v).Inv := by
  unfold State.doorbell
  split
  · refine .ite h (.ite h.badDoorbell (.ite h ?_))
    split
    · exact h.badDoorbell
    · exact .ite h.stopQueue (.ite h.badDoorbell h.setQueueWord.setQueueWord.noteArrivals)
  · exact h

theorem State.Inv.badHost {c va} (h : s.Inv) : (s.badHost c va).Inv := h.putRec

theorem State.Inv.writeSector {a bs rest} (h : s.Inv) : (s.writeSector a bs rest).1.Inv := by
  unfold State.writeSector
  split
  · exact h
  · split
    · exact h.fillTlb.store
    · exact h.badHost

theorem State.Inv.hostBytes {p n apx} (h : s.Inv) : (s.hostBytes p n apx).2.Inv := by
  unfold State.hostBytes
  split
  · exact h
  · exact h

theorem State.Inv.readSector {a n rest} (h : s.Inv) : (s.readSector a n rest).2.1.Inv := by
  unfold State.readSector
  dsimp only
  split
  · exact h
  · split
    · exact h.fillTlb.hostBytes
    · exact h.badHost

theorem State.Inv.reset : State.reset.Inv := ⟨rfl, rfl⟩

theorem State.Inv.resetModule (h : s.Inv) : s.resetModule.Inv :=
  State.Inv.foldl (fun _ _ h => h.newEpoch) ⟨State.Inv.reset.1, h.2⟩

theorem State.Inv.failed {c d} (h : s.Inv) : (s.failed c d).Inv := h

theorem State.Inv.start {x c} (h : s.Inv) : (s.start x c).Inv := h

theorem State.Inv.bringUp {i} (h : s.Inv) : (s.bringUp i).Inv := by
  unfold State.bringUp
  dsimp only
  split
  · exact h.failed
  · split
    · exact h.failed
    · exact h.start

theorem State.Inv.fwgo {x} (h : s.Inv) : (s.fwgo x).Inv := .ite (.ite h.failed h.bringUp) h

theorem State.Inv.fundamentalReset {f} (h : s.Inv) : OutcomeInv (execFundamentalReset f s) := by
  unfold execFundamentalReset
  split
  · exact h.resetModule
  · split
    · exact h.resetModule
    · exact h

/-! ### The owner of remote requests -/

theorem State.Inv.putRequester {q} (h : s.Inv) : (s.putRequester q).Inv := h

theorem State.Inv.ownerFill {r} (h : s.Inv) : (s.ownerFill r).Inv := by
  unfold State.ownerFill
  split
  · exact h.fillTlb
  · exact h

theorem State.Inv.remoteAtoms {p op f o l} (h : s.Inv) : (s.remoteAtoms p op f o l).2.Inv := by
  induction l generalizing s with
  | nil => exact h
  | cons x l ih => exact ih h.atomStep

theorem State.Inv.serveEvent {x} (h : s.Inv) : (s.serveEvent x).2.Inv := by
  unfold State.serveEvent
  split
  · exact h.atomEvent
  · exact h

theorem State.Inv.serveEvents {x n} (h : s.Inv) : (s.serveEvents x n).2.Inv := by
  induction n generalizing s x with
  | zero => exact h
  | succ n ih => exact ih h.serveEvent

theorem State.Inv.applyRemote {r} (h : s.Inv) : (s.applyRemote r).state.Inv := by
  unfold State.applyRemote
  split
  · exact h
  · dsimp only
    split
    · exact h.ownerFill
    · exact h.ownerFill
    · exact h.ownerFill.store
    · split
      · exact h.ownerFill.serveEvents
      · split
        · split
          · exact h.ownerFill
          · exact h.ownerFill.remoteAtoms
        · exact h.ownerFill

theorem State.Inv.sendAnswer {r st vs bad} (h : s.Inv) : (s.sendAnswer r st vs bad).Inv := h

theorem State.Inv.serve {r} (h : s.Inv) : (s.serve r).Inv := h.applyRemote

theorem State.Inv.answerNumbered {r n} {a : Applied} (h : a.state.Inv) : (s.answerNumbered r n a).Inv := h

theorem State.Inv.serveNumbered {r n} (h : s.Inv) : (s.serveNumbered r n).Inv := State.Inv.answerNumbered h.applyRemote

theorem State.Inv.refuseFull {r} (h : s.Inv) : (s.refuseFull r).Inv := h

theorem State.Inv.drainHeld {m c k} (h : s.Inv) : (State.drainHeld m c k s).Inv := by
  induction k generalizing s with
  | zero => exact h
  | succ k ih =>
    unfold State.drainHeld
    split
    · exact h
    · dsimp only
      split
      · exact h
      · split
        · exact h
        · generalize s.heldReqs.filter _ = q
          have hq : State.Inv { s with heldReqs := q } := h
          split
          · exact hq
          · split
            · exact hq.ownerFill
            · exact ih hq.putRequester.serveNumbered

theorem State.Inv.settled {x} (h : s.Inv) : (s.settled x).Inv := by
  unfold State.settled
  dsimp only
  split
  · exact h
  · split
    · exact h
    · exact h

theorem State.Inv.served {x} (h : s.Inv) : (s.served x).Inv := h.settled.drainHeld

theorem State.Inv.ownerStep {m c} (h : s.Inv) : (s.ownerStep m c).Inv := by
  unfold State.ownerStep
  split
  · exact h
  · rename_i x _
    have hx : (s.serveEvent x).2.Inv := h.serveEvent
    dsimp only
    split
    · exact State.Inv.served hx
    · exact hx

theorem State.Inv.finishServing {p k} (h : s.Inv) : (s.finishServing p k).Inv := by
  induction k generalizing s with
  | zero => exact h
  | succ k ih =>
    unfold State.finishServing
    split
    · exact h
    · exact ih h.serveEvents.served

theorem State.Inv.finishAll {p} (h : s.Inv) : (s.finishAll p).Inv := h.finishServing

theorem State.Inv.endServing {p} (h : s.Inv) : (s.endServing p).Inv := by
  unfold State.endServing
  exact State.Inv.foldl (fun _ _ h => h.serveEvents) h

theorem State.Inv.settleNow {x} (h : s.Inv) : (s.settleNow x).Inv := h.serveEvents.settled

theorem State.Inv.takeWatermark {q w} (h : s.Inv) : (s.takeWatermark q w).Inv := by
  unfold State.takeWatermark
  split
  · exact State.Inv.foldl (fun _ _ h => h.settleNow) h
  · exact h

theorem State.Inv.of_greet {m c g w} (h : s.Inv) (ht : s.greet m c g w = some t) : t.Inv := by
  unfold State.greet at ht
  dsimp only at ht
  split at ht
  · cases ht; exact h
  · split at ht
    · cases ht; exact h.putRequester.takeWatermark
    · have he := h.endServing (p := fun r => r.requester == m && r.ctx == c)
      split at ht
      · cases ht; exact he
      · cases ht

theorem State.Inv.restarted {r} (h : s.Inv) : (s.restarted r).Inv := by
  unfold State.restarted
  dsimp only
  split
  · exact .ite h h
  · exact h

theorem State.Inv.takeNumbered {r n} (h : s.Inv) : (s.takeNumbered r n).Inv := by
  unfold State.takeNumbered
  split
  · exact h
  · dsimp only
    refine .ite h (.ite h ?_)
    exact State.Inv.drainHeld h

theorem State.Inv.remoteRequest {r} (h : s.Inv) : OutcomeInv (execRemoteRequest r s) := by
  unfold execRemoteRequest
  split
  · exact h
  · split
    · exact h
    · rename_i hg
      have hu := h.of_greet hg
      split
      · exact hu.restarted.drainHeld
      · split
        · exact hu.serve
        · exact hu.takeNumbered

theorem State.Inv.keepaliveReceive {k} (h : s.Inv) : OutcomeInv (execKeepaliveReceive k s) := by
  unfold execKeepaliveReceive
  split
  · exact h
  · split
    · exact h
    · rename_i hg
      exact (h.of_greet hg).drainHeld

theorem State.Inv.resultCacheExpiry {m c} (h : s.Inv) : OutcomeInv (execResultCacheExpiry m c s) := by
  unfold execResultCacheExpiry
  split
  · split
    · exact h
    · exact h
  · exact h

theorem State.Inv.finishPart {p} (h : s.Inv) : (s.finishPart p).Inv := by
  unfold State.finishPart
  exact State.Inv.finishAll h

theorem State.Inv.restartEpoch {p} (h : s.Inv) : (s.restartEpoch p).Inv := by
  unfold State.restartEpoch
  exact State.Inv.foldl (fun _ _ h => h.restarted) (State.Inv.newEpoch h)

theorem State.Inv.withdraw {r} (h : s.Inv) : (s.withdraw r).Inv := by
  unfold State.withdraw
  exact State.Inv.finishAll h

/-! ### The requester of remote operations -/

theorem State.Inv.completeRemote {tag st vs bad} (h : s.Inv) : (s.completeRemote tag st vs bad).Inv := by
  unfold State.completeRemote
  split
  · exact h
  · rename_i o _
    have hw : (if o.owner == Config.moduleId then s.withdraw o.request else s).Inv := .ite h.withdraw h
    dsimp only
    generalize (if o.owner == Config.moduleId then s.withdraw o.request else s) = u at hw ⊢
    repeat' split
    all_goals exact hw

theorem State.Inv.completeWhere {p st} (h : s.Inv) : (s.completeWhere p st).Inv :=
  State.Inv.foldl (fun _ _ h => h.completeRemote) h

theorem State.Inv.hear {o p e} (h : s.Inv) : (s.hear o p e).Inv := .ite (State.Inv.completeWhere h) h

theorem State.Inv.remoteAnswer {a} (h : s.Inv) : OutcomeInv (execRemoteAnswer a s) := by
  unfold execRemoteAnswer
  split
  · exact h
  · dsimp only
    split
    · exact h.hear.completeRemote
    · exact h.hear

theorem State.Inv.remoteRefusal {a} (h : s.Inv) : OutcomeInv (execRemoteRefusal a s) := by
  unfold execRemoteRefusal
  split
  · exact h
  · dsimp only
    split
    · exact State.Inv.perfAdd h.hear
    · exact h.hear

theorem State.Inv.resend {o n} (h : s.Inv) : (s.resend o n).Inv := h

theorem State.Inv.refusalResend {tag} (h : s.Inv) : OutcomeInv (execRefusalResend tag s) := by
  unfold execRefusalResend
  split
  · split
    · split
      · exact h.resend
      · exact h
    · exact h
  · exact h

theorem State.Inv.retransmission {tag} (h : s.Inv) : OutcomeInv (execRetransmission tag s) := by
  unfold execRetransmission
  split
  · split
    · exact h.resend.perfAdd
    · exact h
  · exact h

theorem State.Inv.remoteLost {tag} (h : s.Inv) : OutcomeInv (execRemoteLost tag s) := by
  unfold execRemoteLost
  split
  · split
    · exact h.completeRemote
    · exact h
  · exact h

theorem State.Inv.ownerFailed {o} (h : s.Inv) : OutcomeInv (execOwnerFailed o s) := by
  unfold execOwnerFailed
  dsimp only
  split
  · exact h.completeWhere
  · exact h

theorem State.Inv.keepalive {c o} (h : s.Inv) : OutcomeInv (execKeepalive c o s) := by
  unfold execKeepalive
  split
  · exact h
  · split
    · exact h
    · split
      · exact h
      · exact h

theorem State.Inv.keepaliveAck {a} (h : s.Inv) : OutcomeInv (execKeepaliveAck a s) := by
  unfold execKeepaliveAck
  split
  · exact h
  · exact h.hear

end Sys2Proof.Machine
end

section
/-!
PROOF. The invariant of both memories, continued: the matrix unit and the system instructions.
-/
namespace Sys2Proof.Machine

variable {s t : State} {e : Env} {le : LeekEnv}

/-! ### Issue of matrix instructions -/

theorem withRange_inv {acc offs} {k : Effect} (hk : k.Inv) : (le.withRange acc offs k).Inv := by
  unfold LeekEnv.withRange
  split
  · unfold rangeEffect
    split
    · trivial
    · trivial
  · exact hk

theorem State.Inv.mapSlot {k n f} (h : s.Inv) : (s.mapSlot k n f).Inv := h.mapCluster

theorem State.Inv.enqueueOp {kind name} {k : Nat → State → Effect} (he : le.s.Inv) (h : s.Inv)
    (hk : ∀ u t, t.Inv → (k u t).Inv) : (le.enqueue s kind name k).Inv := .ite he (hk _ _ h)

theorem State.Inv.queued {kind name} (he : le.s.Inv) (h : s.Inv) : (le.queued s kind name).Inv :=
  he.enqueueOp h fun _ _ h => h

theorem State.Inv.withSlot {n} {k : Nat → State → Effect} (h : le.s.Inv) (hk : ∀ x t, t.Inv → (k x t).Inv) :
    (le.withSlot n k).Inv := by
  unfold LeekEnv.withSlot
  split
  · exact hk _ _ h
  · refine .ite trivial ?_
    split
    · refine .ite (hk _ _ ?_) h.mapCluster
      exact h.mapCluster.mapGroup.mapLeek
    · exact State.Inv.ite h h.mapCluster

theorem State.Inv.tldLeek {f} (h : le.s.Inv) : (tldLeek f le).Inv := by
  unfold Machine.tldLeek
  dsimp only
  generalize pieces _ _ _ _ = offs
  exact .ite h (.ite trivial (.ite trivial (withRange_inv (h.queued h.mapLeek))))

theorem State.Inv.agathLeek {f} (h : le.s.Inv) : (agathLeek f le).Inv :=
  .ite h (.ite trivial (.ite trivial (.ite trivial (withRange_inv (h.enqueueOp h fun _ _ h => h)))))

theorem State.Inv.mmaLeek {f} (h : le.s.Inv) : (mmaLeek f le).Inv :=
  .ite trivial (.ite h (h.withSlot fun _ _ ht => h.queued ht.mapSlot))

theorem State.Inv.mmasLeek {f} (h : le.s.Inv) : (mmasLeek f le).Inv :=
  .ite trivial (.ite h (.ite trivial (withRange_inv (h.withSlot fun _ _ ht => h.queued ht.mapSlot))))

theorem State.Inv.aczLeek {f} (h : le.s.Inv) : (aczLeek f le).Inv :=
  .ite h (h.withSlot fun _ _ ht => h.queued ht.mapSlot)

theorem State.Inv.acdrnLeek {f} (h : le.s.Inv) : (acdrnLeek f le).Inv := by
  unfold Machine.acdrnLeek
  dsimp only
  refine .ite trivial (.ite h ?_)
  split
  · trivial
  · exact .ite trivial (.ite trivial (.ite trivial (withRange_inv (h.queued h))))

theorem State.Inv.acrelLeek {f} (h : le.s.Inv) : (acrelLeek f le).Inv := by
  unfold Machine.acrelLeek
  dsimp only
  refine .ite h ?_
  split
  · exact h
  · exact h.queued h.mapSlot.mapGroup

theorem State.Inv.acstatLeek {f} (h : le.s.Inv) : (acstatLeek f le).Inv := State.Inv.ite h h

theorem State.Inv.mmwaitLeek {f} (h : le.s.Inv) : (mmwaitLeek f le).Inv := .ite h h

theorem State.Inv.lkexitLeek {f} (h : le.s.Inv) : (lkexitLeek f le).Inv := .ite h.endLeek h

/-! ### Operations of the matrix unit -/

theorem State.Inv.mapOp {u o f} (h : s.Inv) : (s.mapOp u o f).Inv := h

theorem State.Inv.begin' {g o} (h : s.Inv) : (s.begin' g o).Inv := h.mapOp.mapCluster

theorem State.Inv.retireOp {g o} (h : s.Inv) : (s.retireOp g o).Inv := h.mapLeek.mapCluster

theorem State.Inv.opError {c g l o k a} (h : s.Inv) : (s.opError c g l o k a).Inv := h.killLeek

theorem State.Inv.startOp {c g l o} (h : s.Inv) : (s.startOp c g l o).Inv := .ite h.opError h.begin'

theorem State.Inv.matrixOpStart {g} (h : s.Inv) : OutcomeInv (execMatrixOpStart g s) := by
  unfold execMatrixOpStart
  split
  · exact h
  · split
    · split
      · split
        · exact h
        · exact h.startOp
      · exact h
    · exact h

theorem State.Inv.checkRows {c g l o b p} (h : s.Inv) : (s.checkRows c g l o b p).Inv := by
  unfold State.checkRows
  split
  · exact h.retireOp.faultRing.setWait
  · exact h.leekFault
  · exact h.setWait

theorem State.Inv.matRead {c g l o p} (h : s.Inv) : (s.matRead c g l o p).Inv := by
  unfold State.matRead
  split
  · exact h.opError
  · dsimp only
    split
    · exact .ite h.mapOp.checkRows h.mapOp
    · exact h.mapOp

theorem State.Inv.matStore {g o f ty x p} (h : s.Inv) : (s.matStore g o f ty x p).Inv := h.store.wrote.mapOp

theorem State.Inv.matEvent {c g l o} (h : s.Inv) : (s.matEvent c g l o).Inv := by
  unfold State.matEvent
  split
  · split
    · exact h.fillTlb.matStore
    · exact h
  · split
    · exact h.fillTlb.matRead
    · exact h

theorem State.Inv.matrixStep {g} (h : s.Inv) : (s.matrixStep g).Inv := by
  unfold State.matrixStep
  split
  · exact h
  · split
    · split
      · exact h.matEvent
      · exact h
    · exact h

theorem State.Inv.accumulate {g l o fb fa la x y scales} (h : s.Inv) : (s.accumulate g l o fb fa la x y scales).Inv :=
  h.mapSlot.perfAdd.mapLeek

theorem State.Inv.finishOp {g l o} (h : s.Inv) : (s.finishOp g l o).Inv := by
  unfold State.finishOp
  split
  · exact h
  · exact h
  · exact h.accumulate
  · exact h.accumulate
  · exact h.mapSlot.mapLeek
  · exact h
  · exact h.freeSlots

theorem State.Inv.matrixOpComplete {g o} (h : s.Inv) : OutcomeInv (execMatrixOpComplete g o s) := by
  unfold execMatrixOpComplete
  split
  · exact h
  · split
    · split
      · exact h.finishOp.retireOp
      · exact h
    · exact h

/-! ### System and trap instructions -/

theorem State.Inv.trap {f} (h : e.s.Inv) : (trapBody f e).Inv := .ite h trivial

theorem State.Inv.endsFrame {c g w} (h : s.Inv) : (s.endsFrame c g w).Inv := h.putRec.terminate

theorem State.Inv.tretEnds (h : e.s.Inv) : e.tretEnds.Inv := h.perfAdd.endsFrame

theorem State.Inv.leavesTrap {w : Warp} (h : e.s.Inv) : ((e.put w).perfAdd e.c.id 0 1).Inv := State.Inv.perfAdd h

theorem State.Inv.tretLeaves {w} (h : e.s.Inv) : (e.tretLeaves w).Inv := h.leavesTrap

theorem State.Inv.tret (h : e.s.Inv) : (tretBody e).Inv := by
  unfold tretBody
  dsimp only
  refine .ite h.tretEnds (.ite h.tretLeaves ?_)
  split
  · exact .ite h.tretEnds h.tretLeaves
  · exact h.tretEnds
  · exact h.tretLeaves
  · exact State.Inv.faultRing h.leavesTrap

theorem State.Inv.halt {f} (h : e.s.Inv) : (haltBody f e).Inv := h.perfAdd.putRec.terminate

theorem State.Inv.movsr {f} (h : e.s.Inv) : (movsrBody f e).Inv := by
  unfold movsrBody
  dsimp only
  refine .ite h (.ite (State.Inv.killLanes h) ?_)
  split
  · trivial
  · exact h

theorem State.Inv.anyway {os} {k : Effect} (h : e.s.Inv) (hk : k.Inv) : (e.anyway os k).Inv := .ite h.killLanes hk

theorem State.Inv.ovfld {f} (h : e.s.Inv) : (ovfldBody f e).Inv := h.anyway (.ite h trivial)

theorem State.Inv.railset {f} (h : e.s.Inv) : (railsetBody f e).Inv := h.anyway (.ite trivial (.ite h h))

theorem State.Inv.sigseed {f} (h : e.s.Inv) : (sigseedBody f e).Inv :=
  .ite (State.Inv.killLanes h.leavesTrap) (.ite trivial h.leavesTrap)

theorem State.Inv.dropTlb {c va} (h : s.Inv) : (s.dropTlb c va).Inv := h

theorem State.Inv.tlbinv {f} (h : e.s.Inv) : (tlbinvBody f e).Inv := h.anyway h

theorem diagFault_inv {a x} (hx : e.diagFault a = some x) : x.Inv := by
  unfold Env.diagFault at hx
  dsimp only at hx
  split at hx
  · cases hx
  · split at hx
    · cases hx; trivial
    · split at hx
      · cases hx; trivial
      · split at hx
        · cases hx; trivial
        · cases hx; trivial
        · cases hx

theorem State.Inv.wdset {f} (h : e.s.Inv) : (wdsetBody f e).Inv := by
  refine h.anyway ?_
  extract_lets x
  split
  · exact h
  · dsimp only
    split
    · rename_i hx; exact diagFault_inv hx
    · exact h

theorem State.Inv.perfrd {f} (h : e.s.Inv) : (perfrdBody f e).Inv := by
  unfold perfrdBody
  dsimp only
  refine .ite h (.ite (State.Inv.killLanes h) ?_)
  split
  · exact h
  · trivial

end Sys2Proof.Machine
end

section
/-!
PROOF. The invariant of both memories, continued: commands, fabric ports, power and soft errors.
-/
namespace Sys2Proof.Machine

variable {s t : State} {c : Command}

/-! ### The command ring -/

theorem State.Inv.acceptOne (h : s.Inv) : s.acceptOne.Inv := by
  unfold State.acceptOne
  dsimp only
  split
  · exact State.Inv.complete h
  · exact h

theorem State.Inv.accept (h : s.Inv) : s.accept.Inv := .ite (State.Inv.foldl (fun _ _ h => h.acceptOne) h) h

theorem State.Inv.begin {fits} (h : s.Inv) : (s.begin fits).2.Inv := by
  unfold State.begin
  dsimp only
  split
  · exact h.accept
  · exact h.accept

/-- An event that carries a command out keeps the invariant where the command does. -/
theorem State.Inv.command {fits} {run : Command → State → State} (h : s.Inv) (hr : ∀ c s, State.Inv s → (run c s).Inv) :
    (s.command fits run).Inv := by
  unfold State.command
  have hb : (s.begin fits).2.Inv := h.begin
  split
  · rename_i heq; exact hr _ _ (by rwa [heq] at hb)
  · rename_i heq; rwa [heq] at hb

theorem State.Inv.onPart {k : Partition → State} (h : s.Inv) (hk : ∀ p, (k p).Inv) : (s.onPart c k).Inv := by
  unfold State.onPart
  split
  · exact h.complete
  · exact .ite h.complete (hk _)

theorem State.Inv.onCtx {k : Context → State} (h : s.Inv) (hk : ∀ x, (k x).Inv) : (s.onCtx c k).Inv := by
  unfold State.onCtx
  split
  · exact h.complete
  · exact .ite h.complete (hk _)

theorem State.Inv.runOn {d} (h : s.Inv) : (s.runOn c d).Inv := h

/-! ### Partitions -/

theorem State.Inv.partCreate (h : s.Inv) : (s.partCreate c).Inv := by
  unfold State.partCreate
  refine .ite h.complete (.ite h.complete (.ite h.complete ?_))
  exact State.Inv.complete h

theorem State.Inv.emptyQueues {n} (h : s.Inv) : (s.emptyQueues n).Inv := by
  unfold State.emptyQueues
  split
  · exact h
  · refine State.Inv.foldl (fun _ _ h => ?_) h
    split
    · exact h.setQueueWord.setQueueWord
    · exact h

theorem State.Inv.resetCtx {n r} (h : s.Inv) : (s.resetCtx n r).Inv := h.forceReset.emptyQueues

theorem State.Inv.resizePrepare (h : s.Inv) : (s.resizePrepare c).Inv :=
  h.onPart fun _ => .ite h.complete h.mapPart.runOn

theorem State.Inv.prepareComplete {p} (h : s.Inv) : OutcomeInv (execPrepareComplete p s) := by
  unfold execPrepareComplete
  split
  · split
    · exact h.mapPart.finishRunning
    · exact h
  · exact h

theorem State.Inv.resizeDeadline {p} (h : s.Inv) : OutcomeInv (execResizeDeadline p s) := by
  unfold execResizeDeadline
  split
  · dsimp only
    split
    · exact (State.Inv.foldl (fun _ _ h => h.resetCtx) h).mapPart.finishRunning
    · exact h
  · exact h

theorem State.Inv.zeroQuarters {q} (h : s.Inv) : (s.zeroQuarters q).Inv :=
  State.Inv.foldl (fun _ _ h => .ite h.zero.zero h) h

theorem State.Inv.resizeCommit (h : s.Inv) : (s.resizeCommit c).Inv :=
  h.onPart fun _ => .ite h.complete (.ite h.complete h.finishAll.zeroQuarters.mapPart.complete)

theorem State.Inv.resetPart {p} (h : s.Inv) : (s.resetPart p).Inv := by
  unfold State.resetPart
  dsimp only
  have hr : ∀ l : List Nat, (l.foldl (fun s c => s.resetCtx c (s.runOf c).afterReset)
      ((s.finishRunning (fun c => c.lane == .part p.id) .reset).finishPart p.id)).Inv :=
    fun _ => State.Inv.foldl (fun _ _ h => h.resetCtx) h.finishRunning.finishPart
  exact (State.Inv.foldl (fun _ _ h => h.mapCtx) (hr _).zeroQuarters.zero).mapPart.restartEpoch

theorem State.Inv.partReset (h : s.Inv) : (s.partReset c).Inv := h.onPart fun _ => h.resetPart.complete

theorem State.Inv.forgetCtx {n} (h : s.Inv) : (s.forgetCtx n).Inv := h

theorem State.Inv.partDestroy (h : s.Inv) : (s.partDestroy c).Inv := by
  unfold State.partDestroy
  split
  · exact h.complete
  · rename_i p _
    have hf : ∀ l : List Nat, (l.foldl (fun s x => s.forgetCtx x) (s.resetPart p)).Inv :=
      fun _ => State.Inv.foldl (fun _ _ h => h.forgetCtx) h.resetPart
    exact State.Inv.complete (.ite (State.Inv.telemetry (hf _)) (hf _))

theorem State.Inv.setApx (h : s.Inv) : (s.setApx c).Inv :=
  h.onPart fun _ => .ite h.complete (.ite h.complete h.mapPart.complete)

/-! ### Contexts -/

theorem State.Inv.ctxCreate (h : s.Inv) : (s.ctxCreate c).Inv := by
  unfold State.ctxCreate
  split
  · exact h.complete
  · refine .ite h.complete (.ite h.complete (.ite h.complete ?_))
    exact State.Inv.complete (State.Inv.nextGen h)

theorem State.Inv.saveRequester {x} (h : s.Inv) : (s.saveRequester x).Inv := State.Inv.foldl (fun _ _ h => h.ctxWriteD) h

theorem State.Inv.emptied {x} (h : s.Inv) : (s.emptied x).Inv := h.saveRequester.mapCtx

theorem State.Inv.ctxDrain (h : s.Inv) : (s.ctxDrain c).Inv :=
  h.onCtx fun _ => .ite h.complete (.ite h.emptied.complete h.mapCtx.runOn)

theorem State.Inv.drainComplete {n} (h : s.Inv) : OutcomeInv (execDrainComplete n s) := by
  unfold execDrainComplete
  split
  · exact h
  · split
    · split
      · exact h.emptied.finishRunning
      · exact h
    · exact h

theorem State.Inv.drainDeadline {n} (h : s.Inv) : OutcomeInv (execDrainDeadline n s) := by
  unfold execDrainDeadline
  split
  · exact h
  · split
    · split
      · exact h.resetCtx.finishRunning
      · exact h
    · exact h

theorem State.Inv.ctxResume (h : s.Inv) : (s.ctxResume c).Inv := by
  refine h.onCtx fun x => State.Inv.complete ?_
  split
  · exact h
  · exact h
  · exact h

theorem State.Inv.overtakeDrain {n} (h : s.Inv) : (s.overtakeDrain n).Inv := h.finishRunning

theorem State.Inv.ctxReset (h : s.Inv) : (s.ctxReset c).Inv := h.onCtx fun _ => h.overtakeDrain.resetCtx.complete

theorem State.Inv.ctxDestroy (h : s.Inv) : (s.ctxDestroy c).Inv :=
  h.onCtx fun _ => h.overtakeDrain.forceReset.forgetCtx.complete

theorem State.Inv.ctxTlbinv (h : s.Inv) : (s.ctxTlbinv c).Inv := h.onCtx fun _ => .ite h.complete h.dropTlb.complete

theorem State.Inv.answered {n p} (h : s.Inv) : (s.answered n p).Inv := h

theorem State.Inv.mapWaits {n f} (h : s.Inv) : (s.mapWaits n f).Inv := h

theorem State.Inv.takeHeld {n p} (h : s.Inv) : (s.takeHeld n p).2.Inv := h

theorem State.Inv.ctxReplay (h : s.Inv) : (s.ctxReplay c).Inv :=
  h.onCtx fun _ => State.Inv.complete (State.Inv.foldl (fun _ _ h => h.counterEvent) h.answered.mapWaits.takeHeld)

theorem State.Inv.failHeld {l} (h : s.Inv) : (s.failHeld l).Inv := by
  refine State.Inv.foldl (fun _ _ h => ?_) h
  split
  · exact h.dropHeld
  · exact h.counterEvent

theorem State.Inv.ctxFaultfail (h : s.Inv) : (s.ctxFaultfail c).Inv :=
  h.onCtx fun _ => State.Inv.complete h.answered.mapWaits.takeHeld.failHeld

/-! ### Debugging -/

theorem State.Inv.onAgent {k : Context → AgentId → State} (h : s.Inv) (hk : ∀ x a, (k x a).Inv) : (s.onAgent c k).Inv := by
  refine h.onCtx fun x => .ite h.complete ?_
  split
  · exact h.complete
  · exact hk _ _

theorem State.Inv.setHalted {a b} (h : s.Inv) : (s.setHalted a b).Inv := by
  cases a with
  | warp => exact h
  | leek => exact h

theorem State.Inv.debugHalt (h : s.Inv) : (s.debugHalt c).Inv := .ite h.complete (h.onAgent fun _ _ => h.setHalted.complete)

theorem State.Inv.debugResume (h : s.Inv) : (s.debugResume c).Inv := h.onAgent fun _ _ => h.setHalted.complete

theorem State.Inv.writeBuffer {x va bs} (h : s.Inv) : (s.writeBuffer x va bs).Inv := State.Inv.foldl (fun _ _ h => h.ctxWriteD) h

theorem State.Inv.debugRead (h : s.Inv) : (s.debugRead c).Inv := by
  refine h.onAgent fun x a => ?_
  dsimp only
  split
  · split
    · refine .ite h.complete ?_
      split
      · exact h.complete
      · exact h.writeBuffer.complete
    · exact h.complete
  · split
    · refine .ite h.complete ?_
      split
      · exact h.complete
      · exact h.writeBuffer.complete
    · exact h.complete

theorem State.Inv.debugWrite (h : s.Inv) : (s.debugWrite c).Inv := by
  refine h.onAgent fun x a => ?_
  dsimp only
  split
  · split
    · refine .ite h.complete ?_
      split
      · split
        · exact h.mapWarp.complete
        · exact h.complete
      · exact h.complete
    · exact h.complete
  · split
    · refine .ite h.complete ?_
      split
      · exact h.mapLeek.complete
      · exact h.mapLeek.complete
      · exact h.complete
    · exact h.complete

/-! ### SLOT_RETIRE and ATTEST -/

theorem State.Inv.slotRetire (h : s.Inv) : (s.slotRetire c).Inv := by
  unfold State.slotRetire
  dsimp only
  split
  · exact h.complete
  · exact .ite h.complete (.ite h.mapCluster.runOn h.mapCluster.complete)

theorem State.Inv.attest (h : s.Inv) : (s.attest c).Inv := by
  unfold State.attest
  dsimp only
  generalize s.report c ++ _ ++ _ = bytes
  exact State.Inv.complete ⟨h.1, Memory.wf_write _ _ h.2⟩

theorem OutcomeInv.ite {p : Prop} [Decidable p] (hs : s.Inv) (ht : t.Inv) : OutcomeInv (if p then .next s else .next t) := by
  split
  · exact hs
  · exact ht

/-! ### Fabric ports and failed dies -/

theorem State.Inv.setPort {p a b d} (h : s.Inv) : (s.setPort p a b d).Inv := .ite (State.Inv.telemetry h) h

theorem State.Inv.settleLoans (h : s.Inv) : s.settleLoans.Inv := h

theorem State.Inv.fenceLoans {p} (h : s.Inv) : (s.fenceLoans p).Inv := h

theorem State.Inv.fencePort {p} (h : s.Inv) : (s.fencePort p).Inv := h.setPort.fenceLoans

theorem State.Inv.linkFence (h : s.Inv) : (s.linkFence c).Inv := by
  unfold State.linkFence
  split
  · exact .ite h.fencePort.complete h.complete
  · exact h.complete

theorem State.Inv.linkRetrain (h : s.Inv) : (s.linkRetrain c).Inv := by
  unfold State.linkRetrain
  split
  · exact h.setPort.runOn
  · exact h.complete

theorem State.Inv.linkTrainingPass {p} (h : s.Inv) : OutcomeInv (execLinkTrainingPass p s) := by
  unfold execLinkTrainingPass
  split
  · exact h.setPort.finishRunning
  · exact h

theorem State.Inv.retrainDeadline {p} (h : s.Inv) : OutcomeInv (execRetrainDeadline p s) := by
  unfold execRetrainDeadline
  split
  · split
    · exact h.fencePort.finishRunning
    · exact h
  · exact h

theorem State.Inv.linkFenceEvent {p} (h : s.Inv) : OutcomeInv (execLinkFence p s) := by
  unfold execLinkFence
  split
  · exact h.fencePort
  · exact h

theorem State.Inv.failPart {p} (h : s.Inv) : (s.failPart p).Inv := by
  unfold State.failPart
  have he := h.endServing (p := fun r => partOf r.ownerCtx == p)
  exact State.Inv.finishRunning he

theorem State.Inv.dieFailure {d} (h : s.Inv) : OutcomeInv (execDieFailure d s) := by
  unfold execDieFailure
  split
  · exact State.Inv.telemetry (State.Inv.foldl (fun _ _ h => h.failPart) h)
  · exact h

/-! ### Power, rails and soft errors -/

theorem State.Inv.powerGrant {n} (h : s.Inv) : OutcomeInv (execPowerGrant n s) := by
  unfold execPowerGrant
  split
  · exact h
  · exact h

theorem State.Inv.safeGrantFallback (h : s.Inv) : OutcomeInv (execSafeGrantFallback s) := by
  unfold execSafeGrantFallback
  split
  · exact h
  · exact h

theorem State.Inv.tellLoan {p n} (h : s.Inv) : (s.tellLoan p n).Inv := h

theorem State.Inv.stopTrading (h : s.Inv) : s.stopTrading.Inv := by
  unfold State.stopTrading
  refine State.Inv.settleLoans (State.Inv.foldl (fun _ _ h => ?_) h)
  split
  · exact h.tellLoan
  · exact .ite h.tellLoan h

theorem State.Inv.writeTrade {v} (h : s.Inv) : (s.writeTrade v).Inv := by
  unfold State.writeTrade
  refine .ite (.ite h ?_) h
  exact State.Inv.stopTrading h

theorem State.Inv.loanOffer {side p n} (h : s.Inv) : OutcomeInv (execLoanOffer side p n s) := by
  unfold execLoanOffer
  cases side with
  | lender => exact .ite h h
  | borrower => exact .ite h h

theorem State.Inv.endLoan {u} (h : s.Inv) : (s.endLoan u).Inv := h

theorem State.Inv.renewLoan {l} (h : s.Inv) : (s.renewLoan l).Inv := by
  unfold State.renewLoan
  dsimp only
  split
  · exact h
  · exact h

theorem State.Inv.loanLapse {x} (h : s.Inv) : OutcomeInv (execLoanLapse x s) := by
  unfold execLoanLapse
  split
  · split
    · split
      · exact h.renewLoan
      · exact h
    · split
      · exact h.endLoan
      · exact h
  · exact h

theorem State.Inv.loanRecall {u} (h : s.Inv) : OutcomeInv (execLoanRecall u s) := by
  unfold execLoanRecall
  split
  · exact h
  · split
    · split
      · exact h
      · exact h
    · exact h.endLoan.tellLoan

theorem State.Inv.recallConfirm {u} (h : s.Inv) : OutcomeInv (execRecallConfirm u s) := by
  unfold execRecallConfirm
  split
  · split
    · exact h.endLoan
    · exact h
  · exact h

theorem State.Inv.recallTimeout {u} (h : s.Inv) : OutcomeInv (execRecallTimeout u s) := by
  unfold execRecallTimeout
  split
  · split
    · exact h.endLoan
    · exact h
  · exact h

theorem State.Inv.railSettle {k l} (h : s.Inv) : OutcomeInv (execRailSettle k l s) := by
  unfold execRailSettle
  split
  · exact h.mapCluster
  · exact h

theorem State.Inv.sliceRatioChange {k x n} (h : s.Inv) : OutcomeInv (execSliceRatioChange k x n s) := by
  unfold execSliceRatioChange
  split
  · exact h.mapCluster
  · exact h

theorem State.Inv.countUnc {n} (h : s.Inv) : (s.countUnc n).Inv := h

theorem State.Inv.markGranule {g} (h : s.Inv) : (s.markGranule g).Inv := .ite h h

theorem State.Inv.markWarp {g w b n} (h : s.Inv) : (s.markWarp g w b n).Inv := by
  unfold State.markWarp
  split
  · exact .ite h h.mapWarp.countUnc
  · exact h

theorem State.Inv.markLeek {g b} (h : s.Inv) : (s.markLeek g b).Inv := by
  unfold State.markLeek
  split
  · exact .ite h h.mapLeek.countUnc
  · exact h

theorem State.Inv.markFifo {g b x n} (h : s.Inv) : (s.markFifo g b x n).Inv := by
  unfold State.markFifo
  split
  · exact .ite h h.mapFifo.countUnc
  · exact h

/-- A value of memory that an error changes unseen. -/
theorem State.Inv.setByte {a v} (h : s.Inv) : State.Inv { s with mem := s.mem.set a v } := ⟨Memory.wf_set a v h.1, h.2⟩

theorem State.Inv.softError {x} (h : s.Inv) : OutcomeInv (execSoftError x s) := by
  unfold execSoftError
  split
  · exact h
  · split
    · exact .ite h h
    · exact .ite h.markGranule h
    · split
      · exact .ite h.markGranule h
      · exact h
    · split
      · exact .ite h.markGranule h
      · exact h
    · exact .ite h.markFifo h
    · exact .ite h.markWarp h
    · exact .ite h.markWarp h
    · exact .ite h.markWarp h
    · exact .ite h.markWarp h
    · exact .ite h.markWarp h
    · exact h.markLeek
    · exact .ite h.setByte h
    · split
      · exact h.setByte
      · exact h
    · exact h
    · exact h
    · exact h
    · exact h
    · exact h
    · exact h
    · exact h
    · exact h
    · exact .ite h.setByte h
    · exact .ite h.mapSlot h
    · exact h

theorem State.Inv.powerLoss (h : s.Inv) : OutcomeInv (execPowerLoss s) := h.resetModule

/-! ### The events of the host port -/

theorem State.Inv.portStep (h : s.Inv) : s.portStep.Inv := by
  unfold State.portStep
  split
  · exact h
  · exact h
  · exact h.writeSector
  · exact h
  · dsimp only
    exact .ite h.readSector h.readSector
  · exact h.doorbell
  · exact h.writeRegister
  · exact h.fwgo
  · exact h.writeTrade
  · exact h

theorem State.Inv.accepts {r} (h : s.Inv) : (s.accepts r).Inv := .ite (State.Inv.portStep h) h

theorem State.Inv.takes {r} (h : s.Inv) : (s.takes r).Inv := .ite h.accepts h

end Sys2Proof.Machine
end

section
/-!
PROOF. The invariant of both memories, continued: fetch, dispatch and the step.
-/
namespace Sys2Proof.Machine

variable {s t : State}

/-! ### Fetch and turns -/

theorem State.Inv.of_fetchInstr {c lines hold va bs ls} (h : s.Inv) (ht : s.fetchInstr c lines hold va = .ok bs t ls) :
    t.Inv := by
  unfold State.fetchInstr at ht
  dsimp only at ht
  split at ht
  · cases ht
  · cases ht
  · have h1 (fill d) : ((s.fillTlb fill).drawn d).Inv := State.Inv.drawn h.fillTlb
    split at ht
    · cases ht; exact h1 _ _
    · split at ht
      · cases ht
      · cases ht
      · cases ht; exact State.Inv.drawn (h1 _ _).fillTlb

theorem State.Inv.of_fetchUnit {c lines hold bs va bs' ls} (h : s.Inv)
    (ht : s.fetchUnit c lines hold bs va = .ok bs' t ls) : t.Inv := by
  unfold State.fetchUnit at ht
  split at ht
  · exact h.of_fetchInstr ht
  · cases ht; exact h

/-- The state that a turn goes on with, or stops in, has its memories in canonical form. -/
def Turn.Inv : Turn → Prop
  | .run _ t | .stop t => t.Inv

theorem State.Inv.turnWarp {c g w} (h : s.Inv) : (s.turnWarp c g w).Inv := by
  unfold State.turnWarp
  dsimp only
  split
  · exact h.finishWarp trivial
  · exact h.finishWarp trivial
  · rename_i hf
    have ht (f) := (h.of_fetchInstr hf).mapWarp (u := g.uid) (w := w.id) (f := f)
    split
    · split
      · split
        · exact (ht _).finishWarp trivial
        · exact (ht _).finishWarp trivial
        · rename_i hu; exact ((ht _).of_fetchUnit hu).endsFrame
      · exact ht _
    · split
      · exact (ht _).finishWarp trivial
      · exact (ht _).finishWarp trivial
      · rename_i hu
        have hv := (ht _).of_fetchUnit hu
        split
        · exact hv.endsFrame
        · exact hv.mapWarp.finishWarp trivial

theorem State.Inv.turnLeek {c g l} (h : s.Inv) : (s.turnLeek c g l).Inv := by
  unfold State.turnLeek
  split
  · exact h.finishLeek trivial
  · exact h.finishLeek trivial
  · rename_i hf
    have ht := h.of_fetchInstr hf
    dsimp only
    split
    · exact ht.mapLeek
    · exact ht.mapLeek.finishLeek trivial

theorem State.Inv.refuseWarp {c g w acc a lanes} (h : s.Inv) : (s.refuseWarp c g w acc a lanes).Inv := h.finishWarp trivial

theorem State.Inv.turn {a} (h : s.Inv) : (s.turn a).Inv := by
  unfold State.turn
  have hc : State.Inv { s with cur := some a } := h
  dsimp only
  split
  · split
    · exact hc.refuseWarp
    · exact hc.turnWarp
  · split
    · exact hc.leekFault
    · exact hc.turnLeek
  · exact hc

/-! ### Repeat units and copies -/

theorem State.Inv.repIteration {p op f i c g w} (h : s.Inv) : (repIteration p op f i s c g w).Inv := by
  unfold Machine.repIteration
  dsimp only
  split
  · exact h.finishWarp (State.Inv.follower h)
  · exact h.finishWarp trivial

theorem State.Inv.repeatUnit {p} (h : s.Inv) : OutcomeInv (execRep p s) := by
  unfold execRep
  split
  · trivial
  · exact h.finishLeek trivial
  · dsimp only
    split
    · exact h.finishWarp trivial
    · exact h.finishWarp trivial
    · rename_i hf
      have ht := h.of_fetchInstr hf
      split
      · split
        · exact State.Inv.repIteration ht.mapWarp
        · exact ht.mapWarp.finishWarp trivial
      · exact ht.mapWarp.finishWarp trivial

theorem State.Inv.copySector {n} (h : s.Inv) : OutcomeInv (execCopySector n s) := by
  unfold execCopySector
  split
  · exact State.Inv.ite h h.moveSector
  · exact h

theorem State.Inv.copyComplete {n} (h : s.Inv) : OutcomeInv (execCopyComplete n s) := by
  unfold execCopyComplete
  split
  · exact h.completeCopy
  · exact h

/-! ### The step -/

/-- Every instruction and every event keeps both memories canonical. -/
theorem State.Inv.exec {i} (h : s.Inv) : OutcomeInv (exec i s) := by
  cases i with
  | nop | nopShort => exact h.issue (fun _ h => h) fun _ h => h
  | bra | braShort => exact h.issue (fun _ h => h.bra) fun _ h => h
  | brx | call | callx | ret => exact h.issue (fun _ h => h.transfer) fun _ h => h.transferLeek
  | mark | markShort => exact h.issueWarp fun _ h => h.mark
  | join | joinShort => exact h.issueWarp fun _ h => h.join
  | exit | exitShort => exact h.issueWarp fun _ h => h.exit
  | blkend => exact h.issueWarp fun _ h => h
  | getx => exact h.issueWarp fun _ h => h.getx
  | setx => exact h.issueWarp fun _ h => h.setx
  | brk => exact h.issueWarp fun _ h => h.brk
  | spin => exact h.issueWarp fun _ h => h.spin
  | sleep => exact h.issueWarp fun _ h => h.sleep
  | shfl => exact h.issueWarp fun _ h => h.runKill
  | vote => exact h.issueWarp fun _ h => h.run
  | redlog | scanlog => exact h.issueWarp fun _ h => h.runKill
  | matchLanes => exact h.issueWarp fun _ h => h.matchLanes
  | add => exact h.intOp
  | addShort => exact h.issueWarp fun _ h => h.run
  | sub => exact h.intOp
  | addc => exact h.issue (fun _ h => h.addc) fun _ h => h.addcLeek
  | mul | mulh | mad | madw | min | max | abs | neg | and | or | xor | not | andn | shl | shr | sar | rot | bfx | bfi
  | clz | ffs | popc | brev | bytep => exact h.intOp
  | cmp => exact h.issue (fun _ h => h.run) fun _ h => h.cmpLeek
  | sel => exact h.issue (fun _ h => h.run) fun _ h => h.selLeek
  | plog => exact h.issueWarp fun _ h => h.plog
  | mov => exact h.issue (fun _ h => h.run) fun _ h => h.leekRun
  | movShort => exact h.issueWarp fun _ h => h.run
  | movi => exact h.issue (fun _ h => h.run) fun _ h => h.leekRun
  | lea => exact h.issue (fun _ h => h.lea) fun _ h => h.leekRun
  | movs => exact h.issue (fun _ h => h.run) fun _ h => h.leekRun
  | fadd | fsub | fmul | fma | fmin | fmax | fsgn | fcmp | fclass | rcp | rsq | sqrt | exp2 | log2 | sin | cos =>
    exact h.issueWarp fun _ h => h.run
  | cvt => exact h.issueWarp fun _ h => h.cvt
  | quant => exact h.issueWarp fun _ h => h.quant
  | scaleb | frnd => exact h.issueWarp fun _ h => h.run
  | endorse => exact h.issueWarp fun _ h => h.endorse
  | tagset => exact h.issueWarp fun _ h => h.tagset
  | tagget => exact h.issueWarp fun _ h => h.tagget
  | rand => exact h.issueWarp fun _ h => h.rand
  | qset => exact h.issueWarp fun _ h => h.qset
  | qmul | qmac | qadd | qsub | qneg | qred => exact h.issueWarp fun _ h => h.run
  | qbfct | qbfgs => exact h.issueWarp fun _ h => h.runBoth
  | qshoup => exact h.issueWarp fun _ h => h.runKill
  | nperm => exact h.issueWarp fun _ h => h.runBoth
  | lbrev => exact h.issueWarp fun _ h => h.runKill
  | ld => exact h.issueWarp fun _ h => h.load
  | st => exact h.issueWarp fun _ h => h.storeIns
  | lds => exact h.issueWarp fun _ h => h.load
  | sts => exact h.issueWarp fun _ h => h.storeIns
  | ldb | stb => exact h.issueWarp fun _ h => h.recIns
  | ldu => exact h.issue (fun _ h => h.ldu) fun _ h => h.lduLeek
  | stu => exact h.issue (fun _ h => h.stu) fun _ h => h.stuLeek
  | atom => exact h.issueWarp fun _ h => h.atom
  | vatom => exact h.issueWarp fun _ h => h.vatom
  | acopy => exact h.issue (fun _ h => h.once h.acopy) fun _ h => h.acopyLeek
  | publish => exact h.issueWarp fun _ h => h.publish
  | winset => exact h.issueWarp fun _ h => h.winset
  | pref | own => exact h.issueWarp fun _ h => h.hint
  | waitr => exact h.issueWarp fun _ h => h.waitr
  | bankset => exact h.issueWarp fun _ h => h.bankset
  | fpush => exact h.issue (fun _ h => h.fpush) fun _ h => h.fpushLeek
  | fpop => exact h.issue (fun _ h => h.fpop) fun _ h => h.fpopLeek
  | isync => exact h.issueWarp fun _ h => h.isync
  | bararr => exact h.issue (fun _ h => h.bararr) fun _ h => h.bararrLeek
  | barwait => exact h.issue (fun _ h => h.barwait) fun _ h => h.barwaitLeek
  | barsync => exact h.issue (fun _ h => h.barsync) fun _ h => h.barsyncLeek
  | barwaitt => exact h.issue (fun _ h => h.barwaitt) fun _ h => h.barwaittLeek
  | barexp => exact h.issue (fun _ h => h.barexp) fun _ h => h.barexpLeek
  | barstat => exact h.issue (fun _ h => h.barstat) fun _ h => h.barstatLeek
  | emit => exact h.issueWarp fun _ h => h.emit
  | joindec => exact h.issueWarp fun _ h => h.joindec
  | evpop => exact h.issue (fun _ h => h.evpop) fun _ h => h.evpopLeek
  | evwait => exact h.issue (fun _ h => h.once h.evwait) fun _ h => h.evwaitLeek
  | clock => exact h.issue (fun _ h => h.clockIns) fun _ h => h.clockLeek
  | qstat => exact h.issueWarp fun _ h => h.qstat
  | tld => exact h.issueLeek fun _ h => h.tldLeek
  | agath => exact h.issueLeek fun _ h => h.agathLeek
  | mma => exact h.issueLeek fun _ h => h.mmaLeek
  | mmas => exact h.issueLeek fun _ h => h.mmasLeek
  | acz => exact h.issueLeek fun _ h => h.aczLeek
  | acdrn => exact h.issueLeek fun _ h => h.acdrnLeek
  | acrel => exact h.issueLeek fun _ h => h.acrelLeek
  | acstat => exact h.issueLeek fun _ h => h.acstatLeek
  | mmwait => exact h.issueLeek fun _ h => h.mmwaitLeek
  | lkexit => exact h.issueLeek fun _ h => h.lkexitLeek
  | trap => exact h.issueWarp fun _ h => h.trap
  | tret => exact h.issueWarp fun _ h => h.tret
  | movsr => exact h.issueWarp fun _ h => h.movsr
  | ovfld => exact h.issueWarp fun _ h => h.ovfld
  | railset => exact h.issueWarp fun _ h => h.railset
  | sigseed => exact h.issueWarp fun _ h => h.sigseed
  | tlbinv => exact h.issueWarp fun _ h => h.tlbinv
  | wdset => exact h.issueWarp fun _ h => h.wdset
  | perfrd => exact h.issueWarp fun _ h => h.perfrd
  | halt => exact h.issueWarp fun _ h => h.halt
  | rep => exact h.repeatUnit
  | copySector => exact h.copySector
  | copyComplete => exact h.copyComplete
  | matrixOpStart => exact h.matrixOpStart
  | matrixOpComplete => exact h.matrixOpComplete
  | gatherTake => exact h.gatherTake
  | gatherOffer => exact h
  | groupPlace => exact h.groupPlace
  | spanWaitLimit => exact h
  | groupEnd => exact h.groupEnd
  | continuationEnqueue => exact h.continuationEnqueue
  | restartGroup => exact h.restartGroup
  | limiterAdmit => exact h.limiterAdmit
  | spinEnd => exact h.spinEnd
  | sleepEnd => exact h
  | barwaittTimeout => exact h.barwaittTimeout
  | bartimeout => exact h.bartimeout
  | remoteRequest => exact h.remoteRequest
  | remoteAnswer => exact h.remoteAnswer
  | remoteRefusal => exact h.remoteRefusal
  | refusalResend => exact h.refusalResend
  | retransmission => exact h.retransmission
  | remoteLost => exact h.remoteLost
  | ownerFailed => exact h.ownerFailed
  | keepalive => exact h.keepalive
  | keepaliveReceive => exact h.keepaliveReceive
  | keepaliveAck => exact h.keepaliveAck
  | resultCacheExpiry => exact h.resultCacheExpiry
  | fundamentalReset => exact h.fundamentalReset
  | fwgo | registerWrite | doorbell | hostWrite | hostRead | ptradeWrite => exact h.takes
  | partCreate => exact h.command fun _ _ h => h.partCreate
  | partResizePrepare => exact h.command fun _ _ h => h.resizePrepare
  | prepareComplete => exact h.prepareComplete
  | resizeDeadline => exact h.resizeDeadline
  | partResizeCommit => exact h.command fun _ _ h => h.resizeCommit
  | partReset => exact h.command fun _ _ h => h.partReset
  | partDestroy => exact h.command fun _ _ h => h.partDestroy
  | partSetapx => exact h.command fun _ _ h => h.setApx
  | ctxCreate => exact h.command fun _ _ h => h.ctxCreate
  | ctxDrain => exact h.command fun _ _ h => h.ctxDrain
  | drainComplete => exact h.drainComplete
  | drainDeadline => exact h.drainDeadline
  | ctxResume => exact h.command fun _ _ h => h.ctxResume
  | ctxReset => exact h.command fun _ _ h => h.ctxReset
  | ctxDestroy => exact h.command fun _ _ h => h.ctxDestroy
  | ctxTlbinv => exact h.command fun _ _ h => h.ctxTlbinv
  | ctxReplay => exact h.command fun _ _ h => h.ctxReplay
  | ctxFaultfail => exact h.command fun _ _ h => h.ctxFaultfail
  | ctxDebugHalt => exact h.command fun _ _ h => h.debugHalt
  | ctxDebugResume => exact h.command fun _ _ h => h.debugResume
  | ctxDebugRead => exact h.command fun _ _ h => h.debugRead
  | ctxDebugWrite => exact h.command fun _ _ h => h.debugWrite
  | slotRetire => exact h.command fun _ _ h => h.slotRetire
  | attest => exact h.command fun _ _ h => h.attest
  | linkCtlFence => exact h.command fun _ _ h => h.linkFence
  | linkCtlRetrain => exact h.command fun _ _ h => h.linkRetrain
  | retrainDeadline => exact h.retrainDeadline
  | linkFence => exact h.linkFenceEvent
  | dieFailure => exact h.dieFailure
  | ioDieFailure => exact h
  | powerGrant => exact h.powerGrant
  | safeGrantFallback => exact h.safeGrantFallback
  | loanOffer => exact h.loanOffer
  | loanLapse => exact h.loanLapse
  | loanRecall => exact h.loanRecall
  | recallConfirm => exact h.recallConfirm
  | recallTimeout => exact h.recallTimeout
  | unassignedOp => exact h.issue noWarp_inv noLeek_inv
  | railSettle => exact h.railSettle
  | sliceRatioChange => exact h.sliceRatioChange
  | linkTrainingPass => exact h.linkTrainingPass
  | softError => exact h.softError
  | bankDrainComplete => exact h.bankDrainComplete
  | powerLoss => exact h.powerLoss
theorem State.Inv.stepAgent {a} (h : s.Inv) : OutcomeInv (stepAgent a s) := by
  unfold Machine.stepAgent
  have ht : (s.turn a).Inv := h.turn
  split
  · rename_i heq; rw [heq] at ht; exact State.Inv.exec ht
  · rename_i heq; rwa [heq] at ht

theorem State.Inv.stepMove {m} (h : s.Inv) : OutcomeInv (stepMove m s) := by
  cases m with
  | tick n => exact h
  | event i =>
    unfold Machine.stepMove
    dsimp only
    split
    · exact h.exec
    · exact h
  | warp g w =>
    unfold Machine.stepMove
    dsimp only
    split
    · split
      · exact h.stepAgent
      · exact h
    · exact h
  | matrix g => exact .ite h.matrixStep h
  | part c => exact .ite h.partStep h
  | port => exact .ite h.portStep h
  | owner r c => exact .ite h.ownerStep h
  | slice c k =>
    unfold Machine.stepMove
    dsimp only
    split
    · exact State.Inv.stepAgent h
    · exact h
  | leekCore c =>
    unfold Machine.stepMove
    dsimp only
    split
    · exact h.mapCluster.stepAgent
    · exact h

theorem State.Inv.step (h : s.Inv) : OutcomeInv (step s) := by
  unfold Machine.step
  split
  · exact State.Inv.stepMove h
  · exact h

/-- Settles O4: each function that a step is made of writes memory only by `Memory.set`, `write`, `clear` and `put`, which keep
the canonical form; so the invariant is carried from the accessors up to the step. -/
theorem everyStepKeepsMemoryCanonical : Obligations.EveryStepKeepsMemoryCanonical := by
  unfold Obligations.EveryStepKeepsMemoryCanonical
  intro s t h ht
  have hs : OutcomeInv (step s) := h.step
  rwa [ht] at hs

end Sys2Proof.Machine
end

section
/-!
PROOF. Power and soft errors (R253, R311, R401 to R405): what each of their events comes to, one lemma an event and outcome, and
from them the statement of their effects.
-/
namespace Sys2Proof.Machine

variable {s : State}

/-! ### Grants and the draw -/

theorem State.pDraw_eq : s.pDraw =
    min ((s.draws.map fun d => d.draw * (min d.stop s.clock - max d.start (s.clock - 1400000))).sum / 1400000 / 1400000)
      s.pCap := by
  rw [Nat.div_div_eq_div_mul]
  rfl

theorem exec_powerGrant {n} (hu : s.up = true) :
    exec (.powerGrant n) s = .next { s with hw := { s.hw with pGrant := n }, lastGrant := s.clock } :=
  if_pos hu

theorem exec_safeGrantFallback (hu : s.up = true) (ht : s.lastGrant + 700000000 ≤ s.clock) :
    exec .safeGrantFallback s = .next { s with hw := { s.hw with pGrant := s.hw.safeGrant } } :=
  if_pos (by simp [hu, ht])

/-! ### Loans -/

/-- The module with one more loan. -/
def State.withLoan (s : State) (side : LoanSide) (port tokens : Nat) : State :=
  State.settleLoans { s with nextUid := s.nextUid + 1, loans := s.loans ++
    [{ uid := s.nextUid, side := side, port := port, tokens := tokens, since := s.clock, recalled := none, fenced := none }] }

theorem State.mayLend_iff {n} : s.mayLend n = true ↔ s.hw.pLent.toNat + n ≤ s.hw.lendMax ∧
    ∀ time ∈ s.drawTimes, s.drawAt time < 10 * (s.hw.pGrant.toNat - s.hw.pLent.toNat - n) := by
  simp [State.mayLend]

section Offer

variable {p n : Nat} (hu : s.up = true) (ht : s.hw.trading = true) (hp : p < 8) (hup : s.hw.up.getLsbD p = true) (hn : 1 ≤ n)
include hu ht hp hup hn

theorem exec_loanOffer_lend (hl : s.mayLend n = true) :
    exec (.loanOffer .lender p n) s = .next ((s.withLoan .lender p n).tellLoan p n) :=
  if_pos (by simp [hu, ht, hp, hup, hn, hl])

theorem exec_loanOffer_borrow (hb : s.hw.pBorrow.toNat + n < 2 ^ 10) :
    exec (.loanOffer .borrower p n) s = .next (s.withLoan .borrower p n) :=
  if_pos (by simp [hu, ht, hp, hup, hn]; omega)

end Offer

theorem exec_loanOffer_refused {p n} (hl : s.mayLend n = false) : exec (.loanOffer .lender p n) s = .next s :=
  if_neg (by simp [hl])

section Loan

variable {u : Nat} {l : Loan} (h : s.loan? u = some l)
include h

theorem exec_loanLapse_ends (ht : l.since + 140000000 ≤ s.clock) (hl : l.side = .borrower ∨ l.fenced = none) :
    exec (.loanLapse ⟨u, false⟩) s = .next (s.endLoan u) := by
  have hb : (!(l.side == .lender && l.fenced.isSome)) = true := by
    rcases hl with hl | hl
    · simp [hl]
    · simp [hl]
  show execLoanLapse ⟨u, false⟩ s = _
  simp [execLoanLapse, h, ht, hb]

theorem exec_loanLapse_renews (hu : s.up = true) (hr : l.recalled = none) (hf : l.fenced = none) :
    exec (.loanLapse ⟨u, true⟩) s = .next (s.renewLoan l) := by
  show execLoanLapse ⟨u, true⟩ s = _
  simp [execLoanLapse, h, hu, hr, hf]

theorem exec_loanRecall_returns (hu : s.up = true) (hl : l.side = .borrower) :
    exec (.loanRecall u) s = .next ((s.endLoan u).tellLoan l.port (-(l.tokens : Int))) := by
  show execLoanRecall u s = _
  simp [execLoanRecall, h, hu, hl]

theorem exec_loanRecall_recalls (hu : s.up = true) (hl : l.side = .lender) (hr : l.recalled = none) :
    exec (.loanRecall u) s = .next (State.tellLoan { s with
      loans := s.loans.map fun (x : Loan) => if x.uid == u then { x with recalled := some s.clock } else x } l.port 0) := by
  show execLoanRecall u s = _
  simp [execLoanRecall, h, hu, hl, hr]

theorem exec_recallConfirm_ends (hl : l.side = .lender) (hf : l.fenced = none) :
    exec (.recallConfirm u) s = .next (s.endLoan u) := by
  show execRecallConfirm u s = _
  simp [execRecallConfirm, h, hl, hf]

theorem exec_recallTimeout_ends {t} (hl : l.side = .lender)
    (hf : l.fenced = some t ∨ (l.fenced = none ∧ l.recalled = some t)) (ht : t + 2800000 ≤ s.clock) :
    exec (.recallTimeout u) s = .next (s.endLoan u) := by
  have ho : (l.fenced.orElse fun _ => l.recalled) = some t := by
    rcases hf with hf | ⟨hf, hr⟩
    · rw [hf]; rfl
    · rw [hf, hr]; rfl
  show execRecallTimeout u s = _
  unfold execRecallTimeout
  rw [h]
  dsimp only
  rw [if_pos]
  rw [ho, hl, Option.any_some, decide_eq_true ht]
  rfl

/-- The lender of a fenced port's loan keeps it for 2 ms, whatever comes. -/
theorem exec_fenced_keeps {t} (hl : l.side = .lender) (hf : l.fenced = some t) (ht : s.clock < t + 2800000) :
    ∀ i ∈ [Instr.recallConfirm u, .recallTimeout u, .loanLapse ⟨u, false⟩, .loanLapse ⟨u, true⟩], exec i s = .next s := by
  intro i hi
  simp only [List.mem_cons, List.not_mem_nil, or_false] at hi
  rcases hi with rfl | rfl | rfl | rfl
  · show execRecallConfirm u s = _
    simp [execRecallConfirm, h, hf]
  · show execRecallTimeout u s = _
    unfold execRecallTimeout
    rw [h]
    dsimp only
    rw [if_neg]
    rw [hf, Option.orElse_some, Option.any_some, decide_eq_false (Nat.not_le.mpr ht), Bool.and_false]
    exact Bool.false_ne_true
  · show execLoanLapse ⟨u, false⟩ s = _
    simp [execLoanLapse, h, hl, hf]
  · show execLoanLapse ⟨u, true⟩ s = _
    simp [execLoanLapse, h, hf]

end Loan

theorem State.renewLoan_eq (l : Loan) : s.renewLoan l =
    let t : State := { s with loans := s.loans.map fun (x : Loan) => if x.uid == l.uid then { x with since := s.clock } else x }
    if l.side = .lender then t.tellLoan l.port l.tokens else t := by
  unfold State.renewLoan
  cases l.side with
  | lender => rfl
  | borrower => rfl

theorem State.endLoan_pBorrow {u} : (s.endLoan u).hw.pBorrow =
    BitVec.ofNat 10 ((s.loans.filter fun x => x.uid != u && x.side == .borrower).map Loan.tokens).sum := by
  simp only [State.endLoan, State.settleLoans, List.filter_filter, Bool.and_comm]

/-! ### Rails, ratios and the limiter -/

theorem exec_railSettle {k n} (hk : k < 256) (hn : BitVec.toNat n = s.railTarget k) :
    exec (.railSettle k n) s = .next (s.mapCluster k fun x => { x with level := n }) :=
  if_pos (by simp [hk, hn])

theorem exec_sliceRatioChange {k i n} (hk : k < 256) (hi : i < 6) (h1 : 1 ≤ BitVec.toNat n) (h8 : BitVec.toNat n ≤ 8) :
    exec (.sliceRatioChange k i n) s =
      .next (s.mapCluster k fun x => { x with slices := vmod x.slices i fun y => { y with ratio := n } }) :=
  if_pos (by simp [hk, hi, h1, h8])

@[simp] theorem State.mapCluster_hw {k f} : (s.mapCluster k f).hw = s.hw := by
  unfold State.mapCluster; split <;> rfl
@[simp] theorem State.mapCluster_clock {k f} : (s.mapCluster k f).clock = s.clock := by
  unfold State.mapCluster; split <;> rfl
@[simp] theorem State.mapCluster_admitPos {k f} : (s.mapCluster k f).admitPos = s.admitPos := by
  unfold State.mapCluster; split <;> rfl

theorem exec_limiterAdmit {k} (hr : s.hw.pRamp ≠ 0) (ht : s.admitNext ≤ s.clock)
    (hk : nextAdmitted s.admitDie s.admitPos s.limited = some k) :
    exec .limiterAdmit s = .next { s.mapCluster k fun x => { x with waiters := [] } with
      admitDie := dieOf k, admitPos := (dieOf k, k) :: s.admitPos.filter fun x => x.1 != dieOf k
      admitNext := s.clock + limiterInterval s.hw.pRamp } := by
  show execLimiterAdmit s = _
  unfold execLimiterAdmit
  rw [if_neg hr, if_neg (Nat.not_lt.mpr ht), hk]
  simp only [State.mapCluster_hw, State.mapCluster_clock, State.mapCluster_admitPos]

/-! ### Soft errors that are marked -/

theorem State.markGranule_new {x} (h : x ∉ s.poison) :
    s.markGranule x = State.countUnc { s with poison := x :: s.poison } x.source := if_neg (by simpa using h)

theorem State.markGranule_again {x} (h : x ∈ s.poison) : s.markGranule x = s := if_pos (by simpa using h)

/-- An error that falls on a granule of memory marks it and counts it, once. -/
theorem exec_marks_granule {e x} (he : exec (.softError e) s = .next (s.markGranule x)) :
    (x ∉ s.poison → exec (.softError e) s = .next (State.countUnc { s with poison := x :: s.poison } x.source)) ∧
      (x ∈ s.poison → exec (.softError e) s = .next s) :=
  ⟨fun h => by rw [he, State.markGranule_new h], fun h => by rw [he, State.markGranule_again h]⟩

section Warp

variable {u k : Nat} {g : Group} {w : Warp} (hg : s.group? u = some g) (hw : g.warp? k = some w) (hd : w.ended = none)
include hg hw hd

theorem State.markWarp_new {b i} (h : b ∉ w.bad) :
    s.markWarp u k b i = (s.mapWarp u k fun w => { w with bad := b :: w.bad }).countUnc i := by
  simp [State.markWarp, hg, hw, hd, h]

theorem State.markWarp_again {b i} (h : b ∈ w.bad) : s.markWarp u k b i = s := by
  simp [State.markWarp, hg, hw, hd, h]

/-- An error that falls on a register place of a warp marks it and counts it, once. -/
theorem exec_marks_warp {e b i} (he : exec (.softError e) s = .next (s.markWarp u k b i)) :
    (b ∉ w.bad → exec (.softError e) s = .next ((s.mapWarp u k fun w => { w with bad := b :: w.bad }).countUnc i)) ∧
      (b ∈ w.bad → exec (.softError e) s = .next s) :=
  ⟨fun h => by rw [he, State.markWarp_new hg hw hd h], fun h => by rw [he, State.markWarp_again hg hw hd h]⟩

end Warp

theorem State.markLeek_new {u g l b} (hg : s.group? u = some g) (hl : g.leek = some l) (hd : l.ended = none)
    (hb : b.granule < granulesOf b.place) (h : b ∉ l.bad) :
    s.markLeek u b = (s.mapLeek u fun l => { l with bad := b :: l.bad }).countUnc 7 := by
  simp [State.markLeek, hg, hl, hd, Nat.not_le.mpr hb, h]

theorem State.markLeek_again {u g l b} (hg : s.group? u = some g) (hl : g.leek = some l) (h : b ∈ l.bad) :
    s.markLeek u b = s := by
  simp [State.markLeek, hg, hl, h]

theorem State.markFifo_new {u g b slot x i} (hg : s.group? u = some g) (hx : (g.fifo b)[slot]? = some x) (h : i ∉ x.bad) :
    s.markFifo u b slot i =
      (s.mapFifo u b fun q => q.modify slot fun (y : FifoSlot) => { y with bad := i :: y.bad }).countUnc 2 := by
  simp [State.markFifo, hg, hx, h]

theorem State.markFifo_again {u g b slot x i} (hg : s.group? u = some g) (hx : (g.fifo b)[slot]? = some x) (h : i ∈ x.bad) :
    s.markFifo u b slot i = s := by
  simp [State.markFifo, hg, hx, h]

/-! ### Where a soft error falls -/

section Live

variable (ha : s.alive = true) (hp : s.power = true)
include ha hp

/-- A module that has its supplies and has not ended takes every soft error. -/
theorem State.strikable : ¬(!(s.alive && s.power)) = true := by simp [ha, hp]

theorem exec_softError_corrected {i} (h1 : 1 ≤ i) (h10 : i ≤ 10) (h6 : i ≠ 6) :
    exec (.softError (.corrected i)) s = .next { s with hw := { s.hw with secErr := bump s.hw.secErr i } } :=
  (if_neg (State.strikable ha hp)).trans (if_pos (by simp [h1, h10, h6]))

theorem exec_softError_sram {loc} (hl : loc < 2 ^ 28) (hb : preciseBank loc = true) :
    exec (.softError (.sram loc)) s = .next (s.markGranule (granuleOf 2 (sramAt + loc))) :=
  (if_neg (State.strikable ha hp)).trans (if_pos (by rw [hb, Bool.and_true]; exact decide_eq_true hl))

theorem exec_softError_line {i ctx va place} (hpl : s.pagePlace ctx va false = some place) (hs : lineSource i place = true) :
    exec (.softError (.line i ctx va)) s = .next (s.markGranule (granuleOf i place)) := by
  refine (if_neg (State.strikable ha hp)).trans ?_
  rw [hpl]
  exact if_pos hs

theorem exec_softError_cached {k ctx va place} (hpl : s.pagePlace ctx va false = some place) (hk : k < 256)
    (hs : place < sramAt) : exec (.softError (.cached k ctx va)) s = .next (s.markGranule (copyGranule k place)) := by
  refine (if_neg (State.strikable ha hp)).trans ?_
  rw [hpl]
  exact if_pos (by simp [hk, hs])

theorem exec_softError_vreg {u k n i} (hn : n < 256) (hi : i < 64) :
    exec (.softError (.vreg u k n i)) s = .next (s.markWarp u k (.v n i) 1) :=
  (if_neg (State.strikable ha hp)).trans (if_pos (by simp [hn, hi]))

theorem exec_softError_sreg {u k n} (hn : n < 64) :
    exec (.softError (.sreg u k n)) s = .next (s.markWarp u k (.s n) 1) :=
  (if_neg (State.strikable ha hp)).trans (if_pos hn)

theorem exec_softError_modulus {u k n i barrett high} (hn : n < 4) (hi : i < 64) :
    exec (.softError (.modulus u k n i barrett high)) s =
      .next (s.markWarp u k (if barrett then .qb n i high else .qm n i high) 1) :=
  (if_neg (State.strikable ha hp)).trans (if_pos (by simp [hn, hi]))

theorem exec_softError_latch {u k n i} (hv : s.latchValid u k n = true) (hi : i < 64) :
    exec (.softError (.latch u k n i)) s = .next (s.markWarp u k (.latch n i) 6) :=
  (if_neg (State.strikable ha hp)).trans (if_pos (by simp [hv, hi]))

theorem exec_softError_crossbar {u k i} (hi : i < 64) :
    exec (.softError (.crossbar u k i)) s = .next (s.markWarp u k (.crossbar i) 6) :=
  (if_neg (State.strikable ha hp)).trans (if_pos hi)

theorem exec_softError_leek {u b} : exec (.softError (.leek u b)) s = .next (s.markLeek u b) :=
  if_neg (State.strikable ha hp)

theorem exec_softError_fifo {u b slot i} (hi : i < 32) :
    exec (.softError (.fifo u b slot i)) s = .next (s.markFifo u b slot i) :=
  (if_neg (State.strikable ha hp)).trans (if_pos hi)

/-! ### Soft errors that change a value unseen -/

theorem exec_softError_bank {loc b} (hl : loc < 2 ^ 28) (hb : preciseBank loc = false) :
    exec (.softError (.bank loc b)) s = .next { s with mem := s.mem.set (sramAt + loc) b } :=
  (if_neg (State.strikable ha hp)).trans (if_pos (by rw [hb, Bool.not_false, Bool.and_true]; exact decide_eq_true hl))

theorem exec_softError_apxLine {ctx va b place} (hpl : s.pagePlace ctx va true = some place) :
    exec (.softError (.apxLine ctx va b)) s = .next { s with mem := s.mem.set place b } := by
  refine (if_neg (State.strikable ha hp)).trans ?_
  rw [hpl]

theorem exec_softError_array {k n i b} (hi : i < 2 ^ 16) : exec (.softError (.array k n i b)) s =
    .next (s.mapSlot k n fun a => { a with data := a.data.set i b }) :=
  (if_neg (State.strikable ha hp)).trans (if_pos hi)

theorem exec_softError_copyData {u i b} : exec (.softError (.copyData u i b)) s =
    .next { s with copies := s.copies.map fun c =>
      if c.uid = u then { c with held := c.held.map fun bs => bs.set i b } else c } := by
  refine (if_neg (State.strikable ha hp)).trans ?_
  simp only [beq_iff_eq]

theorem exec_softError_mask {u k n b} (hn : n ≠ 0) : exec (.softError (.mask u k n b)) s =
    .next (s.mapWarp u k fun w => { w with k := vmod w.k n fun _ => b }) := by
  refine (if_neg (State.strikable ha hp)).trans ?_
  simp only [if_neg hn]

theorem exec_softError_predicate {u b} (n : Fin 8) : exec (.softError (.predicate u n.val b)) s =
    .next (s.mapLeek u fun l => l.writeK n b) := by
  refine (if_neg (State.strikable ha hp)).trans ?_
  simp only [dif_pos n.isLt]

theorem exec_softError_stored {a b} (h : ∃ x ∈ s.datapath, x.1 ≤ a ∧ a < x.1 + x.2) :
    exec (.softError (.stored a b)) s = .next { s with mem := s.mem.set a b } :=
  (if_neg (State.strikable ha hp)).trans (if_pos (by simpa [List.any_eq_true] using h))

end Live

/-! ### Loss of power -/

theorem State.foldl_newEpoch (l : List Nat) (s : State) :
    l.foldl (fun s p => s.newEpoch p) s = { s with partEpoch := (l.foldl (fun s p => s.newEpoch p) s).partEpoch } := by
  induction l generalizing s with
  | nil => rfl
  | cons p l ih => exact ih (s.newEpoch p)

theorem exec_powerLoss : ∃ t, exec .powerLoss s = .next t ∧ t.power = false ∧ t.mem = [] ∧ t.ctxs = [] ∧ t.groups = [] ∧
    t.hw = HwA.reset := by
  refine ⟨{ s.resetModule with power := false }, rfl, rfl, ?_⟩
  unfold State.resetModule
  rw [State.foldl_newEpoch]
  exact ⟨rfl, rfl, rfl, rfl⟩

/-! ### The statement -/

/-- Settles O59: each clause is the lemma above on its event. -/
theorem powerAndErrorEventsComplete : Obligations.PowerAndErrorEventsComplete := by
  unfold Obligations.PowerAndErrorEventsComplete
  intro s
  refine ⟨State.pDraw_eq, fun hu n => exec_powerGrant hu, exec_safeGrantFallback, ?offer, ?loan, fun k n => exec_railSettle,
    fun k i n => exec_sliceRatioChange, fun hr ht k => exec_limiterAdmit hr ht, ?soft, exec_powerLoss⟩
  case offer =>
    intro hu ht p n hp hup hn
    refine ⟨?_, State.mayLend_iff, exec_loanOffer_borrow hu ht hp hup hn⟩
    cases hl : s.mayLend n with
    | true => exact ⟨_, exec_loanOffer_lend hu ht hp hup hn hl, fun _ => rfl, fun h => nomatch h⟩
    | false => exact ⟨_, exec_loanOffer_refused hl, fun h => (nomatch h), fun _ => rfl⟩
  case loan =>
    intro u l h
    exact ⟨exec_loanLapse_ends h, fun hu hr hf => (exec_loanLapse_renews h hu hr hf).trans (by rw [State.renewLoan_eq]),
      exec_loanRecall_returns h, exec_loanRecall_recalls h, exec_recallConfirm_ends h, fun t => exec_recallTimeout_ends h,
      fun t => exec_fenced_keeps h, State.endLoan_pBorrow⟩
  case soft =>
    intro ha hp
    have hs := State.strikable ha hp
    refine ⟨fun i => exec_softError_corrected ha hp, ⟨?sram, ?line, ?cached⟩, ?warp, ?leek, ?fifo, fun loc b =>
      exec_softError_bank ha hp, fun ctx va b place => exec_softError_apxLine ha hp, fun k n i b => exec_softError_array ha hp,
      fun u i b => exec_softError_copyData ha hp, fun u k n i b => if_neg hs, fun u k n b => if_neg hs, fun u k n b =>
      exec_softError_mask ha hp, fun u k n i b => ⟨if_neg hs, if_neg hs⟩, fun u k n i b => if_neg hs, fun u n b => if_neg hs,
      fun u b n => exec_softError_predicate ha hp n, fun u k e i b => if_neg hs, fun a b => exec_softError_stored ha hp⟩
    case sram => exact fun loc hl hb => exec_marks_granule (exec_softError_sram ha hp hl hb)
    case line => exact fun i ctx va place hpl hl => exec_marks_granule (exec_softError_line ha hp hpl hl)
    case cached => exact fun k ctx va place hpl hk hl => exec_marks_granule (exec_softError_cached ha hp hpl hk hl)
    case warp =>
      intro u k g w hg hw hd
      exact ⟨fun n i hn hi => exec_marks_warp hg hw hd (exec_softError_vreg ha hp hn hi),
        fun n hn => exec_marks_warp hg hw hd (exec_softError_sreg ha hp hn),
        fun n i high hn hi => ⟨exec_marks_warp hg hw hd (exec_softError_modulus ha hp hn hi),
          exec_marks_warp hg hw hd (exec_softError_modulus ha hp hn hi)⟩,
        fun n i hv hi => exec_marks_warp hg hw hd (exec_softError_latch ha hp hv hi),
        fun i hi => exec_marks_warp hg hw hd (exec_softError_crossbar ha hp hi)⟩
    case leek =>
      intro u g l b hg hl hd hb
      exact ⟨fun h => by rw [exec_softError_leek ha hp, State.markLeek_new hg hl hd hb h],
        fun h => by rw [exec_softError_leek ha hp, State.markLeek_again hg hl h]⟩
    case fifo =>
      intro u g b slot x i hg hx hi
      exact ⟨fun h => by rw [exec_softError_fifo ha hp hi, State.markFifo_new hg hx h],
        fun h => by rw [exec_softError_fifo ha hp hi, State.markFifo_again hg hx h]⟩

end Sys2Proof.Machine
end

section
/-!
PROOF. What a write of a vector destination leaves (R14, R18, R46, R47): the frame of the write, each register after it, and the
latch that it fills; from them, the statement on vector destinations.
-/
namespace Sys2Proof.Machine

theorem pair64_lo32_hi32 (x : W64) : pair64 (lo32 x) (hi32 x) = x := by
  refine BitVec.eq_of_getLsbD_eq fun i hi => ?_
  rw [pair64, BitVec.getLsbD_append]
  by_cases h : i < 32
  · simp [h, lo32]
  · have h1 : i - 32 < 32 := by omega
    have h2 : 32 + (i - 32) = i := by omega
    simp [h, hi32, h1, h2]

section
variable {w w' : Warp} {n : Nat} {x : VecWrite}

/-! ### The frame -/

theorem Warp.putV_frame (w : Warp) (n : Nat) (r : VReg) (m : Mask) :
    w.putV n r m = { w with v := (w.putV n r m).v, bad := (w.putV n r m).bad } := by
  unfold Warp.putV
  split <;> rfl

/-- A write of a vector destination, without its latch, changes vector registers and their error marks alone. -/
theorem Warp.writeVec_frame (h : w.spec = none) (hw : w.writeVec n x = some w') : w' = { w with v := w'.v, bad := w'.bad } := by
  rw [Warp.writeVec_calm h] at hw
  obtain rfl := Option.some.inj hw
  dsimp only
  split
  · rfl
  · split
    · rw [Warp.putV_frame (Warp.putV _ _ _ _), Warp.putV_frame w]
    · exact Warp.putV_frame ..

theorem Warp.writeVec_spec (h : w.spec = none) (hw : w.writeVec n x = some w') : w'.spec = none := by
  rw [Warp.writeVec_frame h hw]
  exact h

theorem Warp.writeVec_latches (h : w.spec = none) (hw : w.writeVec n x = some w') : w'.latches = w.latches := by
  rw [Warp.writeVec_frame h hw]

theorem Warp.commitVec_eq_some :
    w.commitVec n x = some w' ↔ ∃ w1, w.writeVec n x = some w1 ∧ w1.pushLatch (x.latch w n) = w' :=
  Option.map_eq_some_iff

/-! ### The registers -/

theorem Warp.writeVec_nw (hn : x.nw = true) : w.writeVec n x = some w := by simp [Warp.writeVec, hn]

/-- The registers after a write whose destination exists. -/
theorem Warp.writeVec_vreg (h : w.spec = none) (hb : n < 256) (hb' : x.wide = true → n + 1 < 256) (hn : x.nw = false)
    (hw : w.writeVec n x = some w') (k : Nat) :
    w'.vreg k = if k = n then x.low w n else if x.wide = true ∧ k = n + 1 then x.high w n else w.vreg k := by
  rw [Warp.writeVec_calm h] at hw
  obtain rfl := Option.some.inj hw
  cases hx : x.wide with
  | false => simp [hn, Warp.vreg_putV _ _ _ _ _ hb]
  | true =>
    simp only [hn, Bool.false_eq_true, if_false, if_true, Warp.vreg_putV _ _ _ _ _ (hb' hx), Warp.vreg_putV _ _ _ _ _ hb,
      true_and]
    by_cases hk : k = n + 1
    · subst hk; simp
    · simp [hk]

theorem Warp.writeVec_vreg_of_ne (h : w.spec = none) (hb : n < 256) (hb' : x.wide = true → n + 1 < 256)
    (hw : w.writeVec n x = some w') {k : Nat} (hk : k ≠ n) (hk' : x.wide = true → k ≠ n + 1) : w'.vreg k = w.vreg k := by
  cases hn : x.nw with
  | true => rw [Warp.writeVec_nw hn] at hw; rw [Option.some.inj hw]
  | false =>
    rw [Warp.writeVec_vreg h hb hb' hn hw, if_neg hk, if_neg]
    exact fun hx => hk' hx.1 hx.2

/-- A lane of a register after a write. -/
theorem VReg.put_lanes (r : VReg) (wr zero : Mask) (retag : Bool) (tag : Fmt) (vals : Fin 64 → W32) (l : Fin 64) :
    (r.put wr zero retag tag vals).lanes[l] =
      if wr.getLsbD l then vals l else if zero.getLsbD l then 0 else r.lanes[l] :=
  mkLanes_getElem _ l

/-- The lanes written, and those set to zero. -/
theorem VecWrite.written_lane (x : VecWrite) (l : Fin 64) :
    (x.eff &&& ~~~x.kill).getLsbD l = (x.eff.getLsbD l && !x.kill.getLsbD l) := by
  simp

theorem VecWrite.zeroed_lane (x : VecWrite) (w : Warp) (l : Fin 64) :
    (x.sel &&& (w.dead ||| x.kill)).getLsbD l = (x.sel.getLsbD l && (w.dead.getLsbD l || x.kill.getLsbD l)) := by
  simp

theorem VecWrite.low_lanes (x : VecWrite) (w : Warp) (n : Nat) (l : Fin 64) :
    (x.low w n).lanes[l] = if x.eff.getLsbD l && !x.kill.getLsbD l then lo32 (x.vals l)
      else if x.sel.getLsbD l && (w.dead.getLsbD l || x.kill.getLsbD l) then 0 else (w.vreg n).lanes[l] := by
  rw [VecWrite.low, VReg.put_lanes, x.written_lane, x.zeroed_lane]

theorem VecWrite.high_lanes (x : VecWrite) (w : Warp) (n : Nat) (l : Fin 64) :
    (x.high w n).lanes[l] = if x.eff.getLsbD l && !x.kill.getLsbD l then hi32 (x.vals l)
      else if x.sel.getLsbD l && (w.dead.getLsbD l || x.kill.getLsbD l) then 0 else (w.vreg (n + 1)).lanes[l] := by
  rw [VecWrite.high, VReg.put_lanes, x.written_lane, x.zeroed_lane]

theorem VecWrite.low_tag (x : VecWrite) (w : Warp) (n : Nat) :
    (x.low w n).tag = if x.eff = 0 then (w.vreg n).tag else x.tag := by
  by_cases h : x.eff = 0 <;> simp [VecWrite.low, VReg.put, h]

/-! ### The latch -/

/-- In a lane that is written the latch holds the result. -/
theorem VecWrite.latch_lanes (x : VecWrite) (w : Warp) (n : Nat) {l : Fin 64} (he : x.eff.getLsbD l = true)
    (hk : x.kill.getLsbD l = false) : (x.latch w n).lanes[l] = if x.wide then x.vals l else zx64 (lo32 (x.vals l)) := by
  have hl : (x.eff.getLsbD l && !x.kill.getLsbD l) = true := by rw [he, hk]; rfl
  rw [VecWrite.latch, mkLanes_getElem, x.low_lanes, x.high_lanes, if_pos hl, if_pos hl, pair64_lo32_hi32]

end

/-- Settles O20: the write without its latch, register by register, then the latch. -/
theorem vectorDestinationsReceiveTheirLanes : Obligations.VectorDestinationsReceiveTheirLanes := by
  unfold Obligations.VectorDestinationsReceiveTheirLanes
  intro w w' n x h hb hb' hw
  obtain ⟨w1, hw1, rfl⟩ := Warp.commitVec_eq_some.mp hw
  have hreg := Warp.writeVec_vreg h hb hb' (hw := hw1)
  refine ⟨?frame, ?withheld, ?others, ?written, ?latch⟩
  case frame => rw [Warp.writeVec_frame h hw1]; rfl
  case withheld =>
    intro hn
    rw [Warp.writeVec_nw hn] at hw1
    rw [Warp.pushLatch_v, Option.some.inj hw1]
  case others => exact fun k hk hk' => Warp.writeVec_vreg_of_ne h hb hb' hw1 hk hk'
  case written =>
    intro hn
    have low : w1.vreg n = x.low w n := by rw [hreg hn, if_pos rfl]
    refine ⟨(congrArg VReg.tag low).trans (x.low_tag w n), fun l => ?_, fun hx l => ?_⟩
    · exact (congrArg (·.lanes[l]) low).trans (x.low_lanes w n l)
    · have high : w1.vreg (n + 1) = x.high w n := by rw [hreg hn, if_neg (by omega), if_pos ⟨hx, rfl⟩]
      exact (congrArg (·.lanes[l]) high).trans (x.high_lanes w n l)
  case latch =>
    refine ⟨x.latch w n, ?_, rfl, rfl, fun l he hk => x.latch_lanes w n he hk⟩
    rw [Warp.pushLatch, Warp.writeVec_latches h hw1]

end Sys2Proof.Machine
end

section
/-!
PROOF. Instructions of form L with one destination (R14, R18, R45 to R47, R57, R83): a meaning that runs a row's instruction
completes as the row says, and with errors in its operands it writes zero in the lanes they kill.
-/
namespace Sys2Proof.Says

open Sys2Proof.Machine

/-- The instruction that a row describes, as a meaning runs it. -/
def Row.ins (r : Row) (f : LForm) (e : Env) : RegIns :=
  { dst := f.dst, nw := f.nw, a := f.a, os := r.os f e.w, never := r.never f, wide := r.wide f e.w, tag := r.tag f e.w
    vals := mkLanes (r.result f e), draws := r.draws f }

end Sys2Proof.Says

namespace Sys2Proof.Machine

open Sys2Proof.Says

theorem Mask.and_not_zero (m : Mask) : m &&& ~~~(0 : Mask) = m := by
  rw [show ~~~(0 : Mask) = BitVec.allOnes 64 by decide, BitVec.and_allOnes]

/-- A warp that does not speculate writes the destination that a row's instruction names. -/
theorem write_ins {w : Warp} (h : w.spec = none) (r : Row) (f : LForm) (e : Env) (eff sel kill : Mask) :
    (r.ins f e).write w eff sel kill =
      some (writesIn w eff sel kill f (r.wide f e.w) (r.tag f e.w) fun l => (r.result f e l).1) := by
  unfold RegIns.write writesIn
  simp only [Row.ins]
  cases f.dst with
  | v n =>
    obtain ⟨w', hw⟩ := Warp.commitVec_calm h n.val
      { eff := eff, sel := sel, kill := kill, vals := fun l => (r.result f e l).1, wide := r.wide f e.w, tag := r.tag f e.w
        a := f.a, nw := f.nw }
    simp [hw]
  | k n => simp
  | s n => simp
  | _ => rfl

/-- What a row's instruction does whose operands raise no fault: the lanes that an error kills write zero and are killed. -/
theorem Env.run_ins {r : Row} {f : LForm} {e : Env} (hs : e.w.spec = none)
    (ho : e.w.operandFault e.g.desc.apxFrom f.a (r.os f e.w) (r.never f) [f.dst] = none) :
    let kills := e.w.operandKills (r.os f e.w) e.eff
    e.run (r.ins f e) = .done (((e.put ((writesIn e.w e.eff e.sel kills.1 f (r.wide f e.w) (r.tag f e.w)
      fun l => (r.result f e l).1).setFlags (raised f.dst (e.eff &&& ~~~kills.1) (r.result f e)))).drawn (r.draws f)).killLanes
        e.c e.g e.w kills.1 kills.2 0) := by
  intro kills
  have ho' : e.w.operandFault e.g.desc.apxFrom (r.ins f e).a (r.ins f e).os (r.ins f e).never [(r.ins f e).dst] = none := ho
  have hf : (if e.eff = 0 then none else (r.ins f e).faults) = none := ite_self none
  simp only [Env.run, Env.runKill, ho', hf, write_ins hs]
  rfl

/-- A row whose meaning runs its instruction completes. -/
theorem Row.completes_of_run {r : Row} {wb : LForm → Env → Effect} {lb : LForm → LeekEnv → Effect}
    (hx : ∀ f s, exec (r.op.toInstr f) s = issue (.l r.op f) s (wb f) (lb f))
    (hb : ∀ {f s c g w}, WarpIssues s c g w (.l r.op f) → readable g w f.a (r.os f w) (r.never f) [f.dst] →
      r.ok f (envOf s c g w (.l r.op f)) →
      wb f (envOf s c g w (.l r.op f)) = (envOf s c g w (.l r.op f)).run (r.ins f (envOf s c g w (.l r.op f)))) : r.Completes := by
  intro f s c g w hi hr hok
  rw [hx]
  exact hi.done ((hb hi hr hok).trans (Env.run_clean hr.1 hr.2 (.inr rfl) (write_ins hi.calm ..)))

/-! ### Integer instructions -/

/-- The integer operations have the common meaning. -/
theorem exec_intOp : ∀ p ∈ intOps, ∀ (f : LForm) (s : State), exec (p.1.toInstr f) s = p.2.exec p.1 f s := by
  intro p hp f s
  fin_cases hp <;> rfl

/-- Settles O11: each integer operation, and CMP, runs its row's instruction. -/
theorem integerInstructionsComplete : Obligations.IntegerInstructionsComplete := by
  unfold Obligations.IntegerInstructionsComplete
  refine ⟨fun p hp => ?_, ?_⟩
  · exact Row.completes_of_run (r := intRow p) (exec_intOp p hp) fun _ _ _ => rfl
  · exact Row.completes_of_run (r := cmpRow) (fun f s => rfl) fun _ _ _ => rfl

/-- A lane that is dead already is not killed, and makes no event. -/
theorem State.killLanes_dead {w : Warp} {m : Mask} (h : m &&& ~~~w.dead = 0) (s : State) (c : Context) (g : Group) (n : Nat)
    (a : W64) : s.killLanes c g w m n a = s := by
  have h0 : Mask.lanes (0#64) = [] := by decide
  simp [State.killLanes, h, h0]

/-- Without flags raised, FLAGS stay. -/
theorem orFlags_eq_zero {m : Mask} {x : Fin 64 → W64 × Byte} (h : ∀ l, (x l).2 = 0) : orFlags m (mkLanes x) = 0 := by
  unfold orFlags
  induction Mask.lanes m with
  | nil => rfl
  | cons l ls ih => simp [h]

theorem Warp.setFlags_zero (w : Warp) : w.setFlags 0 = w := by
  simp [Warp.setFlags]

/-- Settles O21: an integer operation runs its row's instruction, which raises no flag, with the lanes that errors kill. -/
theorem errorsInOperandsKillTheirLanes : Obligations.ErrorsInOperandsKillTheirLanes := by
  unfold Obligations.ErrorsInOperandsKillTheirLanes
  intro p hp f s c g w hi ho e kills
  refine ⟨?_, fun h t => State.killLanes_dead h t c g kills.2 0⟩
  have hrun := Env.run_ins (r := intRow p) (f := f) (e := e) hi.calm ho
  have hf : ∀ m, raised f.dst m ((intRow p).result f e) = 0 := fun _ => orFlags_eq_zero fun _ => rfl
  rw [exec_intOp p hp]
  refine hi.done (hrun.trans ?_)
  rw [hf, Warp.setFlags_zero]
  rfl

end Sys2Proof.Machine
end

section
/-!
PROOF. Conversions and block quantisation (R84, R117, R118, R121 to R124): what the encoding of a stream ensures, the scales of
QUANT's blocks lane by lane, and from them the statement.
-/
namespace Sys2Proof.Machine

open Sys2Proof.Says

/-! ### What the encoding ensures -/

/-- What an encoding of form L or I that may issue says of its form, its SRC0 and its trailing word. -/
theorem legalL_parts {op : LOp} {f : LForm} {leek : Bool} {v s : Nat} (h : legalL op f leek v s = true) :
    (if f.imm.isSome then op.forms.2 else op.forms.1) = true ∧ (op.kinds f.sub f.imm.isSome).s0.ok leek f.sub f.src0 = true ∧
      ∀ i, f.imm = some i → op.immOk f i = true := by
  simp only [legalL, Bool.and_eq_true, and_assoc] at h
  obtain ⟨-, hform, -, -, -, -, -, -, -, hsrc, -, -, -, -, -, -, -, himm, -⟩ := h
  refine ⟨hform, hsrc, fun i hi => ?_⟩
  rwa [hi] at himm

/-- A vector source of an instruction whose operands raise no fault has a tag: it names no invalid latch. -/
theorem Warp.tagOf_of_vec {w : Warp} {leek : Bool} {sub : BitVec 4} {o : Opnd} {os : List Opnd} {apxFrom : Nat} {a : Bool}
    {never dsts : List Reg} (hk : OperandKind.vec.ok leek sub o.reg = true) (ho : o ∈ os)
    (hf : w.operandFault apxFrom a os never dsts = none) : ∃ t, w.tagOf o.reg = some t := by
  have hl : w.latchBad o.reg = false := by
    unfold Warp.operandFault at hf
    split_ifs at hf with h1 h2 h3
    simpa using fun h => h3 (List.any_eq_true.mpr ⟨o, ho, h⟩)
  generalize o.reg = r at hk hl
  cases r with
  | v n => exact ⟨_, rfl⟩
  | latch n =>
    cases hx : w.latches[n] with
    | none => simp [Warp.latchBad, hx] at hl
    | some x => exact ⟨x.tag, by simp [Warp.tagOf, hx]⟩
  | _ => exact absurd hk Bool.false_ne_true

/-- The stream of a CVT or QUANT whose operands raise no fault has a format. -/
theorem Warp.streamFmt_of_vec {w : Warp} {f : LForm} {t : Fmt} {apxFrom : Nat} {never dsts : List Reg}
    (hk : OperandKind.vec.ok false f.sub f.src0 = true)
    (hf : w.operandFault apxFrom f.a (streamOs t f) never dsts = none) : ∃ s, w.streamFmt f.src0 = some s :=
  Warp.tagOf_of_vec (o := Opnd.of f.src0 t) hk (List.mem_cons_self ..) hf

/-! ### CVT -/

theorem cvtRow_run {f : LForm} {s : State} {c : Context} {g : Group} {w : Warp} (hi : WarpIssues s c g w (.l .cvt f))
    (hr : readable g w f.a (cvtRow.os f w) [] [f.dst]) (hok : w.streamTag (cvtTakes f.a) f = false) :
    cvtBody f (envOf s c g w (.l .cvt f)) = (envOf s c g w (.l .cvt f)).run (cvtRow.ins f (envOf s c g w (.l .cvt f))) := by
  obtain ⟨-, hsrc, -⟩ := legalL_parts hi.legal
  obtain ⟨t, ht⟩ := Warp.streamFmt_of_vec hsrc hr.2
  have ht' : (envOf s c g w (.l .cvt f)).w.streamFmt f.src0 = some t := ht
  have hok' : (envOf s c g w (.l .cvt f)).w.streamTag (cvtTakes f.a) f = false := hok
  simp only [cvtBody, ht', hok', Row.ins, cvtRow, Option.getD_some]
  rfl

/-! ### The blocks of QUANT -/

/-- The lanes of a block divide the 64. -/
theorem isPow64_dvd {n : Nat} (h : isPow64 n = true) : n ∣ 64 := by
  simp only [isPow64, Bool.or_eq_true, beq_iff_eq] at h
  rcases h with (((((rfl | rfl) | rfl) | rfl) | rfl) | rfl) | rfl <;> decide

theorem mkLanes_toList_getD {α : Type} (p : Fin 64 → List α) (j : Nat) :
    ((mkLanes p).toList[j]?).getD [] = if h : j < 64 then p ⟨j, h⟩ else [] := by
  split <;> next h => simp [mkLanes, Vector.toList, h]

/-- What a list over the blocks holds at a lane's block. -/
theorem blocks_getD {α : Type} {size : Nat} (hs : size ∣ 64) (p : Nat → α) (d : α) (l : Fin 64) :
    (((List.range (64 / size)).map p)[l.val / size]?).getD d = p (l.val / size) := by
  have h : l.val / size < 64 / size := Nat.div_lt_div_of_lt_of_dvd hs l.isLt
  simp [h]

/-- The block size of a QUANT that may issue. -/
theorem quant_size_dvd {f : LForm} {v s : Nat} (h : legalL .quant f false v s = true) : (f.imm.getD 1).toNat ∣ 64 := by
  obtain ⟨hform, -, himm⟩ := legalL_parts h
  cases hi : f.imm with
  | none => exact absurd hform (by simp [hi, LOp.forms])
  | some i => exact isPow64_dvd (himm i hi)

/-- The scales of a QUANT's blocks, taken at a lane, are the scale of the lane's block. -/
theorem quantScale_eq {f : LForm} {w : Warp} {t : Fmt} (part : Mask) (l : Fin 64) (hs : (f.imm.getD 1).toNat ∣ 64)
    (ht : w.streamFmt f.src0 = some t) :
    let size := (f.imm.getD 1).toNat
    let els := mkLanes fun l => if part.getLsbD l then w.quantEls t f l else []
    (((List.range (64 / size)).map fun b => blockScale (ffmtOf f.fmt)
      ((List.range size).flatMap fun i => ((els.toList)[b * size + i]?).getD []))[l.val / size]?).getD 0 =
        quantScale f w part l := by
  intro size els
  rw [blocks_getD hs]
  simp only [els, mkLanes_toList_getD, quantScale, ht, Option.getD_some]
  rfl

/-- A QUANT that may issue, of a stream without errors, writes the scales' register, then its destination, and its flags. -/
theorem quantBody_clean {e : Env} {f : LForm} {d : Fin 256} {t : Fmt} {w1 w2 : Warp} (hbad : e.w.bad = []) (hd : f.dst = .v d)
    (hs : (f.imm.getD 1).toNat ∣ 64) (ht : e.w.streamFmt f.src0 = some t) (htag : e.w.streamTag quantTakes f = false)
    (ho : e.w.operandFault e.g.desc.apxFrom f.a (streamOs t f) [] [f.dst] = none)
    (h1 : e.w.writeVec (d.val + 1) { eff := e.eff, sel := e.sel, kill := 0
                                     vals := fun l => zx64 (f32Pow (quantScale f e.w e.eff l))
                                     wide := false, tag := .f32, a := false, nw := f.nw } = some w1)
    (h2 : w1.commitVec d.val { eff := e.eff, sel := e.sel, kill := 0, vals := fun l => (quantAt f e l).1
                               wide := false, tag := f.fmt, a := false, nw := f.nw } = some w2) :
    quantBody f e = .done (e.put (w2.setFlags (orFlags e.eff (mkLanes (quantAt f e))))) := by
  have hscale : ∀ l, _ = quantScale f e.w e.eff l := fun l => quantScale_eq (f := f) e.eff l hs ht
  rw [hd] at ho
  unfold quantAt at h2 ⊢
  simp only [ht, Option.getD_some] at h2 ⊢
  simp only [quantBody, ht, htag, Bool.false_eq_true, if_false, hd, ho, Warp.operandKills_of_clean hbad, Mask.and_not_zero, hscale,
    mkLanes_getElem, h1, Option.bind_some, State.killLanes_zero]
  split
  · next hn => exact absurd (h2.symm.trans hn) nofun
  · next hw =>
    obtain rfl := Option.some.inj (h2.symm.trans hw)
    rfl

/-- Settles O19: CVT, SCALEB, FCMP and FCLASS run their rows' instructions; QUANT writes its two registers in turn. -/
theorem conversionsAndClassesComplete : Obligations.ConversionsAndClassesComplete := by
  unfold Obligations.ConversionsAndClassesComplete
  refine ⟨fun r hr => ?rows, ?quant⟩
  case rows =>
    simp only [conversionRows, List.mem_cons, List.not_mem_nil, or_false] at hr
    obtain rfl | rfl | rfl | rfl := hr
    · exact Row.completes_of_run (fun _ _ => rfl) cvtRow_run
    · exact Row.completes_of_run (fun _ _ => rfl) fun _ _ _ => rfl
    · exact Row.completes_of_run (fun _ _ => rfl) fun _ _ _ => rfl
    · exact Row.completes_of_run (fun _ _ => rfl) fun _ _ _ => rfl
  case quant =>
    intro f s c g w d hi hd htag hr e wr
    obtain ⟨hbad, ho⟩ := hr
    obtain ⟨-, hsrc, -⟩ := legalL_parts hi.legal
    obtain ⟨t, ht⟩ := Warp.streamFmt_of_vec hsrc ho
    rw [ht] at ho
    have h1 := Warp.writeVec_calm hi.calm (d.val + 1) (wr .f32 fun l => zx64 (f32Pow (quantScale f w e.eff l)))
    obtain ⟨w2, h2⟩ := Warp.commitVec_calm (Warp.writeVec_spec hi.calm h1) d.val (wr f.fmt fun l => (quantAt f e l).1)
    exact ⟨_, w2, h1, h2, hi.done (quantBody_clean (e := e) hbad hd (quant_size_dvd hi.legal) ht htag ho h1 h2)⟩

end Sys2Proof.Machine
end

section
/-!
PROOF. What memory instructions share (R147 to R150, R157, R308): the checks of lanes that may all access their places, the errors
that places without marks do not give, the value that a load delivers, and a store's effect on memory.
-/
namespace Sys2Proof.Machine

open Sys2Proof.Says

/-! ### Lanes -/

@[simp] theorem Mask.mem_lanes {m : Mask} {l : Fin 64} : l ∈ Mask.lanes m ↔ m.getLsbD l = true := by simp [Mask.lanes]

/-- A value given for each lane of a mask is found in its lanes alone. -/
theorem laneVal_lanes (m : Mask) (v : Fin 64 → W64) (i : Fin 64) :
    laneVal ((Mask.lanes m).map fun l => (l, v l)) i = if m.getLsbD i then v i else 0 := by
  have find (ls : List (Fin 64)) :
      ((ls.map fun l => (l, v l)).find? fun x => x.1 == i) = if i ∈ ls then some (i, v i) else none := by
    induction ls with
    | nil => simp
    | cons l ls ih =>
      by_cases h : l = i
      · subst h; simp
      · simp [h, Ne.symm h, ih]
  rw [laneVal, find]
  simp only [Mask.mem_lanes]
  split <;> rfl

/-! ### Checks -/

theorem worstFault_of_ok {rs : List (Fin 64 × W64 × Resolved)} (h : ∀ r ∈ rs, ∃ p a fill, r.2.2 = .ok p a fill) :
    worstFault rs = none := by
  unfold worstFault
  induction rs with
  | nil => rfl
  | cons r rs ih =>
    obtain ⟨p, a, fill, hr⟩ := h r (List.mem_cons_self ..)
    rw [List.foldl_cons, hr]
    exact ih fun r hr => h r (List.mem_cons_of_mem _ hr)

theorem reportFault_of_ok {rs : List (Fin 64 × W64 × Resolved)} (h : ∀ r ∈ rs, ∃ p a fill, r.2.2 = .ok p a fill)
    (acc : Access) : reportFault acc rs = none := by rw [reportFault, worstFault_of_ok h]

theorem passed_of_ok {ls : List (Fin 64)} {ea : Fin 64 → W64} {r : Fin 64 → Resolved}
    (h : ∀ l ∈ ls, ∃ p a fill, r l = .ok p a fill) :
    passed (ls.map fun l => (l, ea l, r l)) = ls.map fun l => (l, ea l, placeIn (r l), apxIn (r l)) := by
  unfold passed
  induction ls with
  | nil => rfl
  | cons l ls ih =>
    obtain ⟨p, a, fill, hr⟩ := h l (List.mem_cons_self ..)
    rw [List.map_cons, List.map_cons, List.filterMap_cons, ih fun l hl => h l (List.mem_cons_of_mem _ hl), hr]
    rfl

theorem fillsOf_map (ls : List (Fin 64)) (ea : Fin 64 → W64) (r : Fin 64 → Resolved) :
    fillsOf (ls.map fun l => (l, ea l, r l)) = ls.flatMap fun l => fillIn (r l) := by
  rw [fillsOf, List.flatMap_map]
  refine congrArg (List.flatMap · ls) (funext fun l => ?_)
  dsimp only
  cases r l <;> rfl

/-- Where every executing lane's address is allowed, the checks give the accesses and the translations that they fill. -/
theorem Env.check_ok {e : Env} {f : MForm} {scale n : Nat} {acc : Access}
    (h : ∀ l : Fin 64, e.eff.getLsbD l → ∃ place apx fill, target e f scale n acc l = .ok place apx fill) :
    e.check e.eff (e.ea f scale) f.space n acc f.a = .ok (accesses e f scale n acc) (fills e f scale n acc) := by
  have hl : ∀ l ∈ Mask.lanes e.eff, ∃ place apx fill, target e f scale n acc l = .ok place apx fill :=
    fun l hl => h l (Mask.mem_lanes.mp hl)
  have hr := reportFault_of_ok (rs := (Mask.lanes e.eff).map fun l => (l, e.ea f scale l, target e f scale n acc l))
    (by simpa using h) acc
  have hp := passed_of_ok (ea := e.ea f scale) hl
  have hf := fillsOf_map (Mask.lanes e.eff) (e.ea f scale) (target e f scale n acc)
  simp only [target] at hr hp hf
  simp only [Env.check, hr, hp, hf]
  rfl

theorem Env.memFault_of_addressable {e : Env} {f : MForm} {data : List Opnd} {dsts : List Reg}
    (h : addressable e.g e.w f data dsts) : e.memFault f data dsts = none := by
  obtain ⟨-, hi, ho⟩ := h
  simp [Env.memFault, hi, ho]

/-! ### Errors -/

@[simp] theorem State.marked_fillTlb (s : State) (fill : List TlbEntry) (place n : Nat) :
    (s.fillTlb fill).marked place n = s.marked place n := by simp [State.marked]

/-- A read within bytes that meet no marked granule meets no error. -/
theorem State.errorAt_of_unmarked {s : State} {place k a n : Nat} (h : s.marked place k = false) (lo : place ≤ a)
    (hi : a + n ≤ place + k) : s.errorAt a n = none := by
  have hm : ∀ g ∈ s.poison, g.meets place k = false := by simpa [State.marked] using h
  have hn : ∀ g ∈ s.poison, ¬ (((g.cluster.isNone || g.cluster == none) && g.meets a n) = true) := by
    intro g hg hx
    have := hm g hg
    simp only [BadGranule.meets, Bool.and_eq_true, Bool.and_eq_false_iff, decide_eq_true_eq, decide_eq_false_iff_not] at this hx
    omega
  rw [State.errorAt, State.errorBy, List.find?_eq_none.mpr hn]
  rfl

/-- The accesses of a reachable instruction meet no error of memory. -/
theorem memErrors_of_reachable {e : Env} {f : MForm} {scale n : Nat} {acc : Access} (h : reachable e f scale n acc) {s : State}
    (hs : ∀ place, s.marked place n = e.s.marked place n) :
    s.memErrors (fun place apx => s.errorIn place n apx) (accesses e f scale n acc) = [] := by
  unfold State.memErrors
  split
  · rfl
  · refine List.filterMap_eq_nil_iff.mpr fun x hx => ?_
    obtain ⟨l, hl, rfl⟩ := List.mem_map.mp hx
    obtain ⟨place, apx, fill, ht, hm⟩ := h l (Mask.mem_lanes.mp hl)
    have he : s.errorAt place n = none := State.errorAt_of_unmarked ((hs place).trans hm) le_rfl le_rfl
    simp [ht, placeIn, apxIn, State.errorIn, he]

/-! ### Loads and stores -/

/-- A load whose operands and places hold no error writes its data register. -/
theorem deliverLoad_clean {s t : State} {c : Context} {g : Group} {w : Warp} {sh : Shape} {f : MForm} (hs : w.spec = none)
    (hd : ∃ k, f.data = .v k) (n : Nat) (vals : List (Fin 64 × W64)) :
    (envOf s c g w sh).deliverLoad t w f vals (0, n) [] = .done (t.putWarp g w (loadsInto w sh f (laneVal vals))) := by
  obtain ⟨k, hk⟩ := hd
  obtain ⟨w', hw⟩ := Warp.commitVec_calm hs k.val
    { eff := w.eff sh, sel := w.sel sh, kill := 0, vals := laneVal vals, wide := f.fmt.wide, tag := f.fmt, a := f.a, nw := false }
  have hw' : w.commitVec k.val { eff := (envOf s c g w sh).eff, sel := (envOf s c g w sh).sel, kill := 0 ||| errLanes []
                                 vals := laneVal vals, wide := f.fmt.wide, tag := f.fmt, a := f.a, nw := false } = some w' := hw
  simp only [Env.deliverLoad, loadsInto, hk, hw, hw', State.killLanes_zero, State.killMasks, Option.getD_some]
  rfl

@[simp] theorem length_toBytesLE (n x : Nat) : (toBytesLE n x).length = n := by
  induction n generalizing x with
  | zero => rfl
  | succ n ih => simp [toBytesLE, ih]

@[simp] theorem State.conflict_mem (s : State) (who : Option AgentId) (sectors : List Nat) :
    (s.conflict who sectors).mem = s.mem := by
  unfold State.conflict
  split <;> rfl

@[simp] theorem State.store_mem (s : State) (who : Option AgentId) (place : Nat) (bs : List Byte) :
    (s.store who place bs).mem = s.mem.write place bs := by simp [State.store]

/-- A store of `n` bytes is read back, and leaves every other byte. -/
theorem State.store_reads {s : State} (h : s.mem.wf = true) (who : Option AgentId) (place n x : Nat) :
    (s.store who place (toBytesLE n x)).mem.read place n = toBytesLE n x ∧
      unchangedOutside s (s.store who place (toBytesLE n x)) [(place, n)] := by
  refine ⟨?_, fun a ha => ?_⟩
  · have := Memory.read_write s.mem place (toBytesLE n x) h
    rwa [length_toBytesLE, ← State.store_mem s who] at this
  · rw [State.store_mem]
    exact Memory.get_write_of_outside _ _ _ _ h (by simpa using ha (place, n) (List.mem_singleton_self _))

end Sys2Proof.Machine
end

section
/-!
PROOF. Local ATOM and VATOM (R156 to R159, R332): how an atomic goes on after an event, that the events of a reachable one meet no
error, and from them the statement.
-/
namespace Sys2Proof.Machine

open Sys2Proof.Says

/-! ### Going on -/

/-- What an atomic that has met no error does once some of its elements have been read and `todo` are to come. -/
def Env.atomOn (e : Env) (f : MForm) (posted : Bool) (t : State) (n : Nat) (todo : List AtomEvent)
    (got : List (Nat × Nat × Nat)) : Effect :=
  if todo.isEmpty then e.atomDone f posted t (0, n) [] ((Mask.lanes e.eff).map fun l => (l, gotWord f.fmt got l))
  else e.pause t (clean e.ovft n (.atoms todo got))

theorem Env.atomNext_nil (e : Env) (f : MForm) (posted : Bool) (s : State) (n : Nat) (stage : Stage)
    (got : List (Nat × Nat × Nat)) : e.atomNext f posted s (clean e.ovft n stage) [] got = e.atomOn f posted s n [] got := rfl

/-- An element's event that meets no error takes place, and the atomic goes on. -/
theorem Env.atomNext_cons {e : Env} {f : MForm} {s : State} {a : AtomEvent} (he : s.errorAt a.place (elBytes f.fmt) = none)
    (posted : Bool) (n : Nat) (stage : Stage) (rest : List AtomEvent) (got : List (Nat × Nat × Nat)) :
    let r := s.atomEvent (some e.me) (atomOf f.sub) f.fmt e.ovft a
    e.atomNext f posted s (clean e.ovft n stage) (a :: rest) got = e.atomOn f posted r.2 n rest (got ++ [(a.lane, a.el, r.1)]) := by
  simp only [Env.atomNext, he]
  rfl

theorem Env.atomDone_clean {s t : State} {c : Context} {g : Group} {w : Warp} {sh : Shape} {f : MForm} {posted : Bool}
    (hs : w.spec = none) (hd : posted = false → ∃ k, f.data = .v k) (n : Nat) (olds : List (Fin 64 × W64)) :
    (envOf s c g w sh).atomDone f posted t (0, n) [] olds =
      .done (if posted then t else t.putWarp g w (loadsInto w sh f (laneVal olds))) := by
  cases posted with
  | true => simp only [Env.atomDone, if_true, State.killLanes_zero, Env.postedErrors]
  | false => exact deliverLoad_clean hs (hd rfl) n olds

/-- An instruction whose meaning goes on so pauses before its next event, or completes. -/
theorem WarpIssues.atomOn {s t : State} {c : Context} {g : Group} {w : Warp} {sh : Shape} {wb : Env → Effect}
    {lb : LeekEnv → Effect} {f : MForm} {posted : Bool} {n : Nat} {todo : List AtomEvent} {got : List (Nat × Nat × Nat)}
    (h : WarpIssues s c g w sh) (hd : posted = false → ∃ k, f.data = .v k)
    (e : wb (envOf s c g w sh) = (envOf s c g w sh).atomOn f posted t n todo got) :
    issue sh s wb lb = .next (atomGoesOn t c g w sh f posted n todo got) := by
  cases todo with
  | nil =>
    have hv : (fun l : Fin 64 => if (w.eff sh).getLsbD l then gotWord f.fmt got l else 0) =
        laneVal ((Mask.lanes (w.eff sh)).map fun l => (l, gotWord f.fmt got l)) :=
      funext fun l => (laneVal_lanes (w.eff sh) (fun l => gotWord f.fmt got l) l).symm
    rw [atomGoesOn, if_pos rfl, hv]
    exact h.done (e.trans (Env.atomDone_clean h.calm hd n _))
  | cons a rest =>
    rw [atomGoesOn, if_neg (by simp)]
    exact h.wait e

theorem Env.orGoOn_none {e : Env} (hp : e.w.progress = none) (f : MForm) (posted : Bool) (start : Effect) :
    e.orGoOn f posted start = start := by rw [Env.orGoOn, hp]

theorem Env.orGoOn_atoms {e : Env} {o : BitVec 16} {n : Nat} {todo : List AtomEvent} {got : List (Nat × Nat × Nat)}
    (hp : e.w.progress = some (clean o n (.atoms todo got))) (f : MForm) (posted : Bool) (start : Effect) :
    e.orGoOn f posted start = e.atomNext f posted e.s (clean o n (.atoms todo got)) todo got := by
  rw [Env.orGoOn, hp]
  rfl

/-! ### The events -/

/-- The formats whose elements fill one register: those of VATOM, and the pairs of halves. -/
def oneWord (f : Fmt) : Prop := elBytes f * (elemOf f).2 = 4

/-- The events of words from a place up lie within their bytes. -/
theorem atomEvents_within {f : Fmt} (hf : oneWord f) {lane place : Nat} {words : List W64} {a : AtomEvent}
    (ha : a ∈ atomEvents f lane place words) : place ≤ a.place ∧ a.place + elBytes f ≤ place + 4 * words.length := by
  obtain ⟨x, hx, ha⟩ := List.mem_flatMap.mp ha
  obtain ⟨j, hj, rfl⟩ := List.mem_map.mp ha
  have hi : x.2 < words.length := by simpa using (List.mem_zipIdx hx).2.1
  have hb : elBytes f * j + elBytes f ≤ 4 := by
    rw [← Nat.mul_succ]
    exact (Nat.mul_le_mul_left _ (List.mem_range.mp hj)).trans_eq hf
  change place ≤ place + 4 * x.2 + elBytes f * j ∧ place + 4 * x.2 + elBytes f * j + elBytes f ≤ place + 4 * words.length
  omega

/-- The events of a reachable atomic meet no error of memory. -/
theorem errorAt_of_reachable {e : Env} {f : MForm} {k : Nat} {words : Fin 64 → List W64} {a : AtomEvent}
    (h : reachable e f 1 k .atomic) (hf : oneWord f.fmt) (hk : ∀ l, 4 * (words l).length ≤ k)
    (ha : a ∈ (accesses e f 1 k .atomic).flatMap fun x => atomEvents f.fmt x.1 x.2.2.1 (words x.1))
    (fill : List TlbEntry) : (e.s.fillTlb fill).errorAt a.place (elBytes f.fmt) = none := by
  obtain ⟨x, hx, ha⟩ := List.mem_flatMap.mp ha
  obtain ⟨l, hl, rfl⟩ := List.mem_map.mp hx
  obtain ⟨place, apx, fill, ht, hm⟩ := h l (Mask.mem_lanes.mp hl)
  obtain ⟨lo, hi⟩ := atomEvents_within hf ha
  simp only [ht, placeIn] at lo hi
  exact State.errorAt_of_unmarked ((State.marked_fillTlb ..).trans hm) lo (hi.trans (Nat.add_le_add_left (hk l) _))

theorem oneWord_of_pairFmt {f : Fmt} (h : pairFmt f = true) : oneWord f ∧ accBytes f = 4 := by
  simp only [pairFmt, Bool.or_eq_true, beq_iff_eq] at h
  rcases h with rfl | rfl <;> exact ⟨rfl, rfl⟩

theorem legalM_fmtSub {op : MOp} {f : MForm} {leek : Bool} {v s : Nat} (h : legalM op f leek v s = true) :
    op.fmtSubOk f.fmt f.sub = true := by
  delta legalM at h
  simp only [Bool.and_eq_true] at h
  obtain ⟨⟨⟨⟨⟨⟨-, hf⟩, -⟩, -⟩, -⟩, -⟩, -⟩ := h
  exact hf

theorem oneWord_of_vatom {f : MForm} {v s : Nat} (h : legalM .vatom f false v s = true) : oneWord f.fmt := by
  have hf := legalM_fmtSub h
  unfold MOp.fmtSubOk at hf
  cases hx : f.fmt with
  | s64 | n64 | f64 | q64 => simp [hx, Fmt.isApx] at hf
  | _ => rfl

/-! ### The instructions -/

/-- A local atomic whose lanes may all access their places and meet no error performs the steps of every lane. -/
theorem Env.atomLocal_reachable {e : Env} {f : MForm} {k : Nat} (h : reachable e f 1 k .atomic) (posted : Bool) (n : Nat)
    (words : Option (Fin 64 → List W64)) :
    let s := e.s.fillTlb (fills e f 1 k .atomic)
    let acc := accesses e f 1 k .atomic
    e.atomLocal f posted (0, n) k words e.eff = match words with
      | none =>
        let r := e.atomSteps f s acc
        e.atomDone f posted (r.2.wrote (acc.map fun x => (x.2.2.1, k))) (0, n) [] r.1
      | some ws => e.atomNext f posted s (clean e.ovft n (.atoms [] []))
          (acc.flatMap fun x => atomEvents f.fmt x.1 x.2.2.1 (ws x.1)) [] := by
  have hc := Env.check_ok (e := e) (f := f) (scale := 1) (n := k) (acc := .atomic) fun l hl => by
    obtain ⟨p, a, fill, ht, -⟩ := h l hl
    exact ⟨p, a, fill, ht⟩
  have hm := memErrors_of_reachable h (s := e.s.fillTlb (fills e f 1 k .atomic)) fun _ => State.marked_fillTlb ..
  have hp : ∀ acc, performed acc [] = acc := fun acc => List.filter_eq_self.mpr fun x _ => by simp [errLanes]
  simp only [Env.atomLocal, hc, hm, hp]
  cases words <;> rfl

/-- An atomic whose elements are separate events, each of them within the bytes that were checked. -/
theorem elementwise_of_body {op : MOp} {f : MForm} {posted : Bool} {k : Nat} {words : Fin 64 → List W64} {s : State} {c : Context}
    {g : Group} {w : Warp} {wb : Env → Effect} {lb : LeekEnv → Effect} (h : WarpIssues s c g w (.m op f))
    (hx : exec (op.toInstr f) s = issue (.m op f) s wb lb)
    (hb : wb (envOf s c g w (.m op f)) = (envOf s c g w (.m op f)).orGoOn f posted
      ((envOf s c g w (.m op f)).atomLocal f posted (0, 1) k (some words) (envOf s c g w (.m op f)).eff))
    (hd : posted = false → ∃ n, f.data = .v n) (hf : oneWord f.fmt) (hk : ∀ l, 4 * (words l).length ≤ k) :
    elementwise op f posted k words s c g w := by
  refine ⟨fun hp hr => ?starts, fun o n a rest got hp he => ?goesOn⟩
  case starts =>
    have hstart := hb.trans (Env.orGoOn_none hp ..)
    rw [Env.atomLocal_reachable hr] at hstart
    refine ⟨fun hev => ?_, fun a rest hev => ?_⟩
    · simp only [hev] at hstart
      rw [hx]
      exact h.atomOn hd (hstart.trans (Env.atomNext_nil ..))
    · simp only [hev] at hstart
      have he := errorAt_of_reachable hr hf hk (hev ▸ List.mem_cons_self) (fills (envOf s c g w (.m op f)) f 1 k .atomic)
      rw [hx]
      exact h.atomOn hd (hstart.trans (Env.atomNext_cons he ..))
  case goesOn =>
    have ho : (envOf s c g w (.m op f)).ovft = o := by simp [Env.ovft, envOf, Env.mk', hp, clean]
    have hgo := hb.trans (Env.orGoOn_atoms hp ..)
    rw [← ho] at hgo
    rw [hx]
    exact h.atomOn hd (hgo.trans (Env.atomNext_cons he ..))

theorem atomBody_local {f : MForm} {s : State} {c : Context} {g : Group} {w : Warp} (hsp : f.space ≠ .remote)
    (ha : addressable g w f (atomOs f) []) :
    let e := envOf s c g w (.m .atom f)
    atomBody f e = e.orGoOn f f.nw (e.atomLocal f f.nw (0, 1) (accBytes f.fmt)
      (if pairFmt f.fmt then some fun l => [srcAt w none (atomOs f) 0 l] else none) e.eff) := by
  intro e
  have hm : e.memFault f (atomOs f) [] = none := Env.memFault_of_addressable ha
  have hk : e.w.operandKills (atomOs f ++ addrOs f) e.eff = (0, 1) := Warp.operandKills_of_clean ha.1 _ _
  simp only [atomBody, hm, hk, Mask.and_not_zero, beq_eq_false_iff_ne.mpr hsp]
  rfl

theorem vatomBody_local {f : MForm} {s : State} {c : Context} {g : Group} {w : Warp} (hsp : f.space ≠ .remote)
    (ha : addressable g w f (vatomOs f) []) :
    let e := envOf s c g w (.m .vatom f)
    vatomBody f e = e.orGoOn f true (e.atomLocal f true (0, 1) 32
      (some fun l => ((vatomOs f).map fun o => lo32 (w.src o none l)).map zx64) e.eff) := by
  intro e
  have hm : e.memFault f (vatomOs f) [] = none := Env.memFault_of_addressable ha
  have hk : e.w.operandKills (vatomOs f ++ addrOs f) e.eff = (0, 1) := Warp.operandKills_of_clean ha.1 _ _
  simp only [vatomBody, hm, hk, Mask.and_not_zero, beq_eq_false_iff_ne.mpr hsp, Env.vatomWords]
  rfl

theorem length_vatomOs_le (f : MForm) : (vatomOs f).length ≤ 8 := by
  unfold vatomOs
  split <;> simp

/-- Settles O33: an ATOM on one element performs its steps in lane order, the others go on element by element, and an event or step
is a store of its own bytes. -/
theorem atomicsComplete : Obligations.AtomicsComplete := by
  unfold Obligations.AtomicsComplete
  refine ⟨?atom, ?vatom, ?event, ?step⟩
  case atom =>
    intro f s c g w h hsp ha hd e n r
    have hb := atomBody_local (s := s) (c := c) hsp ha
    refine ⟨fun hpair hp hr => ?_, fun hpair => ?_⟩
    · have hb' : atomBody f e = e.atomLocal f f.nw (0, 1) n none e.eff := by
        rw [hb, Env.orGoOn_none hp, hpair]
        rfl
      rw [Env.atomLocal_reachable hr] at hb'
      exact h.done (hb'.trans (Env.atomDone_clean h.calm (fun _ => hd) 1 _))
    · obtain ⟨hw, hk⟩ := oneWord_of_pairFmt hpair
      rw [if_pos hpair] at hb
      exact elementwise_of_body h rfl hb (fun _ => hd) hw fun l => by simp [n, hk]
  case vatom =>
    intro f s c g w h hsp ha
    refine elementwise_of_body h rfl (vatomBody_local hsp ha) nofun (oneWord_of_vatom h.legal) fun l => ?_
    have := length_vatomOs_le f
    simp only [List.length_map]
    omega
  case event => exact fun s who op f ovft a hm => ⟨rfl, State.store_reads hm who a.place (elBytes f) _⟩
  case step => exact fun s who place op f ovft v swp hm => ⟨rfl, State.store_reads hm who place (accBytes f) _⟩

end Sys2Proof.Machine
end

section
/-!
PROOF. The launch of a group (R15 to R17, R19, R23 to R25, R32, R301): the registers that a pod gives a warp and a Leek thread, the
group that a launch adds, and from them the statement.
-/
namespace Sys2Proof.Machine

/-! ### The registers of a launch -/

theorem vmod_const_getElem {α : Type} {m : Nat} (v : Vector α m) (i : Nat) (x : α) {j : Nat} (hj : j < m) :
    (vmod v i fun _ => x)[j] = if i = j then x else v[j] := by
  by_cases hi : i < m
  · simp [vmod, hi, Vector.getElem_set]
  · have hne : i ≠ j := by omega
    simp [vmod, hi, hne]

/-- A vector whose first elements have been set one after another. -/
theorem foldl_vmod_getElem {α : Type} {m : Nat} (p : Nat → α) (v : Vector α m) (n : Nat) {j : Nat} (hj : j < m) :
    ((List.range n).foldl (fun v i => vmod v i fun _ => p i) v)[j] = if j < n then p j else v[j] := by
  induction n with
  | zero => simp
  | succ n ih =>
    simp only [List.range_succ, List.foldl_append, List.foldl_cons, List.foldl_nil, vmod_const_getElem _ _ _ hj, ih]
    by_cases h : n = j
    · subst h; simp
    · have hlt : j < n + 1 ↔ j < n := by omega
      simp [h, hlt]

theorem ofNat_high_eq_hi32 (x : W64) : BitVec.ofNat 32 (x.toNat / 2 ^ 32) = hi32 x := by
  apply BitVec.eq_of_toNat_eq
  rw [BitVec.toNat_ofNat, hi32, BitVec.extractLsb'_toNat, Nat.shiftRight_eq_div_pow]

section
variable (p : Pod)

theorem Pod.args_getD (i : Fin 8) : p.args.toArray.toList.getD i.val 0 = p.args[i] := by
  simp [List.getD]

theorem Pod.sregs_arg (i : Fin 8) : p.sregs[i.val] = p.args[i] := by
  unfold Pod.sregs
  rw [Vector.getElem_set_ne _ _ (by omega), Vector.getElem_set_ne _ _ (by omega), foldl_vmod_getElem _ _ _ (by omega),
    if_pos i.isLt, p.args_getD]

theorem Pod.sregs_frame : p.sregs[8] = lo32 p.frame ∧ p.sregs[9] = hi32 p.frame := by
  rw [Pod.sregs, ofNat_high_eq_hi32]
  simp

theorem Pod.sregs_rest (i : Fin 64) (h : 10 ≤ i.val) : p.sregs[i] = 0 := by
  show p.sregs[i.val] = 0
  unfold Pod.sregs
  rw [Vector.getElem_set_ne _ _ (by omega), Vector.getElem_set_ne _ _ (by omega), foldl_vmod_getElem _ _ _ i.isLt,
    if_neg (by omega)]
  simp

theorem Pod.gregs_arg (i : Fin 8) : p.gregs[i.val] = zx64 p.args[i] := by
  unfold Pod.gregs
  rw [Vector.getElem_set_ne _ _ (by omega), foldl_vmod_getElem (fun i => zx64 (p.args.toArray.toList.getD i 0)) _ _ (by omega),
    if_pos i.isLt, p.args_getD]

theorem Pod.gregs_frame : p.gregs[8] = p.frame := by
  simp [Pod.gregs]

theorem Pod.gregs_rest (i : Fin 32) (h : 9 ≤ i.val) : p.gregs[i] = 0 := by
  show p.gregs[i.val] = 0
  unfold Pod.gregs
  rw [Vector.getElem_set_ne _ _ (by omega), foldl_vmod_getElem (fun i => zx64 (p.args.toArray.toList.getD i 0)) _ _ i.isLt,
    if_neg (by omega)]
  simp

end

/-- No lane starts with a random state of 0, which would stay 0 (R23, R129). -/
theorem rngSeed_ne_zero (group warp lane : Nat) : rngSeed group warp lane ≠ 0 := by
  unfold rngSeed
  extract_lets x
  split_ifs with h
  · decide
  · exact h

/-! ### The group -/

/-- A launch adds one group, with the launch's warps on the seat's slices and its Leek thread. -/
theorem State.launch_group {s t : State} {c : Context} {l : Launch} {seat : Seat} (h : s.launch c l seat = some t) :
    ∃ g ∈ t.groups, g.uid = s.nextUid ∧ g.desc = l.desc ∧ g.cluster = seat.cluster ∧ g.ctx = l.ctx ∧ g.ended = false ∧
      (∃ now : Nat → Nat, g.warps = (l.warps.zip seat.slices).map fun x =>
        l.pod.warp (now x.2) l.groupId x.1.1 x.2 x.1.2) ∧
      g.leek = seat.leek.map fun i => l.pod.leekThread i l.desc.lkEntry := by
  unfold State.launch at h
  split at h
  · exact absurd h (by simp)
  · obtain rfl := Option.some.inj h
    exact ⟨_, List.mem_append_right _ (List.mem_singleton_self _), rfl, rfl, rfl, rfl, rfl, ⟨_, rfl⟩, rfl⟩

/-- Settles O52: the warps and the Leek thread of the group that the launch adds are those of its pod. -/
theorem launchSetsTheRegisters : Obligations.LaunchSetsTheRegisters := by
  unfold Obligations.LaunchSetsTheRegisters
  intro s t c l seat h
  obtain ⟨g, hg, huid, hdesc, hcluster, hctx, hended, ⟨now, hwarps⟩, hleek⟩ := State.launch_group h
  refine ⟨g, hg, huid, hdesc, hcluster, hctx, hended, ?order, ?index, ?warps, ?leek⟩
  case order =>
    intro hlen
    rw [hwarps, List.map_map, List.map_map]
    exact ⟨List.map_fst_zip hlen.le, List.map_snd_zip hlen.ge⟩
  case index =>
    rw [hleek, Option.map_map]
    exact Option.map_id'
  case warps =>
    intro w hw
    rw [hwarps] at hw
    obtain ⟨⟨⟨id, exec⟩, slice⟩, hx, rfl⟩ := List.mem_map.mp hw
    obtain ⟨hlow, hhigh⟩ := l.pod.sregs_frame
    refine ⟨rfl, List.any_eq_true.mpr ⟨(id, exec), (List.of_mem_zip hx).1, ?numbered⟩, ?masks, ?moduli, l.pod.sregs_arg, hlow, hhigh,
      l.pod.sregs_rest, ?vectors, rfl, rfl, rfl, rfl, rfl, rfl, ?random⟩
    case numbered => simp [Pod.warp, Warp.launch]
    case masks => intro i; simp [Pod.warp, Warp.launch]
    case moduli => intro n i; simp [Pod.warp, Warp.launch]
    case vectors => intro n; simp [Pod.warp, Warp.launch]
    case random =>
      intro i
      have hr : (l.pod.warp (now slice) l.groupId id slice exec).rng[i] = rngSeed l.groupId id i.val := mkLanes_getElem _ i
      exact ⟨hr, fun h => rngSeed_ne_zero _ _ _ (hr.symm.trans h)⟩
  case leek =>
    intro x hx
    rw [hleek] at hx
    obtain ⟨i, -, rfl⟩ := Option.map_eq_some_iff.mp hx
    exact ⟨rfl, l.pod.gregs_arg, l.pod.gregs_frame, l.pod.gregs_rest, rfl, rfl, fun i => by simp [Pod.leekThread],
      fun i => by simp [Pod.leekThread]⟩

end Sys2Proof.Machine
end

section
/-!
PROOF. Encoding: the fields of a word (R33, R35, R36, R39 to R41, R43, R50). For each layout the word that it makes up is a given one
exactly where its fields are that word's, so that one equivalence serves the encoder and the decoder.
-/
namespace Sys2Proof

/-! ### Fields of a word -/

/-- A concatenation is the word of which its parts are the fields. -/
theorem append_eq_iff {n m : Nat} {x : BitVec n} {y : BitVec m} {d : BitVec (n + m)} :
    x ++ y = d ↔ x = d.extractLsb' m n ∧ y = d.extractLsb' 0 m := by
  constructor
  · rintro rfl
    exact ⟨BitVec.extractLsb'_append_eq_left.symm, BitVec.extractLsb'_append_eq_right.symm⟩
  · rintro ⟨rfl, rfl⟩
    rw [BitVec.extractLsb'_append_extractLsb'_eq_extractLsb' (by omega)]
    exact BitVec.extractLsb'_eq_self

/-- A field of a field. -/
theorem extract_extract {k a b c e : Nat} (d : BitVec k) (h : c + e ≤ b) :
    (d.extractLsb' a b).extractLsb' c e = d.extractLsb' (a + c) e := by
  ext i hi
  simp [show c + i < b by omega, Nat.add_assoc]

theorem ofBool_eq_iff {b : Bool} {x : BitVec 1} : BitVec.ofBool b = x ↔ bit x = b := by
  revert b x; decide

theorem pred_eq_iff {p : Fin 8} {x : BitVec 3} : BitVec.ofNat 3 p.val = x ↔ decodePred x = p := by
  revert p x; decide

theorem code_eq_iff {f : Fmt} {x : BitVec 4} : f.code = x ↔ Fmt.ofCode x = f := by
  revert x; cases f <;> decide

theorem encodeSpace_eq_iff {p : Space} {x : BitVec 2} : encodeSpace p = x ↔ decodeSpace x = some p := by
  revert x; cases p <;> decide

theorem ofNat_eq_of_toNat {n k : Nat} {x : BitVec n} (h : x.toNat = k) : BitVec.ofNat n k = x := by
  rw [← h, BitVec.ofNat_toNat, BitVec.setWidth_eq]

/-- Register fields (R35, R36). -/
theorem encodeReg_of_decodeReg {r : Reg} {x : BitVec 10} (h : decodeReg x = some r) : encodeReg r = x := by
  have := x.isLt
  simp only [decodeReg, dite_eq_iff, ite_eq_iff, Option.some.injEq, reduceCtorEq, and_false, or_false, exists_false] at h
  obtain ⟨_, rfl⟩ | ⟨_, ⟨_, _, rfl⟩ | ⟨_, ⟨_, _, rfl⟩ | ⟨_, ⟨_, rfl⟩ | ⟨_, ⟨_, rfl⟩ | ⟨_, ⟨_, rfl⟩ | ⟨_, ⟨_, rfl⟩ | ⟨_, ⟨_, rfl⟩ |
    ⟨_, ⟨_, rfl⟩ | ⟨_, ⟨_, rfl⟩ | ⟨_, _, rfl⟩⟩⟩⟩⟩⟩⟩⟩⟩⟩ := h
  case inl => exact ofNat_eq_of_toNat rfl
  all_goals
    refine ofNat_eq_of_toNat (Eq.symm ?_)
    simp only
    omega

theorem decodeReg_encodeReg (r : Reg) : decodeReg (encodeReg r) = some r := by
  unfold decodeReg
  cases r with
  | zero => simp [encodeReg]
  | imm => simp [encodeReg]
  | v n | s n | latch n | k n | qm n | qb n | ac n | t n | g n =>
    simp (disch := omega) only [encodeReg, BitVec.toNat_ofNat, Nat.mod_eq_of_lt, dif_pos, dif_neg, if_pos, if_neg,
      Nat.add_sub_cancel_left, Nat.add_assoc]

theorem encodeReg_eq_iff {r : Reg} {x : BitVec 10} : encodeReg r = x ↔ decodeReg x = some r :=
  ⟨fun h => h ▸ decodeReg_encodeReg r, encodeReg_of_decodeReg⟩

/-! ### Opcodes (R56) -/

@[simp] theorem LOp.ofCode_code (op : LOp) : LOp.ofCode op.code.toNat = some op := by cases op <;> rfl
@[simp] theorem MOp.ofCode_code (op : MOp) : MOp.ofCode op.code.toNat = some op := by cases op <;> rfl
@[simp] theorem BOp.ofCode_code (op : BOp) : BOp.ofCode op.code.toNat = some op := by cases op <;> rfl
@[simp] theorem BOp.ofCode_lcode (op : LOp) : BOp.ofCode op.code.toNat = none := by cases op <;> rfl
@[simp] theorem MOp.ofCode_lcode (op : LOp) : MOp.ofCode op.code.toNat = none := by cases op <;> rfl
@[simp] theorem BOp.ofCode_mcode (op : MOp) : BOp.ofCode op.code.toNat = none := by cases op <;> rfl

theorem LOp.code_of_ofCode {n : Nat} {op : LOp} (h : LOp.ofCode n = some op) : op.code.toNat = n := by
  unfold LOp.ofCode at h
  split at h <;> cases h <;> rfl

theorem MOp.code_of_ofCode {n : Nat} {op : MOp} (h : MOp.ofCode n = some op) : op.code.toNat = n := by
  unfold MOp.ofCode at h
  split at h <;> cases h <;> rfl

theorem BOp.code_of_ofCode {n : Nat} {op : BOp} (h : BOp.ofCode n = some op) : op.code.toNat = n := by
  unfold BOp.ofCode at h
  split at h <;> cases h <;> rfl

/-! ### Doublewords of each form -/

/-- Form L (R39). -/
theorem encodeLForm_eq_iff {op : BitVec 8} {len : BitVec 2} {f : LForm} {d : W64} : encodeLForm op len f = d ↔
    (f.sub = d.extractLsb' 60 4 ∧ bit (d.extractLsb' 59 1) = f.pneg ∧ decodePred (d.extractLsb' 56 3) = f.pred ∧
      decodeReg (d.extractLsb' 46 10) = some f.src2 ∧ decodeReg (d.extractLsb' 36 10) = some f.src1 ∧
      decodeReg (d.extractLsb' 26 10) = some f.src0 ∧ decodeReg (d.extractLsb' 16 10) = some f.dst ∧
      Fmt.ofCode (d.extractLsb' 12 4) = f.fmt ∧ bit (d.extractLsb' 11 1) = f.nw ∧ bit (d.extractLsb' 10 1) = f.a) ∧
      op = d.extractLsb' 2 8 ∧ len = d.extractLsb' 0 2 := by
  simp only [← ofBool_eq_iff, ← pred_eq_iff, ← encodeReg_eq_iff, ← code_eq_iff]
  unfold encodeLForm
  iterate 11 rw [append_eq_iff]
  simp [extract_extract, and_assoc]

theorem decodeLForm_eq_some_iff {f : LForm} {d : W64} {imm : Option W32} : decodeLForm d imm = some f ↔
    f.imm = imm ∧ encodeLForm (d.extractLsb' 2 8) (d.extractLsb' 0 2) f = d := by
  rw [encodeLForm_eq_iff]
  obtain ⟨sub, pneg, pred, src2, src1, src0, dst, fmt, nw, a, imm'⟩ := f
  simp only [decodeLForm, Option.pure_def, Option.bind_eq_bind, Option.bind_eq_some_iff, Option.some.injEq, LForm.mk.injEq]
  grind

/-- Form M (R43). -/
theorem encodeMForm_eq_iff {op : BitVec 8} {len : BitVec 2} {f : MForm} {d : W64} : encodeMForm op len f = d ↔
    (f.sub = d.extractLsb' 60 4 ∧ bit (d.extractLsb' 59 1) = f.pneg ∧ decodePred (d.extractLsb' 56 3) = f.pred ∧
      decodeSpace (d.extractLsb' 54 2) = some f.space ∧ f.brec = d.extractLsb' 46 8 ∧
      decodeReg (d.extractLsb' 36 10) = some f.index ∧ decodeReg (d.extractLsb' 26 10) = some f.base ∧
      decodeReg (d.extractLsb' 16 10) = some f.data ∧ Fmt.ofCode (d.extractLsb' 12 4) = f.fmt ∧
      bit (d.extractLsb' 11 1) = f.nw ∧ bit (d.extractLsb' 10 1) = f.a) ∧ op = d.extractLsb' 2 8 ∧ len = d.extractLsb' 0 2 := by
  simp only [← ofBool_eq_iff, ← pred_eq_iff, ← encodeReg_eq_iff, ← code_eq_iff, ← encodeSpace_eq_iff]
  unfold encodeMForm
  iterate 12 rw [append_eq_iff]
  simp [extract_extract, and_assoc]

theorem decodeMForm_eq_ok_iff {f : MForm} {d : W64} {off : Option W32} : decodeMForm d off = .ok f ↔
    f.off = off ∧ (f.index ≠ .imm ∧ f.base ≠ .imm ∧ f.data ≠ .imm) ∧
      encodeMForm (d.extractLsb' 2 8) (d.extractLsb' 0 2) f = d := by
  rw [encodeMForm_eq_iff]
  obtain ⟨off', sub, pneg, pred, space, brec, index, base, data, fmt, nw, a⟩ := f
  unfold decodeMForm
  split
  · next hi hb hd hs =>
    simp only [hi, hb, hd, hs]
    split <;> grind
  · grind
  · grind

/-- Form B (R41). -/
theorem encodeBForm_eq_iff {op : BitVec 8} {f : BForm} {d : W64} : encodeBForm op f = d ↔
    decodeBForm d = some f ∧ op = d.extractLsb' 2 8 ∧ 1 = d.extractLsb' 0 2 := by
  have fields : encodeBForm op f = d ↔ ((0 = d.extractLsb' 60 4 ∧ bit (d.extractLsb' 59 1) = f.pneg ∧
      decodePred (d.extractLsb' 56 3) = f.pred ∧ f.offset = d.extractLsb' 32 24 ∧ f.sig16 = d.extractLsb' 16 16 ∧
      0 = d.extractLsb' 11 5 ∧ bit (d.extractLsb' 10 1) = f.u) ∧ op = d.extractLsb' 2 8 ∧ 1 = d.extractLsb' 0 2) := by
    simp only [← ofBool_eq_iff, ← pred_eq_iff]
    unfold encodeBForm
    iterate 8 rw [append_eq_iff]
    simp only [extract_extract, and_assoc, Nat.reduceAdd, Nat.reduceLeDiff]
  rw [fields]
  obtain ⟨pneg, pred, offset, sig16, u⟩ := f
  unfold decodeBForm
  split <;> grind

/-! ### Short words and the repeat word -/

/-- Layout S.B (R40). -/
theorem encodeSb_eq_iff {op : BitVec 8} {off : BitVec 18} {pneg : Bool} {pred : Fin 8} {w : W32} :
    encodeSb op off pneg pred = w ↔ (off = w.extractLsb' 14 18 ∧ bit (w.extractLsb' 13 1) = pneg ∧
      decodePred (w.extractLsb' 10 3) = pred) ∧ op = w.extractLsb' 2 8 ∧ 0 = w.extractLsb' 0 2 := by
  simp only [← ofBool_eq_iff, ← pred_eq_iff]
  unfold encodeSb
  iterate 4 rw [append_eq_iff]
  simp only [extract_extract, and_assoc, Nat.reduceAdd, Nat.reduceLeDiff]

/-- A field of eight bits that numbers a vector register. -/
def vecField (x : BitVec 8) : Fin 256 := ⟨x.toNat, x.isLt⟩

theorem vecField_eq_iff {x : BitVec 8} {n : Fin 256} : vecField x = n ↔ BitVec.ofNat 8 n.val = x := by
  rw [← BitVec.toNat_inj, BitVec.toNat_ofNat, Nat.mod_eq_of_lt n.isLt, Fin.ext_iff, eq_comm]
  rfl

/-- Layout S.R (R40). -/
theorem encodeSr_eq_iff {op : BitVec 8} {imm : BitVec 6} {a d : Fin 256} {w : W32} :
    encodeSr op imm a d = w ↔ (imm = w.extractLsb' 26 6 ∧ vecField (w.extractLsb' 18 8) = a ∧
      vecField (w.extractLsb' 10 8) = d) ∧ op = w.extractLsb' 2 8 ∧ 0 = w.extractLsb' 0 2 := by
  simp only [vecField_eq_iff]
  unfold encodeSr
  iterate 4 rw [append_eq_iff]
  simp only [extract_extract, and_assoc, Nat.reduceAdd, Nat.reduceLeDiff]

/-- The word of a repeat unit (R50). -/
theorem encodeRep_eq_iff {p : RepPrefix} {w : W32} : encodeRep p = w ↔ (0 = w.extractLsb' 14 18 ∧ p.stride = w.extractLsb' 12 2 ∧
    p.step = w.extractLsb' 8 4 ∧ p.count = w.extractLsb' 2 6) ∧ 3 = w.extractLsb' 0 2 := by
  unfold encodeRep
  iterate 4 rw [append_eq_iff]
  simp only [extract_extract, and_assoc, Nat.reduceAdd, Nat.reduceLeDiff]

/-- A doubleword by its two words. -/
theorem dword_eq_iff {d e : W64} : (lo32 d = lo32 e ∧ hi32 d = hi32 e) ↔ d = e := by
  constructor
  · rintro ⟨h0, h1⟩
    rw [← Machine.pair64_lo32_hi32 d, h0, h1, Machine.pair64_lo32_hi32]
  · rintro rfl
    exact ⟨rfl, rfl⟩

end Sys2Proof
end

section
/-!
PROOF. Encoding: the words of an instruction (R33, R39 to R41, R43, R50, R56). By the forms, then by the length class of the first word,
three words decode to an instruction exactly where they begin with its encoding.
-/
namespace Sys2Proof

/-! ### Instructions by their shape -/

/-- The instruction of a shape. -/
def Shape.toInstr : Shape → Instr
  | .l op f => op.toInstr f
  | .m op f => op.toInstr f
  | .b op f => op.toInstr f
  | .sb .nop _ _ _ => .nopShort
  | .sb .bra off pneg pred => .braShort off pneg pred
  | .sb .mark off _ _ => .markShort off
  | .sb .join _ _ _ => .joinShort
  | .sb .exit _ pneg pred => .exitShort pneg pred
  | .sr .add imm a d => .addShort imm a d
  | .sr .mov _ a d => .movShort a d
  | .p r => .rep r
  | .word w => .unassignedOp w

theorem Instr.toInstr_of_shape {i : Instr} {sh : Shape} (h : i.shape = some sh) : sh.toInstr = i := by
  cases i <;> cases h <;> rfl

theorem LOp.shape_toInstr (op : LOp) (f : LForm) : (op.toInstr f).shape = some (.l op f) := by cases op <;> rfl
theorem MOp.shape_toInstr (op : MOp) (f : MForm) : (op.toInstr f).shape = some (.m op f) := by cases op <;> rfl
theorem BOp.shape_toInstr (op : BOp) (f : BForm) : (op.toInstr f).shape = some (.b op f) := by cases op <;> rfl

/-- The short form of an instruction holds what its layout asks for (R40). -/
theorem Instr.legalSb_of_shape {i : Instr} {op : SbOp} {off : BitVec 18} {pneg : Bool} {pred : Fin 8}
    (h : i.shape = some (.sb op off pneg pred)) : legalSb op off pneg pred false = true := by
  cases i <;> cases h <;> rfl

theorem Instr.imm_of_shape {i : Instr} {imm : BitVec 6} {a d : Fin 256} (h : i.shape = some (.sr .mov imm a d)) : imm = 0 := by
  cases i <;> cases h; rfl

theorem Instr.isEvent_eq (i : Instr) : i.isEvent = i.shape.isNone := by cases i <;> rfl

theorem Instr.wf_of_shape {i : Instr} {sh : Shape} (h : i.shape = some sh) :
    i.wf = match sh with
      | .word w => unassignedWord w
      | sh => sh.legal false 256 64 || sh.legal true 256 64 := by
  cases sh <;> simp only [Instr.wf, h]

theorem encode_of_shape {i : Instr} {sh : Shape} (h : i.shape = some sh) : encode i = sh.encode := by
  rw [encode, h]

/-! ### Words of each form -/

/-- The length class of an instruction of 8 bytes, or of 12 with its trailing word (R33). -/
def longClass (imm : Option W32) : BitVec 2 := if imm.isSome then 2 else 1

/-- The words of a doubleword and its trailing word. -/
def longWords (d : W64) (imm : Option W32) : List W32 := lo32 d :: hi32 d :: imm.toList

theorem longWords_eq_iff {d e : W64} {a b : Option W32} : longWords d a = longWords e b ↔ d = e ∧ a = b := by
  rw [← dword_eq_iff]
  cases a <;> cases b <;> simp [longWords, and_assoc]

theorem encode_l (op : LOp) (f : LForm) :
    (Shape.l op f).encode = longWords (encodeLForm op.code (longClass f.imm) f) f.imm := by
  cases h : f.imm <;> simp [Shape.encode, longWords, longClass, h]

theorem encode_m (op : MOp) (f : MForm) :
    (Shape.m op f).encode = longWords (encodeMForm op.code (longClass f.off) f) f.off := by
  cases h : f.off <;> simp [Shape.encode, longWords, longClass, h]

theorem encode_b (op : BOp) (f : BForm) : (Shape.b op f).encode = longWords (encodeBForm op.code f) none := rfl

/-- The opcode that a field names. -/
theorem LOp.code_eq {x : BitVec 8} {op : LOp} (h : LOp.ofCode x.toNat = some op) : op.code = x :=
  BitVec.eq_of_toNat_eq (LOp.code_of_ofCode h)
theorem MOp.code_eq {x : BitVec 8} {op : MOp} (h : MOp.ofCode x.toNat = some op) : op.code = x :=
  BitVec.eq_of_toNat_eq (MOp.code_of_ofCode h)
theorem BOp.code_eq {x : BitVec 8} {op : BOp} (h : BOp.ofCode x.toNat = some op) : op.code = x :=
  BitVec.eq_of_toNat_eq (BOp.code_of_ofCode h)

/-- An instruction of form L, M or B that decodes is encoded in the words that it was decoded from. -/
theorem encode_of_decodeLong {d : W64} {imm : Option W32} {i : Instr} (h : decodeLong d imm = .ok i)
    (hlen : d.extractLsb' 0 2 = longClass imm) : ∃ sh, i.shape = some sh ∧ sh.encode = longWords d imm := by
  cases hb : BOp.ofCode (d.extractLsb' 2 8).toNat with
  | some b =>
    simp only [decodeLong, hb] at h
    cases imm with
    | some w => cases h
    | none =>
      cases hf : decodeBForm d <;> simp [hf] at h
      obtain rfl := h
      exact ⟨_, BOp.shape_toInstr b _, congrArg (longWords · none) (encodeBForm_eq_iff.mpr ⟨hf, BOp.code_eq hb, hlen.symm⟩)⟩
  | none =>
  cases hm : MOp.ofCode (d.extractLsb' 2 8).toNat with
  | some m =>
    simp only [decodeLong, hb, hm] at h
    cases hf : decodeMForm d imm <;> simp [hf, Except.map] at h
    case ok f =>
      obtain rfl := h
      obtain ⟨rfl, -, hd⟩ := decodeMForm_eq_ok_iff.mp hf
      refine ⟨_, MOp.shape_toInstr m f, ?_⟩
      rw [encode_m, MOp.code_eq hm, ← hlen, hd]
  | none =>
  cases hl : LOp.ofCode (d.extractLsb' 2 8).toNat with
  | some l =>
    simp only [decodeLong, hb, hm, hl] at h
    cases hf : decodeLForm d imm <;> simp [hf] at h
    case some f =>
      obtain rfl := h
      obtain ⟨rfl, hd⟩ := decodeLForm_eq_some_iff.mp hf
      refine ⟨_, LOp.shape_toInstr l f, ?_⟩
      rw [encode_l, LOp.code_eq hl, ← hlen, hd]
  | none =>
    simp only [decodeLong, hb, hm, hl] at h
    cases h

/-! The register fields of form M that may name the immediate (R43): none. -/

theorem vdataOk_imm (wide : Bool) (v : Nat) : vdataOk .imm wide v = false := rfl
theorem baseOk_imm (vec leek : Bool) (v s : Nat) : baseOk .imm vec leek v s = false := rfl
theorem sregOk_imm (wide leek : Bool) (s : Nat) : sregOk .imm wide leek s = false := rfl
theorem indexOk_imm (vec leek : Bool) (v s : Nat) : indexOk .imm vec leek v s = false := rfl
theorem imm_beq_zero : (Reg.imm == Reg.zero) = false := rfl

/-- No register field of a legal instruction of form M holds the code of an immediate (R43). -/
theorem MOp.ne_imm_of_regsOk {op : MOp} {f : MForm} {leek : Bool} {v s : Nat} (h : op.regsOk f leek v s = true) :
    f.index ≠ .imm ∧ f.base ≠ .imm ∧ f.data ≠ .imm := by
  refine ⟨fun hi => ?_, fun hi => ?_, fun hi => ?_⟩
  all_goals cases op <;> simp [MOp.regsOk, hi, vdataOk_imm, baseOk_imm, sregOk_imm, indexOk_imm, imm_beq_zero] at h

theorem legalM_ne_imm {op : MOp} {f : MForm} {leek : Bool} {v s : Nat} (h : legalM op f leek v s = true) :
    f.index ≠ .imm ∧ f.base ≠ .imm ∧ f.data ≠ .imm := by
  delta legalM at h
  exact MOp.ne_imm_of_regsOk (Bool.and_eq_true _ _ ▸ h).2

/-- A well-formed instruction decodes from the words of its encoding. -/
theorem decodeLong_of_encode {d : W64} {imm : Option W32} {i : Instr} {sh : Shape} (hs : i.shape = some sh) (hw : i.wf = true)
    (he : sh.encode = longWords d imm) : decodeLong d imm = .ok i := by
  obtain rfl := Instr.toInstr_of_shape hs
  cases sh with
  | l op f =>
    rw [encode_l, longWords_eq_iff] at he
    obtain ⟨hd, rfl⟩ := he
    obtain ⟨-, hop, hlen⟩ := encodeLForm_eq_iff.mp hd
    have hf := decodeLForm_eq_some_iff.mpr ⟨rfl, hop ▸ hlen ▸ hd⟩
    simp only [decodeLong, ← hop, BOp.ofCode_lcode, MOp.ofCode_lcode, LOp.ofCode_code, hf]
    rfl
  | m op f =>
    rw [encode_m, longWords_eq_iff] at he
    obtain ⟨hd, rfl⟩ := he
    obtain ⟨-, hop, hlen⟩ := encodeMForm_eq_iff.mp hd
    have hl : f.index ≠ .imm ∧ f.base ≠ .imm ∧ f.data ≠ .imm := by
      rw [Instr.wf_of_shape hs, Bool.or_eq_true] at hw
      exact hw.elim legalM_ne_imm legalM_ne_imm
    have hf := decodeMForm_eq_ok_iff.mpr ⟨rfl, hl, hop ▸ hlen ▸ hd⟩
    simp only [decodeLong, ← hop, BOp.ofCode_mcode, MOp.ofCode_code, hf]
    rfl
  | b op f =>
    rw [encode_b, longWords_eq_iff] at he
    obtain ⟨hd, rfl⟩ := he
    obtain ⟨hf, hop, -⟩ := encodeBForm_eq_iff.mp hd
    simp only [decodeLong, ← hop, BOp.ofCode_code, hf]
    rfl
  | sb op off pneg pred => cases op <;> simp [Shape.encode, longWords] at he
  | sr op imm a d => cases op <;> simp [Shape.encode, longWords] at he
  | p r => simp [Shape.encode, longWords] at he
  | word w => simp [Shape.encode, longWords] at he

/-! ### Short words -/

/-- The major opcodes of the short layouts (R40). -/
def SbOp.code : SbOp → BitVec 8
  | .nop => 0x00
  | .bra => 0x01
  | .mark => 0x06
  | .join => 0x07
  | .exit => 0x08

def SrOp.code : SrOp → BitVec 8
  | .add => 0x20
  | .mov => 0x3D

theorem encode_sb (op : SbOp) (off : BitVec 18) (pneg : Bool) (pred : Fin 8) :
    (Shape.sb op off pneg pred).encode = [encodeSb op.code off pneg pred] := by cases op <;> rfl

theorem encode_sr (op : SrOp) (imm : BitVec 6) (a d : Fin 256) : (Shape.sr op imm a d).encode = [encodeSr op.code imm a d] := by
  cases op <;> rfl

/-- What a short word with an opcode of layout S.B decodes to. -/
theorem decodeShort_sb {w : W32} {op : SbOp} (h : op.code = w.extractLsb' 2 8) :
    let off := w.extractLsb' 14 18
    let pneg := bit (w.extractLsb' 13 1)
    let pred := decodePred (w.extractLsb' 10 3)
    decodeShort w = if legalSb op off pneg pred false then .ok (Shape.sb op off pneg pred).toInstr else .error .row := by
  unfold decodeShort
  rw [← h]
  cases op <;> rfl

/-- What a short word with an opcode of layout S.R decodes to. -/
theorem decodeShort_sr {w : W32} {op : SrOp} (h : op.code = w.extractLsb' 2 8) :
    let sh : Shape := .sr op (w.extractLsb' 26 6) (vecField (w.extractLsb' 18 8)) (vecField (w.extractLsb' 10 8))
    decodeShort w = if op = .mov → w.extractLsb' 26 6 = 0 then .ok sh.toInstr else .error .row := by
  unfold decodeShort
  rw [← h]
  cases op with
  | add => rfl
  | mov => simp [SrOp.code, Shape.toInstr, vecField]

theorem decodeShort_other {w : W32} (hb : ∀ op : SbOp, op.code ≠ w.extractLsb' 2 8)
    (hr : ∀ op : SrOp, op.code ≠ w.extractLsb' 2 8) :
    decodeShort w = .error .shortForm := by
  unfold decodeShort
  have hb' (op : SbOp) : (w.extractLsb' 2 8).toNat ≠ op.code.toNat := fun h => hb op (BitVec.eq_of_toNat_eq h.symm)
  have hr' (op : SrOp) : (w.extractLsb' 2 8).toNat ≠ op.code.toNat := fun h => hr op (BitVec.eq_of_toNat_eq h.symm)
  dsimp only
  split
  · next h => exact absurd h (hb' .nop)
  · next h => exact absurd h (hb' .bra)
  · next h => exact absurd h (hb' .mark)
  · next h => exact absurd h (hb' .join)
  · next h => exact absurd h (hb' .exit)
  · next h => exact absurd h (hr' .add)
  · next h => exact absurd h (hr' .mov)
  · rfl

/-- A legal short shape is the shape of its instruction. -/
theorem shape_of_legalSb {op : SbOp} {off : BitVec 18} {pneg : Bool} {pred : Fin 8} (h : legalSb op off pneg pred false = true) :
    (Shape.sb op off pneg pred).toInstr.shape = some (.sb op off pneg pred) := by
  cases op <;> simp [legalSb] at h <;> simp [Shape.toInstr, Instr.shape, h]

theorem shape_of_sr {op : SrOp} {imm : BitVec 6} {a d : Fin 256} (h : op = .mov → imm = 0) :
    (Shape.sr op imm a d).toInstr.shape = some (.sr op imm a d) := by
  cases op with
  | add => rfl
  | mov => rw [h rfl]; rfl

/-- A short word that decodes is the encoding of its instruction. -/
theorem encode_of_decodeShort {w : W32} {i : Instr} (h : decodeShort w = .ok i) (hlen : w.extractLsb' 0 2 = 0) :
    ∃ sh, i.shape = some sh ∧ sh.encode = [w] := by
  by_cases hb : ∃ op : SbOp, op.code = w.extractLsb' 2 8
  · obtain ⟨op, hop⟩ := hb
    rw [decodeShort_sb hop] at h
    split at h
    · next hl =>
      cases h
      refine ⟨_, shape_of_legalSb hl, ?_⟩
      rw [encode_sb, encodeSb_eq_iff.mpr ⟨⟨rfl, rfl, rfl⟩, hop, hlen.symm⟩]
    · cases h
  by_cases hr : ∃ op : SrOp, op.code = w.extractLsb' 2 8
  · obtain ⟨op, hop⟩ := hr
    rw [decodeShort_sr hop] at h
    split at h
    · next hl =>
      cases h
      refine ⟨_, shape_of_sr hl, ?_⟩
      rw [encode_sr, encodeSr_eq_iff.mpr ⟨⟨rfl, rfl, rfl⟩, hop, hlen.symm⟩]
    · cases h
  rw [decodeShort_other (not_exists.mp hb) (not_exists.mp hr)] at h
  cases h

/-- A short form decodes from its word. -/
theorem decodeShort_of_sb {w : W32} {i : Instr} {op : SbOp} {off : BitVec 18} {pneg : Bool} {pred : Fin 8}
    (hs : i.shape = some (.sb op off pneg pred)) (he : encodeSb op.code off pneg pred = w) : decodeShort w = .ok i := by
  obtain ⟨⟨rfl, rfl, rfl⟩, hop, -⟩ := encodeSb_eq_iff.mp he
  rw [decodeShort_sb hop, if_pos (Instr.legalSb_of_shape hs), Instr.toInstr_of_shape hs]

theorem decodeShort_of_sr {w : W32} {i : Instr} {op : SrOp} {imm : BitVec 6} {a d : Fin 256}
    (hs : i.shape = some (.sr op imm a d)) (he : encodeSr op.code imm a d = w) : decodeShort w = .ok i := by
  obtain ⟨⟨rfl, rfl, rfl⟩, hop, -⟩ := encodeSr_eq_iff.mp he
  have hl : op = .mov → w.extractLsb' 26 6 = 0 := fun h => Instr.imm_of_shape (h ▸ hs)
  rw [decodeShort_sr hop, if_pos hl, Instr.toInstr_of_shape hs]

/-! ### The first three words -/

theorem unassignedWord_iff {w : W32} : unassignedWord w = true ↔ w.extractLsb' 0 2 ≠ 3 ∧
    LOp.ofCode (w.extractLsb' 2 8).toNat = none ∧ MOp.ofCode (w.extractLsb' 2 8).toNat = none ∧
      BOp.ofCode (w.extractLsb' 2 8).toNat = none := by
  simp [unassignedWord, ← BitVec.toNat_inj, and_assoc]

/-- The first word of a doubleword keeps its opcode and length class. -/
theorem lo32_extract {d : W64} {a b : Nat} (h : a + b ≤ 32) : (lo32 d).extractLsb' a b = d.extractLsb' a b := by
  rw [lo32, extract_extract d h, Nat.zero_add]

/-- Two words are those of the doubleword that they make up. -/
theorem longWords_append (w0 w1 : W32) (imm : Option W32) : longWords (w1 ++ w0) imm = w0 :: w1 :: imm.toList := by
  obtain ⟨h1, h0⟩ := append_eq_iff.mp (rfl : w1 ++ w0 = w1 ++ w0)
  simp only [longWords, lo32, hi32, ← h0, ← h1]

/-- A word that begins an encoding of an assigned instruction has an assigned opcode, or is a repeat word. -/
theorem assigned_of_encode {sh : Shape} {w : W32} {ws : List W32} (hn : ∀ w, sh ≠ .word w) (he : sh.encode <+: w :: ws) :
    unassignedWord w = false := by
  rw [Bool.eq_false_iff, Ne, unassignedWord_iff]
  rintro ⟨h3, hl, hm, hb⟩
  cases sh with
  | l op f =>
    rw [encode_l] at he
    obtain ⟨-, hop, -⟩ := encodeLForm_eq_iff.mp (rfl : encodeLForm op.code (longClass f.imm) f = _)
    obtain ⟨rfl, -⟩ := List.cons_prefix_cons.mp he
    rw [lo32_extract (by decide), ← hop, LOp.ofCode_code] at hl
    cases hl
  | m op f =>
    rw [encode_m] at he
    obtain ⟨-, hop, -⟩ := encodeMForm_eq_iff.mp (rfl : encodeMForm op.code (longClass f.off) f = _)
    obtain ⟨rfl, -⟩ := List.cons_prefix_cons.mp he
    rw [lo32_extract (by decide), ← hop, MOp.ofCode_code] at hm
    cases hm
  | b op f =>
    rw [encode_b] at he
    obtain ⟨-, hop, -⟩ := encodeBForm_eq_iff.mp (rfl : encodeBForm op.code f = _)
    obtain ⟨rfl, -⟩ := List.cons_prefix_cons.mp he
    rw [lo32_extract (by decide), ← hop, BOp.ofCode_code] at hb
    cases hb
  | sb op off pneg pred =>
    rw [encode_sb] at he
    obtain ⟨-, hop, -⟩ := encodeSb_eq_iff.mp (List.cons_prefix_cons.mp he).1
    rw [← hop] at hl hb
    cases op
    case nop => cases hl
    all_goals cases hb
  | sr op imm a d =>
    rw [encode_sr] at he
    obtain ⟨-, hop, -⟩ := encodeSr_eq_iff.mp (List.cons_prefix_cons.mp he).1
    rw [← hop] at hl
    cases op <;> cases hl
  | p r => exact h3 (encodeRep_eq_iff.mp (List.cons_prefix_cons.mp he).1).2.symm
  | word w => exact hn w rfl

/-- What the length class of a first word makes of it and the next two. -/
theorem decodeRaw_short {w0 w1 w2 : W32} (h : w0.extractLsb' 0 2 = 0) (hu : unassignedWord w0 = false) :
    decodeRaw w0 w1 w2 = decodeShort w0 := by
  simp only [decodeRaw, hu, h]; rfl
theorem decodeRaw_long {w0 w1 w2 : W32} {imm : Option W32} (h : w0.extractLsb' 0 2 = longClass imm) (hi : imm = none ∨ imm = some w2)
    (hu : unassignedWord w0 = false) : decodeRaw w0 w1 w2 = decodeLong (w1 ++ w0) imm := by
  obtain rfl | rfl := hi <;> (simp only [decodeRaw, hu, h]; rfl)
theorem decodeRaw_rep {w0 w1 w2 : W32} (h : w0.extractLsb' 0 2 = 3) (hu : unassignedWord w0 = false) :
    decodeRaw w0 w1 w2 = decodeRep w0 := by
  simp only [decodeRaw, hu, h]; rfl
theorem decodeRaw_unassigned {w0 w1 w2 : W32} (hu : unassignedWord w0 = true) : decodeRaw w0 w1 w2 = .ok (.unassignedOp w0) := by
  simp only [decodeRaw, hu]; rfl

/-- The four length classes (R33). -/
theorem lengthClass_cases (w w2 : W32) : w.extractLsb' 0 2 = 0 ∨
    (∃ imm, (imm = none ∨ imm = some w2) ∧ w.extractLsb' 0 2 = longClass imm) ∨ w.extractLsb' 0 2 = 3 := by
  have : ∀ c : BitVec 2, c = 0 ∨ c = 1 ∨ c = 2 ∨ c = 3 := by decide
  obtain h | h | h | h := this (w.extractLsb' 0 2)
  · exact .inl h
  · exact .inr (.inl ⟨none, .inl rfl, h⟩)
  · exact .inr (.inl ⟨some w2, .inr rfl, h⟩)
  · exact .inr (.inr h)

/-- What decodes from three words is encoded in the first of them. -/
theorem encode_of_decodeRaw {w0 w1 w2 : W32} {i : Instr} (h : decodeRaw w0 w1 w2 = .ok i) :
    ∃ sh, i.shape = some sh ∧ sh.encode <+: [w0, w1, w2] := by
  cases hu : unassignedWord w0 with
  | true =>
    rw [decodeRaw_unassigned hu] at h
    cases h
    exact ⟨.word w0, rfl, _, rfl⟩
  | false =>
    obtain hc | ⟨imm, hi, hc⟩ | hc := lengthClass_cases w0 w2
    · rw [decodeRaw_short hc hu] at h
      obtain ⟨sh, hs, he⟩ := encode_of_decodeShort h hc
      exact ⟨sh, hs, he ▸ ⟨_, rfl⟩⟩
    · rw [decodeRaw_long hc hi hu] at h
      have hd : (w1 ++ w0).extractLsb' 0 2 = longClass imm := by
        obtain ⟨-, h0⟩ := append_eq_iff.mp (rfl : w1 ++ w0 = w1 ++ w0)
        rw [← hc, ← lo32_extract (by decide), lo32, ← h0]
      obtain ⟨sh, hs, he⟩ := encode_of_decodeLong h hd
      refine ⟨sh, hs, ?_⟩
      rw [he, longWords_append]
      obtain rfl | rfl := hi <;> exact ⟨_, rfl⟩
    · rw [decodeRaw_rep hc hu] at h
      unfold decodeRep at h
      dsimp only at h
      split at h
      · next hp =>
        cases h
        have h0 : w0.extractLsb' 14 18 = 0 := eq_of_beq (Bool.and_eq_true _ _ ▸ hp).1
        refine ⟨_, rfl, ?_⟩
        exact ⟨[w1, w2], congrArg (· :: _) (encodeRep_eq_iff.mpr ⟨⟨h0.symm, rfl, rfl, rfl⟩, hc.symm⟩)⟩
      · cases h

theorem longWords_prefix_iff {d : W64} {imm : Option W32} {w0 w1 w2 : W32} :
    longWords d imm <+: [w0, w1, w2] ↔ d = w1 ++ w0 ∧ (imm = none ∨ imm = some w2) := by
  rw [eq_comm, append_eq_iff]
  cases imm <;> simp [longWords, lo32, hi32, List.cons_prefix_cons, eq_comm, and_comm, and_left_comm]

/-- A well-formed instruction of form L, M or B decodes from the words of its encoding. -/
theorem decodeRaw_of_long {w0 w1 w2 : W32} {i : Instr} {sh : Shape} {d : W64} {imm : Option W32} (hs : i.shape = some sh)
    (hw : i.wf = true) (hu : unassignedWord w0 = false) (hd : sh.encode = longWords d imm) (hc : longClass imm = d.extractLsb' 0 2)
    (he : sh.encode <+: [w0, w1, w2]) : decodeRaw w0 w1 w2 = .ok i := by
  rw [hd, longWords_prefix_iff] at he
  obtain ⟨rfl, hi⟩ := he
  have h0 : w0 = (w1 ++ w0).extractLsb' 0 32 := (append_eq_iff.mp rfl).2
  rw [decodeRaw_long (by rw [hc, ← lo32_extract (by decide), lo32, ← h0]) hi hu, decodeLong_of_encode hs hw hd]

/-- A well-formed instruction decodes from three words that begin with its encoding. -/
theorem decodeRaw_of_encode {w0 w1 w2 : W32} {i : Instr} {sh : Shape} (hs : i.shape = some sh) (hw : i.wf = true)
    (he : sh.encode <+: [w0, w1, w2]) : decodeRaw w0 w1 w2 = .ok i := by
  have hu (hn : ∀ w, sh ≠ .word w) : unassignedWord w0 = false := assigned_of_encode hn he
  cases sh with
  | l op f =>
    obtain ⟨-, -, hc⟩ := encodeLForm_eq_iff.mp (rfl : encodeLForm op.code (longClass f.imm) f = _)
    exact decodeRaw_of_long hs hw (hu nofun) (encode_l op f) hc he
  | m op f =>
    obtain ⟨-, -, hc⟩ := encodeMForm_eq_iff.mp (rfl : encodeMForm op.code (longClass f.off) f = _)
    exact decodeRaw_of_long hs hw (hu nofun) (encode_m op f) hc he
  | b op f =>
    obtain ⟨-, -, hc⟩ := encodeBForm_eq_iff.mp (rfl : encodeBForm op.code f = _)
    exact decodeRaw_of_long hs hw (hu nofun) (encode_b op f) hc he
  | sb op off pneg pred =>
    have hw0 : encodeSb op.code off pneg pred = w0 := by
      rw [encode_sb, List.cons_prefix_cons] at he
      exact he.1
    rw [decodeRaw_short (encodeSb_eq_iff.mp hw0).2.2.symm (hu nofun), decodeShort_of_sb hs hw0]
  | sr op imm a d =>
    have hw0 : encodeSr op.code imm a d = w0 := by
      rw [encode_sr, List.cons_prefix_cons] at he
      exact he.1
    rw [decodeRaw_short (encodeSr_eq_iff.mp hw0).2.2.symm (hu nofun), decodeShort_of_sr hs hw0]
  | p r =>
    obtain ⟨⟨h14, hst, hsp, hco⟩, hc⟩ := encodeRep_eq_iff.mp (List.cons_prefix_cons.mp he).1
    have hp : r.step ≠ 0 := by
      rw [Instr.wf_of_shape hs] at hw
      simpa [Shape.legal] using hw
    obtain rfl := Instr.toInstr_of_shape hs
    rw [decodeRaw_rep hc.symm (hu nofun), decodeRep]
    simpa [← h14, ← hst, ← hsp, ← hco, Shape.toInstr] using hp
  | word w =>
    obtain rfl := (List.cons_prefix_cons.mp he).1
    obtain rfl := Instr.toInstr_of_shape hs
    rw [decodeRaw_unassigned ((Instr.wf_of_shape hs).symm.trans hw)]
    rfl

/-- DECODING AND ENCODING: three words decode to an instruction exactly where it is well-formed and they begin with its words. -/
theorem decodeWords_eq_ok_iff {w0 w1 w2 : W32} {i : Instr} : decodeWords w0 w1 w2 = .ok i ↔
    i.isEvent = false ∧ i.wf = true ∧ encode i <+: [w0, w1, w2] := by
  unfold decodeWords
  constructor
  · intro h
    cases hr : decodeRaw w0 w1 w2 with
    | error e => rw [hr] at h; cases h
    | ok j =>
      obtain ⟨sh, hs, he⟩ := encode_of_decodeRaw hr
      rw [hr] at h
      obtain ⟨hw, hj⟩ | ⟨-, hj⟩ := ite_eq_iff.mp h <;> cases hj
      exact ⟨by rw [Instr.isEvent_eq, hs]; rfl, hw, encode_of_shape hs ▸ he⟩
  · rintro ⟨hi, hw, he⟩
    rw [Instr.isEvent_eq, Option.isNone_eq_false_iff, Option.isSome_iff_exists] at hi
    obtain ⟨sh, hs⟩ := hi
    simp [decodeRaw_of_encode hs hw (encode_of_shape hs ▸ he), hw]

end Sys2Proof
end

section
/-!
PROOF. Encoding: the bytes of an instruction (R5, R33), and from the law on words the statements.
-/
namespace Sys2Proof

open Machine

/-! ### Bytes of words (R5) -/

theorem ofBytesLE_toBytesLE (n x : Nat) : ofBytesLE (toBytesLE n x) = x % 256 ^ n := by
  induction n generalizing x with
  | zero => simp [toBytesLE, ofBytesLE, Nat.mod_one]
  | succ n ih => rw [toBytesLE, ofBytesLE, ih, BitVec.toNat_ofNat, show (2 : Nat) ^ 8 = 256 from rfl, pow_succ', Nat.mod_mul (a := 256)]

theorem ofBytesLE_append_lt (bs : List Byte) : ofBytesLE bs < 256 ^ bs.length := by
  induction bs with
  | nil => decide
  | cons b bs ih =>
    have := b.isLt
    rw [ofBytesLE, List.length_cons, pow_succ']
    omega

theorem toBytesLE_ofBytesLE (bs : List Byte) : toBytesLE bs.length (ofBytesLE bs) = bs := by
  induction bs with
  | nil => rfl
  | cons b bs ih =>
    have hb := b.isLt
    have h0 : BitVec.ofNat 8 (b.toNat + 256 * ofBytesLE bs) = b := by
      apply BitVec.eq_of_toNat_eq
      rw [BitVec.toNat_ofNat]
      omega
    have h1 : (b.toNat + 256 * ofBytesLE bs) / 256 = ofBytesLE bs := by omega
    rw [List.length_cons, ofBytesLE, toBytesLE, h0, h1, ih]

@[simp] theorem length_bytesOfWord (w : W32) : (bytesOfWord w).length = 4 := length_toBytesLE 4 w.toNat

theorem wordOfBytes_bytesOfWord (w : W32) (bs : List Byte) : wordOfBytes (bytesOfWord w ++ bs) = w := by
  rw [wordOfBytes, List.take_left' (length_bytesOfWord w), bytesOfWord, ofBytesLE_toBytesLE, Nat.mod_eq_of_lt (b := 256 ^ 4) w.isLt,
    BitVec.ofNat_toNat, BitVec.setWidth_eq]

theorem bytesOfWord_wordOfBytes {bs : List Byte} (h : 4 ≤ bs.length) : bytesOfWord (wordOfBytes bs) = bs.take 4 := by
  have hl : (bs.take 4).length = 4 := by simp [h]
  have hlt := ofBytesLE_append_lt (bs.take 4)
  have hb := toBytesLE_ofBytesLE (bs.take 4)
  rw [hl] at hb hlt
  rw [bytesOfWord, wordOfBytes, BitVec.toNat_ofNat, Nat.mod_eq_of_lt (b := 2 ^ 32) hlt, hb]

/-- A word stands at the start of bytes exactly where its bytes do. -/
theorem wordOfBytes_eq_iff {bs : List Byte} {w : W32} (h : 4 ≤ bs.length) :
    wordOfBytes bs = w ↔ bs = bytesOfWord w ++ bs.drop 4 := by
  constructor
  · rintro rfl
    rw [bytesOfWord_wordOfBytes h, List.take_append_drop]
  · intro hb
    rw [hb, wordOfBytes_bytesOfWord]

/-- The first words of some bytes. -/
def wordsOf : Nat → List Byte → List W32
  | 0, _ => []
  | n + 1, bs => wordOfBytes bs :: wordsOf n (bs.drop 4)

/-- Words stand at the start of bytes exactly where their bytes do. -/
theorem prefix_wordsOf_iff {bs : List Byte} {ws : List W32} {n : Nat} (h : 4 * ws.length ≤ bs.length) (hn : ws.length ≤ n) :
    ws <+: wordsOf n bs ↔ bs = ws.flatMap bytesOfWord ++ bs.drop (4 * ws.length) := by
  induction ws generalizing bs n with
  | nil => simp
  | cons w ws ih =>
    rw [List.length_cons] at h hn
    obtain ⟨n, rfl⟩ := Nat.exists_eq_add_of_lt (Nat.zero_lt_of_lt hn)
    have hd : 4 * ws.length ≤ (bs.drop 4).length := by
      rw [List.length_drop]
      omega
    rw [Nat.zero_add, wordsOf, List.cons_prefix_cons, eq_comm, wordOfBytes_eq_iff (by omega), ih hd (by omega), List.flatMap_cons,
      List.drop_drop, List.length_cons, Nat.mul_succ, List.append_assoc, Nat.add_comm 4]
    constructor
    · rintro ⟨h0, h1⟩
      rwa [← h1]
    · intro hb
      have h4 := congrArg (List.drop 4) hb
      rw [List.drop_left' (length_bytesOfWord w)] at h4
      exact ⟨h4 ▸ hb, h4⟩

/-- What the decoder does with enough bytes (R33). -/
theorem decode_eq_ok_iff {bs rest : List Byte} {i : Instr} : decode bs = .ok (i, rest) ↔ 4 ≤ bs.length ∧
    lengthOf (wordOfBytes bs) ≤ bs.length ∧ (i.isEvent = false ∧ i.wf = true ∧ encode i <+: wordsOf 3 bs) ∧
      rest = bs.drop (lengthOf (wordOfBytes bs)) := by
  have hw : wordsOf 3 bs = [wordOfBytes bs, wordOfBytes (bs.drop 4), wordOfBytes (bs.drop 8)] := by
    simp [wordsOf, List.drop_drop]
  rw [hw, ← decodeWords_eq_ok_iff]
  unfold decode
  dsimp only
  split
  · simp; omega
  split
  · simp; omega
  cases decodeWords (wordOfBytes bs) (wordOfBytes (bs.drop 4)) (wordOfBytes (bs.drop 8)) with
  | error e => simp
  | ok j =>
    simp only [Except.ok.injEq, Prod.mk.injEq, eq_comm (a := rest)]
    exact ⟨fun h => ⟨by omega, by omega, h⟩, fun h => h.2.2⟩

/-! ### The length of an encoding -/

/-- The first word's length class counts the words of a shape; of an unassigned opcode only the first is kept. -/
theorem Shape.whole {sh : Shape} (h : ∀ w, sh ≠ .word w) : Laws.EncodesWhole.Whole sh := by
  cases sh with
  | l op f => exact Laws.EncodesWhole.whole_l op f
  | m op f => exact Laws.EncodesWhole.whole_m op f
  | b op f => exact Laws.EncodesWhole.whole_b op f
  | sb op off pneg pred => exact Laws.EncodesWhole.whole_sb op off pneg pred
  | sr op imm a d => exact Laws.EncodesWhole.whole_sr op imm a d
  | p r => exact Laws.EncodesWhole.whole_p r
  | word w => exact absurd rfl (h w)

theorem Shape.encode_ne_nil (sh : Shape) : sh.encode ≠ [] := by
  cases sh with
  | l op f => rw [encode_l]; nofun
  | m op f => rw [encode_m]; nofun
  | sb op off pneg pred => rw [encode_sb]; nofun
  | sr op imm a d => rw [encode_sr]; nofun
  | b op f => nofun
  | p r => nofun
  | word w => nofun

theorem lengthOf_mem (w : W32) : lengthOf w = 4 ∨ lengthOf w = 8 ∨ lengthOf w = 12 := by
  unfold lengthOf
  split <;> simp

/-- The words of an assigned instruction are at most three, as many as the length class of the first says. -/
theorem encode_length {i : Instr} (hi : i.isEvent = false) (hn : ∀ w, i ≠ .unassignedOp w) :
    ∃ w ws, encode i = w :: ws ∧ lengthOf w = 4 * (encode i).length ∧ (encode i).length ≤ 3 := by
  rw [Instr.isEvent_eq, Option.isNone_eq_false_iff, Option.isSome_iff_exists] at hi
  obtain ⟨sh, hs⟩ := hi
  have hx : ∀ w, sh ≠ .word w := fun w h => hn w (Instr.toInstr_of_shape (h ▸ hs)).symm
  obtain ⟨w, ws, he⟩ := List.exists_cons_of_ne_nil sh.encode_ne_nil
  have hl := Shape.whole hx w ws he
  have := lengthOf_mem w
  rw [encode_of_shape hs, he, List.length_cons]
  exact ⟨w, ws, rfl, hl, by omega⟩

theorem length_words (ws : List W32) : (ws.flatMap bytesOfWord).length = 4 * ws.length := by
  induction ws with
  | nil => rfl
  | cons w ws ih =>
    rw [List.flatMap_cons, List.length_append, ih, length_bytesOfWord, List.length_cons]
    omega

/-! ### The statements -/

/-- The bytes of a well-formed instruction, and as many more as its first word asks for, decode to it. -/
theorem decode_encodeBytes {i : Instr} {w : W32} {ws : List W32} (hi : i.isEvent = false) (hw : i.wf = true)
    (he : encode i = w :: ws) (h3 : (encode i).length ≤ 3) (rest : List Byte)
    (hl : lengthOf w ≤ 4 * (encode i).length + rest.length) :
    decode (encodeBytes i ++ rest) = .ok (i, (encodeBytes i ++ rest).drop (lengthOf w)) := by
  have hlen : (encodeBytes i).length = 4 * (encode i).length := length_words _
  have h4 : 4 ≤ (encodeBytes i ++ rest).length := by
    rw [List.length_append, hlen, he, List.length_cons]
    omega
  have hp : encode i <+: wordsOf 3 (encodeBytes i ++ rest) := by
    rw [prefix_wordsOf_iff (by rw [List.length_append]; omega) h3, List.drop_left' hlen, encodeBytes]
  have h0 : wordOfBytes (encodeBytes i ++ rest) = w := by
    rw [he] at hp
    exact (List.cons_prefix_cons.mp hp).1.symm
  rw [decode_eq_ok_iff, h0]
  exact ⟨h4, by rw [List.length_append]; omega, ⟨hi, hw, hp⟩, rfl⟩

/-- So of an unassigned opcode, of which only the first word is kept. -/
theorem decode_unassigned {w : W32} (hw : unassignedWord w = true) {rest : List Byte} (hl : lengthOf w ≤ 4 + rest.length) :
    decode (bytesOfWord w ++ rest) = .ok (.unassignedOp w, rest.drop (lengthOf w - 4)) := by
  have hb : encodeBytes (.unassignedOp w) = bytesOfWord w := List.append_nil _
  have h := decode_encodeBytes (i := .unassignedOp w) rfl hw rfl (Nat.le_of_lt (by decide : 1 < 3)) rest hl
  have h4 : 4 ≤ lengthOf w := by
    have := lengthOf_mem w
    omega
  rw [hb] at h
  rw [h, List.drop_append, List.drop_eq_nil_of_le (by rw [length_bytesOfWord]; exact h4), length_bytesOfWord, List.nil_append]

/-- Settles O1: the words of the encoding are the first of the bytes, and as many as the first word's length class says. -/
theorem decodingGivesBackWhatWasEncoded : Obligations.DecodingGivesBackWhatWasEncoded := by
  unfold Obligations.DecodingGivesBackWhatWasEncoded
  intro i rest hi hw
  split
  · next w =>
    intro hl
    have hb : encodeBytes (.unassignedOp w) = bytesOfWord w := List.append_nil _
    rw [hb]
    exact decode_unassigned hw hl
  · next hn =>
    obtain ⟨w, ws, he, hl, h3⟩ := encode_length hi hn
    rw [decode_encodeBytes hi hw he h3 rest (by omega),
      List.drop_left' (i := lengthOf w) (l₁ := encodeBytes i) ((length_words _).trans hl.symm)]

/-- Settles O2: the decoder's answer is read off the first words of the bytes, which are then the bytes of its encoding. -/
theorem eachInstructionHasOneEncoding : Obligations.EachInstructionHasOneEncoding := by
  unfold Obligations.EachInstructionHasOneEncoding
  refine ⟨fun bytes rest i h => ?one, fun w rest hw => ?unassigned⟩
  case one =>
    obtain ⟨h4, hl, ⟨hi, hw, hp⟩, rfl⟩ := decode_eq_ok_iff.mp h
    refine ⟨hi, hw, ?_⟩
    by_cases hn : ∃ w, i = .unassignedOp w
    · obtain ⟨w, rfl⟩ := hn
      have h0 : w = wordOfBytes bytes := (List.cons_prefix_cons.mp hp).1
      exact .inl ⟨w, rfl, h0 ▸ (bytesOfWord_wordOfBytes h4).symm⟩
    · obtain ⟨w, ws, he, hlen, h3⟩ := encode_length hi (not_exists.mp hn)
      have h0 : w = wordOfBytes bytes := (List.cons_prefix_cons.mp (he ▸ hp)).1
      rw [← h0] at hl ⊢
      rw [hlen] at hl ⊢
      exact .inr ((prefix_wordsOf_iff hl h3).mp hp)
  case unassigned =>
    split
    · next hl =>
      have h0 := wordOfBytes_bytesOfWord w rest
      simp only [decode, h0, List.length_append, length_bytesOfWord, hl, if_true, ite_self]
    · next hl => exact decode_unassigned hw (by omega)

/-- Settles O60: each word is evaluated. -/
theorem specWordsDecode : Obligations.SpecWordsDecode := by
  unfold Obligations.SpecWordsDecode
  intro l m
  exact ⟨rfl, rfl, rfl, rfl, rfl, rfl, rfl, rfl, rfl, rfl⟩

end Sys2Proof
end

section
/-!
PROOF. How an issue ends (R49, R54, R55, R243 to R246): the entry of the handler, the completion of a control instruction, and the kill
of a warp whose check value is wrong. One lemma for each, over the effect of the meaning.
-/
namespace Sys2Proof.Machine

open Sys2Proof.Says

/-! ### Taking an exception -/

/-- An append is its first part shifted and the second added. -/
theorem toNat_append_eq_add {m n : Nat} (x : BitVec m) (y : BitVec n) : (x ++ y).toNat = x.toNat * 2 ^ n + y.toNat := by
  rw [BitVec.toNat_append, ← Nat.shiftLeft_add_eq_or_of_lt y.isLt, Nat.shiftLeft_eq]

theorem Cause.code_lt (x : Cause) : x.code < 256 := by cases x <;> decide

/-- TSW as a fault produces it in normal mode is the word of its fields (R245). -/
theorem Stop.tsw_true (p : Stop) : p.tsw true = trapWordAt p.pneg p.pred p.iter (BitVec.ofNat 8 p.cause.code) := by
  have hc := p.cause.code_lt
  have hw : (if p.pneg = true then 8388608 else 0 : Nat) = p.pneg.toNat * 8388608 := by cases p.pneg <;> rfl
  apply BitVec.eq_of_toNat_eq
  simp only [trapWordAt, Stop.tsw, toNat_append_eq_add, BitVec.toNat_ofNat, BitVec.toNat_ofBool, if_true, Nat.reducePow, hw,
    Nat.mod_eq_of_lt hc]
  have hb := p.pneg.toNat_lt
  omega

section
variable {s t : State} {c : Context} {g : Group} {w : Warp} {sh : Shape} {wb : Env → Effect} {lb : LeekEnv → Effect}

/-- A fault in normal mode enters the handler, where there is one (R243, R244). -/
theorem State.takeFault_enters (hn : w.trapMode = false) (hb : c.trapBase ≠ 0) (p : Stop) :
    s.takeFault c g w p = enters s c g w (trapWordAt p.pneg p.pred p.iter (BitVec.ofNat 8 p.cause.code)) p.addr p.lanes p.tpc := by
  simp only [State.takeFault, hn, hb, if_false, Bool.false_eq_true, enters, ← Stop.tsw_true]
  rfl

/-- A program fault other than TRAP enters the handler, at the instruction's own address. -/
theorem WarpIssues.traps {cause : Cause} {addr : W64} {lanes : Mask} (h : WarpIssues s c g w sh) (hn : w.trapMode = false)
    (hb : c.trapBase ≠ 0) (ht : cause ≠ .trap) (e : wb (envOf s c g w sh) = .fault cause addr lanes) :
    issue sh s wb lb = .next (trapsWith s c g w sh (BitVec.ofNat 8 cause.code) addr lanes w.pc) := by
  rw [h.fault e, State.takeFault_enters hn hb, if_neg ht]
  rfl

/-! ### Control instructions -/

/-- A control instruction completes at its next address, its stack bytes hashed. -/
theorem WarpIssues.flow {pc : W64} {marks : List Byte} (h : WarpIssues s c g w sh)
    (e : wb (envOf s c g w sh) = .flow t pc marks) : issue sh s wb lb = .next (flowsTo t c g w sh pc marks) := by
  rw [h.issue_eq, e]
  simp only [State.finishWarp, State.retire, h.sig, rolledBack_calm h.calm]
  rfl

end

end Sys2Proof.Machine

namespace Sys2Proof.Says

open Sys2Proof.Machine

section
variable {s t : State} {c : Context} {g : Group} {w : Warp} {sh : Shape} {wb : Env → Effect} {lb : LeekEnv → Effect}

/-! ### A check value that differs (R55) -/

theorem Mismatch.sigBad (h : Mismatch s c g w sh) : w.sigBad (issueOf sh w) = true := by
  have hv : ¬sh.sig16 = 0#16 := h.value
  simp [Warp.sigBad, issueOf, h.normal, hv, h.wrong]

theorem Mismatch.issue_eq (h : Mismatch s c g w sh) :
    issue sh s wb lb = .next (s.finishWarp c g w (issueOf sh w) (wb (envOf s c g w sh))) := by
  have hm : sh.modeOk w.trapMode c.system = true := h.normal ▸ h.mode
  have he : warpEffect sh (envOf s c g w sh) wb = wb (envOf s c g w sh) := by
    simp [warpEffect, envOf, Env.mk', h.calm, h.legal, hm]
  simp only [issue, h.issuer, envOf] at he ⊢
  rw [he]

/-- A control instruction whose check value differs kills its warp. -/
theorem Mismatch.flow {pc : W64} {marks : List Byte} (h : Mismatch s c g w sh)
    (e : wb (envOf s c g w sh) = .flow t pc marks) : issue sh s wb lb = .next (killedBy t c g w sh pc) := by
  rw [h.issue_eq, e]
  simp only [State.finishWarp, State.retire, h.sigBad, rolledBack_calm h.calm]
  rfl

/-- So does one that goes on at the next address. -/
theorem Mismatch.done (h : Mismatch s c g w sh) (e : wb (envOf s c g w sh) = .done t) :
    issue sh s wb lb = .next (killedBy t c g w sh (nextOf w sh)) := by
  rw [h.issue_eq, e]
  simp only [State.finishWarp, State.retire, h.sigBad, rolledBack_calm h.calm, killedBy, if_true]
  rfl

/-- So does an EXIT that would end its warp. -/
theorem Mismatch.exits {marks : List Byte} (h : Mismatch s c g w sh) (e : wb (envOf s c g w sh) = .exits t marks) :
    issue sh s wb lb = .next (killedBy t c g w sh (nextOf w sh)) := by
  rw [h.issue_eq, e]
  simp only [State.finishWarp, State.retire, h.sigBad, rolledBack_calm h.calm, killedBy, if_true, Bool.true_or]
  rfl

end

end Sys2Proof.Says
end

section
/-!
PROOF. Branches, and what a check value that differs does to each instruction of form B (R54, R55, R179 to R185): each meaning once per
outcome, and BRA's statement from those; the statement of the check values has one clause that fails.
-/
namespace Sys2Proof.Machine

open Sys2Proof.Says

section
variable {s : State} {c : Context} {g : Group} {w : Warp} {sh : Shape} {target : W64} {pneg : Bool} {pred : Fin 8} {n : Nat}

/-! ### What each meaning comes to -/

theorem braBody_goes {u go : Bool} (h : goes w pneg pred = some go) :
    braBody n target u pneg pred (envOf s c g w sh) = .flow s (if go then target else w.pc + BitVec.ofNat 64 n) [] := by
  have hd : (envOf s c g w sh).direction pneg pred = some go := h
  simp only [braBody, hd]
  rfl

theorem braBody_diverges (h : goes w pneg pred = none) (hj : w.join.length < 32) :
    braBody n target false pneg pred (envOf s c g w sh) = .flow (s.putWarp g w { w with
      exec := w.exec &&& ~~~(takers w pneg pred), join := .path target (takers w pneg pred) :: w.join })
      (w.pc + BitVec.ofNat 64 n) [0x01] := by
  have hd : (envOf s c g w sh).direction pneg pred = none := h
  have hp : (envOf s c g w sh).w.push (.path target ((envOf s c g w sh).taken pneg pred)) =
    some { w with join := .path target (takers w pneg pred) :: w.join } := if_pos hj
  simp only [braBody, hd, hp]
  rfl

theorem braBody_uniform (h : goes w pneg pred = none) :
    braBody n target true pneg pred (envOf s c g w sh) = .fault .illegal 0 (takers w pneg pred) := by
  have hd : (envOf s c g w sh).direction pneg pred = none := h
  simp only [braBody, hd]
  rfl

theorem braBody_full (h : goes w pneg pred = none) (hj : 32 ≤ w.join.length) :
    braBody n target false pneg pred (envOf s c g w sh) = .fault .joinovf 0 (live w) := by
  have hd : (envOf s c g w sh).direction pneg pred = none := h
  have hp : (envOf s c g w sh).w.push (.path target ((envOf s c g w sh).taken pneg pred)) = none := if_neg (Nat.not_lt.2 hj)
  simp only [braBody, hd, hp]
  rfl

theorem transferBody_stays {link : Bool} {os : List Opnd} (h : goes w pneg pred = some false) :
    transferBody target link os pneg pred (envOf s c g w sh) = .flow s (w.pc + 8) [] := by
  have hd : (envOf s c g w sh).direction pneg pred = some false := h
  simp only [transferBody, hd]
  rfl

/-- A transfer goes where none of its operands holds an error. -/
theorem transferBody_goes {link : Bool} {os : List Opnd} (h : goes w pneg pred = some true) (ht : target.toNat % 4 = 0)
    (hk : (w.operandKills os (w.eff sh)).1 = 0) :
    transferBody target link os pneg pred (envOf s c g w sh) =
      .flow (s.putWarp g w (if link then w.writeS 14 true (w.pc + 8) else w)) target [] := by
  have hd : (envOf s c g w sh).direction pneg pred = some true := h
  have hk' : ((envOf s c g w sh).w.operandKills os (envOf s c g w sh).eff).1 = 0 := hk
  simp only [transferBody, hd, ht, hk', State.killLanes_zero, ne_eq, not_true_eq_false, if_false]
  rfl

theorem markBody_pushes (hj : w.join.length < 32) :
    markBody n target (envOf s c g w sh) = .flow (s.putWarp g w { w with join := .rejoin target w.exec :: w.join })
      (w.pc + BitVec.ofNat 64 n) [0x01] := by
  have hp : (envOf s c g w sh).w.push (.rejoin target (envOf s c g w sh).w.exec) =
    some { w with join := .rejoin target w.exec :: w.join } := if_pos hj
  simp only [markBody, hp]
  rfl

theorem joinBody_pops {x : JoinEntry} {rest : List JoinEntry} (hj : w.join = x :: rest) :
    joinBody (envOf s c g w sh) = .flow (s.putWarp g w { w with
      exec := x.mask, join := rest, latches := Vector.replicate 4 none }) x.addr [0x02] := by
  have hj' : (envOf s c g w sh).w.join = x :: rest := hj
  simp only [joinBody, hj']
  rfl

/-- What remains of a warp once the takers of an EXIT of `n` bytes have left it (R184). -/
def afterExit (w : Warp) (n : Nat) (pneg : Bool) (pred : Fin 8) : Nat × Option (Mask × W64 × List JoinEntry) :=
  unwind w.dead (w.exec &&& ~~~(takers w pneg pred)) (w.pc + BitVec.ofNat 64 n) (w.join.map (JoinEntry.without (takers w pneg pred)))

theorem exitBody_goesOn {exec' : Mask} {pc : W64} {join' : List JoinEntry}
    (h : (afterExit w n pneg pred).2 = some (exec', pc, join')) :
    exitBody n pneg pred (envOf s c g w sh) = .flow (s.putWarp g w { w with exec := exec', join := join' }) pc
      (List.replicate (afterExit w n pneg pred).1 0x02) := by
  change (match (afterExit w n pneg pred).2 with
    | some (exec', pc, join') => _
    | none => _) = _
  rw [h]
  rfl

theorem exitBody_ends (hc : w.spec = none) (h : (afterExit w n pneg pred).2 = none) :
    exitBody n pneg pred (envOf s c g w sh) = .exits (s.putWarp g w { w with exec := 0, join := [] })
      (List.replicate (afterExit w n pneg pred).1 0x02) := by
  have hc' : (envOf s c g w sh).w.spec.isSome = false := by simp [envOf, Env.mk', hc]
  change (match (afterExit w n pneg pred).2 with
    | some (exec', pc, join') => _
    | none => if (envOf s c g w sh).w.spec.isSome then _ else _) = _
  rw [h, hc']
  rfl

/-! ### BRA -/

/-- BRA in either form, from what its instruction and shape are. -/
theorem branches_of_issue {i : Instr} {u : Bool} {wb : Env → Effect} {lb : LeekEnv → Effect} (h : WarpIssues s c g w sh)
    (hi : exec i s = issue sh s wb lb) (hb : wb (envOf s c g w sh) = braBody n target u pneg pred (envOf s c g w sh))
    (hn : nextOf w sh = w.pc + BitVec.ofNat 64 n) : branches i sh target u pneg pred s c g w := by
  rw [branches, hi, hn]
  refine ⟨fun go hg => h.flow (hb.trans (braBody_goes hg)), fun hg hu hj => ?_, fun ht h0 hg => ⟨fun hu => ?_, fun hu hj => ?_⟩⟩
  · subst hu
    exact h.flow (hb.trans (braBody_diverges hg hj))
  · subst hu
    exact h.traps (cause := .illegal) ht h0 (by decide) (hb.trans (braBody_uniform hg))
  · subst hu
    exact h.traps (cause := .joinovf) ht h0 (by decide) (hb.trans (braBody_full hg hj))

end

/-- Settles O25: each outcome of BRA is one equation of its meaning. -/
theorem branchesGoWhereLanesAgree : Obligations.BranchesGoWhereLanesAgree := by
  refine ⟨fun f s c g w h => ?_, fun off pneg pred s c g w h => ?_, fun f s c g l h => ?_, fun off pneg pred s c g l h => ?_⟩
  · exact branches_of_issue h rfl rfl rfl
  · exact branches_of_issue h rfl rfl rfl
  · exact h.flow rfl
  · exact h.flow rfl

/-! ### Check values -/

/-- A warp's SIGW, place and rest after a completion outside a repeat unit (R54). -/
theorem Warp.retire_issueOf (w x : Warp) (sh : Shape) (pc : W64) (m : List Byte) : x.retire (issueOf sh w) pc m =
    { x with
      sigw := if x.trapMode then x.sigw else crcBytes (if sh.sig16 = 0 then crcBytes x.sigw (wordBytes sh) else x.seed) m
      pc := pc, rep := none, wait := .ready, progress := none } := by
  by_cases hs : sh.sig16 = 0
  · simp only [Warp.retire, Warp.hash, issueOf, hs, if_true, crcWords, wordBytes]
  · simp only [Warp.retire, Warp.hash, issueOf, hs, if_false]

section
variable {t : State} {c : Context} {g : Group} {w : Warp} {sh : Shape}

theorem completed_of_unchecked (h : sh.sig16 = 0) :
    t.completed c g w sh = stepsOver t c g w sh fun x => crcBytes x.sigw (wordBytes sh) := by
  simp only [State.completed, stepsOver, Warp.retire_issueOf, h, if_true]
  rfl

theorem completed_of_checked (h : sh.sig16 ≠ 0) : t.completed c g w sh = stepsOver t c g w sh Warp.seed := by
  simp only [State.completed, stepsOver, Warp.retire_issueOf, h, if_false]
  rfl

end

section
variable {f : BForm} {s : State} {c : Context} {g : Group} {w : Warp}

/-- CALL and RET where they do not go. -/
theorem transfer_stays_killedBy {i : Instr} {sh : Shape} {target : Env → W64} {link pneg : Bool} {pred : Fin 8} {os : List Opnd}
    {lb : LeekEnv → Effect} (h : Mismatch s c g w sh)
    (hi : exec i s = issue sh s (fun e => transferBody (target e) link os pneg pred e) lb) (hg : goes w pneg pred = some false) :
    exec i s = .next (killedBy s c g w sh (w.pc + 8)) := by
  rw [hi]
  exact h.flow (transferBody_stays hg)

theorem call_killedBy (h : Mismatch s c g w (.b .call f)) (hg : goes w f.pneg f.pred = some true)
    (ht : (w.pc + (f.offset.signExtend 64 <<< 2)).toNat % 4 = 0) : exec (.call f) s = .next
      (killedBy (s.putWarp g w (w.writeS 14 true (w.pc + 8))) c g w (.b .call f) (w.pc + (f.offset.signExtend 64 <<< 2))) := by
  have hk : (w.operandKills [] (w.eff (.b .call f))).1 = 0 := BitVec.zero_and
  exact h.flow (transferBody_goes hg ht hk)

/-- A RET whose check value differs kills its warp after it has written the warp back. -/
theorem ret_killedBy (h : Mismatch s c g w (.b .ret f)) (hg : goes w f.pneg f.pred = some true)
    (ht : (w.spair 14).toNat % 4 = 0) (hb : w.bad = []) :
    exec (.ret f) s = .next (killedBy (s.putWarp g w w) c g w (.b .ret f) (w.spair 14)) := by
  have hk : (w.operandKills [Opnd.any (.s 14) .n64] (w.eff (.b .ret f))).1 = 0 := by rw [Warp.operandKills_of_clean hb]
  have hr := transferBody_goes (s := s) (c := c) (g := g) (link := false) hg ht hk
  exact h.flow hr

end

/-- O29 but for one clause: all that it says follows from what it says of a RET that goes. -/
theorem signaturesAreChecked_of_ret
    (hret : ∀ (f : BForm) (s : State) (c : Context) (g : Group) (w : Warp), Mismatch s c g w (.b .ret f) →
      goes w f.pneg f.pred = some true → (w.spair 14).toNat % 4 = 0 → w.bad = [] →
      exec (.ret f) s = .next (killedBy s c g w (.b .ret f) (w.spair 14))) : Obligations.SignaturesAreChecked := by
  refine ⟨Warp.retire_issueOf, fun s c g w => ⟨?_, ?_, ?_, ?_⟩,
    fun f s c g w => ⟨?_, ?_, ?_, ?_, ?_, ?_, ?_, ?_, ?_⟩⟩
  · exact fun f h => (completed_of_unchecked (sh := .l .nop f) rfl) ▸ h.done rfl
  · exact fun h => (completed_of_unchecked (sh := .sb .nop 0 false 0) rfl) ▸ h.done rfl
  · exact fun f hf h => (completed_of_unchecked (sh := .b .blkend f) hf) ▸ h.done rfl
  · exact fun f hf _ h => (completed_of_checked (sh := .b .blkend f) hf) ▸ h.done rfl
  · exact fun h => h.done rfl
  · exact fun go h hg => h.flow (braBody_goes hg)
  · exact fun h hg hu hj => h.flow (hu ▸ braBody_diverges hg hj)
  · exact fun h hg ht => call_killedBy h hg ht
  · exact hret f s c g w
  · intro op hop h hg
    obtain rfl | rfl : op = (.call, .call f) ∨ op = (.ret, .ret f) := by simpa using hop
    · exact transfer_stays_killedBy h rfl hg
    · exact transfer_stays_killedBy h rfl hg
  · exact fun h hj => h.flow (markBody_pushes hj)
  · exact fun x rest h hj => h.flow (joinBody_pops hj)
  · exact fun h => ⟨fun exec' pc join' hr => h.flow (exitBody_goesOn hr), fun hr => h.exits (exitBody_ends h.calm hr)⟩

/-! ### Two warps under one number

The clause of RET speaks of the state as it stood, where the meaning writes the issuing warp back over every warp of its number. The
two agree where the number is one warp's, but the statement is about every state. -/

/-- A warp that issues a RET with a wrong check value. -/
def twin : Warp := Warp.launch 0 0 0

/-- The RET: it goes, and its check value is not the SIGW of `twin`. -/
def retForm : BForm := { pneg := false, pred := 0, offset := 0, sig16 := 1, u := false }

/-- A group with two warps of one number, which differ in FLAGS. -/
def twinGroup : Group := Group.blank 0 KDesc.plain [twin, { twin with flags := 1 }]

/-- The machine in which the first of the two issues. -/
def twinState : State := { State.reset with cur := some (.warp 0 0), ctxs := [Context.blank 0 0], groups := [twinGroup] }

theorem twin_mismatch : Mismatch twinState (Context.blank 0 0) twinGroup twin (.b .ret retForm) where
  issuer := rfl
  calm := rfl
  legal := rfl
  mode := rfl
  normal := rfl
  value := by decide
  wrong := by decide

/-- FLAGS of every warp of a state. -/
def State.allFlags (s : State) : List (List Byte) := s.groups.map fun g => g.warps.map Warp.flags

theorem twin_killedBy_flags :
    (killedBy twinState (Context.blank 0 0) twinGroup twin (.b .ret retForm) (twin.spair 14)).allFlags = [[0, 1]] := by
  rfl

theorem twin_killedBy_written_flags :
    (killedBy (twinState.putWarp twinGroup twin twin) (Context.blank 0 0) twinGroup twin (.b .ret retForm)
      (twin.spair 14)).allFlags = [[0, 0]] := by
  rfl

/-- Refutes O29: in a state with two warps under one number, RET's kill also writes the issuing warp over the other one, which the
clause of RET leaves as it stood. -/
theorem not_signaturesAreChecked : ¬ Obligations.SignaturesAreChecked := by
  rintro ⟨-, -, h⟩
  obtain ⟨-, -, -, -, hret, -⟩ := h retForm twinState (Context.blank 0 0) twinGroup twin
  have hg : goes twin retForm.pneg retForm.pred = some true := rfl
  have ht : (twin.spair 14).toNat % 4 = 0 := rfl
  have he := (ret_killedBy twin_mismatch hg ht rfl).symm.trans (hret twin_mismatch hg ht rfl)
  have hf := congrArg State.allFlags (Host.Outcome.next.inj he)
  rw [twin_killedBy_flags, twin_killedBy_written_flags] at hf
  exact absurd hf (by decide)

end Sys2Proof.Machine
end

section
/-!
PROOF. Operand faults (R57 items 3 to 5, R243 to R246): each instruction that writes registers answers the fault of its operands before
anything else, and the fault enters the handler.
-/
namespace Sys2Proof.Machine

open Sys2Proof.Says

/-! ### The faults of operands -/

/-- The causes of R57 items 3 to 5. -/
def Cause.ofOperands (k : Cause) : Prop := k = .tag ∨ k = .apxflow ∨ k = .latch

theorem Cause.ofOperands.ne_trap {k : Cause} (h : k.ofOperands) : k ≠ .trap := by
  obtain rfl | rfl | rfl := h <;> decide

theorem Warp.operandFault_cause {w : Warp} {apxFrom : Nat} {a : Bool} {os : List Opnd} {never dsts : List Reg} {k : Cause}
    (h : w.operandFault apxFrom a os never dsts = some k) : k.ofOperands := by
  unfold Warp.operandFault at h
  split_ifs at h <;> cases h
  · exact .inl rfl
  · exact .inr (.inl rfl)
  · exact .inr (.inr rfl)

theorem Warp.operandFault_of_tagBad {w : Warp} {apxFrom : Nat} {a : Bool} {os : List Opnd} {never dsts : List Reg}
    (h : os.any w.tagBad = true) : w.operandFault apxFrom a os never dsts = some .tag := if_pos h

/-- Modular registers carry no tag and are never approximate or latched, so that they raise no fault (R14, R19, R36). -/
theorem Warp.operandFault_append {w : Warp} {ms : List Opnd}
    (h : ∀ o ∈ ms, (∃ n, o.reg = .qm n) ∨ ∃ n, o.reg = .qb n) (apxFrom : Nat) (a : Bool) (os : List Opnd) (never dsts : List Reg) :
    w.operandFault apxFrom a (os ++ ms) never dsts = w.operandFault apxFrom a os never dsts := by
  have ht : ms.any w.tagBad = false := by
    simp only [List.any_eq_false]
    intro o ho
    obtain ⟨n, hn⟩ | ⟨n, hn⟩ := h o ho <;> simp [Warp.tagBad, hn]
  have hx : (ms.any fun o => w.isApx apxFrom o.reg) = false := by
    simp only [List.any_eq_false]
    intro o ho
    obtain ⟨n, hn⟩ | ⟨n, hn⟩ := h o ho <;> simp [Warp.isApx, hn]
  have hl : (ms.any fun o => w.latchBad o.reg) = false := by
    simp only [List.any_eq_false]
    intro o ho
    obtain ⟨n, hn⟩ | ⟨n, hn⟩ := h o ho <;> simp [Warp.latchBad, hn]
  simp only [Warp.operandFault, List.any_append, ht, hx, hl, Bool.or_false]

theorem qUse_moduli (f : LForm) : ∀ o ∈ qUse f, (∃ n, o.reg = .qm n) ∨ ∃ n, o.reg = .qb n := by
  simp [qUse, Opnd.any]

theorem muUse_moduli (f : LForm) : ∀ o ∈ muUse f, (∃ n, o.reg = .qm n) ∨ ∃ n, o.reg = .qb n := by
  simp [muUse, Opnd.any]

/-! ### Meanings that answer them first -/

section
variable {e : Env} {k : Cause}

theorem Env.runKill_early {x : RegIns} {kills : Mask × Nat}
    (h : e.w.operandFault e.g.desc.apxFrom x.a x.os x.never [x.dst] = some k) : e.runKill x kills = e.early k := by
  simp only [Env.runKill, h]

theorem Env.run_early {x : RegIns} (h : e.w.operandFault e.g.desc.apxFrom x.a x.os x.never [x.dst] = some k) :
    e.run x = e.early k :=
  Env.runKill_early h

theorem Env.runBoth_early {f : LForm} {os : List Opnd} {faults : Option (Cause × Mask)} {kills : Mask × Nat} {put : Option Warp}
    {flags : Lanes (W64 × Byte)} (h : e.w.operandFault e.g.desc.apxFrom f.a os [] [f.dst, f.src0] = some k) :
    e.runBoth f os faults kills put flags = e.early k := by
  simp only [Env.runBoth, h]

theorem modBody_early {os mods : LForm → List Opnd} {op : Nat → Nat → Nat → Nat → Nat → QRes} {f : LForm}
    (hm : ∀ o ∈ mods f, (∃ n, o.reg = .qm n) ∨ ∃ n, o.reg = .qb n)
    (h : e.w.operandFault e.g.desc.apxFrom f.a (os f) [] [f.dst] = some k) : modBody os mods op f e = e.early k :=
  Env.run_early ((Warp.operandFault_append hm ..).trans h)

theorem butterflyBody_early {op : Nat → Nat → Nat → Nat → Nat → QRes × QRes} {f : LForm}
    (h : e.w.operandFault e.g.desc.apxFrom f.a [Opnd.of f.dst .q64, Opnd.of f.src0 .q64, Opnd.of f.src1 .q64] []
      [f.dst, f.src0] = some k) : butterflyBody op f e = e.early k :=
  Env.runBoth_early ((Warp.operandFault_append (muUse_moduli f) ..).trans h)

end

/-- An instruction of form L with a fault of its operands: its meaning answers the fault first, and the fault is TAG, APXFLOW or
LATCH. -/
def FaultsFirst (op : LOp) (fault : LForm → Group → Warp → Option Cause) : Prop :=
  ∀ (f : LForm) (s : State), ∃ wb lb, exec (op.toInstr f) s = issue (.l op f) s wb lb ∧
    ∀ (e : Env) (k : Cause), fault f e.g e.w = some k → k.ofOperands ∧ wb e = e.early k

/-- Such a fault enters the handler. -/
theorem FaultsFirst.enters {op : LOp} {fault : LForm → Group → Warp → Option Cause} (h : FaultsFirst op fault) {f : LForm} {s : State}
    {c : Context} {g : Group} {w : Warp} {k : Cause} (hi : WarpIssues s c g w (.l op f)) (hn : w.trapMode = false)
    (hb : c.trapBase ≠ 0) (hk : fault f g w = some k) :
    k.ofOperands ∧ exec (op.toInstr f) s = .next (trapsWith s c g w (.l op f) (BitVec.ofNat 8 k.code) 0 (live w) w.pc) := by
  obtain ⟨wb, lb, hx, hf⟩ := h f s
  obtain ⟨hk, he⟩ := hf (envOf s c g w (.l op f)) k hk
  exact ⟨hk, hx ▸ hi.traps hn hb hk.ne_trap he⟩

/-- An instruction with the ordinary fault of its operands, whose meaning answers it. -/
theorem FaultsFirst.of_early {op : LOp} {os : LForm → Warp → List Opnd} {never dsts : LForm → List Reg} {wb : LForm → Env → Effect}
    {lb : LForm → LeekEnv → Effect} (hx : ∀ f s, exec (op.toInstr f) s = issue (.l op f) s (wb f) (lb f))
    (hf : ∀ f e k, e.w.operandFault e.g.desc.apxFrom f.a (os f e.w) (never f) (dsts f) = some k → wb f e = e.early k) :
    FaultsFirst op fun f g w => w.operandFault g.desc.apxFrom f.a (os f w) (never f) (dsts f) :=
  fun f s => ⟨wb f, lb f, hx f s, fun e k h => ⟨Warp.operandFault_cause h, hf f e k h⟩⟩

/-- A row with the ordinary fault of its operands, whose meaning answers it. -/
theorem Row.faultsFirst {r : Row} {wb : LForm → Env → Effect} {lb : LForm → LeekEnv → Effect}
    (hr : r.fault = fun f g w => w.operandFault g.desc.apxFrom f.a (r.os f w) (r.never f) [f.dst])
    (hx : ∀ f s, exec (r.op.toInstr f) s = issue (.l r.op f) s (wb f) (lb f))
    (hf : ∀ f e k, e.w.operandFault e.g.desc.apxFrom f.a (r.os f e.w) (r.never f) [f.dst] = some k → wb f e = e.early k) :
    FaultsFirst r.op r.fault :=
  hr ▸ .of_early hx hf

/-! ### The rows -/

theorem exec_floatOp : ∀ p ∈ floatOps, ∀ (f : LForm) (s : State),
    exec (p.1.toInstr f) s = issue (.l p.1 f) s (floatBody (fun f => tagged f) p.2 f) noLeek := by
  intro p hp f s
  fin_cases hp <;> rfl

theorem exec_transOp : ∀ p ∈ transOps, ∀ (f : LForm) (s : State),
    exec (p.1.toInstr f) s = issue (.l p.1 f) s (transBody p.2.1 p.2.2 f) noLeek := by
  intro p hp f s
  fin_cases hp <;> rfl

/-- A modular operation reads its modulus, and its Barrett constant where it reduces a product (R137). -/
theorem exec_modOp : ∀ p ∈ modOps, ∃ mods, (mods = qUse ∨ mods = muUse) ∧ ∀ (f : LForm) (s : State),
    exec (p.1.toInstr f) s = issue (.l p.1 f) s (modBody p.2.1 mods p.2.2 f) noLeek := by
  intro p hp
  fin_cases hp
  · exact ⟨muUse, .inr rfl, fun _ _ => rfl⟩
  · exact ⟨muUse, .inr rfl, fun _ _ => rfl⟩
  all_goals exact ⟨qUse, .inl rfl, fun _ _ => rfl⟩

theorem intRow_faultsFirst {p : LOp × IntOp} (hp : p ∈ intOps) : FaultsFirst (intRow p).op (intRow p).fault :=
  Row.faultsFirst rfl (exec_intOp p hp) fun _ _ _ h => Env.run_early h

theorem floatRow_faultsFirst {p : LOp × (LForm → BitVec 16 → Nat → Nat → Nat → FRes)} (hp : p ∈ floatOps) :
    FaultsFirst (floatRow p).op (floatRow p).fault :=
  Row.faultsFirst rfl (exec_floatOp p hp) fun _ _ _ h => Env.run_early h

theorem transRow_faultsFirst {p : LOp × TransFn × Nat} (hp : p ∈ transOps) : FaultsFirst (transRow p).op (transRow p).fault :=
  Row.faultsFirst rfl (exec_transOp p hp) fun _ _ _ h => Env.run_early h

theorem modRow_faultsFirst {p : LOp × (LForm → List Opnd) × (Nat → Nat → Nat → Nat → Nat → QRes)} (hp : p ∈ modOps) :
    FaultsFirst (modRow p).op (modRow p).fault := by
  obtain ⟨mods, hm, hx⟩ := exec_modOp p hp
  refine Row.faultsFirst rfl hx fun f e k h => modBody_early ?_ h
  obtain rfl | rfl := hm
  · exact qUse_moduli f
  · exact muUse_moduli f

/-- LEA answers a TAG of its base or index before the rest. -/
theorem leaRow_faultsFirst : FaultsFirst leaRow.op leaRow.fault := by
  refine fun f s => ⟨leaBody f, leaLeek f, rfl, fun e k h => ?_⟩
  have h : (if e.w.indexTagBad f.src1 then some .tag else e.w.operandFault e.g.desc.apxFrom f.a
    [Opnd.of f.src0 .n64, Opnd.any f.src1 .b32] [] [f.dst]) = some k := h
  by_cases ht : (e.w.tagBad (Opnd.of f.src0 .n64) || e.w.tagBad (Opnd.any f.src1 .b32) || e.w.indexTagBad f.src1) = true
  · have hk : k = .tag := by
      by_cases hi : e.w.indexTagBad f.src1 = true
      · simpa [hi, eq_comm] using h
      · have ho : [Opnd.of f.src0 .n64, Opnd.any f.src1 .b32].any e.w.tagBad = true := by simpa [hi] using ht
        rw [if_neg hi, Warp.operandFault_of_tagBad ho] at h
        exact (Option.some.inj h).symm
    exact hk ▸ ⟨.inl rfl, if_pos ht⟩
  · have hi : ¬e.w.indexTagBad f.src1 = true := fun hi => ht (by simp [hi])
    rw [if_neg hi] at h
    exact ⟨Warp.operandFault_cause h, (if_neg ht).trans (Env.run_early h)⟩

theorem taggetRow_faultsFirst : FaultsFirst taggetRow.op taggetRow.fault := by
  refine fun f s => ⟨taggetBody f, noLeek, rfl, fun e k h => ?_⟩
  have h : (if e.w.tagBad (taggetOpnd f) then some .tag else if (e.w.tagOf f.src0).isNone then some .latch
      else e.w.operandFault e.g.desc.apxFrom f.a [] [] [f.dst]) = some k := h
  unfold taggetBody
  split_ifs at h ⊢ with ht hl
  · obtain rfl := Option.some.inj h
    exact ⟨.inl rfl, rfl⟩
  · obtain rfl := Option.some.inj h
    rw [Option.isNone_iff_eq_none] at hl
    exact ⟨.inr (.inr rfl), by rw [hl]⟩
  · obtain ⟨t, hl⟩ := Option.ne_none_iff_exists'.1 (mt Option.isNone_iff_eq_none.2 hl)
    rw [hl]
    exact ⟨Warp.operandFault_cause h, Env.run_early h⟩

theorem matchRow_faultsFirst : FaultsFirst matchRow.op matchRow.fault := by
  refine fun f s => ⟨matchBody f, noLeek, rfl, fun e k h => ?_⟩
  have h : (if e.w.widthBad f.src0 f.fmt.wide then some .tag
      else e.w.operandFault e.g.desc.apxFrom f.a [Opnd.any f.src0 f.fmt] [] [f.dst]) = some k := h
  unfold matchBody
  split_ifs at h ⊢ with ht
  · obtain rfl := Option.some.inj h
    exact ⟨.inl rfl, rfl⟩
  · exact ⟨Warp.operandFault_cause h, Env.runKill_early h⟩

/-- TAGSET answers a latch of the wrong width before anything else under an immediate tag, and at its rank, as a value, under a
scalar's. -/
theorem tagsetRow_faultsFirst : FaultsFirst tagsetRow.op tagsetRow.fault := by
  refine fun f s => ⟨tagsetBody f, noLeek, rfl, fun e k h => ⟨Warp.operandFault_cause h, ?_⟩⟩
  change (if (!(f.src1 != .imm) && e.w.tagBad (tagsetOpnd f e.w)) = true then e.early .tag else e.run _) = _
  by_cases hb : f.src1 = .imm ∧ e.w.tagBad (tagsetOpnd f e.w) = true
  · obtain ⟨hs, ht⟩ := hb
    have hk : some Cause.tag = some k := (Warp.operandFault_of_tagBad (by simp [hs, ht])).symm.trans h
    obtain rfl := Option.some.inj hk
    exact if_pos (by simp [hs, ht])
  · rw [if_neg (by simpa using hb)]
    refine Env.run_early (Eq.trans ?_ h)
    exact congrArg (fun o => e.w.operandFault e.g.desc.apxFrom f.a (o :: tagOs f) [] [f.dst])
      (if_congr (by rw [Bool.and_eq_true, bne_iff_ne]; rfl) rfl rfl)

/-- A stream of an invalid latch is answered as that, one of a format that is not taken as TAG, and the rest in order (R48, R121). -/
theorem streamFault_early {takes : Fmt → Bool} {f : LForm} {e : Env} {k : Cause} {rest : Fmt → Effect}
    (h : streamFault takes f e.g e.w = some k)
    (hr : ∀ t, e.w.operandFault e.g.desc.apxFrom f.a (streamOs t f) [] [f.dst] = some k → rest t = e.early k) :
    k.ofOperands ∧ (match e.w.streamFmt f.src0 with
      | none => e.streamLatch takes f
      | some t => if e.w.streamTag takes f then e.early .tag else rest t) = e.early k := by
  unfold streamFault at h
  cases hs : e.w.streamFmt f.src0 with
  | none =>
    simp only [hs] at h ⊢
    obtain rfl := Option.some.inj h
    have hx : ((!f.a && e.w.isApx e.g.desc.apxFrom f.src1) || (f.a && preciseDst e.g.desc.apxFrom f.dst)) = true ↔
        (f.a = false ∧ e.w.isApx e.g.desc.apxFrom f.src1 = true) ∨ (f.a = true ∧ preciseDst e.g.desc.apxFrom f.dst = true) := by
      simp
    simp only [Env.streamLatch, hx, and_true]
    split_ifs
    · exact .inl rfl
    · exact .inr (.inl rfl)
    · exact .inr (.inr rfl)
  | some t =>
    simp only [hs] at h ⊢
    split_ifs at h ⊢ with ht
    · obtain rfl := Option.some.inj h
      exact ⟨.inl rfl, rfl⟩
    · exact ⟨Warp.operandFault_cause h, hr t h⟩

theorem cvtRow_faultsFirst : FaultsFirst cvtRow.op cvtRow.fault :=
  fun f _ => ⟨cvtBody f, noLeek, rfl, fun _ _ h => streamFault_early h fun _ ht => Env.run_early ht⟩

theorem cmpRow_faultsFirst : FaultsFirst cmpRow.op cmpRow.fault :=
  Row.faultsFirst (wb := opCmp.body) rfl (fun _ _ => rfl) fun _ _ _ h => Env.run_early h

theorem moveRow_faultsFirst {r : Row} (hr : r ∈ moveRows) : FaultsFirst r.op r.fault := by
  fin_cases hr
  · exact Row.faultsFirst (wb := movBody) rfl (fun _ _ => rfl) fun _ _ _ h => Env.run_early h
  · exact Row.faultsFirst (wb := moviBody) rfl (fun _ _ => rfl) fun _ _ _ h => Env.run_early h
  · exact Row.faultsFirst (wb := movsBody) rfl (fun _ _ => rfl) fun _ _ _ h => Env.run_early h
  · exact leaRow_faultsFirst
  · exact Row.faultsFirst (wb := selBody) rfl (fun _ _ => rfl) fun _ _ _ h => Env.run_early h
  · exact taggetRow_faultsFirst
  · exact Row.faultsFirst (wb := voteBody) rfl (fun _ _ => rfl) fun _ _ _ h => Env.run_early h

theorem conversionRow_faultsFirst {r : Row} (hr : r ∈ conversionRows) : FaultsFirst r.op r.fault := by
  fin_cases hr
  · exact cvtRow_faultsFirst
  · exact Row.faultsFirst (wb := scalebBody) rfl (fun _ _ => rfl) fun _ _ _ h => Env.run_early h
  · exact Row.faultsFirst (wb := fcmpBody) rfl (fun _ _ => rfl) fun _ _ _ h => Env.run_early h
  · exact Row.faultsFirst (wb := fclassBody) rfl (fun _ _ => rfl) fun _ _ _ h => Env.run_early h

theorem laneRow_faultsFirst {r : Row} (hr : r ∈ laneRows) : FaultsFirst r.op r.fault := by
  fin_cases hr
  · exact Row.faultsFirst (wb := shflBody) rfl (fun _ _ => rfl) fun _ _ _ h => Env.runKill_early h
  · exact Row.faultsFirst (wb := treeBody Env.reduce 768) rfl (fun _ _ => rfl) fun _ _ _ h => Env.runKill_early h
  · exact Row.faultsFirst (wb := treeBody Env.scan 1536) rfl (fun _ _ => rfl) fun _ _ _ h => Env.runKill_early h
  · exact matchRow_faultsFirst
  · exact Row.faultsFirst (wb := lbrevBody) rfl (fun _ _ => rfl) fun _ _ _ h => Env.runKill_early h

theorem row_faultsFirst {r : Row} (hr : r ∈ allRows) : FaultsFirst r.op r.fault := by
  simp only [allRows, List.mem_append, List.mem_map, List.mem_cons, List.not_mem_nil, or_false, or_assoc] at hr
  obtain ⟨p, hp, rfl⟩ | rfl | rfl | hr | ⟨p, hp, rfl⟩ | ⟨p, hp, rfl⟩ | hr | ⟨p, hp, rfl⟩ | hr := hr
  · exact intRow_faultsFirst hp
  · exact cmpRow_faultsFirst
  · exact tagsetRow_faultsFirst
  · exact moveRow_faultsFirst hr
  · exact floatRow_faultsFirst hp
  · exact transRow_faultsFirst hp
  · exact conversionRow_faultsFirst hr
  · exact modRow_faultsFirst hp
  · exact laneRow_faultsFirst hr

/-! ### The other instructions -/

theorem addcBody_early {f : LForm} {e : Env} {k : Cause}
    (h : e.w.operandFault e.g.desc.apxFrom f.a [Opnd.of f.src0 f.fmt, Opnd.of f.src1 f.fmt] [] [f.dst] = some k) :
    addcBody f e = e.early k := by
  simp only [addcBody, h]

theorem randBody_early {f : LForm} {e : Env} {k : Cause} (h : e.w.operandFault e.g.desc.apxFrom f.a [] [] [f.dst] = some k) :
    randBody f e = e.early k := by
  simp only [randBody, h]

theorem qsetBody_early {f : LForm} {e : Env} {k : Cause}
    (h : e.w.operandFault e.g.desc.apxFrom f.a [Opnd.of f.src0 .n64, Opnd.of f.src1 .n64] [] [] = some k) :
    qsetBody f e = e.early k := by
  simp only [qsetBody, h]

theorem endorseBody_early {f : LForm} {e : Env} {k : Cause}
    (h : (if e.w.tagBad (Opnd.of f.src0 f.fmt) then some .tag else if e.w.isApx e.g.desc.apxFrom f.dst then some .apxflow
      else if e.w.latchBad f.src0 then some .latch else none) = some k) :
    k.ofOperands ∧ endorseBody f e = e.early k := by
  change k.ofOperands ∧ (if e.w.tagBad (Opnd.of f.src0 f.fmt) then e.early .tag
    else if e.w.isApx e.g.desc.apxFrom f.dst then e.early .apxflow else if e.w.latchBad f.src0 then e.early .latch else _) = _
  split_ifs at h ⊢
  · obtain rfl := Option.some.inj h
    exact ⟨.inl rfl, rfl⟩
  · obtain rfl := Option.some.inj h
    exact ⟨.inr (.inl rfl), rfl⟩
  · obtain rfl := Option.some.inj h
    exact ⟨.inr (.inr rfl), rfl⟩

theorem quant_faultsFirst : FaultsFirst .quant (streamFault quantTakes) := by
  refine fun f _ => ⟨quantBody f, noLeek, rfl, fun e k h => streamFault_early h fun t ht => ?_⟩
  simp only [ht]

theorem other_faultsFirst {p : LOp × (LForm → Group → Warp → Option Cause)} (hp : p ∈ otherFaults) : FaultsFirst p.1 p.2 := by
  fin_cases hp
  · exact .of_early (wb := addcBody) (fun _ _ => rfl) fun _ _ _ h => addcBody_early h
  · exact fun f _ => ⟨endorseBody f, noLeek, rfl, fun _ _ h => endorseBody_early h⟩
  · exact .of_early (os := fun _ _ => []) (wb := randBody) (fun _ _ => rfl) fun _ _ _ h => randBody_early h
  · exact .of_early (wb := qsetBody) (fun _ _ => rfl) fun _ _ _ h => qsetBody_early h
  · exact .of_early (wb := butterflyBody qbfctR) (fun _ _ => rfl) fun _ _ _ h => butterflyBody_early h
  · exact .of_early (wb := butterflyBody qbfgsR) (fun _ _ => rfl) fun _ _ _ h => butterflyBody_early h
  · exact .of_early (wb := npermBody) (fun _ _ => rfl) fun _ _ _ h => Env.runBoth_early h
  · exact quant_faultsFirst

/-- Every instruction of form L that writes registers answers its operands' faults first. -/
theorem faultsFirst {p : LOp × (LForm → Group → Warp → Option Cause)}
    (hp : p ∈ allRows.map (fun r => (r.op, r.fault)) ++ otherFaults) : FaultsFirst p.1 p.2 := by
  obtain hp | hp := List.mem_append.1 hp
  · obtain ⟨r, hr, rfl⟩ := List.mem_map.1 hp
    exact row_faultsFirst hr
  · exact other_faultsFirst hp

/-- Settles O6: the fault of the operands is each meaning's first answer, and it enters the handler. -/
theorem operandFaultEntersTheHandler : Obligations.OperandFaultEntersTheHandler := by
  refine ⟨fun p hp f s c g w k hi hn hb hk => (faultsFirst hp).enters hi hn hb hk, fun s c g w d a hn hb => ⟨?_, ?_⟩⟩
  · intro imm k hi hk
    exact hi.traps hn hb (Warp.operandFault_cause hk).ne_trap (Env.run_early hk)
  · intro k hi hk
    exact hi.traps hn hb (Warp.operandFault_cause hk).ne_trap (Env.run_early hk)

end Sys2Proof.Machine
end

section
/-!
PROOF. Moves, constants, addresses, selections, tags and votes (R40, R93, R104, R106 to R109, R127, R128, R194): each runs its row's
instruction, and a short form the instruction of its long form's fields.
-/
namespace Sys2Proof.Machine

open Sys2Proof.Says

/-- Operands without a fault carry the tags that they must. -/
theorem Warp.tagBad_of_operandFault_none {w : Warp} {apxFrom : Nat} {a : Bool} {os : List Opnd} {never dsts : List Reg} {o : Opnd}
    (h : w.operandFault apxFrom a os never dsts = none) (ho : o ∈ os) : w.tagBad o = false := by
  by_contra ht
  have := Warp.operandFault_of_tagBad (apxFrom := apxFrom) (a := a) (never := never) (dsts := dsts)
    (List.any_eq_true.2 ⟨o, ho, by simpa using ht⟩)
  simp [this] at h

/-- The source that SEL takes in a lane. -/
theorem srcAt_select (w : Warp) (f : LForm) (k : Bool) (l : Fin 64) :
    srcAt w f.imm [Opnd.of f.src0 f.fmt, Opnd.of f.src1 f.fmt] (if k then 0 else 1) l =
      w.src (Opnd.of (if k then f.src0 else f.src1) f.fmt) f.imm l := by
  cases k <;> rfl

theorem selBody_eq (f : LForm) (e : Env) : selBody f e = e.run (selRow.ins f e) := by
  simp only [selBody, srcAt_select]
  rfl

theorem leaRow_completes : leaRow.Completes := by
  refine Row.completes_of_run (wb := leaBody) (lb := leaLeek) (fun _ _ => rfl) fun {f s c g w} _ hr hok => ?_
  have hb : w.tagBad (Opnd.of f.src0 .n64) = false := Warp.tagBad_of_operandFault_none hr.2 (List.mem_cons_self ..)
  have hx : w.tagBad (Opnd.any f.src1 .b32) = false :=
    Warp.tagBad_of_operandFault_none hr.2 (List.mem_cons_of_mem _ (List.mem_singleton.2 rfl))
  have hi : w.indexTagBad f.src1 = false := hok
  have hc : ¬(w.tagBad (Opnd.of f.src0 .n64) || w.tagBad (Opnd.any f.src1 .b32) || w.indexTagBad f.src1) = true := by
    simp [hb, hx, hi]
  exact if_neg hc

theorem taggetRow_completes : taggetRow.Completes := by
  refine Row.completes_of_run (wb := taggetBody) (lb := fun _ => noLeek) (fun _ _ => rfl) fun {f s c g w} _ hr hok => ?_
  obtain ⟨hl, ht⟩ := hok
  obtain ⟨t, hl⟩ := Option.isSome_iff_exists.1 hl
  rw [taggetBody, if_neg (by simpa using ht), hl]
  simp only [Row.ins, taggetRow] at hl ⊢
  rw [hl]
  rfl

/-- TAGSET with a code up to 15 and even registers for a wide tag has no fault of its value (R127). -/
theorem tagsetRow_completes : tagsetRow.Completes := by
  refine Row.completes_of_run (wb := tagsetBody) (lb := fun _ => noLeek) (fun _ _ => rfl) fun {f s c g w} _ hr hok => ?_
  obtain ⟨h15, h12⟩ := hok
  have h15 : tagsetCode f w ≤ 15 := h15
  have h12 : 12 ≤ tagsetCode f w → oddReg f.dst = false ∧ oddReg f.src0 = false := h12
  have ht : w.tagBad (tagsetOpnd f w) = false := Warp.tagBad_of_operandFault_none hr.2 (List.mem_cons_self ..)
  have hbad : (decide (15 < tagsetCode f w) || (decide (12 ≤ tagsetCode f w % 16) && (oddReg f.dst || oddReg f.src0)) ||
      w.tagBad (tagsetOpnd f w)) = false := by
    rw [ht, Nat.mod_eq_of_lt (Nat.lt_succ_of_le h15)]
    by_cases hc : 12 ≤ tagsetCode f w
    · simp [h12 hc, h15]
    · simp [hc, h15]
  let e := envOf s c g w (.l .tagset f)
  change (if (!(f.src1 != .imm) && w.tagBad (tagsetOpnd f w)) = true then e.early .tag else e.run
    { dst := f.dst, nw := f.nw, a := f.a, wide := tagsetWide f w, tag := Fmt.ofCode (BitVec.ofNat 4 (tagsetCode f w))
      os := (if (f.src1 != .imm && w.tagBad (tagsetOpnd f w)) = true then
        { tagsetOpnd f w with wide := !(tagsetOpnd f w).wide } else tagsetOpnd f w) :: tagOs f
      faults := if (f.src1 != .imm && (decide (15 < tagsetCode f w) || (decide (12 ≤ tagsetCode f w % 16) &&
        (oddReg f.dst || oddReg f.src0)) || w.tagBad (tagsetOpnd f w)) && e.sound (tagOs f) != 0) = true then
          some (.tag, e.eff) else none
      vals := mkLanes (tagsetRow.result f e) }) = _
  rw [hbad, ht]
  simp only [Bool.and_false, Bool.false_and, Bool.false_eq_true, if_false]
  rfl

theorem moveRows_complete : ∀ r ∈ moveRows, r.Completes := by
  intro r hr
  fin_cases hr
  · exact Row.completes_of_run (wb := movBody) (lb := movLeek) (fun _ _ => rfl) fun _ _ _ => rfl
  · exact Row.completes_of_run (wb := moviBody) (lb := moviLeek) (fun _ _ => rfl) fun _ _ _ => rfl
  · exact Row.completes_of_run (wb := movsBody) (lb := movsLeek) (fun _ _ => rfl) fun _ _ _ => rfl
  · exact leaRow_completes
  · exact Row.completes_of_run (wb := selBody) (lb := selLeek) (fun _ _ => rfl) fun _ _ _ => selBody_eq ..
  · exact taggetRow_completes
  · exact Row.completes_of_run (wb := voteBody) (lb := fun _ => noLeek) (fun _ _ => rfl) fun _ _ _ => rfl

/-! ### The short forms -/

theorem toNat_zx64 (x : W32) : (zx64 x).toNat = x.toNat := by
  have := x.isLt
  simp [zx64]
  omega

theorem wrapTo_add_signed (x y : Nat) : wrapTo 32 (signed 32 x + signed 32 y) = (x + y) % 2 ^ 32 := by
  unfold wrapTo signed
  split <;> split <;> omega

/-- The sum of two S32 numbers is that of their bits (R93). -/
theorem opAdd_value_short {imm : BitVec 6} {a d : Fin 256} (x y : W32) (z : W64) :
    opAdd.value (addShortForm imm a d) (zx64 x) (zx64 y) z = zx64 (x + y) := by
  have hx := x.isLt
  have hy := y.isLt
  apply BitVec.eq_of_toNat_eq
  rw [toNat_zx64, BitVec.toNat_add]
  change (BitVec.ofNat 64 (0 + wrapTo 32 (signed 32 (bitsOf (zx64 x).toNat 0 32) + signed 32 (bitsOf (zx64 y).toNat 0 32)) % 2 ^ 32
    * 2 ^ 0)).toNat = _
  rw [wrapTo_add_signed, toNat_zx64, toNat_zx64]
  simp [bitsOf]
  omega

/-- An instruction of any shape that runs a row's instruction, and raises no flag, writes the row's results. -/
theorem issue_ins {s : State} {c : Context} {g : Group} {w : Warp} {sh : Shape} {f : LForm} {wb : Env → Effect}
    {lb : LeekEnv → Effect} {r : Row} (h : WarpIssues s c g w sh) (hr : readable g w f.a (r.os f w) (r.never f) [f.dst])
    (hd : r.draws f = 0) (hf : ∀ l, (r.result f (envOf s c g w sh) l).2 = 0)
    (hb : wb (envOf s c g w sh) = (envOf s c g w sh).run (r.ins f (envOf s c g w sh))) :
    issue sh s wb lb = .next ((s.putWarp g w (writes w sh f (r.wide f w) (r.tag f w) fun l =>
      (r.result f (envOf s c g w sh) l).1)).completed c g w sh) := by
  have hw := Env.run_clean (e := envOf s c g w sh) (x := r.ins f (envOf s c g w sh)) hr.1 hr.2 (.inr rfl)
    (write_ins h.calm r f (envOf s c g w sh) _ _ 0)
  have hz : orFlags (flagMask f.dst (w.eff sh)) (mkLanes (r.result f (envOf s c g w sh))) = 0 := orFlags_eq_zero hf
  refine h.done (hb.trans (hw.trans ?_))
  have hw' : ((writesIn w (w.eff sh) (w.sel sh) 0 f (r.wide f w) (r.tag f w) fun l => (r.result f (envOf s c g w sh) l).1).setFlags
      (orFlags (flagMask f.dst (w.eff sh)) (mkLanes (r.result f (envOf s c g w sh))))) =
      writes w sh f (r.wide f w) (r.tag f w) fun l => (r.result f (envOf s c g w sh) l).1 := by
    rw [hz, Warp.setFlags_zero]
    rfl
  exact congrArg Effect.done (congrArg₂ (fun x n => (s.putWarp g w x).drawn n) hw' hd)

/-- Settles O13: each meaning runs its row's instruction. -/
theorem movesAndTagsComplete : Obligations.MovesAndTagsComplete := by
  refine ⟨moveRows_complete, tagsetRow_completes, fun s c g w d a => ⟨?_, ?_⟩⟩
  · intro imm h f hr
    have hx := issue_ins (r := intRow (.add, opAdd)) (f := f) (wb := opAdd.body f) (lb := noLeek) h hr rfl (fun _ => rfl) rfl
    refine hx.trans (congrArg (fun v => Host.Outcome.next
      ((s.putWarp g w (writes w (.sr .add imm a d) f false .s32 v)).completed c g w (.sr .add imm a d))) ?_)
    funext l
    exact opAdd_value_short _ _ 0
  · intro h f hr
    have hx := issue_ins (r := movRow) (f := f) (wb := movBody f) (lb := noLeek) h hr rfl (fun _ => rfl) rfl
    refine hx.trans (congrArg₂ (fun t v => Host.Outcome.next
      ((s.putWarp g w (writes w (.sr .mov 0 a d) f false t v)).completed c g w (.sr .mov 0 a d))) ?_ ?_)
    · rw [Warp.vreg, dif_pos a.isLt]
      rfl
    · funext l
      rfl

end Sys2Proof.Machine
end

section
/-!
PROOF. Loads from local memory (R46, R147 to R151, R328, R405).
-/
namespace Sys2Proof.Machine

open Sys2Proof.Says

/-- A read of bytes that meet no marked granule meets no error in any cluster's copy. -/
theorem State.errorFor_of_unmarked {s : State} {place n : Nat} (h : s.marked place n = false) (cluster : Nat) (apx : Bool) :
    s.errorFor cluster place n apx = none := by
  have hm : ∀ g ∈ s.poison, g.meets place n = false := by simpa [State.marked] using h
  have hn : (s.poison.find? fun g => (g.cluster.isNone || g.cluster == some cluster) && g.meets place n) = none :=
    List.find?_eq_none.2 fun g hg => by simp [hm g hg]
  simp [State.errorFor, State.errorBy, hn]

/-- The loads of a reachable instruction meet no error of memory, where its warp does not speculate. -/
theorem memErrors_of_reachable_load {e : Env} {f : MForm} {scale n : Nat} {acc : Access} (h : reachable e f scale n acc)
    (hc : e.w.spec = none) {s : State} (hs : ∀ place, s.marked place n = e.s.marked place n) (cluster : Nat) :
    s.memErrors (fun place apx => s.loadError cluster e.w place n apx) (accesses e f scale n acc) = [] := by
  unfold State.memErrors
  split
  · rfl
  · refine List.filterMap_eq_nil_iff.mpr fun x hx => ?_
    obtain ⟨l, hl, rfl⟩ := List.mem_map.mp hx
    obtain ⟨place, apx, fill, ht, hm⟩ := h l (Mask.mem_lanes.mp hl)
    have he := State.errorFor_of_unmarked ((hs place).trans hm) cluster apx
    simp [ht, placeIn, apxIn, State.loadError_calm hc, he]

section
variable {f : MForm} {s : State} {c : Context} {g : Group} {w : Warp} {sh : Shape} {scale : Nat}

/-- A local load whose operands hold no error checks its lanes' addresses. -/
theorem loadBody_local (hsp : f.space ≠ .remote) (ha : addressable g w f [] [f.data]) :
    let e := envOf s c g w sh
    loadBody f scale e = loadLocal f scale e.eff (0, 1) e := by
  intro e
  have hm : e.memFault f [] [f.data] = none := Env.memFault_of_addressable ha
  have hk : e.w.operandKills (addrOs f) e.eff = (0, 1) := Warp.operandKills_of_clean ha.1 _ _
  simp only [loadBody, hm, hk, Mask.and_not_zero, beq_eq_false_iff_ne.mpr hsp]
  rfl

/-- The accesses that a load makes give each lane what it loads. -/
theorem laneVal_loaded (e : Env) (s : State) (hs : s.mem = e.s.mem) :
    laneVal ((accesses e f scale (accBytes f.fmt) .read).map fun x =>
      (x.1, e.lossy f.fmt x.2.2.2 x.1 (BitVec.ofNat 64 (ofBytesLE (s.mem.read x.2.2.1 (accBytes f.fmt)))))) =
      loadedAt e f scale := by
  funext i
  rw [accesses, List.map_map, hs]
  exact laneVal_lanes e.eff _ i

theorem check_of_reachable {e : Env} {n : Nat} {acc : Access} (hr : reachable e f scale n acc) :
    e.check e.eff (e.ea f scale) f.space n acc f.a = .ok (accesses e f scale n acc) (fills e f scale n acc) :=
  Env.check_ok fun l hl => (hr l hl).imp fun _ => .imp fun _ => .imp fun _ => And.left

variable (hr : reachable (envOf s c g w sh) f scale (accBytes f.fmt) .read)
include hr

theorem loadLocal_touch (hw : f.nw = true) :
    let e := envOf s c g w sh
    loadLocal f scale e.eff (0, 1) e = .done (s.fillTlb (fills e f scale (accBytes f.fmt) .read)) := by
  intro e
  have hc : e.check e.eff (e.ea f scale) f.space (accBytes f.fmt) .read f.a = _ := check_of_reachable hr
  simp only [loadLocal, hc, hw, if_true, State.killLanes_zero]
  rfl

theorem loadLocal_delivers (hw : f.nw = false) (hs : w.spec = none) (hd : ∃ n, f.data = .v n) :
    let e := envOf s c g w sh
    let n := accBytes f.fmt
    loadLocal f scale e.eff (0, 1) e = .done ((((s.fillTlb (fills e f scale n .read)).drawn
      (if (Mask.lanes e.eff).any fun l => apxIn (target e f scale n .read l) then 512 else 0)).putWarp g w
      (loadsInto w sh f (loadedAt e f scale)))) := by
  intro e n
  have hc : e.check e.eff (e.ea f scale) f.space (accBytes f.fmt) .read f.a = _ := check_of_reachable hr
  have hsp : e.w.spec = none := hs
  have hm : (e.s.fillTlb (fills e f scale n .read)).memErrors (fun place apx =>
      (e.s.fillTlb (fills e f scale n .read)).loadError e.g.cluster e.w place n apx) (accesses e f scale n .read) = [] :=
    memErrors_of_reachable_load hr hs (fun place => State.marked_fillTlb ..) _
  have ha : (accesses e f scale n .read).any (fun x => x.2.2.2) = (Mask.lanes e.eff).any fun l => apxIn (target e f scale n .read l) := by
    rw [accesses, List.any_map]
    rfl
  simp only [loadLocal, hc, hw, Bool.false_eq_true, if_false, Warp.track, hsp, State.loadBytes]
  rw [hm, ha, ← laneVal_loaded e (e.s.fillTlb (fills e f scale n .read)) rfl]
  exact deliverLoad_clean hs hd 1 _

end

theorem State.perfAdd_mem (t : State) (ctx : Nat) (n : Fin 8) (k : Nat) : (t.perfAdd ctx n k).mem = t.mem := by
  unfold State.perfAdd
  split <;> rfl

theorem State.drawn_mem (t : State) (n : Nat) : (t.drawn n).mem = t.mem := by
  unfold State.drawn
  split <;> rfl

theorem completed_mem (t : State) (c : Context) (g : Group) (w : Warp) (sh : Shape) : (t.completed c g w sh).mem = t.mem := by
  rw [State.completed, State.mapWarp_mem, State.perfAdd_mem]

/-- Settles O30: the checks give the lanes' places, no error is met, and the values are delivered. -/
theorem loadsComplete : Obligations.LoadsComplete := by
  intro p hp f s c g w h hsp ha hd e n hr s1
  have hx : exec (p.1.toInstr f) s = issue (.m p.1 f) s (loadBody f (p.2 f)) noLeek := by
    fin_cases hp <;> rfl
  have hb : loadBody f (p.2 f) e = loadLocal f (p.2 f) e.eff (0, 1) e := loadBody_local hsp ha
  have touch (hw : f.nw = true) : exec (p.1.toInstr f) s = _ := hx.trans (h.done (hb.trans (loadLocal_touch hr hw)))
  have load (hw : f.nw = false) : exec (p.1.toInstr f) s = _ :=
    hx.trans (h.done (hb.trans (loadLocal_delivers hr hw h.calm hd)))
  refine ⟨touch, load, fun t ht => ?_⟩
  cases hw : f.nw with
  | true =>
    obtain rfl := Host.Outcome.next.inj ((touch hw).symm.trans ht)
    rw [completed_mem, State.fillTlb_mem]
  | false =>
    obtain rfl := Host.Outcome.next.inj ((load hw).symm.trans ht)
    rw [completed_mem, State.putWarp, State.mapWarp_mem, State.drawn_mem, State.fillTlb_mem]

end Sys2Proof.Machine
end

section
/-!
PROOF. Repeat units (R50 to R53, R245): the reserved fields of the repeat word, the units that R51 forbids, and one iteration of a legal one over an
integer instruction.
-/
namespace Sys2Proof.Machine

open Sys2Proof.Says

/-! ### Prefixes that do not decode -/

theorem decodeRep_bad {x : W32} (h : x.extractLsb' 14 18 ≠ 0 ∨ x.extractLsb' 8 4 = 0) : ∃ e, decodeRep x = .error e := by
  have hb : ¬(x.extractLsb' 14 18 == 0 && x.extractLsb' 8 4 != 0) = true := by
    simp only [Bool.and_eq_true, beq_iff_eq, bne_iff_ne, not_and_or, not_not]
    exact h
  exact ⟨_, if_neg hb⟩

/-- A repeat word with a reserved bit set or no step is no instruction, whatever follows it (R50). -/
theorem decode_bad_prefix {x : W32} {rest : List Byte} (h3 : x.extractLsb' 0 2 = 3)
    (h : x.extractLsb' 14 18 ≠ 0 ∨ x.extractLsb' 8 4 = 0) : ∃ e, decode (bytesOfWord x ++ rest) = .error e := by
  obtain ⟨e, he⟩ := decodeRep_bad h
  have hu : unassignedWord x = false := Bool.eq_false_iff.2 fun hu => (unassignedWord_iff.1 hu).1 h3
  simp only [decode, wordOfBytes_bytesOfWord]
  split_ifs
  · exact ⟨_, rfl⟩
  · exact ⟨_, rfl⟩
  · rw [decodeWords, decodeRaw_rep h3 hu, he]
    exact ⟨e, rfl⟩

/-! ### Units that R51 forbids -/

theorem followerOf_eq {bs rest : List Byte} {i : Instr} {op : LOp} {f : LForm} (hd : decode bs = .ok (i, rest))
    (hs : i.shape = some (.l op f)) : followerOf bs = some (op, f) := by
  simp only [followerOf, hd, hs]

theorem followerOf_eq_none {bs : List Byte} (h : ∀ i rest op f, decode bs = .ok (i, rest) → i.shape ≠ some (.l op f)) :
    followerOf bs = none := by
  unfold followerOf
  split
  · next i rest hd =>
    split
    · next op f hs => exact absurd hs (h i rest op f hd)
    · rfl
  · rfl

theorem repTimes_pos (p : RepPrefix) : 0 < repTimes p := by
  unfold repTimes
  split
  · decide
  · next h => exact Nat.pos_of_ne_zero fun h0 => h (BitVec.eq_of_toNat_eq h0)

/-- What a legal unit says of its opcode and of each iteration (R51). -/
theorem repLegal_iff {p : RepPrefix} {op : LOp} {f : LForm} {vcount scount : Nat} : repLegal p op f vcount scount = true ↔
    mayRepeat op = true ∧ oddStep p op f = false ∧
      ∀ k < repTimes p, ∃ f', stepForm p k f = some f' ∧ legalL op f' false vcount scount = true := by
  simp only [repLegal, Bool.and_eq_true, Bool.not_eq_true', List.all_eq_true, List.mem_range, and_assoc]
  refine and_congr_right fun _ => and_congr_right fun _ => forall₂_congr fun k _ => ?_
  cases stepForm p k f <;> simp

theorem mayRepeat_iff {op : LOp} : mayRepeat op = true ↔
    ¬((LOp.code op).toNat < 0x20 ∨ (0x3F < (LOp.code op).toNat ∧ (LOp.code op).toNat < 0x50) ∨
      (0x63 < (LOp.code op).toNat ∧ (LOp.code op).toNat < 0x81) ∨ 0x89 < (LOp.code op).toNat) := by
  simp only [mayRepeat, Bool.or_eq_true, Bool.and_eq_true, decide_eq_true_eq]
  omega

theorem stepForm_eq_some_iff {p : RepPrefix} {k : Nat} {f f' : LForm} : stepForm p k f = some f' ↔
    ∃ d s0 s1 s2, stepReg p 0 k f.dst = some d ∧ stepReg p 1 k f.src0 = some s0 ∧ stepReg p 2 k f.src1 = some s1 ∧
      stepReg p 3 k f.src2 = some s2 ∧ f' = { f with dst := d, src0 := s0, src1 := s1, src2 := s2 } := by
  simp only [stepForm, Option.bind_eq_bind, Option.bind_eq_some_iff, Option.pure_def, Option.some.injEq]
  grind

/-- The registers of an iteration are the follower's, each stepped by itself (R52). -/
theorem steppedField_stepForm {p : RepPrefix} {k : Nat} {f f' : LForm} (h : stepForm p k f = some f') {j : Nat} (hj : j < 4) :
    stepReg p j k (steppedField f j) = some (steppedField f' j) := by
  obtain ⟨d, s0, s1, s2, hd, h0, h1, h2, rfl⟩ := stepForm_eq_some_iff.1 h
  interval_cases j
  · exact hd
  · exact h0
  · exact h1
  · exact h2

theorem Reg.lt_of_inRange {wide : Bool} {vcount scount : Nat} {n : Fin 256} (h : (Reg.v n).inRange wide vcount scount = true) :
    n.val < vcount := by
  simp only [Reg.inRange, Bool.and_eq_true, decide_eq_true_eq] at h
  exact h.1

/-- The fields of a legal instruction name v registers below VCOUNT. -/
theorem steppedField_lt_of_legalL {op : LOp} {f : LForm} {vcount scount : Nat} (h : legalL op f false vcount scount = true) {j : Nat}
    {n : Fin 256} (hn : steppedField f j = .v n) : n.val < vcount := by
  simp only [legalL, Bool.and_eq_true, and_assoc] at h
  obtain ⟨-, -, -, -, -, -, -, -, -, -, -, -, hd, h0, h1, h2, -⟩ := h
  match j with
  | 0 => exact Reg.lt_of_inRange ((show f.dst = Reg.v n from hn) ▸ hd)
  | 1 => exact Reg.lt_of_inRange ((show f.src0 = Reg.v n from hn) ▸ h0)
  | 2 => exact Reg.lt_of_inRange ((show f.src1 = Reg.v n from hn) ▸ h1)
  | _ + 3 => exact Reg.lt_of_inRange ((show f.src2 = Reg.v n from hn) ▸ h2)

theorem oddStep_of_wideField {p : RepPrefix} {op : LOp} {f : LForm} {j : Nat} (hj : j < 4) (hp : p.step.getLsbD j = true)
    (h0 : p.stride = 0) (hw : wideField op f j = true) : oddStep p op f = true := by
  interval_cases j <;> simp_all [oddStep, wideField]

theorem stepReg_v {p : RepPrefix} {j k : Nat} {r r' : Reg} (hp : p.step.getLsbD j = true) (h : stepReg p j k r = some r') :
    ∃ n m : Fin 256, r = .v n ∧ r' = .v m ∧ m.val = n.val + k * 2 ^ p.stride.toNat := by
  simp only [stepReg, hp, Bool.not_true, Bool.false_eq_true, if_false] at h
  split at h
  · next n =>
    split_ifs at h with hn
    exact ⟨n, _, rfl, (Option.some.inj h).symm, rfl⟩
  · cases h

/-- A unit that R51 forbids has no follower or is not legal. -/
theorem followerOf_of_breaksUnit {p : RepPrefix} {vcount : Nat} {bs : List Byte} (h : breaksUnit p vcount bs) (scount : Nat) :
    followerOf bs = none ∨ ∃ op f, followerOf bs = some (op, f) ∧ repLegal p op f vcount scount = false := by
  obtain h | ⟨i, rest, op, f, hd, hs, h⟩ := h
  · exact .inl (followerOf_eq_none h)
  · refine .inr ⟨op, f, followerOf_eq hd hs, Bool.eq_false_iff.2 fun hl => ?_⟩
    obtain ⟨hm, ho, hk⟩ := repLegal_iff.1 hl
    obtain h | ⟨j, hj, hp, h⟩ := h
    · exact mayRepeat_iff.1 hm h
    obtain h | ⟨h0, hw⟩ | ⟨n, k, hk', hn, hv⟩ := h
    · obtain ⟨f', hf, -⟩ := hk 0 (repTimes_pos p)
      obtain ⟨n, -, hn, -⟩ := stepReg_v hp (steppedField_stepForm hf hj)
      exact h n hn
    · exact Bool.false_ne_true (ho.symm.trans (oddStep_of_wideField hj hp h0 hw))
    · obtain ⟨f', hf, hf'⟩ := hk k hk'
      obtain ⟨n', m, hn', hm', hv'⟩ := stepReg_v hp (steppedField_stepForm hf hj)
      obtain rfl : n = n' := by simpa [hn'] using hn.symm
      have := steppedField_lt_of_legalL hf' hm'
      omega

/-! ### How an iteration ends -/

section
variable {s t : State} {c : Context} {g : Group} {w : Warp} {iss : Issue}

theorem State.finishWarp_done (hc : w.spec = none) (hs : iss.sig16 = 0) : s.finishWarp c g w iss (.done t) =
    (t.perfAdd c.id 0 1).mapWarp g.uid w.id fun x => x.retire iss iss.next [] := by
  have hb : w.sigBad iss = false := by simp [Warp.sigBad, hs]
  simp only [State.finishWarp, State.retire, rolledBack_calm hc, hb, Bool.false_eq_true, if_false]

theorem State.finishWarp_fault {k : Cause} {addr : W64} {lanes : Mask} (hc : w.spec = none) (hn : w.trapMode = false)
    (hb : c.trapBase ≠ 0) (hf : iss.fetched = true) (hk : k ≠ .trap) : s.finishWarp c g w iss (.fault k addr lanes) =
    enters (s.perfAdd c.id 0 1) c g w (trapWordAt iss.pneg iss.pred iss.iter (BitVec.ofNat 8 k.code)) addr lanes w.pc := by
  simp only [State.finishWarp, hc, hf, if_neg hk, Option.isSome_none, Bool.false_eq_true, if_false, if_true]
  exact State.takeFault_enters hn hb _

end

/-- The masks of a unit: those that its first iteration read (R52). -/
def unitMasks (w : Warp) (f : LForm) : Mask × Mask := (w.rep.bind RepState.masks).getD (w.exec, w.predMask f.pneg f.pred)

/-- How iteration `i` of a unit retires: the first hashes the unit's words, and the last goes on behind the follower (R52, R54). -/
def iterationIssue (p : RepPrefix) (op : LOp) (f : LForm) (i : Nat) (w : Warp) : Issue :=
  let words := (Shape.p p).encode ++ (Shape.l op f).encode
  let last := decide (repTimes p ≤ i + 1)
  { words := if i = 0 then words else [], sig16 := 0
    next := if last then w.pc + BitVec.ofNat 64 (4 * words.length) else w.pc
    pneg := f.pneg, pred := f.pred.val, iter := i
    rep := if last then none else some { iter := i + 1, masks := some (unitMasks w f) } }

/-- An iteration whose registers exist runs its follower under the masks of the unit. -/
theorem repIteration_eq {p : RepPrefix} {op : LOp} {f f' : LForm} {i : Nat} {s : State} {c : Context} {g : Group} {w : Warp}
    (hs : stepForm p i f = some f') : repIteration p op f i s c g w = s.finishWarp c g w (iterationIssue p op f i w)
      (followerBody op f' (Env.mk' s c g { w with rep := some { iter := i, masks := some (unitMasks w f) } } f.pneg f.pred)) := by
  simp only [repIteration, hs, iterationIssue, decide_eq_true_eq, unitMasks]

/-- A governed integer instruction has its ordinary meaning in each iteration (R52). -/
theorem followerBody_intOp : ∀ q ∈ intOps, ∀ (f : LForm) (e : Env), followerBody q.1 f e = q.2.body f e := by
  intro q hq f e
  fin_cases hq <;> rfl

section
variable {p : RepPrefix} {s t : State} {c : Context} {g : Group} {w : Warp} {bs : List Byte} {lines : List (Nat × List Byte)}
variable (hi : s.issuer = some (.warp c g w)) (hf : s.fetchInstr c w.fetched w.holds (w.pc + 4).toNat = .ok bs t lines)
include hi hf

/-- A unit with a legal follower executes an iteration (R52). -/
theorem exec_rep_legal {op : LOp} {f : LForm} (hx : followerOf bs = some (op, f))
    (hl : repLegal p op f g.desc.vcount g.desc.scount = true) : exec (.rep p) s = .next (repIteration p op f
      ((w.rep.map RepState.iter).getD 0) (t.mapWarp g.uid w.id fun x => { x with fetched := lines }) c g { w with fetched := lines }) := by
  change execRep p s = _
  simp only [execRep, hi, hf, hx, hl, if_true]

/-- One without is ILLEGAL at its own address (R51). -/
theorem exec_rep_illegal (hx : followerOf bs = none ∨ ∃ op f, followerOf bs = some (op, f) ∧
      repLegal p op f g.desc.vcount g.desc.scount = false) : exec (.rep p) s =
    .next ((t.mapWarp g.uid w.id fun x => { x with fetched := lines }).finishWarp c g { w with fetched := lines }
      (prefixIssue { w with fetched := lines } ((w.rep.map RepState.iter).getD 0) (rawPredicate bs)) (.fault .illegal 0 (live w))) := by
  change execRep p s = _
  obtain hx | ⟨op, f, hx, hl⟩ := hx
  · simp only [execRep, hi, hf, hx]
    rfl
  · simp only [execRep, hi, hf, hx, hl, Bool.false_eq_true, if_false]
    rfl

end

/-- Settles O48: the repeat word's fields, the conditions of R51, and an iteration as its follower's meaning under the masks of the first. -/
theorem repeatUnitsRunTheirIterations : Obligations.RepeatUnitsRunTheirIterations := by
  refine ⟨fun x rest h3 h => decode_bad_prefix h3 h, ?_, ?_⟩
  · intro p s t c g w bs lines hi hc hn hb hf hx
    rw [exec_rep_illegal hi hf (followerOf_of_breaksUnit hx _),
      State.finishWarp_fault (w := { w with fetched := lines }) hc hn hb rfl (by decide)]
    rfl
  · intro q hq p f f' s t c g w bs lines hi hc hf hx hl i masks w1 sel words last iss v hs
    let e := Env.mk' v c g w1 f.pneg f.pred
    have hb : followerBody q.1 f' e = e.run ((intRow q).ins f' e) := followerBody_intOp q hq f' e
    have hx' : exec (.rep p) s = .next (v.finishWarp c g { w with fetched := lines } iss (followerBody q.1 f' e)) := by
      rw [exec_rep_legal hi hf hx hl, repIteration_eq hs]
      rfl
    refine ⟨fun hr => ?_, fun k hk hn ht => ?_⟩
    · have hw := Env.run_clean (e := e) (x := (intRow q).ins f' e) hr.1 hr.2 (.inr rfl) (write_ins (w := w1) hc _ _ _ _ _ 0)
      have hz : orFlags (flagMask ((intRow q).ins f' e).dst e.eff) ((intRow q).ins f' e).vals = 0 := orFlags_eq_zero fun _ => rfl
      rw [hz, Warp.setFlags_zero] at hw
      rw [hx', hb, hw, State.finishWarp_done (w := { w with fetched := lines }) hc rfl]
      rfl
    · rw [hx', hb, Env.run_early hk, Env.early, State.finishWarp_fault (w := { w with fetched := lines }) hc hn ht rfl
        (Warp.operandFault_cause hk).ne_trap]
      rfl

end Sys2Proof.Machine
end

section
/-!
PROOF. The step (R33, R34, R57, R223, R245, R248, R303, R388): what a move comes to, what an agent's turn gives for each outcome of its
fetch, and what the stop of a turn leaves.
-/
namespace Sys2Proof.Machine

open Sys2Proof.Says

/-! ### How a turn stops -/

section
variable {s : State} {c : Context} {g : Group} {w : Warp} {iss : Issue}

/-- A fault of bytes that were not fetched counts no instruction. -/
theorem State.finishWarp_fetchFault {k : Cause} {addr : W64} {lanes : Mask} (hc : w.spec = none) (hn : w.trapMode = false)
    (hb : c.trapBase ≠ 0) (hf : iss.fetched = false) (hk : k ≠ .trap) : s.finishWarp c g w iss (.fault k addr lanes) =
    enters s c g w (trapWordAt iss.pneg iss.pred iss.iter (BitVec.ofNat 8 k.code)) addr lanes w.pc := by
  simp only [State.finishWarp, hc, hf, if_neg hk, Option.isSome_none, Bool.false_eq_true, if_false]
  exact State.takeFault_enters hn hb _

/-- A speculating warp stalls where it would fault (R211). -/
theorem State.finishWarp_fault_spec {k : Cause} {addr : W64} {lanes : Mask} (hc : w.spec ≠ none) :
    s.finishWarp c g w iss (.fault k addr lanes) = s.setWait (.warp g.uid w.id) .speculation :=
  if_pos (Option.isSome_iff_ne_none.2 hc)

theorem State.finishWarp_absent_spec {va : Nat} {acc : Access} {addr : W64} {lanes : Mask} (hc : w.spec ≠ none) :
    s.finishWarp c g w iss (.absent va acc addr lanes) = s.setWait (.warp g.uid w.id) .speculation :=
  if_pos (Option.isSome_iff_ne_none.2 hc)

/-- The state in which a warp waits for the page of its instruction, with an entry in the fault ring. -/
def State.awaitsPage (s : State) (c : Context) (g : Group) (w : Warp) (va : Nat) : State :=
  (s.faultRing c.id va .fetch g.cluster).mapWarp g.uid w.id fun x =>
    { x with wait := .page (BitVec.ofNat 64 (va / 4096)) 2 (BitVec.ofNat 64 va) (live w), progress := none }

theorem State.finishWarp_absent {va : Nat} (hc : w.spec = none) :
    s.finishWarp c g w iss (.absent va .fetch (BitVec.ofNat 64 va) (live w)) = s.awaitsPage c g w va := by
  simp only [State.finishWarp, hc, Option.isSome_none, Bool.false_eq_true, if_false]
  rfl

end

/-! ### Turns -/

/-- What a step makes of an agent's turn. -/
def Turn.outcome : Turn → Host.Outcome State Fault Refusal
  | .run i s => exec i s
  | .stop s => .next s

theorem stepAgent_eq (a : AgentId) (s : State) : stepAgent a s = (s.turn a).outcome := by
  unfold stepAgent Turn.outcome
  cases s.turn a <;> rfl

section
variable {u : State} {c : Context} {g : Group} {w : Warp} {a : AgentId}

theorem State.turn_refused {n : W64} {acc : Nat} {addr : W64} {lanes : Mask} (hi : State.issuer { u with cur := some a } = some (.warp c g w))
    (hw : w.wait = .refused n acc addr lanes) :
    u.turn a = .stop (State.refuseWarp { u with cur := some a } c g w acc addr lanes) := by
  simp only [State.turn, hi, hw]

theorem State.turn_warp (hi : State.issuer { u with cur := some a } = some (.warp c g w))
    (hw : ∀ n acc addr lanes, w.wait ≠ .refused n acc addr lanes) : u.turn a = State.turnWarp { u with cur := some a } c g w := by
  simp only [State.turn, hi]

theorem State.turn_leek_refused {l : Leek} {n : W64} {acc : Nat} {addr : W64} {lanes : Mask}
    (hi : State.issuer { u with cur := some a } = some (.leek c g l)) (hw : l.wait = .refused n acc addr lanes) :
    u.turn a = .stop (State.leekFault { u with cur := some a } c g l .perm addr) := by
  simp only [State.turn, hi, hw]

theorem State.turn_leek {l : Leek} (hi : State.issuer { u with cur := some a } = some (.leek c g l))
    (hw : ∀ n acc addr lanes, l.wait ≠ .refused n acc addr lanes) : u.turn a = State.turnLeek { u with cur := some a } c g l := by
  simp only [State.turn, hi]

end

/-- How a turn is reported that runs nothing (R245). -/
def unreadIssue (w : Warp) : Issue := { prefixIssue w ((w.rep.map RepState.iter).getD 0) with fetched := false }

/-- The state in which a warp has fetched some lines. -/
def State.holdsLines (t : State) (g : Group) (w : Warp) (lines : List (Nat × List Byte)) : State :=
  t.mapWarp g.uid w.id fun x => { x with fetched := lines }

/-- Whether a warp that TRET resumed finds no such iteration in the bytes at TPC (R248). -/
def frameBad (w : Warp) (bs : List Byte) : Bool :=
  match decode bs with
  | .ok (j, _) => w.resumeBad (some j)
  | .error _ => w.resumeBad none

/-- The turn at bytes that are no instruction which the warp may run, by what the fetch of the rest of their unit gives (R34, R57,
R248). -/
def State.unitTurn (v : State) (c : Context) (g : Group) (w : Warp) (bad : Bool) : Fetched → Turn
  | .absent va => .stop (v.finishWarp c g w (unreadIssue w) (.absent va .fetch (BitVec.ofNat 64 va) (live w)))
  | .perm va => .stop (v.finishWarp c g w (unreadIssue w) (.fault .perm (BitVec.ofNat 64 va) (live w)))
  | .ok bs t lines =>
    if bad then .stop (t.endsFrame c g w)
    else .stop ((t.holdsLines g w lines).finishWarp c g { w with fetched := lines }
      (prefixIssue w ((w.rep.map RepState.iter).getD 0) (rawPredicate bs)) (.fault .illegal 0 (live w)))

section
variable {u t : State} {c : Context} {g : Group} {w : Warp} {va : Nat} {bs r : List Byte} {lines : List (Nat × List Byte)}

theorem State.turnWarp_absent (hf : u.fetchInstr c w.fetched w.holds w.pc.toNat = .absent va) : u.turnWarp c g w =
    .stop (u.finishWarp c g w (unreadIssue w) (.absent va .fetch (BitVec.ofNat 64 va) (live w))) := by
  simp only [State.turnWarp, hf]
  rfl

theorem State.turnWarp_perm (hf : u.fetchInstr c w.fetched w.holds w.pc.toNat = .perm va) : u.turnWarp c g w =
    .stop (u.finishWarp c g w (unreadIssue w) (.fault .perm (BitVec.ofNat 64 va) (live w))) := by
  simp only [State.turnWarp, hf]
  rfl

section
variable (hf : u.fetchInstr c w.fetched w.holds w.pc.toNat = .ok bs t lines)
include hf

theorem State.turnWarp_runs {i : Instr} (hd : decode bs = .ok (i, r)) (hb : w.resumeBad (some i) = false) :
    u.turnWarp c g w = .run i (t.holdsLines g w lines) := by
  simp only [State.turnWarp, hf, hd, hb, Bool.false_eq_true, if_false]
  rfl

theorem State.turnWarp_unit (hx : (∃ e, decode bs = .error e) ∨ frameBad w bs = true) : u.turnWarp c g w =
    State.unitTurn (t.holdsLines g w lines) c g w (frameBad w bs)
      (State.fetchUnit (t.holdsLines g w lines) c lines w.holds bs w.pc) := by
  simp only [State.turnWarp, hf, State.holdsLines]
  cases hd : decode bs with
  | error e =>
    have hb : frameBad w bs = w.resumeBad none := by rw [frameBad, hd]
    rw [hb]
    dsimp only
    cases State.fetchUnit _ c lines w.holds bs w.pc <;> rfl
  | ok x =>
    have hb : frameBad w bs = w.resumeBad (some x.1) := by rw [frameBad, hd]
    have ht : w.resumeBad (some x.1) = true := hb.symm.trans (hx.resolve_left (by simp [hd]))
    rw [hb, ht]
    dsimp only
    rw [if_pos ht]
    cases State.fetchUnit _ c lines w.holds bs w.pc <;> rfl

end

end

section
variable {u t : State} {c : Context} {g : Group} {l : Leek} {va : Nat} {bs r : List Byte} {lines : List (Nat × List Byte)}

theorem State.turnLeek_absent (hf : u.fetchInstr c l.fetched l.wait.holds l.pc.toNat = .absent va) : u.turnLeek c g l =
    .stop ((u.faultRing c.id va .fetch g.cluster).setWait (.leek g.uid) (.page (BitVec.ofNat 64 (va / 4096)) 2 (BitVec.ofNat 64 va) 1)) := by
  simp only [State.turnLeek, hf]
  rfl

theorem State.turnLeek_perm (hf : u.fetchInstr c l.fetched l.wait.holds l.pc.toNat = .perm va) : u.turnLeek c g l =
    .stop (u.leekFault c g l .perm (BitVec.ofNat 64 va)) := by
  simp only [State.turnLeek, hf]
  rfl

theorem State.turnLeek_runs {i : Instr} (hf : u.fetchInstr c l.fetched l.wait.holds l.pc.toNat = .ok bs t lines)
    (hd : decode bs = .ok (i, r)) : u.turnLeek c g l = .run i (t.mapLeek g.uid fun x => { x with fetched := lines }) := by
  simp only [State.turnLeek, hf, hd]

theorem State.turnLeek_illegal {e : Reject} (hf : u.fetchInstr c l.fetched l.wait.holds l.pc.toNat = .ok bs t lines)
    (hd : decode bs = .error e) :
    u.turnLeek c g l = .stop ((t.mapLeek g.uid fun x => { x with fetched := lines }).leekFault c g l .illegal 0) := by
  simp only [State.turnLeek, hf, hd]
  rfl

end

/-! ### Moves -/

section
variable {s u0 : State} {rest : List Move} {m k : Nat} {g : Group}

theorem step_eq {x : Move} (h : s.nextMove = some (x, rest)) : step s = stepMove x { s with schedule := rest, cur := none } := by
  simp only [step, h]

/-- A move that picks a warp, or goes on with one, is that warp's turn (R158, R303, R332). -/
theorem step_of_warp {w : Warp} (h : (s.nextMove = some (.slice m k, rest) ∧
      State.pickWarp { s with schedule := rest, cur := none } m k = some (g, w) ∧
      u0 = State.noteIssue { s with schedule := rest, cur := none } m k g.uid w.id) ∨
    (s.nextMove = some (.warp g.uid w.id, rest) ∧ State.group? { s with schedule := rest, cur := none } g.uid = some g ∧
      g.warp? w.id = some w ∧ State.goesOn { s with schedule := rest, cur := none } g w = true ∧
      u0 = { s with schedule := rest, cur := none })) : step s = (u0.turn (.warp g.uid w.id)).outcome := by
  obtain ⟨hm, hp, rfl⟩ | ⟨hm, hg, hw, ho, rfl⟩ := h
  · simp only [step_eq hm, stepMove, hp, stepAgent_eq]
  · simp only [step_eq hm, stepMove, hg, hw, ho, stepAgent_eq, Option.bind_some, Option.map_some, if_true]

theorem step_of_leek {l : Leek} (hm : s.nextMove = some (.leekCore m, rest))
    (hp : State.pickLeek { s with schedule := rest, cur := none } m = some (g, l)) : step s =
    (State.turn (State.mapCluster { s with schedule := rest, cur := none } m fun k => { k with lastLeek := l.index })
      (.leek g.uid)).outcome := by
  simp only [step_eq hm, stepMove, hp, stepAgent_eq]

end

/-! ### The lines of a fetch -/

section
variable {s : State} {c : Context} {hold : Bool} {a : Nat}

theorem State.fetchInstr_absent (h : s.freshLine c (a - a % 64) = .absent) : s.fetchInstr c [] hold a = .absent a := by
  have hl : s.fetchLine c [] hold (a - a % 64) = .absent := h
  simp only [State.fetchInstr, hl]

theorem State.fetchInstr_perm (h : s.freshLine c (a - a % 64) = .perm) : s.fetchInstr c [] hold a = .perm a := by
  have hl : s.fetchLine c [] hold (a - a % 64) = .perm := h
  simp only [State.fetchInstr, hl]

/-- The second line is one that the fetch does not hold yet. -/
theorem State.fetchLine_next {x : State} {line : Nat} {bs : List Byte} :
    x.fetchLine c (remember [] line bs) hold (line + 64) = x.freshLine c (line + 64) := by
  have hn : (remember [] line bs).find? (fun x => x.1 == line + 64) = none := by simp [remember]
  simp only [State.fetchLine, hn]

variable {bs : List Byte} {fill : List TlbEntry} (h : s.freshLine c (a - a % 64) = .ok bs fill 0)
  (hn : (bs.drop (a % 64)).length < lengthOf (wordOfBytes (bs.drop (a % 64))))
include h hn

theorem State.fetchInstr_next_absent (h2 : (s.fillTlb fill).freshLine c (a - a % 64 + 64) = .absent) :
    s.fetchInstr c [] hold a = .absent (a - a % 64 + 64) := by
  have hl : s.fetchLine c [] hold (a - a % 64) = .ok bs fill 0 := h
  have hl2 : ((s.fillTlb fill).drawn 0).fetchLine c (remember [] (a - a % 64) bs) hold (a - a % 64 + 64) = .absent :=
    State.fetchLine_next.trans h2
  simp only [State.fetchInstr, hl, hl2, if_neg (Nat.not_le.2 hn)]

theorem State.fetchInstr_next_perm (h2 : (s.fillTlb fill).freshLine c (a - a % 64 + 64) = .perm) :
    s.fetchInstr c [] hold a = .perm (a - a % 64 + 64) := by
  have hl : s.fetchLine c [] hold (a - a % 64) = .ok bs fill 0 := h
  have hl2 : ((s.fillTlb fill).drawn 0).fetchLine c (remember [] (a - a % 64) bs) hold (a - a % 64 + 64) = .perm :=
    State.fetchLine_next.trans h2
  simp only [State.fetchInstr, hl, hl2, if_neg (Nat.not_le.2 hn)]

end

/-! ### The statement, a part at a time -/

theorem State.up_parts {s : State} (h : s.up = true) : s.alive = true ∧ s.power = true := by
  simp only [State.up, Bool.and_eq_true, and_assoc] at h
  exact h.2

/-- Settles O3: a move of an agent is its turn, and each outcome of the turn's fetch has its equation. -/
theorem stepRunsTheDecodedInstruction : Obligations.StepRunsTheDecodedInstruction := by
  refine ⟨?warp, ?leek, ?lines, ?event, ?machines, ?tick, ?idle⟩
  case warp =>
    intro s u0 t m k rest g g' w w' c bs r lines i s' h u hi
    have hs := step_of_warp h
    refine ⟨fun n acc addr lanes hw => ?_, ?_, ?_⟩
    · rw [hs, State.turn_refused hi hw]
      rfl
    · intro hw hf hd v hb
      rw [hs, State.turn_warp hi hw, State.turnWarp_runs hf hd hb]
      rfl
    · intro hw fetch iter stalls waits
      have ht : step s = (State.turnWarp u c g' w').outcome := by rw [hs, State.turn_warp hi hw]
      refine ⟨?_, ?_, ?_⟩
      · intro va hf
        rw [State.turnWarp_absent hf] at ht
        split_ifs with hc
        · exact ht.trans (congrArg Host.Outcome.next (State.finishWarp_absent hc))
        · exact ht.trans (congrArg Host.Outcome.next (State.finishWarp_absent_spec hc))
      · intro va hf
        rw [State.turnWarp_perm hf] at ht
        exact ⟨fun hc => ht.trans (congrArg Host.Outcome.next (State.finishWarp_fault_spec hc)), fun hc hn hb =>
          ht.trans (congrArg Host.Outcome.next (State.finishWarp_fetchFault hc hn hb rfl (by decide)))⟩
      · intro hf v bad rst hx hc
        have hu : u.turnWarp c g' w' = v.unitTurn c g' w' bad rst := State.turnWarp_unit hf hx
        rw [hu] at ht
        refine ⟨fun va hr => ?_, fun va hr hn hb => ?_, fun bs' t' lines' hr => ⟨fun hbad => ?_, fun hbad hn hb => ?_⟩⟩
        · rw [hr] at ht
          exact ht.trans (congrArg Host.Outcome.next (State.finishWarp_absent hc))
        · rw [hr] at ht
          exact ht.trans (congrArg Host.Outcome.next (State.finishWarp_fetchFault hc hn hb rfl (by decide)))
        · rw [hr, hbad] at ht
          exact ht
        · rw [hr, hbad] at ht
          exact ht.trans (congrArg Host.Outcome.next
            (State.finishWarp_fault (w := { w' with fetched := lines' }) hc hn hb rfl (by decide)))
  case leek =>
    intro s t m rest g g' l l' c bs r lines i hm hp u hi
    have hs := step_of_leek hm hp
    refine ⟨fun n acc addr lanes hw => ?_, fun hw hf hd => ?_, ?_⟩
    · rw [hs, State.turn_leek_refused hi hw]
      rfl
    · rw [hs, State.turn_leek hi hw, State.turnLeek_runs hf hd]
      rfl
    · intro hw fetch
      refine ⟨fun va hf => ?_, fun va hf => ?_, fun e hf hd => ?_⟩
      · rw [hs, State.turn_leek hi hw, State.turnLeek_absent hf]
        rfl
      · rw [hs, State.turn_leek hi hw, State.turnLeek_perm hf]
        rfl
      · rw [hs, State.turn_leek hi hw, State.turnLeek_illegal hf hd]
        rfl
  case lines =>
    exact fun s c hold a => ⟨State.fetchInstr_absent, State.fetchInstr_perm, fun bs fill h hn =>
      ⟨State.fetchInstr_next_absent h hn, State.fetchInstr_next_perm h hn⟩⟩
  case event =>
    intro s i rest hm he ho
    rw [step_eq hm]
    exact if_pos (by simpa [he] using ho)
  case machines =>
    intro s rest hup s'
    obtain ⟨ha, hp⟩ := State.up_parts hup
    have hon : (s.alive && s.power) = true := by simp [ha, hp]
    refine ⟨fun u hm => ?_, fun c hm => ?_, fun hm => ?_, fun m c hm => ?_⟩
    · exact (step_eq hm).trans (if_pos hon)
    · exact (step_eq hm).trans (if_pos hon)
    · exact (step_eq hm).trans (if_pos hon)
    · exact (step_eq hm).trans (if_pos hup)
  case tick => exact fun s n rest hm => ⟨_, step_eq hm, rfl, rfl, rfl, rfl⟩
  case idle => exact fun s hm => by simp only [step, hm]

end Sys2Proof.Machine
end

section
/-!
PROOF. Instructions that the encoding, the descriptor or the mode forbids, and unassigned opcodes (R56, R57, R242, R243): every encoded
instruction but the prefix is an issue of its shape, and an issue checks the shape before it comes to the meaning.
-/
namespace Sys2Proof.Machine

open Sys2Proof.Says

/-! ### Instructions as issues of their shapes -/

theorem exec_toInstr_l (op : LOp) (f : LForm) (s : State) : ∃ wb lb, exec (op.toInstr f) s = issue (.l op f) s wb lb := by
  cases op <;> exact ⟨_, _, rfl⟩

theorem exec_toInstr_m (op : MOp) (f : MForm) (s : State) : ∃ wb lb, exec (op.toInstr f) s = issue (.m op f) s wb lb := by
  cases op <;> exact ⟨_, _, rfl⟩

theorem exec_toInstr_b (op : BOp) (f : BForm) (s : State) : ∃ wb lb, exec (op.toInstr f) s = issue (.b op f) s wb lb := by
  cases op <;> exact ⟨_, _, rfl⟩

/-- An encoded instruction but the prefix issues its own shape, under some meaning for a warp and some for a Leek thread. -/
theorem exec_eq_issue {i : Instr} {sh : Shape} (h : i.shape = some sh) (hr : ∀ r, sh ≠ .p r) (s : State) :
    ∃ wb lb, exec i s = issue sh s wb lb := by
  cases sh with
  | l op f => exact Instr.toInstr_of_shape h ▸ exec_toInstr_l op f s
  | m op f => exact Instr.toInstr_of_shape h ▸ exec_toInstr_m op f s
  | b op f => exact Instr.toInstr_of_shape h ▸ exec_toInstr_b op f s
  | sb op off pneg pred => cases i <;> cases h <;> exact ⟨_, _, rfl⟩
  | sr op imm a d => cases i <;> cases h <;> exact ⟨_, _, rfl⟩
  | p r => exact absurd rfl (hr r)
  | word x => exact Instr.toInstr_of_shape h ▸ ⟨_, _, rfl⟩

/-! ### What an issue forbids -/

section
variable {s : State} {c : Context} {g : Group} {sh : Shape} {wb : Env → Effect} {lb : LeekEnv → Effect}

/-- What is forbidden is ILLEGAL in every live lane, whatever the effective mask is (R57). -/
theorem warpEffect_forbidden {e : Env} (hc : e.w.spec = none)
    (hf : sh.legal false e.g.desc.vcount e.g.desc.scount = false ∨ sh.modeOk e.w.trapMode e.c.system = false) :
    warpEffect sh e wb = .fault .illegal 0 (live e.w) := by
  have hs : ¬(e.w.spec.isSome && sh.stalls) = true := by simp [hc]
  have hb : (!sh.legal false e.g.desc.vcount e.g.desc.scount || !sh.modeOk e.w.trapMode e.c.system) = true := by simpa using hf
  rw [warpEffect, if_neg hs, if_pos hb]
  rfl

/-- It enters the handler, at the instruction's own address (R243 to R246). -/
theorem issue_forbidden {w : Warp} (hi : s.issuer = some (.warp c g w)) (hc : w.spec = none) (hn : w.trapMode = false)
    (hb : c.trapBase ≠ 0) (hf : sh.legal false g.desc.vcount g.desc.scount = false ∨ sh.modeOk false c.system = false) :
    issue sh s wb lb = .next (trapsWith s c g w sh 0x01 0 (live w) w.pc) := by
  have he : warpEffect sh (envOf s c g w sh) wb = .fault .illegal 0 (live w) := warpEffect_forbidden hc (hn ▸ hf)
  have hx : issue sh s wb lb = .next (s.finishWarp c g w (issueOf sh w) (warpEffect sh (envOf s c g w sh) wb)) := by
    simp only [issue, hi]
    rfl
  rw [hx, he, State.finishWarp_fault hc hn hb rfl (by decide)]
  rfl

/-- An instruction that no Leek thread may issue ends its context (R67, R224). -/
theorem issue_leek_forbidden {l : Leek} (hi : s.issuer = some (.leek c g l))
    (hf : sh.legal true g.desc.vcount g.desc.scount = false) : issue sh s wb lb = .next (s.leekFault c g l .illegal 0) := by
  simp only [issue, hi, leekEffect, hf]
  rfl

end

/-- Settles O7: a forbidden instruction, an unassigned opcode among them, stops at the checks of its issue. -/
theorem forbiddenInstructionsAreIllegal : Obligations.ForbiddenInstructionsAreIllegal := by
  refine ⟨fun i sh s c g w h hr hi hc hn hb hf => ?_, fun word s c g => ⟨fun w hi hc hn hb => ?_, fun l hi => ?_⟩⟩
  · obtain ⟨wb, lb, hx⟩ := exec_eq_issue h hr s
    exact hx.trans (issue_forbidden hi hc hn hb hf)
  · exact issue_forbidden hi hc hn hb (.inl rfl)
  · exact issue_leek_forbidden hi rfl

end Sys2Proof.Machine
end

section
/-!
PROOF. The floating and transcendental instructions (R82, R83, R111, R112, R114 to R116, R119, R120, R125, R340, R341).
-/
namespace Sys2Proof.Machine

open Sys2Proof.Says

/-- Settles O14: each floating operation, and each of EXP2, LOG2, SIN and COS, runs its row's instruction. -/
theorem floatingInstructionsComplete : Obligations.FloatingInstructionsComplete := by
  unfold Obligations.FloatingInstructionsComplete
  refine ⟨fun p hp => ?_, fun p hp => ?_⟩
  · exact Row.completes_of_run (r := floatRow p) (exec_floatOp p hp) fun _ _ _ => rfl
  · exact Row.completes_of_run (r := transRow p) (exec_transOp p hp) fun _ _ _ => rfl

end Sys2Proof.Machine
end

section
/-!
PROOF. Rounding and special operands (R70, R72, R75, R79, R82, R86, R115, R119): a code is its sign, exponent and mantissa fields, its
value has the exponent at which `round` cuts, and the special operands are the first cases of the operations.
-/
namespace Sys2Proof.Machine

variable {f : FFmt} {code : Nat}

/-! ### The fields of a code (R70) -/

theorem FFmt.mantissa_lt (f : FFmt) (code : Nat) : bitsOf code 0 f.man < 2 ^ f.man := Nat.mod_lt _ (Nat.two_pow_pos _)

theorem FFmt.exponent_lt (f : FFmt) (code : Nat) : bitsOf code f.man f.exp < 2 ^ f.exp := Nat.mod_lt _ (Nat.two_pow_pos _)

/-- A code is its sign, its exponent and its mantissa. -/
theorem FFmt.code_eq_fields (h : code < 2 ^ f.width) :
    f.sign (code.testBit (f.width - 1)) + (bitsOf code f.man f.exp * 2 ^ f.man + bitsOf code 0 f.man) = code := by
  have hw : f.width - 1 = f.man + f.exp := by simp only [FFmt.width]; omega
  have hlow : bitsOf code f.man f.exp * 2 ^ f.man + bitsOf code 0 f.man = code % 2 ^ (f.width - 1) := by
    rw [hw, Nat.pow_add, Nat.mod_mul, bitsOf, bitsOf, Nat.shiftRight_zero, Nat.shiftRight_eq_div_pow, Nat.mul_comm, Nat.add_comm]
  have hhigh : f.sign (code.testBit (f.width - 1)) = 2 ^ (f.width - 1) * (code / 2 ^ (f.width - 1)) := by
    have hlt : code / 2 ^ (f.width - 1) < 2 := by
      rw [Nat.div_lt_iff_lt_mul (Nat.two_pow_pos _), ← Nat.pow_succ']
      rwa [show (f.width - 1).succ = f.width by simp only [FFmt.width]; omega]
    rw [FFmt.sign, Nat.testBit_eq_decide_div_mod_eq, Nat.mod_eq_of_lt hlt]
    interval_cases code / 2 ^ (f.width - 1) <;> simp
  rw [hlow, hhigh, Nat.div_add_mod]

/-- The exponent and mantissa of a finite value do not exceed the largest (R70). -/
theorem FFmt.fields_le_maxCode {e m : Nat} (he : e < 2 ^ f.exp) (hm : m < 2 ^ f.man) (hi : ¬(f.hasInf = true ∧ e = 2 ^ f.exp - 1))
    (hn : ¬(f = .e4m3 ∧ e = 15 ∧ m = 7)) : e * 2 ^ f.man + m ≤ f.maxCode := by
  cases f <;> simp only [FFmt.exp, FFmt.man, FFmt.hasInf, FFmt.maxCode, true_and, reduceCtorEq, false_and, not_false_eq_true] at * <;>
    omega

/-! ### Rounding a value of the format (R75) -/

/-- A value whose exponent is the one at which `round` cuts is delivered as it is. -/
theorem FFmt.round_of_exp {neg : Bool} {m : Nat} {e : Int} (h0 : m ≠ 0) (he : f.roundExp m e - f.man = e)
    (hc : (e + f.man + f.bias - 1).toNat * 2 ^ f.man + m ≤ f.maxCode) (rm : Rm) (ovft : BitVec 16) :
    f.round (.fin neg m e) rm ovft = (f.sign neg + ((e + f.man + f.bias - 1).toNat * 2 ^ f.man + m), 0) := by
  simp only [FFmt.round, h0, if_false, he, rndScaled, le_refl, if_true, sub_self, Int.toNat_zero, pow_zero, mul_one, Nat.not_lt.mpr hc,
    Bool.false_eq_true, Bool.false_and]
  rfl

/-- A subnormal value: `round` cuts at the smallest exponent. -/
theorem FFmt.round_subnormal {neg : Bool} {m : Nat} (h0 : m ≠ 0) (hm : m < 2 ^ f.man) (hc : m ≤ f.maxCode) (rm : Rm)
    (ovft : BitVec 16) : f.round (.fin neg m (1 - (f.bias : Int) - f.man)) rm ovft = (f.sign neg + m, 0) := by
  have hl : m.log2 < f.man := (Nat.log2_lt h0).mpr hm
  have hx : f.roundExp m (1 - (f.bias : Int) - f.man) - f.man = 1 - (f.bias : Int) - f.man := by
    rw [FFmt.roundExp, max_eq_right (by omega)]
  have ht : (1 - (f.bias : Int) - f.man + f.man + f.bias - 1).toNat = 0 := by omega
  rw [FFmt.round_of_exp h0 hx (by rwa [ht, Nat.zero_mul, Nat.zero_add]), ht, Nat.zero_mul, Nat.zero_add]

/-- A normal value: its leading bit stands at the exponent's place, so that `round` cuts behind its last mantissa bit. -/
theorem FFmt.round_normal {neg : Bool} {m e : Nat} (h0 : e ≠ 0) (hm : m < 2 ^ f.man) (hc : e * 2 ^ f.man + m ≤ f.maxCode) (rm : Rm)
    (ovft : BitVec 16) :
    f.round (.fin neg (2 ^ f.man + m) ((e : Int) - f.bias - f.man)) rm ovft = (f.sign neg + (e * 2 ^ f.man + m), 0) := by
  have hp : 0 < 2 ^ f.man := Nat.two_pow_pos _
  have hl : (2 ^ f.man + m).log2 = f.man := (Nat.log2_eq_iff (by omega)).mpr ⟨by omega, by rw [Nat.pow_succ]; omega⟩
  have hx : f.roundExp (2 ^ f.man + m) ((e : Int) - f.bias - f.man) - f.man = (e : Int) - f.bias - f.man := by
    rw [FFmt.roundExp, hl, max_eq_left (by omega)]
    omega
  have ht : ((e : Int) - f.bias - f.man + f.man + f.bias - 1).toNat = e - 1 := by omega
  have hs : (e - 1) * 2 ^ f.man + (2 ^ f.man + m) = e * 2 ^ f.man + m := by
    rw [← Nat.add_assoc, ← Nat.succ_mul, Nat.succ_eq_add_one, Nat.sub_add_cancel (Nat.one_le_iff_ne_zero.mpr h0)]
  rw [FFmt.round_of_exp (by omega) hx (by rwa [ht, hs]), ht, hs]

/-- `round` gives a code that is no NaN back, with no flag. -/
theorem FFmt.round_decode (h : code < 2 ^ f.width) (hn : (f.decode code).isNan = false) (rm : Rm) (ovft : BitVec 16) :
    f.round (f.decode code) rm ovft = (code, 0) := by
  have hcode := FFmt.code_eq_fields h
  have hm := f.mantissa_lt code
  have he := f.exponent_lt code
  unfold FFmt.decode at hn ⊢
  dsimp only at hn ⊢
  generalize bitsOf code 0 f.man = m at *
  generalize bitsOf code f.man f.exp = e at *
  generalize code.testBit (f.width - 1) = neg at *
  split_ifs at hn ⊢ with hi h0 h4 hz
  · obtain ⟨hf, hx⟩ : f.hasInf = true ∧ e = 2 ^ f.exp - 1 := by simpa using hi
    subst hx h0
    rw [FFmt.round, FFmt.infInto, if_pos hf, FFmt.infCode, ← hcode, Nat.add_zero]
  · cases hn
  · cases hn
  all_goals
    have hc : e * 2 ^ f.man + m ≤ f.maxCode := FFmt.fields_le_maxCode he hm (by simpa using hi) (by simpa [and_assoc] using h4)
  · subst hz
    rw [Nat.zero_mul, Nat.zero_add] at hc hcode
    by_cases h0 : m = 0
    · subst h0
      simp [FFmt.round, ← hcode]
    · rw [FFmt.round_subnormal h0 hm hc, hcode]
  · rw [FFmt.round_normal hz hm hc, hcode]

/-! ### Special operands (R72, R82, R115, R119) -/

theorem FVal.eq_nan_of_isNan {x : FVal} (h : x.isNan = true) : x = .nan := by
  cases x with
  | nan => rfl
  | inf n => cases h
  | fin n m e => cases h

@[simp] theorem FVal.nan_add (x : FVal) (rm : Rm) : FVal.nan.add x rm = .nan := by cases x <;> rfl
@[simp] theorem FVal.add_nan (x : FVal) (rm : Rm) : x.add .nan rm = .nan := by cases x <;> rfl
@[simp] theorem FVal.nan_mul (x : FVal) : FVal.nan.mul x = .nan := by cases x <;> rfl
@[simp] theorem FVal.mul_nan (x : FVal) : x.mul .nan = .nan := by cases x <;> rfl

section
variable {a b d : Nat} {rm : Rm} {ovft : BitVec 16} (hf : f ≠ .e2m1)
include hf

theorem FFmt.round_nan : f.round .nan rm ovft = (f.canon, 0) := by simp [FFmt.round, hf]

/-- A result that is NaN is the canonical one, with INV where no operand is NaN (R72, R82). -/
theorem FFmt.invIfNew_nan (anyNan : Bool) :
    invIfNew anyNan .nan (f.round .nan rm ovft) = (f.canon, if anyNan then 0 else flagINV) := by
  rw [FFmt.round_nan hf]
  cases anyNan <;> simp [invIfNew, FVal.isNan]

/-- A NaN operand gives the canonical NaN and raises nothing (R72, R115). -/
theorem FFmt.ops_of_nan (h : (f.decode a).isNan = true ∨ (f.decode b).isNan = true) :
    f.addC a b rm ovft = (f.canon, 0) ∧ f.subC a b rm ovft = (f.canon, 0) ∧ f.mulC a b rm ovft = (f.canon, 0) ∧
      f.fmaC a b d rm ovft = (f.canon, 0) ∧ f.minC a b = f.canon ∧ f.maxC a b = f.canon := by
  rcases h with h | h
  all_goals
    have hx := FVal.eq_nan_of_isNan h
    simp [FFmt.addC, FFmt.subC, FFmt.mulC, FFmt.fmaC, FFmt.minC, FFmt.maxC, hx, FVal.isNan, FVal.neg, FFmt.invIfNew_nan hf]

theorem FFmt.addC_inf_sub_inf {n : Bool} (ha : f.decode a = .inf n) (hb : f.decode b = .inf (!n)) :
    f.addC a b rm ovft = (f.canon, flagINV) := by
  simp [FFmt.addC, ha, hb, FVal.add, FVal.isNan, FFmt.invIfNew_nan hf]

theorem FFmt.products_inf_zero {n m : Bool} {e : Int} (ha : f.decode a = .inf n) (hb : f.decode b = .fin m 0 e)
    (hd : (f.decode d).isNan = false) : f.mulC a b rm ovft = (f.canon, flagINV) ∧ f.fmaC a b d rm ovft = (f.canon, flagINV) := by
  have hm : (f.decode a).mul (f.decode b) = .nan := by simp [ha, hb, FVal.mul]
  have ha' : (f.decode a).isNan = false := by rw [ha]; rfl
  have hb' : (f.decode b).isNan = false := by rw [hb]; rfl
  simp [FFmt.mulC, FFmt.fmaC, hm, ha', hb', hd, FFmt.invIfNew_nan hf]

end

theorem FFmt.sqrtC_neg {a m : Nat} {e : Int} (ha : f.decode a = .fin true m e) (hm : m ≠ 0) (rm : Rm) (ovft : BitVec 16) :
    f.sqrtC a rm ovft = (f.canon, flagINV) := by
  simp [FFmt.sqrtC, ha, hm]

theorem FFmt.rcpC_zero {a : Nat} {n : Bool} {e : Int} (ha : f.decode a = .fin n 0 e) (ovft : BitVec 16) :
    f.rcpC a ovft = (f.infCode n, flagDZ) := by
  simp [FFmt.rcpC, ha]

/-- Settles O23: a code is rounded at its own exponent, and each special operand meets its own case of the operation. -/
theorem roundingAndSpecialOperandsAreCanonical : Obligations.RoundingAndSpecialOperandsAreCanonical := by
  unfold Obligations.RoundingAndSpecialOperandsAreCanonical
  refine ⟨fun f code rm ovft h => ⟨fun hn => FFmt.round_decode h hn rm ovft, by simp [FFmt.round]⟩, fun f a b d rm ovft hf => ?_⟩
  exact ⟨FFmt.ops_of_nan hf, fun n => FFmt.addC_inf_sub_inf hf, fun n m e => FFmt.products_inf_zero hf,
    fun m e ha hm => FFmt.sqrtC_neg ha hm rm ovft, fun n e ha => FFmt.rcpC_zero ha ovft⟩

end Sys2Proof.Machine
end

section
/-!
PROOF. LDB and STB (R78, R79, R81, R154, R155, R322 to R326, R332): an equation for each read where no granule holds an error, how an
instruction goes on after one of its events, and from them the statement.
-/
namespace Sys2Proof.Machine

open Sys2Proof.Says

variable {s t : State} {c : Context} {g : Group} {w : Warp} {sh : Shape} {e : Env} {f : MForm}

/-! ### Reads without errors -/

/-- Where no granule of memory holds an error, a warp that does not speculate loads none. -/
theorem State.loadError_of_clean (hp : s.poison = []) (hs : w.spec = none) (cluster place n : Nat) (apx : Bool) :
    s.loadError cluster w place n apx = none :=
  (State.loadError_calm hs ..).trans (State.errorFor_of_unmarked (by simp [State.marked, hp]) ..)

/-- A warp that does not speculate loads the bytes of memory (R210). -/
theorem State.bytesAt_calm (hs : w.spec = none) (ps : List Nat) : s.bytesAt w ps = ps.map s.mem.get := by
  simp only [State.bytesAt, State.loadBytes, hs, Memory.read]
  exact List.map_eq_flatMap.symm

/-- The event of a sector of tables: its bytes have come. -/
theorem Env.loadEvent_table (hp : s.poison = []) (hs : e.w.spec = none) {x : RecLoad} {sector : Nat} (hx : x.nextTable = some sector) :
    e.loadEvent f s x = ({ x with
      bytes := x.bytes ++ ((x.tables.flatMap TableRead.places).filter fun p => sectorOf p.1 == sector).map fun p =>
        (p.1, s.mem.get p.1) }, []) := by
  have hn (ps : List ((Nat × Bool) × Nat)) : (ps.findSome? fun _ => (none : Option (Mask × Nat × W64))) = none :=
    List.findSome?_eq_none_iff.2 fun _ _ => rfl
  simp [Env.loadEvent, hx, State.loadError_of_clean hp hs, State.loadBytes, hs, Memory.read, errLanes, hn]

/-- The event of an element: it has been read and converted. -/
theorem Env.loadEvent_elem (hp : s.poison = []) (hs : e.w.spec = none) {x : RecLoad} {y : ElemRead} {rest : List ElemRead}
    (hx : x.nextTable = none) (hy : x.todo = y :: rest) :
    e.loadEvent f s x = ({ x with
      todo := rest
      got := x.got ++ [e.loadElem f (BRec.ofBytes x.record) (x.table (y.index / 2 ^ (BRec.ofBytes x.record).blk)) y
        (y.places.map fun p => s.mem.get p.1)] }, []) := by
  have he : (y.places.findSome? fun p => s.loadError e.g.cluster e.w p.1 1 p.2) = none := by simp [State.loadError_of_clean hp hs]
  simp [Env.loadEvent, hx, hy, he, State.bytesAt_calm hs, Function.comp_def]

theorem Env.loadEvent_none {x : RecLoad} (hx : x.nextTable = none) (hy : x.todo = []) : e.loadEvent f s x = (x, []) := by
  simp [Env.loadEvent, hx, hy]

theorem Env.loadEvent_errors (hp : s.poison = []) (hs : e.w.spec = none) (x : RecLoad) : (e.loadEvent f s x).2 = [] := by
  cases hx : x.nextTable with
  | some sector => rw [Env.loadEvent_table hp hs hx]
  | none =>
    cases hy : x.todo with
    | nil => rw [Env.loadEvent_none hx hy]
    | cons y rest => rw [Env.loadEvent_elem hp hs hx hy]

/-- The read of the next sector of a record: the instruction pauses with the rest to read (R154). -/
theorem Env.recordEvent_clean (hp : s.poison = []) (hs : e.w.spec = none) (hb : e.w.bad = []) (load : Bool)
    (todo : List (W64 × Nat × Bool)) (got : List Byte) :
    e.recordEvent load f s todo got = e.pause s (clean e.ovft 1 (.record (nextSector todo).2
      (got ++ (nextSector todo).1.map fun b => s.mem.get b.2.1))) := by
  have he : e.recordError s (nextSector todo).1 = none := by simp [Env.recordError, State.loadError_of_clean hp hs]
  simp [Env.recordEvent, he, Env.recKills, Warp.operandKills_of_clean hb, State.bytesAt_calm hs, Function.comp_def, clean]

/-! ### Going on -/

variable {wb : Env → Effect} {lb : LeekEnv → Effect} {n : Nat}

/-- An instruction that pauses stands before its next event (R332). -/
theorem WarpIssues.pauses {p : Progress} (h : WarpIssues s c g w sh) (e : wb (envOf s c g w sh) = (envOf s c g w sh).pause t p) :
    issue sh s wb lb = .next (paused t g w p) := h.wait e

/-- A read of a record. -/
theorem WarpIssues.recordReads {load : Bool} {todo : List (W64 × Nat × Bool)} {got : List Byte} (h : WarpIssues s c g w sh)
    (hp : t.poison = []) (hb : w.bad = [])
    (e : wb (envOf s c g w sh) = (envOf s c g w sh).recordEvent load f t todo got) :
    issue sh s wb lb = .next (recordThen t c g w sh todo got) :=
  h.pauses (e.trans (Env.recordEvent_clean (e := envOf s c g w sh) hp h.calm hb load todo got))

/-- An LDB whose operands and memory hold no error ends with its register written and its flags raised. -/
theorem Env.finishLdb_clean (hs : w.spec = none) (hd : ∃ d, f.data = .v d) (n : Nat) (vals : Lanes (W64 × Byte)) :
    (envOf s c g w sh).finishLdb t w f vals (0, n) [] =
      .done (t.putWarp g w ((loadsInto w sh f fun l => (vals[l]).1).setFlags (orFlags (w.eff sh) vals))) := by
  obtain ⟨d, hd⟩ := hd
  obtain ⟨w', hw⟩ := Warp.commitVec_calm hs d.val
    { eff := w.eff sh, sel := w.sel sh, kill := 0, vals := fun l => (vals[l]).1, wide := f.fmt.wide, tag := f.fmt, a := f.a, nw := false }
  have hw' : w.commitVec d.val { eff := (envOf s c g w sh).eff, sel := (envOf s c g w sh).sel, kill := 0
                                 vals := fun l => (vals[l]).1, wide := f.fmt.wide, tag := f.fmt, a := f.a, nw := false } = some w' := hw
  have hk : (0 : Mask) ||| errLanes [] &&& (envOf s c g w sh).eff = 0 := by simp [errLanes]
  simp only [Env.finishLdb, loadsInto, hd, hw, hw', State.killLanes_zero, State.killMasks, Option.getD_some, hk, Mask.and_not_zero]
  rfl

/-- An LDB that has read everything appends its next index, or ends. -/
theorem WarpIssues.ldbAppends {vals : Lanes (W64 × Byte)} {nans : List Nat} {hdr : W64} {o : BitVec 16} (h : WarpIssues s c g w sh)
    (hd : ∃ d, f.data = .v d)
    (e : wb (envOf s c g w sh) = (envOf s c g w sh).recSettle f t (clean o n (.appends vals nans hdr))) :
    issue sh s wb lb = .next (if nans = [] then ldbEnds t c g w sh f fun l => vals[l]
      else paused t g w (clean o n (.appends vals nans hdr))) := by
  cases nans with
  | nil =>
    have hv : mkLanes (fun l => vals[l]) = vals := by ext i hi <;> simp
    rw [if_pos rfl, ldbEnds, hv]
    exact h.done (e.trans (Env.finishLdb_clean h.calm hd n vals))
  | cons i rest =>
    rw [if_neg (List.cons_ne_nil i rest)]
    exact h.pauses e

/-- An LDB after one of its reads: it reads on, or goes over to its appends. -/
theorem WarpIssues.ldbOn {x : RecLoad} (h : WarpIssues s c g w sh) (hd : ∃ d, f.data = .v d)
    (e : wb (envOf s c g w sh) = (envOf s c g w sh).recSettle f t (clean (envOf s c g w sh).ovft n (.load x))) :
    issue sh s wb lb = .next (ldbGoesOn t c g w sh f n x) := by
  unfold ldbGoesOn
  cases hx : x.over with
  | false =>
    simp only [Env.recSettle, clean, hx, Bool.false_eq_true, if_false] at e
    exact h.pauses e
  | true =>
    have hl : (envOf s c g w sh).eff &&& ~~~((0 : Mask) ||| errLanes []) = w.eff sh := by
      rw [show (0 : Mask) ||| errLanes [] = 0 from rfl, Mask.and_not_zero]
      rfl
    have hv : (fun l => (mkLanes fun l => laneOf f.fmt x.got l)[l]) = laneOf f.fmt x.got := funext fun l => mkLanes_getElem ..
    simp only [Bool.true_eq_false, if_false]
    rw [← hv, ← hl]
    refine h.ldbAppends hd (e.trans ?_)
    simp only [Env.recSettle, clean, hx, if_true]
    rfl

/-- A read of an LDB. -/
theorem WarpIssues.ldbReads {x : RecLoad} (h : WarpIssues s c g w sh) (hd : ∃ d, f.data = .v d) (hp : t.poison = [])
    (hx : (envOf t c g w sh).loadEvent f t x = (envOf s c g w sh).loadEvent f t x)
    (e : wb (envOf s c g w sh) = (envOf s c g w sh).recNext f t (clean (envOf s c g w sh).ovft n (.load x))) :
    issue sh s wb lb = .next (ldbReadThen t c g w sh f n x) := by
  rw [ldbReadThen, hx]
  refine h.ldbOn hd (e.trans ?_)
  simp only [Env.recNext, clean, Env.loadEvent_errors (e := envOf s c g w sh) hp h.calm, List.append_nil]

/-- An STB after one of its events: it goes on, or raises its flags and is complete. -/
theorem WarpIssues.stbOn {stores : List (List (Nat × List Byte))} {fl : Byte} {nans : List Nat} {hdr : W64} (h : WarpIssues s c g w sh)
    (e : wb (envOf s c g w sh) =
      (envOf s c g w sh).recSettle f t (clean (envOf s c g w sh).ovft n (.stores stores fl nans hdr))) :
    issue sh s wb lb = .next (stbGoesOn t c g w sh n stores fl nans hdr) := by
  unfold stbGoesOn
  cases stores with
  | cons x rest =>
    rw [if_neg (by simp)]
    exact h.pauses e
  | nil =>
    cases nans with
    | cons i rest =>
      rw [if_neg (by simp)]
      exact h.pauses e
    | nil =>
      rw [if_pos ⟨rfl, rfl⟩]
      refine h.done (e.trans ?_)
      simp only [Env.recSettle, clean, State.killLanes_zero]
      rfl

/-! ### The stages -/

/-- An instruction that has events left uses the overflow table of its issue (R31, R252). -/
theorem ovft_of_progress {o : BitVec 16} {stage : Stage} (hp : w.progress = some (clean o n stage)) :
    (envOf s c g w sh).ovft = o := by
  simp [Env.ovft, envOf, Env.mk', hp, clean]

/-- An LDB or STB whose operands raise no fault, where a lane executes and the record's bytes may be read, reads its record. -/
theorem recBody_start {load : Bool} {bytes : List (W64 × Nat × Bool)} {fill : List TlbEntry} (hp : e.w.progress = none)
    (hs : e.w.spec = none) (hn : f.brec.toNat < e.g.desc.nbrec) (ha : addressable e.g e.w f (recData load f) (if load then [f.data] else []))
    (he : e.eff ≠ 0) (hr : e.recordBytes f = .ok (bytes, fill)) :
    recBody load f e = e.recordEvent load f (e.s.fillTlb fill) bytes [] := by
  simp only [recBody, hp, recStart, Nat.not_le.mpr hn, if_false, Env.memFault_of_addressable ha, he, hr, hs, Option.isSome_none,
    Bool.false_eq_true]

theorem recBody_record {load : Bool} {o : BitVec 16} {b : W64 × Nat × Bool} {todo : List (W64 × Nat × Bool)} {got : List Byte}
    (hp : e.w.progress = some (clean o n (.record (b :: todo) got))) : recBody load f e = e.recordEvent load f e.s (b :: todo) got := by
  simp only [recBody, hp, clean]

/-- An instruction that has begun its elements goes on with them. -/
theorem recBody_next {load : Bool} {p : Progress} (hp : e.w.progress = some p) (hr : ∀ todo got, p.stage ≠ .record todo got) :
    recBody load f e = e.recNext f e.s p := by
  simp only [recBody, hp]
  split
  · next h => exact absurd h (hr _ _)
  · next h => exact absurd h (hr _ _)
  · rfl

/-- An LDB or STB whose record has come moves its elements, where the record is well-formed and its checks find no fault. -/
theorem recBody_ready {load : Bool} {o : BitVec 16} {record : List Byte} (hp : e.w.progress = some (clean o n (.record [] record)))
    (hs : e.w.spec = none) (hb : e.w.bad = []) :
    let r := BRec.ofBytes record
    let es := r.elems f.fmt load e.eff (e.ea f 1)
    let rs := e.recChecks f r load es e.eff
    let s1 := e.s.fillTlb (fillsOf rs)
    (load = false → r.storeIllegal = false) → r.tagBad f.fmt = false → reportFault (if load then .read else .write) rs = none →
    recBody load f e = if load then ldbMove f r record es (0, 1) s1 e.w e else stbMove f r es (0, 1) s1 e.w e := by
  intro r es rs s1 hi ht hf
  have hi' : (!load && r.storeIllegal) = false := by
    cases load with
    | true => rfl
    | false => simp [hi rfl]
  have hk : e.recKills load f = (0, 1) := Warp.operandKills_of_clean hb _ _
  have hc : (e.w.spec.isSome && r.xl) = false := by simp [hs]
  simp only [recBody, hp, clean, Env.recordReady, hk, Mask.and_not_zero]
  rw [if_neg (ne_true_of_eq_false hi'), if_neg (ne_true_of_eq_false ht)]
  rw [show reportFault _ (e.recChecks f (BRec.ofBytes record) load _ e.eff) = none from hf]
  exact if_neg (ne_true_of_eq_false hc)

theorem ldbMove_touch {r : BRec} {record : List Byte} {es : List Elem} (hs : e.w.spec = none) (hw : f.nw = true) :
    ldbMove f r record es (0, n) s w e = .done s := by
  simp only [ldbMove, hw, if_true, Env.tracked, hs, Option.isSome_none, Bool.false_eq_true, if_false, State.killLanes_zero]

theorem ldbMove_calm {r : BRec} {record : List Byte} {es : List Elem} (hs : e.w.spec = none) (hw : f.nw = false) :
    ldbMove f r record es (0, n) s w e = e.recNext f s (clean e.ovft n (.load (e.planLoad f r record es))) := by
  simp [ldbMove, hw, hs, clean]

theorem stbMove_calm {r : BRec} {es : List Elem} (hs : e.w.spec = none) :
    let xs := es.filterMap (e.stbStore f r)
    stbMove f r es (0, n) s w e = e.recNext f s (clean e.ovft n (.stores (xs.map Prod.fst)
      (xs.foldl (fun a x => a ||| x.2.flags) 0) (if r.xl then xs.filterMap fun x => x.2.nan else []) r.xhdr)) := by
  simp [stbMove, hs, clean]

/-! ### The statement -/

/-- LDB and STB issue with the meaning they share. -/
theorem exec_record (load : Bool) (f : MForm) (s : State) :
    exec ((if load then MOp.ldb else .stb).toInstr f) s = issue (.m (if load then .ldb else .stb) f) s (recBody load f) noLeek := by
  cases load <;> rfl

/-- Settles O35: each issue is one read, store or append where nothing holds an error, after which the instruction goes on. -/
theorem bufferRecordAccessesComplete : Obligations.BufferRecordAccessesComplete := by
  unfold Obligations.BufferRecordAccessesComplete
  refine ⟨?begins, fun f s c g w o n => ⟨?ldb, ?stb⟩⟩
  case begins =>
    intro f s c g w load op sh h hd ha hp e he
    refine ⟨?issues, ?record, ?moves⟩
    case issues =>
      intro bytes fill hpr hn hr
      rw [exec_record]
      exact h.recordReads (t := s.fillTlb fill) hp ha.1 (recBody_start (e := e) hpr h.calm hn ha he hr)
    case record =>
      intro o n b todo got hpr
      rw [exec_record]
      exact h.recordReads hp ha.1 (recBody_record (e := e) hpr)
    case moves =>
      intro o n record hpr r es rs ht hf s1
      have hb : (load = false → r.storeIllegal = false) → recBody load f e =
          if load then ldbMove f r record es (0, 1) s1 w e else stbMove f r es (0, 1) s1 w e :=
        fun hi => recBody_ready (e := e) hpr h.calm ha.1 hi ht hf
      refine ⟨?touches, ?loads, ?stores⟩
      case touches =>
        rintro rfl hw
        exact h.done ((hb nofun).trans (ldbMove_touch (e := e) h.calm hw))
      case loads =>
        rintro rfl hw
        exact h.ldbReads hd hp rfl ((hb nofun).trans (ldbMove_calm (e := e) h.calm hw))
      case stores =>
        rintro rfl hi xs fl nans
        have hm : recBody false f e = e.recNext f s1 (clean e.ovft 1 (.stores (xs.map Prod.fst) fl nans r.xhdr)) :=
          (hb fun _ => hi).trans (stbMove_calm (e := e) h.calm)
        refine ⟨fun hx => h.stbOn (f := f) (hm.trans ?_), fun x rest hx => h.stbOn (f := f) (hm.trans ?_)⟩
        · have hn : nans = [] := by simp [nans, hx]
          rw [hn, hx]
          rfl
        · rw [hx]
          rfl
  case ldb =>
    intro h hd hw hp sh e
    refine ⟨fun x hpr => ?_, fun vals i rest hdr hpr => ?_, fun x sector hx => ?_, fun x y rest hx hy => ?_⟩
    · have hb := recBody_next (load := true) (f := f) (e := e) hpr (by simp [clean])
      rw [← ovft_of_progress (s := s) (c := c) (g := g) (sh := sh) hpr] at hb
      exact h.ldbReads hd hp rfl hb
    · have hb := recBody_next (load := true) (f := f) (e := e) hpr (by simp [clean])
      exact h.ldbAppends hd hb
    · rw [Env.loadEvent_table hp h.calm hx]
    · rw [Env.loadEvent_elem hp h.calm hx hy]
  case stb =>
    intro h sh
    refine ⟨fun x rest fl nans hdr hpr => ?_, fun fl i rest hdr hpr => ?_⟩
    all_goals
      have hb := recBody_next (load := false) (f := f) (e := envOf s c g w sh) hpr (by simp [clean])
      rw [← ovft_of_progress (s := s) (c := c) (g := g) (sh := sh) hpr] at hb
      exact h.stbOn hb

end Sys2Proof.Machine
end

section
/-!
PROOF. The operations of the matrix unit (R89, R224 to R227, R229, R230, R232, R233, R235 to R237, R308): their start, their memory
events, the element of a slot that an array operation gives, their completion, and from them the statement.
-/
namespace Sys2Proof.Machine

open Sys2Proof.Says

variable {s t : State} {c : Context} {g : Group} {l : Leek} {o : MatOp} {u : Nat}

/-! ### Updates of the state -/

/-- Two updates of one group's Leek thread are one. -/
theorem State.mapLeek_mapLeek (s : State) (u : Nat) (f h : Leek → Leek) :
    (s.mapLeek u f).mapLeek u h = s.mapLeek u fun x => h (f x) := by
  simp only [State.mapLeek, State.mapGroup, List.map_map]
  refine congrArg (fun gs => { s with groups := gs }) (List.map_congr_left fun k _ => ?_)
  by_cases hk : (k.uid == u) = true
  · simp only [Function.comp_apply, if_pos hk, Option.map_map]
    rfl
  · simp only [Function.comp_apply, if_neg hk]

/-- An update of a cluster that keeps its number is what is found under that number. -/
theorem State.cluster_mapCluster {f : Cluster → Cluster} (hf : ∀ k, (f k).id = k.id) (s : State) (k : Nat) :
    (s.mapCluster k f).cluster k = f (s.cluster k) := by
  have hmap (xs : List Cluster) : ((xs.map fun x => if x.id == k then f x else x).find? fun x => x.id == k) =
      (xs.find? fun x => x.id == k).map f := by
    induction xs with
    | nil => rfl
    | cons x xs ih => by_cases hx : x.id == k <;> simp_all
  unfold State.mapCluster
  split
  · next h =>
    obtain ⟨x, hx⟩ := Option.isSome_iff_exists.mp (List.find?_isSome.mpr (List.any_eq_true.mp h))
    simp only [State.cluster, hmap, hx, Option.map_some, Option.getD_some]
  · next h =>
    have hn : (s.clusters.find? fun x => x.id == k) = none := by simpa using h
    simp [State.cluster, hn, hf, Cluster.idle]

/-- A walk reads the tables in memory and the entries in force. -/
theorem State.walk_congr (hm : t.mem = s.mem) (ht : t.tlb = s.tlb) (p : Partition) (ctx va : Nat) (ls : List (Nat × Nat)) :
    ∀ table read, t.walk p ctx va ls table read = s.walk p ctx va ls table read := by
  induction ls with
  | nil => exact fun _ _ => rfl
  | cons x ls ih => intro table read; simp only [State.walk, State.tableInForce, hm, ht, ih]

/-- The check of a range of scratch reads memory, the entries in force and the partitions. -/
theorem State.scratchFault_congr (hm : t.mem = s.mem) (ht : t.tlb = s.tlb) (hp : t.parts = s.parts) (v : Viewer) (acc : Access)
    (offs : List Nat) : t.scratchFault v acc offs = s.scratchFault v acc offs := by
  have htr (c : Context) (va : Nat) : t.translate c va = s.translate c va := by
    simp only [State.translate, State.leafInForce, State.part?, State.walk_congr hm ht, ht, hp]
  simp only [State.scratchFault, State.resolveScratch, htr]

/-! ### The start of an operation -/

/-- MATRIX_OP_START starts the next operation of a thread whose resource is free (R225). -/
theorem exec_matrixOpStart (hg : s.group? u = some g) (hc : s.ctx? g.ctx = some c) (hl : g.leek = some l) (ho : l.nextOp = some o)
    (hf : (s.cluster g.cluster).occupied o.kind.res = false) (he : o.kind.res = .none' ∨ s.earlierOp g o = false) :
    exec (.matrixOpStart u) s = .next (s.startOp c g l o) := by
  have hb : ((s.cluster g.cluster).occupied o.kind.res || (o.kind.res != .none' && s.earlierOp g o)) = false := by
    rw [hf, Bool.false_or]
    rcases he with he | he <;> simp [he]
  show execMatrixOpStart u s = _
  simp only [execMatrixOpStart, hg, hc, hl, ho, hb]
  rfl

theorem State.startOp_of_clean (h : ∀ b ∈ l.bad, b.place ∉ o.kind.reads) : s.startOp c g l o = opStarted s g o :=
  if_neg (by simpa using h)

theorem State.startOp_of_bad (h : ∃ b ∈ l.bad, b.place ∈ o.kind.reads) :
    s.startOp c g l o = s.killLeek c g { l with pc := o.pc } 7 0 :=
  if_pos (by simpa using h)

/-! ### The memory events -/

theorem State.matrixStep_eq (hg : s.group? u = some g) (hc : s.ctx? g.ctx = some c) (hl : g.leek = some l) (ho : l.memOp = some o) :
    s.matrixStep u = s.matEvent c g l o := by
  simp only [State.matrixStep, hg, hc, hl, ho]

section
variable {p : Nat} {apx : Bool} {fill : List TlbEntry}

theorem State.matEvent_read (hr : s.resolveScratch { ctx := c, grp := g } o.nextAt .read false = .ok p apx fill)
    (hk : ∀ f type x a pitch, o.kind ≠ .acdrn f type x a pitch) : s.matEvent c g l o = (s.fillTlb fill).matRead c g l o p := by
  unfold State.matEvent
  split
  · next h => exact absurd h (hk _ _ _ _ _)
  · rw [hr]

/-- A read that meets no error adds its bytes to those that its operation holds. -/
theorem State.matRead_clean {bs : List Byte} (he : s.poisoned p o.nextBytes = false) (hb : s.mem.read p o.nextBytes = bs)
    (hk : ∀ la idx base pitch, o.kind = .agath la idx base pitch → o.events ≠ 7) : s.matRead c g l o p = opRead s g o bs := by
  have he' : s.errorAt p o.nextBytes = none := by simpa [State.poisoned] using he
  simp only [State.matRead, he', hb]
  split
  · next h => exact if_neg (by simpa using hk _ _ _ _ h)
  · rfl

theorem State.checkRows_ok {base pitch : Nat} (h : s.scratchFault { ctx := c, grp := g } .read
    (rowPieces (rowOffsets base pitch (o.held.take 256))) = none) :
    s.checkRows c g l o base pitch = s.setWait (.leek g.uid) .gathered := by
  unfold State.checkRows
  split
  · next h' => exact absurd (h.symm.trans h') nofun
  · next h' => exact absurd (h.symm.trans h') nofun
  · rfl

/-- The last read of an index vector, whose rows may all be read, lets the thread of its AGATH go on (R230). -/
theorem State.matRead_gathers {bs : List Byte} (he : s.poisoned p o.nextBytes = false) (hb : s.mem.read p o.nextBytes = bs)
    {la : Fin 2} {idx base pitch : Nat} (hk : o.kind = .agath la idx base pitch) (h7 : o.events = 7)
    (hf : s.scratchFault { ctx := c, grp := g } .read (rowPieces (rowOffsets base pitch ((o.held ++ bs).take 256))) = none) :
    s.matRead c g l o p = (opRead s g o bs).setWait (.leek g.uid) .gathered := by
  have he' : s.errorAt p o.nextBytes = none := by simpa [State.poisoned] using he
  have hf' : (opRead s g o bs).scratchFault { ctx := c, grp := g } .read
      (rowPieces (rowOffsets base pitch ((o.held ++ bs).take 256))) = none :=
    (State.scratchFault_congr rfl rfl rfl ..).trans hf
  simp only [State.matRead, he', hb]
  split
  · next h =>
    obtain ⟨rfl, rfl, rfl, rfl⟩ := MatKind.agath.inj (hk.symm.trans h)
    exact (if_pos (congrArg (· + 1) h7)).trans (State.checkRows_ok hf')
  · next h => exact absurd hk (h _ _ _ _)

/-- A store of ACDRN (R236). -/
theorem State.matEvent_store {f : Fmt} {type : SlotType} {x a pitch : Nat} (ho : o.kind = .acdrn f type x a pitch)
    (hr : s.resolveScratch { ctx := c, grp := g } o.nextAt .write false = .ok p apx fill) :
    s.matEvent c g l o = (s.fillTlb fill).matStore g o f type x p := by
  simp only [State.matEvent, ho, hr]

end

/-- A sector that a drain stores is read back, and every other byte of memory stays. -/
theorem State.matStore_mem {p : Nat} {f : Fmt} {type : SlotType} {x : Nat} (hw : s.mem.wf = true) :
    let n := acdrnRow f / 32
    let bs := ((s.drained g o f type x (o.events / n)).drop (32 * (o.events % n))).take 32
    (s.matStore g o f type x p).mem.read p bs.length = bs ∧ unchangedOutside s (s.matStore g o f type x p) [(p, 32)] := by
  intro n bs
  have hm : (s.matStore g o f type x p).mem = s.mem.write p bs := State.store_mem ..
  have hl : bs.length ≤ 32 := List.length_take_le ..
  refine ⟨hm ▸ Memory.read_write s.mem p bs hw, fun a ha => ?_⟩
  have ho : a < p ∨ p + 32 ≤ a := by simpa using ha
  rw [hm]
  exact Memory.get_write_of_outside _ _ _ _ hw (by omega)

/-! ### An array operation (R89) -/

theorem cut_eq {α : Type} (k n : Nat) (xs : List α) : cut k n xs = (List.range n).map fun i => (xs.drop (k * i)).take k := by
  induction n generalizing xs with
  | zero => rfl
  | succ n ih =>
    rw [cut, ih, List.range_succ_eq_map, List.map_cons, List.map_map]
    refine congrArg₂ _ (by simp) (List.map_congr_left fun i _ => ?_)
    simp [List.drop_drop, Nat.mul_succ, Nat.add_comm]

/-- An element of the slot after an array operation: its row of the latch against its column of the tile. -/
theorem accAll_getD {ovft : BitVec 16} {fa fb : Fmt} {scales : Option (List Nat × Nat)} {acs : List (List Nat)} {la tile : List Byte}
    {i j : Nat} (hi : i < acs.length) (hi' : i < 128) (hj : j < (acs.getD i []).length) (hj' : j < 128) :
    ((accAll ovft fa fb scales acs la tile).getD i []).getD j 0 =
      accStep ovft fa fb (scales.map fun sc => (sc.1.getD i 0, sc.2)) ((acs.getD i []).getD j 0)
        (rowEls fa ((la.drop (64 * i)).take 64)) (rowEls fb ((tile.drop (64 * j)).take 64)) := by
  rw [List.getD_eq_getElem _ _ hi] at hj ⊢
  have hrow : (accAll ovft fa fb scales acs la tile).getD i [] = (acs[i].zip ((cut 64 128 tile).map (rowEls fb))).map fun y =>
      accStep ovft fa fb (scales.map fun sc => (sc.1.getD i 0, sc.2)) y.1 (rowEls fa ((la.drop (64 * i)).take 64)) y.2 := by
    simp only [accAll, cut_eq]
    rw [List.getD_eq_getElem _ _ (by simp [hi, hi'])]
    simp
  rw [hrow, cut_eq, List.getD_eq_getElem _ _ (by simp [hj, hj']), List.getD_eq_getElem _ _ hj]
  simp

/-! ### The completion of an operation -/

/-- MATRIX_OP_COMPLETE takes an operation that has made its events off the queue, with its effect (R226). -/
theorem exec_matrixOpComplete (hg : s.group? u = some g) (hl : g.leek = some l)
    (ho : l.queue.find? (fun x => x.id == o.id && x.started && x.quiet) = some o) :
    exec (.matrixOpComplete u o.id) s = .next (opGone (s.finishOp g l o) g o) := by
  show execMatrixOpComplete u o.id s = _
  simp only [execMatrixOpComplete, hg, hl, ho]
  rfl

/-- Commands that complete write to the host alone. -/
theorem State.cluster_finishRunning (s : State) (p : Command → Bool) (st : CmdStatus) (k : Nat) :
    (s.finishRunning p st).cluster k = s.cluster k := by
  have hc (t : State) (cmd : Command) : (t.complete cmd st).clusters = t.clusters := by
    unfold State.complete
    split <;> rfl
  have hf (rs : List Running) (t : State) : (rs.foldl (fun t r => t.complete r.cmd st) t).clusters = t.clusters := by
    induction rs generalizing t with
    | nil => rfl
    | cons r rs ih => rw [List.foldl_cons, ih, hc]
  exact congrArg (fun ks => (ks.find? fun x : Cluster => x.id == k).getD (Cluster.idle k)) (hf _ s)

/-- Slots that become free are held no more (R234). -/
theorem State.slots_freeSlots (s : State) (k : Nat) (gone : AccSlot → Bool) :
    ((s.freeSlots k gone).cluster k).slots = (s.cluster k).slots.filter fun x => !gone x := by
  unfold State.freeSlots
  dsimp only
  split
  · rw [State.cluster_mapCluster]
    exact fun _ => rfl
  · rw [State.cluster_finishRunning, State.cluster_mapCluster]
    exact fun _ => rfl

/-- An operation that leaves its queue leaves the slots. -/
theorem slots_opGone (t : State) (g : Group) (o : MatOp) :
    ((opGone t g o).cluster g.cluster).slots = (t.cluster g.cluster).slots := by
  rw [opGone, State.cluster_mapCluster]
  · rfl
  · exact fun _ => rfl

/-! ### The statement -/

/-- Settles O50: each event of an operation is one equation of its meaning, and an element of the slot one step of R89. -/
theorem matrixOperationsRun : Obligations.MatrixOperationsRun := by
  unfold Obligations.MatrixOperationsRun
  refine ⟨fun u s c g l o hg hc hl => ⟨?starts, ?events, ?completes⟩, ?sums⟩
  case starts =>
    intro ho hf he
    have hx := exec_matrixOpStart hg hc hl ho hf he
    exact ⟨fun h => by rw [hx, State.startOp_of_clean h], fun h => by rw [hx, State.startOp_of_bad h]⟩
  case events =>
    intro ho v
    have hx := State.matrixStep_eq hg hc hl ho
    refine ⟨?reads, ?stores⟩
    case reads =>
      intro p apx fill hr hp hk bs
      rw [hx, State.matEvent_read hr hk]
      have hb : (s.fillTlb fill).mem.read p o.nextBytes = bs := rfl
      exact ⟨State.matRead_clean hp hb, fun la idx base pitch ha h7 hf => State.matRead_gathers hp hb ha h7 hf⟩
    case stores =>
      intro f type x a pitch p apx fill ha n hr hw data bs t
      have hat : o.nextAt = a + o.events / n * pitch + 32 * (o.events % n) := by rw [MatOp.nextAt, ha]
      have hr' : s.resolveScratch { ctx := c, grp := g } o.nextAt .write false = .ok p apx fill := by rw [hat]; exact hr
      have ht : t = (s.fillTlb fill).matStore g o f type x p := hx.trans (State.matEvent_store ha hr')
      refine ⟨ht, ?_⟩
      rw [ht]
      exact State.matStore_mem (s := s.fillTlb fill) hw
  case completes =>
    intro ho ends
    have hx (t : State) (h : s.finishOp g l o = t) : ends t := h ▸ exec_matrixOpComplete hg hl ho
    refine ⟨?tld, ?agath, ?mma, ?mmas, ?acz, ?acdrn, ?acrel⟩
    case tld => exact fun t a pitch hk => hx _ (by rw [State.finishOp, hk, wroteWhole, State.mapLeek_mapLeek]; rfl)
    case agath => exact fun la idx base pitch hk => hx _ (by rw [State.finishOp, hk, wroteWhole, State.mapLeek_mapLeek]; rfl)
    case mma => exact fun fb fa la t x hk => hx _ (by rw [State.finishOp, hk]; rfl)
    case mmas => exact fun fb fa la t x a sb hk => hx _ (by rw [State.finishOp, hk, cut_eq, List.map_map]; rfl)
    case acz => exact fun x hk => hx _ (by rw [State.finishOp, hk]; rfl)
    case acdrn => exact fun f type x a pitch hk => hx _ (by rw [State.finishOp, hk])
    case acrel =>
      intro x hk
      refine ⟨hx _ (by rw [State.finishOp, hk]), fun y hy => ?_⟩
      rw [slots_opGone, State.slots_freeSlots] at hy
      simpa using (List.mem_filter.mp hy).2
  case sums =>
    intro ovft fa fb scales acs la tile i j hi hi' hj hj' row col old rounds plus new
    have hn : new = accStep ovft fa fb (scales.map fun sc => (sc.1.getD i 0, sc.2)) old row col := accAll_getD hi hi' hj hj'
    refine ⟨fun ht => ?_, fun ht hs => ?_, fun sa sb ht hs => ?_⟩
    · rw [hn, accStep, ht]
      rfl
    · rw [hn, accStep, if_neg (by simpa using ht), hs]
      rfl
    · rw [hn, accStep, if_neg (by simpa using ht), hs]
      rfl

end Sys2Proof.Machine
end

section
/-!
PROOF. Integer, move and constant instructions on the Leek core (R24, R45, R92): what each writes where its predicate holds, and from
it their completion.
-/
namespace Sys2Proof.Machine

open Sys2Proof.Says

/-- A Leek instruction whose meaning writes one g register completes with that write. -/
theorem LeekIssues.writesG {s : State} {c : Context} {g : Group} {l : Leek} {op : LOp} {f : LForm} {x : W64}
    {wb : Env → Effect} {lb : LeekEnv → Effect} (h : LeekIssues s c g l (.l op f))
    (hb : lb (leekEnvOf s c g l) = (leekEnvOf s c g l).run f x) :
    issue (.l op f) s wb lb = .next ((leekWrites s g l f x).leekCompleted g l (.l op f)) :=
  h.done hb

section
variable {f : LForm} {k : Fin 8} (e : LeekEnv)

theorem selLeek_of_k (hk : f.src2 = .k k) :
    selLeek f e = e.run f (e.l.src f.fmt (if e.l.kbit k then f.src0 else f.src1) f.imm) := by
  simp only [selLeek, hk]

theorem cmpLeek_of_k (hk : f.dst = .k k) : cmpLeek f e = .done (if e.l.takes f.pneg f.pred then
    e.put (e.l.writeK k (cmpAll f.fmt f.sub.toNat (e.l.src f.fmt f.src0 f.imm) (e.l.src f.fmt f.src1 f.imm))) else e.s) := by
  simp only [cmpLeek, hk]

/-- ADDC writes its carry also where NW withholds the register. -/
theorem addcLeek_of_k (hk : f.src2 = .k k) :
    let sum := carrySum (e.l.src f.fmt f.src0 f.imm) (e.l.src f.fmt f.src1 f.imm) (e.l.kbit k)
    addcLeek f e = .done (if e.l.takes f.pneg f.pred then
      let l' := e.l.writeK k (2 ^ 32 ≤ sum)
      e.put (if f.nw then l' else l'.writeG f.dst (leekResult f.fmt (BitVec.ofNat 64 (sum % 2 ^ 32)))) else e.s) := by
  intro sum
  simp only [addcLeek, hk]
  split_ifs <;> rfl

end

/-- Settles O12: each meaning writes its register, its k bit, or both, where its predicate holds. -/
theorem leekRegisterInstructionsComplete : Obligations.LeekRegisterInstructionsComplete := by
  unfold Obligations.LeekRegisterInstructionsComplete
  intro f s c g l
  refine ⟨?ops, ?mov, ?movi, ?movs, ?lea, ?sel, ?cmp, ?addc⟩
  case ops =>
    intro p hp h
    rw [exec_intOp p hp]
    exact h.writesG rfl
  case mov => exact fun h => h.writesG rfl
  case movi => exact fun h => h.writesG rfl
  case movs => exact fun h => h.writesG rfl
  case lea => exact fun h => h.writesG rfl
  case sel => exact fun k hk h => h.writesG (selLeek_of_k _ hk)
  case cmp => exact fun k hk h => h.done (cmpLeek_of_k _ hk)
  case addc => exact fun k hk h => h.done (addcLeek_of_k _ hk)

end Sys2Proof.Machine
end

section
/-!
PROOF. ADDC, PLOG, ENDORSE, RAND and QSET on a warp (R94, R105, R126, R129, R136): what ADDC and RAND write beside their destination
leaves the checks of their operands as they were; from it and from the write of a destination, their completion.
-/
namespace Sys2Proof.Machine

open Sys2Proof.Says

/-! ### Writes beside the destination -/

/-- A write of a k register changes k registers alone. -/
theorem Warp.writeK_frame (w : Warp) (n : Fin 8) (m bits : Mask) : ∃ k, w.writeK n m bits = { w with k := k } := by
  unfold Warp.writeK
  split
  · exact ⟨w.k, rfl⟩
  · exact ⟨_, rfl⟩

/-- A row whose lanes deliver given values and raise no flag; its opcode plays no part in what it writes. -/
def valuesRow (os : List Opnd) (vals : Fin 64 → W64) : Row :=
  { op := .movi, os := fun _ _ => os, result := fun _ _ l => (vals l, 0) }

section
variable {e : Env} {f : LForm}

/-- An instruction that has written k registers or random states of its warp before writes its destination after them: the checks
of its operands read neither. -/
theorem Env.run_after {os : List Opnd} {vals : Fin 64 → W64} (k : Vector Mask 8) (r : Lanes W64) (hs : e.w.spec = none)
    (hr : readable e.g e.w f.a os [] [f.dst]) :
    Env.run { e with w := { e.w with k := k, rng := r } } (RegIns.of f os (mkLanes fun l => (vals l, 0))) =
      .done (e.put (writesIn { e.w with k := k, rng := r } e.eff e.sel 0 f f.fmt.wide f.fmt vals)) := by
  let e' : Env := { e with w := { e.w with k := k, rng := r } }
  obtain ⟨hbad, hfault⟩ := hr
  have hwrite : (RegIns.of f os (mkLanes fun l => (vals l, 0))).write e'.w e.eff e.sel 0 =
      some (writesIn e'.w e.eff e.sel 0 f f.fmt.wide f.fmt vals) :=
    write_ins (w := e'.w) hs (valuesRow os vals) f e e.eff e.sel 0
  have hz : orFlags (flagMask f.dst e.eff) (mkLanes fun l => (vals l, (0 : Byte))) = 0 := orFlags_eq_zero fun _ => rfl
  have hfault' : e'.w.operandFault e'.g.desc.apxFrom f.a os [] [f.dst] = none := hfault
  refine (Env.run_clean (e := e') hbad hfault' (.inr rfl) hwrite).trans ?_
  change Effect.done (e.put (Warp.setFlags _ (orFlags (flagMask f.dst e.eff) (mkLanes fun l => (vals l, (0 : Byte)))))) = _
  rw [hz, Warp.setFlags_zero]

/-! ### ADDC and RAND -/

theorem srcAt_fst (w : Warp) (imm : Option W32) (o : Opnd) (os : List Opnd) (l : Fin 64) :
    srcAt w imm (o :: os) 0 l = w.src o imm l := rfl

theorem srcAt_snd (w : Warp) (imm : Option W32) (o o' : Opnd) (os : List Opnd) (l : Fin 64) :
    srcAt w imm (o :: o' :: os) 1 l = w.src o' imm l := rfl

/-- Where no lane is killed, a bit stays. -/
theorem and_not_zero_getLsbD (b : Bool) (l : Nat) : (b && !BitVec.getLsbD (0 : Mask) l) = b := by simp

/-- ADDC writes the carries of a warp without errors, then its destination. -/
theorem addcBody_clean {k : Fin 8} (hk : f.src2 = .k k) (hs : e.w.spec = none)
    (hr : readable e.g e.w f.a [Opnd.of f.src0 f.fmt, Opnd.of f.src1 f.fmt] [] [f.dst]) :
    let sum (l : Fin 64) : Nat := carrySum (e.w.src (Opnd.of f.src0 f.fmt) f.imm l) (e.w.src (Opnd.of f.src1 f.fmt) f.imm l)
      ((e.w.kmask k).getLsbD l)
    addcBody f e = .done (e.put (writesIn
      (e.w.writeK k e.eff (maskOf fun l => if h : l < 64 then 2 ^ 32 ≤ sum ⟨l, h⟩ else false)) e.eff e.sel 0
      f f.fmt.wide f.fmt fun l => BitVec.ofNat 64 (sum l % 2 ^ 32))) := by
  intro sum
  obtain ⟨hbad, hfault⟩ := hr
  simp only [addcBody, hk, hfault, Warp.operandKills_of_clean hbad, and_not_zero_getLsbD, srcAt_fst, srcAt_snd]
  obtain ⟨ks, hks⟩ := Warp.writeK_frame e.w k e.eff (maskOf fun l => if h : l < 64 then 2 ^ 32 ≤ sum ⟨l, h⟩ else false)
  rw [hks]
  exact Env.run_after ks e.w.rng hs ⟨hbad, hfault⟩

/-- RAND advances the states of the executing lanes, then writes its destination. -/
theorem randBody_clean (hs : e.w.spec = none) (hr : readable e.g e.w f.a [] [] [f.dst]) :
    randBody f e = .done (e.put (writesIn
      { e.w with rng := mkLanes fun l => if e.eff.getLsbD l then rngNext (e.w.rng[l]) else e.w.rng[l] }
      e.eff e.sel 0 f f.fmt.wide f.fmt fun l => rngOut f.fmt (rngNext (e.w.rng[l])))) := by
  obtain ⟨hbad, hfault⟩ := hr
  simp only [randBody, hfault, mkLanes_getElem]
  exact Env.run_after e.w.k _ hs ⟨hbad, hfault⟩

/-! ### PLOG, ENDORSE and QSET -/

theorem plogBody_of_k {d a b : Fin 8} (hd : f.dst = .k d) (ha : f.src0 = .k a) (hb : f.src1 = .k b) :
    plogBody f e = .done (e.put (e.w.writeK d e.eff (maskOf fun l =>
      f.sub.getLsbD (2 * ((e.w.kmask a).getLsbD l).toNat + ((e.w.kmask b).getLsbD l).toNat)))) := by
  simp only [plogBody, hd, ha, hb]

theorem endorseBody_clean {d : Fin 256} (hd : f.dst = .v d) (hs : e.w.spec = none) (hbad : e.w.bad = [])
    (ht : e.w.tagBad (Opnd.of f.src0 f.fmt) = false) (hp : d.val < e.g.desc.apxFrom) (hl : e.w.latchBad f.src0 = false) :
    endorseBody f e = .done (e.put (writesIn e.w e.eff e.sel 0 f false f.fmt (e.w.src (Opnd.of f.src0 f.fmt) f.imm))) := by
  have hx : e.w.isApx e.g.desc.apxFrom (.v d) = false := by simpa [Warp.isApx] using hp
  obtain ⟨w', hw⟩ := Warp.commitVec_calm hs d.val
    { eff := e.eff, sel := e.sel, kill := 0, vals := e.w.src (Opnd.of f.src0 f.fmt) f.imm, wide := false, tag := f.fmt, a := f.a
      nw := f.nw }
  simp only [endorseBody, ht, hx, hl, Bool.false_eq_true, if_false, Warp.operandKills_of_clean hbad, hd, writesIn, hw,
    Option.getD_some, State.killLanes_zero]

/-- Without a killed lane, a modular register takes the values of the executing lanes. -/
theorem qput_clean (old : Lanes W64) (eff : Mask) (x : Fin 64 → W64) :
    qput old eff 0 x = mkLanes fun l => if eff.getLsbD l then x l else old[l] := by
  simp [qput]

theorem maskBits_false (n : Nat) : maskBits (fun _ => false) n = 0#n := by
  induction n with
  | zero => rfl
  | succ n ih => rw [maskBits, ih]; simp

/-- A test that no lane of a mask meets raises no fault. -/
theorem laneFault_none {k : Cause} {m : Mask} {p : Fin 64 → Bool} (h : ∀ l : Fin 64, m.getLsbD l = true → p l = false) :
    laneFault k m p = none := by
  have hz : (fun l => if h : l < 64 then m.getLsbD l && p ⟨l, h⟩ else false) = fun _ => false := by
    funext l
    split
    · next hl =>
      cases hm : m.getLsbD l with
      | false => rfl
      | true => exact h ⟨l, hl⟩ hm
    · rfl
  simp [laneFault, hz, maskOf, maskBits_false]

theorem qsetBody_clean (hr : readable e.g e.w f.a [Opnd.of f.src0 .n64, Opnd.of f.src1 .n64] [] [])
    (hq : ∀ l : Fin 64, e.eff.getLsbD l = true → 2 ≤ (e.w.src (Opnd.of f.src0 .n64) f.imm l).toNat ∧
      (e.w.src (Opnd.of f.src0 .n64) f.imm l).toNat < 2 ^ 62) :
    qsetBody f e = .done (e.put { e.w with
      qm := e.w.qm.set (modNo f) (mkLanes fun l =>
        if e.eff.getLsbD l then e.w.src (Opnd.of f.src0 .n64) f.imm l else (e.w.qm[modNo f])[l])
      qb := e.w.qb.set (modNo f) (mkLanes fun l =>
        if e.eff.getLsbD l then e.w.src (Opnd.of f.src1 .n64) f.imm l else (e.w.qb[modNo f])[l]) }) := by
  obtain ⟨hbad, hfault⟩ := hr
  have hlow : laneFault .illegal (e.sound [Opnd.of f.src0 .n64, Opnd.of f.src1 .n64]) (fun l =>
      (e.w.src (Opnd.of f.src0 .n64) f.imm l).toNat < 2 || 2 ^ 62 ≤ (e.w.src (Opnd.of f.src0 .n64) f.imm l).toNat) = none := by
    refine laneFault_none fun l hl => ?_
    rw [Env.sound_of_clean hbad] at hl
    obtain ⟨h1, h2⟩ := hq l hl
    simp only [Bool.or_eq_false_iff, decide_eq_false_iff_not]
    omega
  have hclear : clearModulus e.w.bad (modNo f) e.eff = e.w.bad := by rw [hbad]; rfl
  simp only [qsetBody, hfault, srcAt_fst, srcAt_snd, Warp.operandKills_of_clean hbad, State.killLanes_zero, hclear, qput_clean]
  split
  · next h => exact absurd (hlow.symm.trans h) nofun
  · rfl

end

/-- Settles O17: in a warp without errors each meaning is done, with one write after the other. -/
theorem pairedWritesComplete : Obligations.PairedWritesComplete := by
  unfold Obligations.PairedWritesComplete
  intro f s c g w
  refine ⟨?addc, ?plog, ?endorse, ?rand, ?qset⟩
  case addc => exact fun k hk h hr => h.done (addcBody_clean hk h.calm hr)
  case plog => exact fun d a b hd ha hb h => h.done (plogBody_of_k hd ha hb)
  case endorse => exact fun d hd h hbad ht hp hl => h.done (endorseBody_clean hd h.calm hbad ht hp hl)
  case rand => exact fun h hr => h.done (randBody_clean h.calm hr)
  case qset =>
    intro h hr q m hq
    exact h.done (qsetBody_clean hr hq)

end Sys2Proof.Machine
end

section
/-!
PROOF. The values of the integer instructions (R74, R90, R93, R95, R98 to R101): an element of a result is what the operation gives
on the elements of its sources; from it, arithmetic modulo 2^w and saturation, the shifts of a 32-bit word, and the places of bits.
-/
namespace Sys2Proof.Machine

/-! ### Bit fields -/

theorem testBit_bitsOf (x lo w i : Nat) : (bitsOf x lo w).testBit i = (decide (i < w) && x.testBit (lo + i)) := by
  simp [bitsOf, Nat.testBit_mod_two_pow, Nat.testBit_shiftRight]

/-! ### Elements (R13, R90) -/

/-- The elements of a value are 8, 16, 32 or 64 bits wide and fit into 64 bits. -/
theorem elemOf_cases (f : Fmt) : elemOf f = (8, 4) ∨ elemOf f = (16, 2) ∨ elemOf f = (32, 1) ∨ elemOf f = (64, 1) := by
  cases f <;> decide

theorem elemOf_fits (f : Fmt) : 1 < (elemOf f).1 ∧ (elemOf f).1 * (elemOf f).2 ≤ 64 := by
  rcases elemOf_cases f with h | h | h | h <;> simp [h]

theorem el_lt (f : Fmt) (x : W64) (j : Nat) : el f x j < 2 ^ (elemOf f).1 := Nat.mod_lt _ (Nat.two_pow_pos _)

theorem testBit_el (f : Fmt) (x : W64) (j i : Nat) :
    (el f x j).testBit i = (decide (i < (elemOf f).1) && x.getLsbD ((elemOf f).1 * j + i)) :=
  testBit_bitsOf ..

/-- Bit `i` of the `j`-th of `n` digits that are put side by side. -/
theorem testBit_digits (w n : Nat) (g : Nat → Nat) :
    let d := (List.range n).foldl (fun a e => a + (g e % 2 ^ w) * 2 ^ (w * e)) 0
    d < 2 ^ (w * n) ∧ ∀ j i, j < n → i < w → d.testBit (w * j + i) = (g j).testBit i := by
  induction n with
  | zero => simp
  | succ n ih =>
    obtain ⟨hlt, hbit⟩ := ih
    simp only [List.range_succ, List.foldl_append, List.foldl_cons, List.foldl_nil] at hlt hbit ⊢
    generalize (List.range n).foldl (fun a e => a + (g e % 2 ^ w) * 2 ^ (w * e)) 0 = d at hlt hbit ⊢
    have hg : g n % 2 ^ w < 2 ^ w := Nat.mod_lt _ (Nat.two_pow_pos _)
    rw [Nat.add_comm d, Nat.mul_comm (g n % 2 ^ w)]
    refine ⟨?_, fun j i hj hi => ?_⟩
    · calc 2 ^ (w * n) * (g n % 2 ^ w) + d < 2 ^ (w * n) * (g n % 2 ^ w + 1) := by rw [Nat.mul_succ]; omega
        _ ≤ 2 ^ (w * n) * 2 ^ w := Nat.mul_le_mul_left _ hg
        _ = 2 ^ (w * (n + 1)) := by rw [← pow_add, Nat.mul_succ]
    · rw [Nat.testBit_two_pow_mul_add _ hlt]
      rcases Nat.lt_succ_iff_lt_or_eq.mp hj with hj | rfl
      · have : w * (j + 1) ≤ w * n := Nat.mul_le_mul_left _ hj
        rw [if_pos (by rw [Nat.mul_succ] at this; omega), hbit j i hj hi]
      · simp [Nat.testBit_mod_two_pow, hi]

section
variable {f : Fmt} {j : Nat} (hj : j < (elemOf f).2)
include hj

theorem el_ofEls (g : Nat → Nat) : el f (ofEls f g) j = g j % 2 ^ (elemOf f).1 := by
  obtain ⟨-, hfit⟩ := elemOf_fits f
  refine Nat.eq_of_testBit_eq fun i => ?_
  rw [testBit_el, Nat.testBit_mod_two_pow]
  by_cases hi : i < (elemOf f).1
  · have hw : (elemOf f).1 * (j + 1) ≤ (elemOf f).1 * (elemOf f).2 := Nat.mul_le_mul_left _ hj
    have h64 : (elemOf f).1 * j + i < 64 := by rw [Nat.mul_succ] at hw; omega
    simp only [ofEls, BitVec.getLsbD_ofNat, h64, hi, (testBit_digits _ _ g).2 j i hj hi, decide_true, Bool.true_and]
  · simp [hi]

theorem el_mapEls (op : Nat → Nat → Nat → Nat) (a b c : W64) :
    el f (mapEls f op a b c) j = op (el f a j) (el f b j) (el f c j) % 2 ^ (elemOf f).1 := el_ofEls hj _

end

/-! ### Arithmetic modulo 2^w (R90) -/

theorem wrapTo_cast (w : Nat) (y : Int) : (wrapTo w y : Int) = y % 2 ^ w :=
  Int.toNat_of_nonneg (Int.emod_nonneg _ (by positivity))

theorem wrapTo_lt (w : Nat) (y : Int) : wrapTo w y < 2 ^ w := by
  have h := Int.emod_lt_of_pos y (show (0 : Int) < 2 ^ w by positivity)
  rw [← wrapTo_cast] at h
  exact_mod_cast h

theorem wrapTo_of_modEq {w n : Nat} {y : Int} (h : y ≡ n [ZMOD 2 ^ w]) : wrapTo w y = n % 2 ^ w := by
  have hc : (wrapTo w y : Int) = (n % 2 ^ w : Nat) := by
    rw [wrapTo_cast, h]
    push_cast
    rfl
  exact_mod_cast hc

theorem el_intEls {f : Fmt} {j : Nat} (hj : j < (elemOf f).2) (op : Int → Int → Int → Int) (a b c : W64) :
    el f (intEls f op a b c) j = wrapTo (elemOf f).1 (op (elInt f (el f a j)) (elInt f (el f b j)) (elInt f (el f c j))) := by
  rw [intEls, el_mapEls hj, Nat.mod_eq_of_lt (wrapTo_lt ..)]

/-- The number that an element means is the element modulo 2^w. -/
theorem elInt_modEq (f : Fmt) (x : Nat) : elInt f x ≡ x [ZMOD 2 ^ (elemOf f).1] := by
  unfold elInt signed
  split_ifs
  · rfl
  · exact (Int.modEq_iff_dvd.mpr ⟨1, by ring⟩)
  · rfl

/-! ### The range of a format (R74, R93) -/

/-- 2^w is twice the weight of the sign bit. -/
theorem two_pow_elemOf (f : Fmt) : (2 : Int) ^ (elemOf f).1 = 2 * 2 ^ ((elemOf f).1 - 1) := by
  obtain ⟨hw, -⟩ := elemOf_fits f
  rw [← pow_succ', Nat.sub_add_cancel (by omega)]

/-- The range of a format holds 2^w numbers. -/
theorem maxOf_eq (f : Fmt) : maxOf f = minOf f + 2 ^ (elemOf f).1 - 1 := by
  unfold minOf maxOf
  cases f.isSigned with
  | false => simp
  | true => simp only [if_true, two_pow_elemOf]; ring

theorem minOf_le_maxOf (f : Fmt) : minOf f ≤ maxOf f := by
  have h : (0 : Int) < 2 ^ (elemOf f).1 := by positivity
  rw [maxOf_eq]
  omega

/-- An element means a number in the range of its format. -/
theorem elInt_range {f : Fmt} {x : Nat} (hx : x < 2 ^ (elemOf f).1) : minOf f ≤ elInt f x ∧ elInt f x ≤ maxOf f := by
  have hx' : (x : Int) < 2 ^ (elemOf f).1 := by exact_mod_cast hx
  rw [maxOf_eq]
  unfold minOf elInt signed
  cases f.isSigned with
  | false => simp only [Bool.false_eq_true, if_false]; omega
  | true =>
    have hp := two_pow_elemOf f
    have hc : (x : Int) < 2 ^ ((elemOf f).1 - 1) ↔ x < 2 ^ ((elemOf f).1 - 1) := by exact_mod_cast Iff.rfl
    simp only [if_true]
    split_ifs with h <;> rw [← hc] at h <;> omega

/-- A number in the range of its format is what its bits mean. -/
theorem elInt_wrapTo {f : Fmt} {y : Int} (h1 : minOf f ≤ y) (h2 : y ≤ maxOf f) : elInt f (wrapTo (elemOf f).1 y) = y := by
  obtain ⟨h3, h4⟩ := elInt_range (wrapTo_lt (elemOf f).1 y)
  have hm : elInt f (wrapTo (elemOf f).1 y) ≡ y [ZMOD 2 ^ (elemOf f).1] :=
    (elInt_modEq f _).trans (by rw [wrapTo_cast]; exact Int.mod_modEq ..)
  have hr := maxOf_eq f
  exact Int.eq_of_sub_eq_zero (Int.eq_zero_of_abs_lt_dvd hm.symm.dvd (abs_sub_lt_iff.mpr ⟨by omega, by omega⟩))

/-- A saturated number is in the range of its format. -/
theorem elInt_wrapTo_sat (f : Fmt) (y : Int) : elInt f (wrapTo (elemOf f).1 (sat f y)) = min (max y (minOf f)) (maxOf f) :=
  elInt_wrapTo (le_min (le_max_right ..) (minOf_le_maxOf f)) (min_le_right ..)

/-- Two numbers of a window of `p` numbers that starts at 0, or lies evenly about 0, have their product in `p` times the window. -/
theorem product_in_window {a b lo p : Int} (h : lo = 0 ∨ 0 < p ∧ p = 2 * -lo) (ha : lo ≤ a ∧ a < lo + p)
    (hb : lo ≤ b ∧ b < lo + p) :
    lo * p ≤ a * b ∧ a * b < (lo + p) * p := by
  obtain ⟨ha1, ha2⟩ := ha
  obtain ⟨hb1, hb2⟩ := hb
  rcases h with rfl | ⟨h0, rfl⟩
  · have hab : a * b < p * p := mul_lt_mul'' (by omega) (by omega) ha1 hb1
    have := mul_nonneg ha1 hb1
    constructor <;> linarith
  · have hab : |a * b| ≤ -lo * -lo := by
      rw [abs_mul]
      exact mul_le_mul (abs_le.mpr ⟨by omega, by omega⟩) (abs_le.mpr ⟨by omega, by omega⟩) (abs_nonneg b) (by omega)
    obtain ⟨h1, h2⟩ := abs_le.mp hab
    have hlo : 0 < lo * lo := mul_pos_of_neg_of_neg (by omega) (by omega)
    constructor <;> linarith

/-- The range of a format starts at 0, or lies evenly about 0. -/
theorem minOf_cases (f : Fmt) : minOf f = 0 ∨ 0 < (2 : Int) ^ (elemOf f).1 ∧ 2 ^ (elemOf f).1 = 2 * -minOf f := by
  unfold minOf
  cases f.isSigned with
  | false => exact .inl rfl
  | true => exact .inr ⟨by positivity, by simp only [if_true, neg_neg, two_pow_elemOf]⟩

/-- The high half of a product is in the range of its format (R95). -/
theorem mulh_range {f : Fmt} {x y : Nat} (hx : x < 2 ^ (elemOf f).1) (hy : y < 2 ^ (elemOf f).1) :
    minOf f ≤ elInt f x * elInt f y / 2 ^ (elemOf f).1 ∧ elInt f x * elInt f y / 2 ^ (elemOf f).1 ≤ maxOf f := by
  obtain ⟨hx1, hx2⟩ := elInt_range hx
  obtain ⟨hy1, hy2⟩ := elInt_range hy
  rw [maxOf_eq] at hx2 hy2 ⊢
  obtain ⟨hlow, hhigh⟩ := product_in_window (minOf_cases f) ⟨hx1, by omega⟩ ⟨hy1, by omega⟩
  have hp : (0 : Int) < 2 ^ (elemOf f).1 := by positivity
  exact ⟨Int.le_ediv_of_mul_le hp hlow, Int.le_sub_one_of_lt (Int.ediv_lt_of_lt_mul hp hhigh)⟩

/-! ### Sums and products (R93, R95) -/

section
variable (f : LForm) (a b c : W64)

theorem opAdd_value : opAdd.value f a b c = intEls f.fmt (fun x y _ => sumOp f (x + y)) a b c := rfl
theorem opSub_value : opSub.value f a b c = intEls f.fmt (fun x y _ => sumOp f (x - y)) a b c := rfl
theorem opMul_value : opMul.value f a b c = intEls f.fmt (fun x y _ => x * y) a b c := rfl
theorem opMad_value : opMad.value f a b c = intEls f.fmt (fun x y z => x * y + z) a b c := rfl
theorem opMulh_value : opMulh.value f a b c = intEls f.fmt (fun x y _ => x * y / 2 ^ (elemOf f.fmt).1) a b c := rfl

end

section
variable {f : LForm} {j : Nat} (hj : j < (elemOf f.fmt).2) (a b c : W64)
include hj

theorem el_opAdd_wraps (hs : f.sub ≠ 1) :
    el f.fmt (opAdd.value f a b c) j = (el f.fmt a j + el f.fmt b j) % 2 ^ (elemOf f.fmt).1 := by
  rw [opAdd_value, el_intEls hj]
  refine wrapTo_of_modEq ?_
  rw [sumOp, if_neg hs, Nat.cast_add]
  exact (elInt_modEq ..).add (elInt_modEq ..)

theorem el_opSub_wraps (hs : f.sub ≠ 1) :
    el f.fmt (opSub.value f a b c) j = (el f.fmt a j + (2 ^ (elemOf f.fmt).1 - el f.fmt b j)) % 2 ^ (elemOf f.fmt).1 := by
  rw [opSub_value, el_intEls hj]
  refine wrapTo_of_modEq ?_
  rw [sumOp, if_neg hs, Nat.cast_add, Nat.cast_sub (el_lt ..).le]
  refine ((elInt_modEq ..).sub (elInt_modEq ..)).trans (Int.modEq_iff_dvd.mpr ⟨1, ?_⟩)
  push_cast
  ring

theorem elInt_opAdd_saturates (hs : f.sub = 1) : elInt f.fmt (el f.fmt (opAdd.value f a b c) j) =
    min (max (elInt f.fmt (el f.fmt a j) + elInt f.fmt (el f.fmt b j)) (minOf f.fmt)) (maxOf f.fmt) := by
  rw [opAdd_value, el_intEls hj, sumOp, if_pos hs, elInt_wrapTo_sat]

theorem elInt_opSub_saturates (hs : f.sub = 1) : elInt f.fmt (el f.fmt (opSub.value f a b c) j) =
    min (max (elInt f.fmt (el f.fmt a j) - elInt f.fmt (el f.fmt b j)) (minOf f.fmt)) (maxOf f.fmt) := by
  rw [opSub_value, el_intEls hj, sumOp, if_pos hs, elInt_wrapTo_sat]

theorem el_opMul : el f.fmt (opMul.value f a b c) j = (el f.fmt a j * el f.fmt b j) % 2 ^ (elemOf f.fmt).1 := by
  rw [opMul_value, el_intEls hj]
  refine wrapTo_of_modEq ?_
  rw [Nat.cast_mul]
  exact (elInt_modEq ..).mul (elInt_modEq ..)

theorem el_opMad : el f.fmt (opMad.value f a b c) j = (el f.fmt a j * el f.fmt b j + el f.fmt c j) % 2 ^ (elemOf f.fmt).1 := by
  rw [opMad_value, el_intEls hj]
  refine wrapTo_of_modEq ?_
  rw [Nat.cast_add, Nat.cast_mul]
  exact ((elInt_modEq ..).mul (elInt_modEq ..)).add (elInt_modEq ..)

/-- The exact product is its high half by MULH and its low half by MUL. -/
theorem product_eq_mulh_mul : elInt f.fmt (el f.fmt a j) * elInt f.fmt (el f.fmt b j) =
    2 ^ (elemOf f.fmt).1 * elInt f.fmt (el f.fmt (opMulh.value f a b c) j) + el f.fmt (opMul.value f a b c) j := by
  obtain ⟨h1, h2⟩ := mulh_range (el_lt f.fmt a j) (el_lt f.fmt b j)
  rw [opMulh_value, opMul_value, el_intEls hj, el_intEls hj, elInt_wrapTo h1 h2, wrapTo_cast, Int.mul_ediv_add_emod]

end

/-! ### Shifts of a 32-bit word (R99) -/

section
variable (f : LForm) (a n c : W64)

theorem opShl_value : opShl.value f a n c = mapEls f.fmt (fun x k _ => shlEl (elemOf f.fmt).1 x k) a n c := rfl
theorem opShr_value : opShr.value f a n c = mapEls f.fmt (fun x k _ => shrEl (elemOf f.fmt).1 x k) a n c := rfl
theorem opSar_value : opSar.value f a n c = mapEls f.fmt (fun x k _ => sarEl (elemOf f.fmt).1 x k) a n c := rfl
theorem opRot_value : opRot.value f a n c = mapEls f.fmt (fun x k _ => rotEl (elemOf f.fmt).1 x k) a n c := rfl

end

theorem shlEl_toNat (x : W32) (n : Nat) : shlEl 32 x.toNat n % 2 ^ 32 = (x <<< n).toNat := by
  rw [BitVec.toNat_shiftLeft, Nat.shiftLeft_eq, shlEl]
  split_ifs with h
  · exact Nat.mod_mod ..
  · exact (Nat.mod_eq_zero_of_dvd (Dvd.dvd.mul_left (Nat.pow_dvd_pow 2 (not_lt.mp h)) _)).symm

theorem shrEl_toNat (x : W32) (n : Nat) : shrEl 32 x.toNat n % 2 ^ 32 = (x >>> n).toNat := by
  have hx := x.isLt
  rw [BitVec.toNat_ushiftRight, Nat.shiftRight_eq_div_pow, shrEl]
  split_ifs with h
  · exact Nat.mod_eq_of_lt ((Nat.div_le_self ..).trans_lt hx)
  · exact (Nat.div_eq_of_lt (hx.trans_le (Nat.pow_le_pow_right (by norm_num) (not_lt.mp h)))).symm

theorem signed_toNat (x : W32) : signed 32 x.toNat = x.toInt := by
  rw [signed, BitVec.toInt_eq_toNat_cond]
  split_ifs <;> omega

/-- From 32 on, an arithmetic shift leaves the sign. -/
theorem toInt_div_two_pow_min (x : W32) (n : Nat) : x.toInt / 2 ^ min n 32 = x.toInt / 2 ^ n := by
  rcases le_total n 32 with h | h
  · rw [min_eq_left h]
  · have hp : (2 : Int) ^ 32 ≤ 2 ^ n := pow_le_pow_right₀ (by norm_num) h
    have h1 := x.toInt_lt
    have h2 := x.le_toInt
    rw [min_eq_right h]
    rcases lt_or_ge x.toInt 0 with h0 | h0
    · rw [Int.ediv_eq_neg_one_of_neg_of_le h0 (by omega), Int.ediv_eq_neg_one_of_neg_of_le h0 (by omega)]
    · rw [Int.ediv_eq_zero_of_lt h0 (by omega), Int.ediv_eq_zero_of_lt h0 (by omega)]

theorem sarEl_toNat (x : W32) (n : Nat) : sarEl 32 x.toNat n % 2 ^ 32 = (x.sshiftRight n).toNat := by
  rw [sarEl, signed_toNat, toInt_div_two_pow_min, Nat.mod_eq_of_lt (wrapTo_lt ..), BitVec.sshiftRight, BitVec.toNat_ofInt,
    Int.shiftRight_eq_div_pow]
  rfl

theorem rotEl_toNat (x : W32) (n : Nat) : rotEl 32 x.toNat n % 2 ^ 32 = (x.rotateLeft (n % 32)).toNat := by
  have hx := x.isLt
  have hk : n % 32 < 32 := Nat.mod_lt _ (by norm_num)
  rw [BitVec.toNat_rotateLeft, Nat.mod_mod, rotEl]
  generalize n % 32 = k at hk ⊢
  have hp : 2 ^ 32 = 2 ^ k * 2 ^ (32 - k) := by rw [← pow_add, Nat.add_sub_cancel' hk.le]
  have hlow : x.toNat / 2 ^ (32 - k) < 2 ^ k := Nat.div_lt_of_lt_mul (by rwa [mul_comm, ← hp])
  have hhigh : x.toNat * 2 ^ k % 2 ^ 32 = 2 ^ k * (x.toNat % 2 ^ (32 - k)) := by
    rw [hp, mul_comm, Nat.mul_mod_mul_left]
  rw [Nat.shiftLeft_eq, Nat.shiftRight_eq_div_pow, hhigh, ← Nat.two_pow_add_eq_or_of_lt hlow]
  refine Nat.mod_eq_of_lt ?_
  have := Nat.mod_lt x.toNat (Nat.two_pow_pos (32 - k))
  rw [hp]
  calc _ < 2 ^ k * (x.toNat % 2 ^ (32 - k) + 1) := by rw [Nat.mul_succ]; omega
    _ ≤ _ := Nat.mul_le_mul_left _ this

/-- In a format of one 32-bit element, the low word of a result is the operation on the low words. -/
theorem lo32_mapEls {f : Fmt} (hf : elemOf f = (32, 1)) {op : Nat → Nat → Nat → Nat} {a n c : W64} {y : W32}
    (h : op (lo32 a).toNat (lo32 n).toNat (lo32 c).toNat % 2 ^ 32 = y.toNat) : lo32 (mapEls f op a n c) = y := by
  have hel (x : W64) : el f x 0 = (lo32 x).toNat := by simp [el, hf, bitsOf, lo32]
  have hm := el_mapEls (f := f) (j := 0) (by simp [hf]) op a n c
  rw [hel, hel, hel, hel, hf] at hm
  exact BitVec.eq_of_toNat_eq (hm.trans h)

/-! ### Places of bits (R101) -/

section
variable {w : Nat} {p : Nat → Bool}

/-- Where a predicate holds at none of `w` indices, its first index is `w`. -/
theorem firstIndex_of_none (h : ∀ i, i < w → p i = false) : ((List.range w).find? p).getD w = w := by
  have : (List.range w).find? p = none := by simpa using h
  rw [this, Option.getD_none]

theorem firstIndex_spec (h : ∃ i, i < w ∧ p i = true) :
    let n := ((List.range w).find? p).getD w
    n < w ∧ p n = true ∧ ∀ i, i < n → p i = false := by
  obtain ⟨i, hi, hp⟩ := h
  obtain ⟨n, hn⟩ := Option.isSome_iff_exists.mp (List.find?_isSome.mpr ⟨i, List.mem_range.mpr hi, hp⟩)
  obtain ⟨h1, h2, h3⟩ := List.find?_range_eq_some.mp hn
  rw [hn, Option.getD_some]
  exact ⟨List.mem_range.mp h2, h1, by simpa using h3⟩

theorem firstIndex_le (w : Nat) (p : Nat → Bool) : ((List.range w).find? p).getD w ≤ w := by
  by_cases h : ∃ i, i < w ∧ p i = true
  · exact (firstIndex_spec h).1.le
  · exact (firstIndex_of_none (by simpa using h)).le

end

section
variable {w x : Nat}

theorem ffsEl_zero : ffsEl w 0 = w := firstIndex_of_none fun i _ => Nat.zero_testBit i

theorem clzEl_zero : clzEl w 0 = w := firstIndex_of_none fun _ _ => Nat.zero_testBit _

/-- A number below 2^w that is not 0 has a set bit below `w`. -/
theorem exists_testBit (h0 : x ≠ 0) (hx : x < 2 ^ w) : ∃ i, i < w ∧ x.testBit i = true := by
  obtain ⟨i, hi⟩ := Nat.exists_testBit_of_ne_zero h0
  refine ⟨i, ?_, hi⟩
  by_contra hn
  rw [Nat.testBit_lt_two_pow (hx.trans_le (Nat.pow_le_pow_right (by norm_num) (not_lt.mp hn)))] at hi
  exact Bool.false_ne_true hi

theorem ffsEl_lt_two_pow (w x : Nat) : ffsEl w x < 2 ^ w := (firstIndex_le ..).trans_lt Nat.lt_two_pow_self

theorem clzEl_lt_two_pow (w x : Nat) : clzEl w x < 2 ^ w := (firstIndex_le ..).trans_lt Nat.lt_two_pow_self

theorem ffsEl_spec (h0 : x ≠ 0) (hx : x < 2 ^ w) :
    ffsEl w x < w ∧ x.testBit (ffsEl w x) = true ∧ ∀ i, i < ffsEl w x → x.testBit i = false :=
  firstIndex_spec (exists_testBit h0 hx)

theorem clzEl_spec (h0 : x ≠ 0) (hx : x < 2 ^ w) :
    clzEl w x < w ∧ 2 ^ (w - 1 - clzEl w x) ≤ x ∧ x < 2 ^ (w - clzEl w x) := by
  obtain ⟨i, hi, hb⟩ := exists_testBit h0 hx
  obtain ⟨h1, h2, h3⟩ := firstIndex_spec (w := w) (p := fun i => x.testBit (w - 1 - i))
    ⟨w - 1 - i, by omega, by rwa [show w - 1 - (w - 1 - i) = i by omega]⟩
  refine ⟨h1, Nat.ge_two_pow_of_testBit h2, Nat.lt_pow_two_of_testBit _ fun k hk => ?_⟩
  by_cases hw : k < w
  · have := h3 (w - 1 - k) (by change w - clzEl w x ≤ k at hk; change _ < clzEl w x; omega)
    rwa [show w - 1 - (w - 1 - k) = k by omega] at this
  · exact Nat.testBit_lt_two_pow (hx.trans_le (Nat.pow_le_pow_right (by norm_num) (not_lt.mp hw)))

/-- The bits of `x` below `m`, mirrored: they stand below 2^w from bit `w - m` on. -/
theorem brev_firstBits (x : Nat) {m : Nat} (hm : m ≤ w) :
    ∃ r, (List.range m).foldl (fun a i => a + if x.testBit i then 2 ^ (w - 1 - i) else 0) 0 = 2 ^ (w - m) * r ∧
      ∀ j, r.testBit j = (decide (j < m) && x.testBit (m - 1 - j)) := by
  induction m with
  | zero => exact ⟨0, by simp⟩
  | succ m ih =>
    obtain ⟨r, hr, hbit⟩ := ih (by omega)
    refine ⟨Nat.bit (x.testBit m) r, ?_, fun j => ?_⟩
    · rw [List.range_succ, List.foldl_append, hr, show w - m = w - 1 - m + 1 by omega, show w - (m + 1) = w - 1 - m by omega,
        List.foldl_cons, List.foldl_nil, Nat.bit_val]
      cases x.testBit m <;> simp <;> ring
    · cases j with
      | zero => simp
      | succ j =>
        rw [Nat.testBit_bit_succ, hbit, show m + 1 - 1 - (j + 1) = m - 1 - j by omega]
        simp

theorem testBit_brevEl (x : Nat) {i : Nat} (hi : i < w) : (brevEl w x).testBit i = x.testBit (w - 1 - i) := by
  obtain ⟨r, hr, hbit⟩ := brev_firstBits x (le_refl w)
  rw [brevEl, hr, Nat.sub_self, pow_zero, one_mul, hbit]
  simp [hi]

end

section
variable {f : LForm} {j : Nat} (hj : j < (elemOf f.fmt).2) (a b c : W64)
include hj

theorem testBit_opBrev {i : Nat} (hi : i < (elemOf f.fmt).1) :
    (el f.fmt (opBrev.value f a b c) j).testBit i = (el f.fmt a j).testBit ((elemOf f.fmt).1 - 1 - i) := by
  have hv : opBrev.value f a b c = mapEls f.fmt (fun x _ _ => brevEl (elemOf f.fmt).1 x) a b c := rfl
  rw [hv, el_mapEls hj, Nat.testBit_mod_two_pow, testBit_brevEl _ hi]
  simp [hi]

theorem el_opFfs : el f.fmt (opFfs.value f a b c) j = ffsEl (elemOf f.fmt).1 (el f.fmt a j) := by
  have hv : opFfs.value f a b c = mapEls f.fmt (fun x _ _ => ffsEl (elemOf f.fmt).1 x) a b c := rfl
  rw [hv, el_mapEls hj, Nat.mod_eq_of_lt (ffsEl_lt_two_pow ..)]

theorem el_opClz : el f.fmt (opClz.value f a b c) j = clzEl (elemOf f.fmt).1 (el f.fmt a j) := by
  have hv : opClz.value f a b c = mapEls f.fmt (fun x _ _ => clzEl (elemOf f.fmt).1 x) a b c := rfl
  rw [hv, el_mapEls hj, Nat.mod_eq_of_lt (clzEl_lt_two_pow ..)]

end

/-! ### Bit fields (R100) -/

/-- The bits of a field of `len` bits at `pos`. -/
def fieldMask (field : Nat × Nat) : W64 := BitVec.ofNat 64 ((2 ^ field.2 - 1) * 2 ^ field.1)

theorem getLsbD_fieldMask {field : Nat × Nat} {k : Nat} (hk : k < 64) (hlo : field.1 ≤ k) (hhi : k < field.1 + field.2) :
    (fieldMask field).getLsbD k = true := by
  have h : k - field.1 < field.2 := by omega
  rw [fieldMask, BitVec.getLsbD_ofNat, Nat.testBit_mul_two_pow, Nat.testBit_two_pow_sub_one]
  simp [hk, hlo, h]

theorem bitsOf_zero (x lo : Nat) : bitsOf x lo 0 = 0 := Nat.mod_one _

/-- A field lies inside its element. -/
theorem bfCtl_fits (w : Nat) (ctl : W64) : (bfCtl w ctl).2 = 0 ∨ (bfCtl w ctl).1 + (bfCtl w ctl).2 ≤ w := by
  simp only [bfCtl]
  split_ifs <;> omega

theorem opBfi_value (f : LForm) (a b c : W64) : opBfi.value f a b c =
    (c &&& ~~~fieldMask (bfCtl (elemOf f.fmt).1 b)) |||
      ((a <<< (bfCtl (elemOf f.fmt).1 b).1) &&& fieldMask (bfCtl (elemOf f.fmt).1 b)) := rfl

theorem opBfx_value {f : LForm} (hs : f.fmt.isSigned = false) (x b z : W64) : opBfx.value f x b z =
    BitVec.ofNat 64 (bitsOf (el f.fmt x 0) (bfCtl (elemOf f.fmt).1 b).1 (bfCtl (elemOf f.fmt).1 b).2) := by
  simp only [opBfx, hs, Bool.false_eq_true, if_false]
  split_ifs with h
  · rw [h, bitsOf_zero]
  · rfl

/-- The bits of the field that BFI inserts. -/
theorem getLsbD_opBfi {f : LForm} {a b c : W64} {k : Nat} (hk : k < 64) (hlo : (bfCtl (elemOf f.fmt).1 b).1 ≤ k)
    (hhi : k < (bfCtl (elemOf f.fmt).1 b).1 + (bfCtl (elemOf f.fmt).1 b).2) :
    (opBfi.value f a b c).getLsbD k = a.getLsbD (k - (bfCtl (elemOf f.fmt).1 b).1) := by
  have hm := getLsbD_fieldMask hk hlo hhi
  have hlo' : ¬k < (bfCtl (elemOf f.fmt).1 b).1 := by omega
  simp only [opBfi_value, BitVec.getLsbD_or, BitVec.getLsbD_and, BitVec.getLsbD_not, BitVec.getLsbD_shiftLeft, hm, hk, hlo',
    decide_true, decide_false, Bool.not_true, Bool.not_false, Bool.and_false, Bool.and_true, Bool.true_and, Bool.false_or]

/-- BFI followed by BFX at one control word gives back the field inserted. -/
theorem opBfx_opBfi {f : LForm} (a b c : W64) (h1 : (elemOf f.fmt).2 = 1) (hs : f.fmt.isSigned = false) :
    opBfx.value f (opBfi.value f a b c) b 0 = BitVec.ofNat 64 (bitsOf a.toNat 0 (bfCtl (elemOf f.fmt).1 b).2) := by
  obtain ⟨-, hfit⟩ := elemOf_fits f.fmt
  rw [h1] at hfit
  rw [opBfx_value hs]
  rcases bfCtl_fits (elemOf f.fmt).1 b with h0 | hle
  · rw [h0, bitsOf_zero, bitsOf_zero]
  · refine congrArg _ (Nat.eq_of_testBit_eq fun i => ?_)
    rw [testBit_bitsOf, testBit_bitsOf, testBit_el, Nat.mul_zero, Nat.zero_add, Nat.zero_add]
    by_cases hi : i < (bfCtl (elemOf f.fmt).1 b).2
    · have hw : (bfCtl (elemOf f.fmt).1 b).1 + i < (elemOf f.fmt).1 := by omega
      rw [getLsbD_opBfi (by omega) (by omega) (by omega), Nat.add_sub_cancel_left, decide_eq_true hw, Bool.true_and]
      rfl
    · simp [hi]

/-- Settles O22: each operation on the elements of its sources. -/
theorem integerValuesAreThoseOfTheirRules : Obligations.IntegerValuesAreThoseOfTheirRules := by
  unfold Obligations.IntegerValuesAreThoseOfTheirRules
  refine ⟨fun f a b c j hj => ?arithmetic, fun f a n c hf => ?shifts, fun f a b c j hj => ?bits⟩
  case arithmetic =>
    exact ⟨el_opAdd_wraps hj a b c, el_opSub_wraps hj a b c, elInt_opAdd_saturates hj a b c, elInt_opSub_saturates hj a b c,
      el_opMul hj a b c, el_opMad hj a b c, product_eq_mulh_mul hj a b c⟩
  case shifts =>
    rw [opShl_value, opShr_value, opSar_value, opRot_value, hf]
    exact ⟨lo32_mapEls hf (shlEl_toNat ..), lo32_mapEls hf (shrEl_toNat ..), lo32_mapEls hf (sarEl_toNat ..),
      lo32_mapEls hf (rotEl_toNat ..)⟩
  case bits =>
    intro w x
    have hx : x < 2 ^ w := el_lt ..
    refine ⟨fun i hi => testBit_opBrev hj a b c hi, fun h0 => ?_, fun h0 => ?_, fun h0 => ?_, opBfx_opBfi a b c⟩
    · rw [el_opFfs hj, el_opClz hj]
      change ffsEl w x = w ∧ clzEl w x = w
      rw [h0]
      exact ⟨ffsEl_zero, clzEl_zero⟩
    · rw [el_opFfs hj]
      exact ffsEl_spec h0 hx
    · rw [el_opClz hj]
      exact clzEl_spec h0 hx

end Sys2Proof.Machine
end

section
/-!
PROOF. The values of the modular instructions (R135, R137, R139, R141): Barrett's reduction leaves a remainder below three moduli, so
that its two conditional subtractions end at the residue; from it, that the helpers are arithmetic modulo q.
-/
namespace Sys2Proof.Machine

/-! ### Bounds of a modulus -/

/-- The bit length of a modulus of at least 2 is `n + 2`, with the modulus from `2 * 2 ^ n` up to `4 * 2 ^ n`. -/
theorem bitLen_bounds {q : Nat} (hq : 2 ≤ q) : ∃ n, bitLen q = n + 2 ∧ 2 * 2 ^ n ≤ q ∧ q < 4 * 2 ^ n := by
  have hlog : 1 ≤ Nat.log2 q := (Nat.le_log2 (by omega)).2 hq
  have hlow : 2 ^ Nat.log2 q ≤ q := Nat.log2_self_le (by omega)
  have hhigh : q < 2 ^ (Nat.log2 q + 1) := Nat.lt_log2_self
  refine ⟨Nat.log2 q - 1, by rw [bitLen]; omega, ?_⟩
  rw [show Nat.log2 q = (Nat.log2 q - 1) + 1 by omega] at hlow hhigh
  rw [pow_succ] at hlow hhigh
  rw [pow_succ] at hhigh
  omega

/-! ### The quotient of Barrett's reduction -/

section
variable {q B x : Nat}

/-- The quotient that Barrett's reduction takes for x, in terms of `B = 2 ^ (bq - 2)`. -/
def barrettQuot (q B x : Nat) : Nat := x / B * (16 * B ^ 2 / q) / (16 * B)

theorem qred128_eq {n : Nat} (hn : bitLen q = n + 2) : qred128 q (2 ^ (2 * bitLen q) / q) x =
    (let r := subOnce (subOnce (wrapTo 64 ((x : Int) - (barrettQuot q (2 ^ n) x * q : Nat))) q) q
     (r, decide (q ≤ r))) := by
  have h1 : 2 ^ (2 * (n + 2)) = 16 * (2 ^ n) ^ 2 := by ring
  have h2 : 2 ^ (n + 2 + 2) = 16 * 2 ^ n := by ring
  rw [qred128, hn, h1, h2, Nat.add_sub_cancel, barrettQuot]

/-- The quotient is never too large. -/
theorem barrettQuot_mul_le (hB : 0 < B) : barrettQuot q B x * q ≤ x := by
  have hx : x / B * B ≤ x := Nat.div_mul_le_self ..
  have hm : 16 * B ^ 2 / q * q ≤ 16 * B ^ 2 := Nat.div_mul_le_self ..
  have ht : barrettQuot q B x * (16 * B) ≤ x / B * (16 * B ^ 2 / q) := Nat.div_mul_le_self ..
  refine Nat.le_of_mul_le_mul_right (c := 16 * B ^ 2) ?_ (by positivity)
  calc barrettQuot q B x * q * (16 * B ^ 2) = barrettQuot q B x * (16 * B) * (q * B) := by ring
    _ ≤ x / B * (16 * B ^ 2 / q) * (q * B) := Nat.mul_le_mul_right _ ht
    _ = (x / B * B) * (16 * B ^ 2 / q * q) := by ring
    _ ≤ x * (16 * B ^ 2) := Nat.mul_le_mul hx hm

/-- It is too small by less than 3: the cut of x costs 1/2 at most, that of the Barrett constant 1, and its own cut 1. -/
theorem lt_barrettQuot_add_three_mul (hB : 0 < B) (hlow : 2 * B ≤ q) (hhigh : q < 4 * B) (hx : x < q * (4 * B)) :
    x < (barrettQuot q B x + 3) * q := by
  have hq : 0 < q := by omega
  have hA : x / B * B ≤ x := Nat.div_mul_le_self ..
  have hA' : x ≤ x / B * B + B := (Nat.lt_div_mul_add hB).le
  have hM : 16 * B ^ 2 ≤ 16 * B ^ 2 / q * q + q := (Nat.lt_div_mul_add hq).le
  have ht : x / B * (16 * B ^ 2 / q) ≤ barrettQuot q B x * (16 * B) + 16 * B := (Nat.lt_div_mul_add (by positivity)).le
  refine Nat.lt_of_mul_lt_mul_right (a := 16 * B ^ 2) ?_
  calc x * (16 * B ^ 2) ≤ (x / B * B + B) * (16 * B ^ 2) := by gcongr
    _ = x / B * B * (16 * B ^ 2) + B * (16 * B ^ 2) := by ring
    _ ≤ x / B * B * (16 * B ^ 2 / q * q + q) + B * (16 * B ^ 2) := by gcongr
    _ = x / B * (16 * B ^ 2 / q) * (q * B) + x / B * B * q + 2 * B * (8 * B ^ 2) := by ring
    _ ≤ (barrettQuot q B x * (16 * B) + 16 * B) * (q * B) + x * q + q * (8 * B ^ 2) := by gcongr
    _ ≤ (barrettQuot q B x * (16 * B) + 16 * B) * (q * B) + q * (4 * B) * (4 * B) + q * (8 * B ^ 2) := by gcongr
    _ = (barrettQuot q B x + 2) * q * (16 * B ^ 2) + q * (8 * B ^ 2) := by ring
    _ < (barrettQuot q B x + 2) * q * (16 * B ^ 2) + q * (16 * B ^ 2) := by gcongr; norm_num
    _ = (barrettQuot q B x + 3) * q * (16 * B ^ 2) := by ring

end

/-! ### Conditional subtractions -/

theorem subOnce_eq_mod {r q : Nat} (h : r < 2 * q) : subOnce r q = r % q := by
  unfold subOnce
  split
  · rw [Nat.mod_eq_sub_mod (by omega), Nat.mod_eq_of_lt (by omega)]
  · rw [Nat.mod_eq_of_lt (by omega)]

theorem subOnce_subOnce_eq_mod {r q : Nat} (h : r < 3 * q) : subOnce (subOnce r q) q = r % q := by
  rw [subOnce_eq_mod (r := subOnce r q)]
  · unfold subOnce
    split
    · exact (Nat.mod_eq_sub_mod (by omega)).symm
    · rfl
  · unfold subOnce
    split <;> omega

/-- A natural number below 2^w is kept. -/
theorem wrapTo_natCast {w n : Nat} (h : n < 2 ^ w) : wrapTo w n = n := by
  rw [wrapTo_of_modEq (Int.ModEq.refl _), Nat.mod_eq_of_lt h]

/-- What is left of a residue is no QBAD. -/
theorem decide_le_mod {q x : Nat} (hq : 0 < q) : decide (q ≤ x % q) = false := by
  simpa using Nat.mod_lt x hq

/-! ### The helpers -/

section
variable {q a b w x : Nat}

theorem qred128_eq_mod (hq : 2 ≤ q) (hq' : q < 2 ^ 62) (hx : x < q * 2 ^ bitLen q) :
    qred128 q (2 ^ (2 * bitLen q) / q) x = (x % q, false) := by
  obtain ⟨n, hn, hlow, hhigh⟩ := bitLen_bounds hq
  have hB : 0 < 2 ^ n := by positivity
  rw [hn, show 2 ^ (n + 2) = 4 * 2 ^ n by ring] at hx
  have hle := barrettQuot_mul_le (q := q) (x := x) hB
  have hlt := lt_barrettQuot_add_three_mul hB hlow hhigh hx
  rw [Nat.add_mul] at hlt
  have hw : wrapTo 64 ((x : Int) - (barrettQuot q (2 ^ n) x * q : Nat)) = x - barrettQuot q (2 ^ n) x * q := by
    rw [← Int.ofNat_sub hle]
    exact wrapTo_natCast (by omega)
  have hr : subOnce (subOnce (x - barrettQuot q (2 ^ n) x * q) q) q = x % q := by
    rw [subOnce_subOnce_eq_mod (by omega), Nat.mul_comm _ q, Nat.sub_mul_mod (by rwa [Nat.mul_comm])]
  rw [qred128_eq hn, hw, hr]
  exact congrArg _ (decide_le_mod (by omega))

theorem qaddR_eq_mod (hq' : q < 2 ^ 62) (ha : a < q) (hb : b < q) : qaddR q a b = ((a + b) % q, false) := by
  have hr : subOnce (a + b) q % 2 ^ 64 = (a + b) % q := by
    have := Nat.mod_lt (a + b) (show 0 < q by omega)
    rw [subOnce_eq_mod (by omega), Nat.mod_eq_of_lt (a := (a + b) % q) (by omega)]
  rw [qaddR, hr]
  exact congrArg _ (decide_le_mod (by omega))

theorem qsubR_eq_mod (hq' : q < 2 ^ 62) (ha : a < q) (hb : b < q) : qsubR q a b = ((a + (q - b)) % q, false) := by
  have hr : wrapTo 64 (if (a : Int) - b < 0 then (a : Int) - b + q else (a : Int) - b) = (a + (q - b)) % q := by
    split
    · next h =>
      rw [Nat.mod_eq_of_lt (by omega), ← wrapTo_natCast (w := 64) (n := a + (q - b)) (by omega)]
      congr 1
      omega
    · next h =>
      rw [show a + (q - b) = a - b + q by omega, Nat.add_mod_right, Nat.mod_eq_of_lt (by omega),
        ← wrapTo_natCast (w := 64) (n := a - b) (by omega)]
      congr 1
      omega
  rw [qsubR, hr]
  exact congrArg _ (decide_le_mod (by omega))

/-- A product of residues and a residue more is within Barrett's range. -/
theorem mul_add_lt_range (ha : a < q) (hb : b < q) (hw : w < q) : a * b + w < q * 2 ^ bitLen q := by
  have hq : q < 2 ^ bitLen q := Nat.lt_log2_self
  calc a * b + w < a * b + q := by omega
    _ ≤ a * q + q := by gcongr
    _ = (a + 1) * q := by ring
    _ ≤ q * 2 ^ bitLen q := Nat.mul_le_mul ha hq.le

theorem qred128_mul (hq : 2 ≤ q) (hq' : q < 2 ^ 62) (ha : a < q) (hb : b < q) :
    qred128 q (2 ^ (2 * bitLen q) / q) (a * b) = (a * b % q, false) :=
  qred128_eq_mod hq hq' (mul_add_lt_range (w := 0) ha hb (by omega))

theorem qbfctR_eq_mod (hq : 2 ≤ q) (hq' : q < 2 ^ 62) (ha : a < q) (hb : b < q) (hw : w < q) :
    qbfctR q (2 ^ (2 * bitLen q) / q) a b w = (((a + b * w % q) % q, false), ((a + (q - b * w % q)) % q, false)) := by
  have hp : b * w % q < q := Nat.mod_lt _ (by omega)
  simp only [qbfctR, qred128_mul hq hq' hb hw, qaddR_eq_mod hq' ha hp, qsubR_eq_mod hq' ha hp, Bool.or_false]

theorem qbfgsR_eq_mod (hq : 2 ≤ q) (hq' : q < 2 ^ 62) (ha : a < q) (hb : b < q) (hw : w < q) :
    qbfgsR q (2 ^ (2 * bitLen q) / q) a b w = (((a + b) % q, false), ((a + (q - b)) % q * w % q, false)) := by
  have hd : (a + (q - b)) % q < q := Nat.mod_lt _ (by omega)
  simp only [qbfgsR, qsubR_eq_mod hq' ha hb, qred128_mul hq hq' hd hw, qaddR_eq_mod hq' ha hb, Bool.or_false]

end

/-- Settles O24: the reduction within its range, the sum and the difference, and the butterflies that are made of them. -/
theorem modularReductionIsExact : Obligations.ModularReductionIsExact := by
  unfold Obligations.ModularReductionIsExact
  rintro q m hq hq' rfl
  refine ⟨fun x hx => qred128_eq_mod hq hq' hx, fun a b w ha hb hw => ?_⟩
  exact ⟨qred128_mul hq hq' ha hb, qred128_eq_mod hq hq' (mul_add_lt_range ha hb hw), qaddR_eq_mod hq' ha hb,
    qsubR_eq_mod hq' ha hb, qbfctR_eq_mod hq hq' ha hb hw, qbfgsR_eq_mod hq hq' ha hb hw⟩

end Sys2Proof.Machine
end

section
/-!
PROOF. Instructions with one destination that test values, or whose lanes read other lanes' elements (R18, R57 item 6, R133): without
errors and faults they complete as their row says; a value fault is what their meaning answers.
-/
namespace Sys2Proof.Machine

open Sys2Proof.Says

theorem Mask.zero_or_zero : (0 : Mask) ||| 0 = 0 := by decide

section
variable {e : Env}

/-- Without an error in a register, no operand kills a lane, be it the lane's own or another's. -/
theorem Env.run_of_clean (hb : e.w.bad = []) (x : RegIns) : e.run x = e.runKill x (0, 1) := by
  rw [Env.run, Warp.operandKills_of_clean hb]

theorem Env.movedKills_of_clean (hb : e.w.bad = []) (o : Opnd) (part : Fin 64 → Option (Fin 64)) : e.movedKills o part = 0 := by
  simp [Env.movedKills, Warp.badIn_of_clean hb]

/-- Without a fault, and with no lane killed, the destination and the flags are written. -/
theorem Env.runKill_clean {x : RegIns} {w' : Warp} {n : Nat}
    (ho : e.w.operandFault e.g.desc.apxFrom x.a x.os x.never [x.dst] = none) (hf : x.faults = none)
    (hw : x.write e.w e.eff e.sel 0 = some w') :
    e.runKill x (0, n) = .done ((e.put (w'.setFlags (orFlags (flagMask x.dst e.eff) x.vals))).drawn x.draws) := by
  simp only [Env.runKill, ho, hf, ite_self, hw, Mask.and_not_zero, State.killLanes_zero]

/-- A value fault of executing lanes, where the operands raise none. -/
theorem Env.runKill_fault {x : RegIns} {kills : Mask × Nat} {k : Cause} {m : Mask}
    (ho : e.w.operandFault e.g.desc.apxFrom x.a x.os x.never [x.dst] = none) (he : e.eff ≠ 0) (hf : x.faults = some (k, m)) :
    e.runKill x kills = .fault k 0 m := by
  simp only [Env.runKill, ho, if_neg he, hf]

end

/-- A meaning that runs its row's instruction and kills no lane completes, also where its operands are more than the row's. -/
theorem Row.completes_of_runKill {r : Row} {wb : LForm → Env → Effect} {lb : LForm → LeekEnv → Effect}
    (hx : ∀ f s, exec (r.op.toInstr f) s = issue (.l r.op f) s (wb f) (lb f))
    (hb : ∀ {f s c g w}, WarpIssues s c g w (.l r.op f) → readable g w f.a (r.os f w) (r.never f) [f.dst] →
      r.ok f (envOf s c g w (.l r.op f)) → ∃ os n, w.operandFault g.desc.apxFrom f.a os (r.never f) [f.dst] = none ∧
        wb f (envOf s c g w (.l r.op f)) = (envOf s c g w (.l r.op f)).runKill
          { r.ins f (envOf s c g w (.l r.op f)) with os := os } (0, n)) : r.Completes := by
  intro f s c g w hi hr hok
  obtain ⟨os, n, ho, hrun⟩ := hb hi hr hok
  rw [hx]
  exact hi.done (hrun.trans (Env.runKill_clean ho rfl (write_ins hi.calm r f (envOf s c g w (.l r.op f)) _ _ 0)))

/-! ### Tests of values -/

/-- The lanes of a mask where a test holds. -/
def lanesWhere (m : Mask) (p : Fin 64 → Bool) : Mask :=
  maskOf fun l => if h : l < 64 then m.getLsbD l && p ⟨l, h⟩ else false

section
variable {k : Cause} {m : Mask} {p : Fin 64 → Bool}

theorem laneFault_of_ne_zero (h : lanesWhere m p ≠ 0) : laneFault k m p = some (k, lanesWhere m p) := if_neg h

theorem laneFault_of_eq_zero (h : lanesWhere m p = 0) : laneFault k m p = none := if_pos h

theorem ne_zero_of_lanesWhere_ne_zero (h : lanesWhere m p ≠ 0) : m ≠ 0 := by
  rintro rfl
  have hn := laneFault_none (k := .illegal) (m := 0) (p := p) fun l hl => absurd hl (by simp)
  exact absurd (hn.symm.trans (laneFault_of_ne_zero h)) nofun

end

end Sys2Proof.Machine
end

section
/-!
PROOF. The modular instructions with one destination (R131, R133, R137 to R140): what each computes in a lane, the faults of a bad
modulus and of an escalated QBAD, and from them the statement.
-/
namespace Sys2Proof.Machine

open Sys2Proof.Says

section
variable {p : LOp × (LForm → List Opnd) × (Nat → Nat → Nat → Nat → Nat → QRes)} {f : LForm} {e : Env}

/-- The moduli that an operation reads beside its sources are none of its three values. -/
theorem modAt_append (hp : p ∈ modOps) (ms : List Opnd) (f : LForm) (e : Env) (l : Fin 64) :
    p.2.2 (e.qAt f l) (e.muAt f l) (srcAt e.w f.imm (p.2.1 f ++ ms) 0 l).toNat (srcAt e.w f.imm (p.2.1 f ++ ms) 1 l).toNat
      (srcAt e.w f.imm (p.2.1 f ++ ms) 2 l).toNat = modAt p f e l := by
  fin_cases hp <;> rfl

/-- A modular meaning runs its row's instruction, with the moduli among its operands and the faults of R131 and R133. -/
theorem modBody_eq (hp : p ∈ modOps) (mods : LForm → List Opnd) (f : LForm) (e : Env) :
    modBody p.2.1 mods p.2.2 f e = e.run { (modRow p).ins f e with
      os := p.2.1 f ++ mods f
      faults := e.modFault f (p.2.1 f ++ mods f) (mkLanes fun l => (modAt p f e l).2) } := by
  simp only [modBody, mkLanes_getElem, modAt_append hp]
  rfl

/-! ### Value faults -/

/-- In a warp without errors the moduli are tested first, in every executing lane. -/
theorem Env.modFault_of_clean (hb : e.w.bad = []) (os : List Opnd) (bad : Fin 64 → Bool) : e.modFault f os (mkLanes bad) =
    (laneFault .illegal e.eff fun l => e.qAt f l < 2).or (if e.c.qbadEsc then laneFault .qbad e.eff bad else none) := by
  simp only [Env.modFault, Env.sound_of_clean hb, mkLanes_getElem]
  split <;> next h => rw [h]; rfl

theorem Env.modFault_none (hb : e.w.bad = []) {os : List Opnd} {bad : Fin 64 → Bool}
    (h : ∀ l : Fin 64, e.eff.getLsbD l → 2 ≤ e.qAt f l ∧ (e.c.qbadEsc → bad l = false)) : e.modFault f os (mkLanes bad) = none := by
  rw [Env.modFault_of_clean hb, laneFault_none fun l hl => decide_eq_false (by have := (h l hl).1; omega), Option.none_or]
  split
  · next hq => exact laneFault_none fun l hl => (h l hl).2 hq
  · rfl

theorem Env.modFault_illegal (hb : e.w.bad = []) {os : List Opnd} {bad : Fin 64 → Bool}
    (h : lanesWhere e.eff (fun l => e.qAt f l < 2) ≠ 0) :
    e.modFault f os (mkLanes bad) = some (.illegal, lanesWhere e.eff fun l => e.qAt f l < 2) := by
  rw [Env.modFault_of_clean hb, laneFault_of_ne_zero h, Option.some_or]

theorem Env.modFault_qbad (hb : e.w.bad = []) {os : List Opnd} {bad : Fin 64 → Bool}
    (hl : lanesWhere e.eff (fun l => e.qAt f l < 2) = 0) (hq : e.c.qbadEsc = true) (h : lanesWhere e.eff bad ≠ 0) :
    e.modFault f os (mkLanes bad) = some (.qbad, lanesWhere e.eff bad) := by
  rw [Env.modFault_of_clean hb, laneFault_of_eq_zero hl, Option.none_or, if_pos hq, laneFault_of_ne_zero h]

end

/-! ### The statement -/

section
variable {p : LOp × (LForm → List Opnd) × (Nat → Nat → Nat → Nat → Nat → QRes)}

/-- A modular operation issues the meaning of its operands, with moduli that raise no fault of their own. -/
theorem exec_modOp_readable (hp : p ∈ modOps) : ∃ mods : LForm → List Opnd,
    (∀ (f : LForm) (s : State), exec (p.1.toInstr f) s = issue (.l p.1 f) s (modBody p.2.1 mods p.2.2 f) noLeek) ∧
    ∀ (f : LForm) (w : Warp) (apxFrom : Nat), w.operandFault apxFrom f.a (p.2.1 f ++ mods f) [] [f.dst] =
      w.operandFault apxFrom f.a (p.2.1 f) [] [f.dst] := by
  obtain ⟨mods, hm, hx⟩ := exec_modOp p hp
  refine ⟨mods, hx, fun f w apxFrom => Warp.operandFault_append ?_ ..⟩
  obtain rfl | rfl := hm
  · exact qUse_moduli f
  · exact muUse_moduli f

theorem modRow_completes (hp : p ∈ modOps) : (modRow p).Completes := by
  obtain ⟨mods, hx, hm⟩ := exec_modOp_readable hp
  refine Row.completes_of_runKill hx fun {f s c g w} _ hr hok => ?_
  obtain ⟨hbad, hfault⟩ := hr
  refine ⟨p.2.1 f ++ mods f, 1, (hm f w _).trans hfault, ?_⟩
  rw [modBody_eq hp, Env.modFault_none hbad hok, Env.run_of_clean hbad]
  rfl

/-- A value fault of executing lanes enters the handler with these lanes. -/
theorem modOp_traps (hp : p ∈ modOps) {f : LForm} {s : State} {c : Context} {g : Group} {w : Warp} {k : Cause} {m : Mask}
    (hi : WarpIssues s c g w (.l p.1 f)) (hr : readable g w f.a (p.2.1 f) [] [f.dst]) (hn : w.trapMode = false)
    (hb : c.trapBase ≠ 0) (hk : k ≠ .trap) (he : w.eff (.l p.1 f) ≠ 0)
    (hf : ∀ os, (envOf s c g w (.l p.1 f)).modFault f os (mkLanes fun l => (modAt p f (envOf s c g w (.l p.1 f)) l).2) =
      some (k, m)) :
    exec (p.1.toInstr f) s = .next (trapsWith s c g w (.l p.1 f) (BitVec.ofNat 8 k.code) 0 m w.pc) := by
  obtain ⟨mods, hx, hm⟩ := exec_modOp_readable hp
  rw [hx]
  exact hi.traps hn hb hk ((modBody_eq hp mods f _).trans (Env.runKill_fault ((hm f w _).trans hr.2) he (hf _)))

end

/-- Settles O15: each operation runs its row's instruction; a modulus below 2 is its first value fault, an escalated QBAD its
second. -/
theorem modularInstructionsComplete : Obligations.ModularInstructionsComplete := by
  unfold Obligations.ModularInstructionsComplete
  refine ⟨fun p hp => modRow_completes hp, ?_⟩
  intro p hp f s c g w hi hr hn hb e low bad
  have hlow : low = lanesWhere e.eff fun l => e.qAt f l < 2 := rfl
  have hbad : bad = lanesWhere e.eff fun l => (modAt p f e l).2 := rfl
  rw [hlow, hbad]
  refine ⟨fun hl => ?illegal, fun hl hq hx => ?qbad⟩
  case illegal =>
    exact modOp_traps (k := .illegal) hp hi hr hn hb (by decide) (ne_zero_of_lanesWhere_ne_zero hl) fun _ =>
      Env.modFault_illegal hr.1 hl
  case qbad =>
    exact modOp_traps (k := .qbad) hp hi hr hn hb (by decide) (ne_zero_of_lanesWhere_ne_zero hx) fun _ =>
      Env.modFault_qbad hr.1 hl hq hx

end Sys2Proof.Machine
end

section
/-!
PROOF. The cross-lane instructions (R144, R145, R192, R193, R195, R196): in a warp without errors no lane is killed by an element of
another lane, and each meaning runs its row's instruction.
-/
namespace Sys2Proof.Machine

open Sys2Proof.Says

section
variable {f : LForm} {e : Env}

/-! ### SHFL and LBREV -/

/-- The test of the distance under SUB 4 finds nothing: it looks at it where a lane executes (R193). -/
theorem shflBody_clean (hb : e.w.bad = []) (hok : shflRow.ok f e) :
    ∃ n, shflBody f e = e.runKill (shflRow.ins f e) (0, n) := by
  have hf : (f.sub.toNat = 4 && ((e.w.src (Opnd.any f.src1 .b32) f.imm 0).toNat == 0 ||
      6 < (e.w.src (Opnd.any f.src1 .b32) f.imm 0).toNat) && e.eff != 0) = false := by
    by_contra h
    simp only [Bool.not_eq_false, Bool.and_eq_true, Bool.or_eq_true, decide_eq_true_eq, beq_iff_eq, bne_iff_ne] at h
    obtain ⟨⟨hs, hd⟩, he⟩ := h
    obtain ⟨h1, h6⟩ := hok hs he
    omega
  apply Exists.intro
  simp only [shflBody, Warp.operandKills_of_clean hb, Env.movedKills_of_clean hb, Env.sound_of_clean hb, Mask.zero_or_zero, hf]
  rfl

/-- The span of LBREV is a power of two where a lane executes (R144). -/
theorem lbrevBody_clean (hb : e.w.bad = []) (hok : lbrevRow.ok f e) :
    ∃ n, lbrevBody f e = e.runKill (lbrevRow.ins f e) (0, n) := by
  have hf : (isPow64 (e.w.uni f.src1 f.imm .n32).toNat || e.eff == 0) = true := by
    by_cases he : e.eff = 0
    · simp [he]
    · simp [hok he]
  apply Exists.intro
  simp only [lbrevBody, Warp.operandKills_of_clean hb, Env.movedKills_of_clean hb, Env.sound_of_clean hb, Mask.zero_or_zero, hf]
  rfl

/-! ### REDLOG and SCANLOG -/

theorem treeBody_clean (hb : e.w.bad = []) (tree : Env → LForm → List Present → List Present × Byte) (n : Nat) :
    treeBody tree n f e = e.run { RegIns.of f [Opnd.of f.src0 f.fmt] (mkLanes fun l =>
      let r := tree e f (mkLanes fun i =>
        if e.eff.getLsbD i then some (treeIn f (e.w.src (Opnd.of f.src0 f.fmt) f.imm i)) else none).toList
      ((atLane r.1 l.val).getD 0, r.2)) with draws := if f.a then n else 0 } := by
  simp only [treeBody, Warp.operandKills_of_clean hb, Mask.and_not_zero, Env.run_of_clean hb]

/-! ### MATCH -/

theorem getLsbD_maskBits (p : Nat → Bool) (n k : Nat) : (maskBits p n).getLsbD k = (decide (k < n) && p k) := by
  induction n with
  | zero => simp [maskBits]
  | succ n ih =>
    rw [maskBits, BitVec.getLsbD_cons, ih]
    by_cases h : k = n
    · simp [h]
    · have hk : k < n ↔ k < n + 1 := by omega
      simp [h, hk]

/-- The bit of one lane. -/
theorem getLsbD_laneBit (j : Fin 64) (k : Nat) : (BitVec.ofNat 64 (2 ^ j.val) : Mask).getLsbD k = decide (j.val = k) := by
  rw [BitVec.getLsbD_ofNat, Nat.testBit_two_pow]
  have := j.isLt
  by_cases h : j.val = k <;> simp [h]
  omega

/-- Bits gathered lane by lane are those of the lanes where the test holds. -/
theorem getLsbD_foldl_laneBits (p : Fin 64 → Prop) [DecidablePred p] (ls : List (Fin 64)) (m : Mask) (k : Fin 64) :
    (ls.foldl (fun m j => if p j then m ||| BitVec.ofNat 64 (2 ^ j.val) else m) m).getLsbD k =
      (m.getLsbD k || decide (k ∈ ls ∧ p k)) := by
  induction ls generalizing m with
  | nil => simp
  | cons j ls ih =>
    rw [List.foldl_cons, ih]
    by_cases hp : p j
    · rw [if_pos hp, BitVec.getLsbD_or, getLsbD_laneBit, Bool.or_assoc]
      by_cases hk : k = j
      · simp [hk, hp]
      · simp [hk, Fin.val_inj, Ne.symm hk]
    · rw [if_neg hp]
      by_cases hk : k = j
      · simp [hk, hp]
      · simp [hk]

/-- The executing lanes that hold one value (R196). -/
theorem foldl_laneBits_eq (eff : Mask) (v : Fin 64 → W64) (x : W64) :
    (Mask.lanes eff).foldl (fun m j => if v j = x then m ||| BitVec.ofNat 64 (2 ^ j.val) else m) 0 =
      maskOf fun j => if h : j < 64 then eff.getLsbD j && v ⟨j, h⟩ == x else false := by
  refine BitVec.eq_of_getLsbD_eq fun i hi => ?_
  rw [getLsbD_foldl_laneBits (fun j => v j = x) (Mask.lanes eff) 0 ⟨i, hi⟩, maskOf, getLsbD_maskBits, dif_pos hi]
  simp [hi, beq_eq_decide]

theorem matchBody_clean (hb : e.w.bad = []) (hw : e.w.widthBad f.src0 f.fmt.wide = false) :
    matchBody f e = e.run (matchRow.ins f e) := by
  simp only [matchBody, hw, Bool.false_eq_true, if_false, Warp.operandKills_of_clean hb, Mask.and_not_zero, foldl_laneBits_eq]
  exact (Env.run_of_clean hb _).symm

end

/-! ### The statement -/

/-- A cross-lane meaning that runs exactly its row's instruction completes. -/
theorem Row.completes_of_runKill_ins {r : Row} {wb : LForm → Env → Effect}
    (hx : ∀ f s, exec (r.op.toInstr f) s = issue (.l r.op f) s (wb f) noLeek)
    (hb : ∀ {f e}, e.w.bad = [] → r.ok f e → ∃ n, wb f e = e.runKill (r.ins f e) (0, n)) : r.Completes :=
  Row.completes_of_runKill hx fun {f s c g w} _ hr hok =>
    have ⟨n, hrun⟩ := hb (e := envOf s c g w (.l r.op f)) hr.1 hok
    ⟨r.os f w, n, hr.2, hrun⟩

/-- Settles O16: each meaning runs its row's instruction. -/
theorem crossLaneInstructionsComplete : Obligations.CrossLaneInstructionsComplete := by
  unfold Obligations.CrossLaneInstructionsComplete
  intro r hr
  fin_cases hr
  · exact Row.completes_of_runKill_ins (fun _ _ => rfl) shflBody_clean
  · exact Row.completes_of_run (lb := fun _ => noLeek) (fun _ _ => rfl) fun _ hr _ => treeBody_clean hr.1 Env.reduce 768
  · exact Row.completes_of_run (lb := fun _ => noLeek) (fun _ _ => rfl) fun _ hr _ => treeBody_clean hr.1 Env.scan 1536
  · exact Row.completes_of_run (lb := fun _ => noLeek) (fun _ _ => rfl) fun _ hr hok => matchBody_clean hr.1 hok
  · exact Row.completes_of_runKill_ins (fun _ _ => rfl) lbrevBody_clean

end Sys2Proof.Machine
end

section
/-!
PROOF. The in-place instructions (R131, R133, R141 to R143, R145): the writes of their two registers, and from them the completion of
the butterflies and of NPERM.
-/
namespace Sys2Proof.Machine

open Sys2Proof.Says

/-- A warp that does not speculate writes two vector registers in turn. -/
theorem Warp.writeVec_commitVec_calm {w : Warp} (h : w.spec = none) (m n : Nat) (x y : VecWrite) :
    (w.writeVec m x).bind (fun w' => w'.commitVec n y) = some (((w.writeVec m x).bind fun w' => w'.commitVec n y).getD w) := by
  have h1 := Warp.writeVec_calm h m x
  obtain ⟨w2, h2⟩ := Warp.commitVec_calm (Warp.writeVec_spec h h1) n y
  rw [h1, Option.bind_some, h2, Option.getD_some]

section
variable {s : State} {c : Context} {g : Group} {w : Warp} {sh : Shape} {f : LForm} {da db : Fin 256}

theorem Env.putBoth_calm (h : w.spec = none) (hd : f.dst = .v da) (hs : f.src0 = .v db) (a b : Fin 64 → W64) :
    (envOf s c g w sh).putBoth f 0 a b = some (writesBoth w sh f a b) := by
  simp only [Env.putBoth, writesBoth, hd, hs]
  exact Warp.writeVec_commitVec_calm h ..

theorem Env.putSplit_calm (h : w.spec = none) (hd : f.dst = .v da) (hs : f.src0 = .v db) (low : Mask) (a b : Fin 64 → W64) :
    (envOf s c g w sh).putSplit f 0 low a b = some (writesSplit w sh f low a b) := by
  simp only [Env.putSplit, writesSplit, hd, hs]
  exact Warp.writeVec_commitVec_calm h ..

end

/-- Without a fault, and with no lane killed, both registers and the flags are written. -/
theorem Env.runBoth_clean {e : Env} {f : LForm} {os : List Opnd} {faults : Option (Cause × Mask)} {n : Nat} {w' : Warp}
    {flags : Lanes (W64 × Byte)} (ho : e.w.operandFault e.g.desc.apxFrom f.a os [] [f.dst, f.src0] = none) (hf : faults = none) :
    e.runBoth f os faults (0, n) (some w') flags = .done (e.put (w'.setFlags (orFlags e.eff flags))) := by
  simp only [Env.runBoth, ho, hf, ite_self, Mask.and_not_zero, State.killLanes_zero]

/-! ### The butterflies -/

theorem exec_butterfly : ∀ p ∈ butterflies, ∀ (f : LForm) (s : State),
    exec (p.1.toInstr f) s = issue (.l p.1 f) s (butterflyBody p.2 f) noLeek := by
  intro p hp f s
  fin_cases hp <;> rfl

/-- A butterfly in terms of what it computes in a lane. -/
theorem butterflyBody_clean {e : Env} (hb : e.w.bad = []) (p : LOp × (Nat → Nat → Nat → Nat → Nat → QRes × QRes)) (f : LForm) :
    butterflyBody p.2 f e = e.runBoth f (butterflyOs f ++ muUse f)
      (e.modFault f (butterflyOs f ++ muUse f) (mkLanes fun l => (butterflyAt p f e l).1.2 || (butterflyAt p f e l).2.2)) (0, 1)
      (e.putBoth f 0 (fun l => BitVec.ofNat 64 (butterflyAt p f e l).1.1) fun l => BitVec.ofNat 64 (butterflyAt p f e l).2.1)
      (mkLanes fun l => (0, if (butterflyAt p f e l).1.2 || (butterflyAt p f e l).2.2 then flagQBAD else 0)) := by
  simp only [butterflyBody, mkLanes_getElem, Warp.operandKills_of_clean hb]
  rfl

/-! ### NPERM -/

theorem npermBody_clean {e : Env} (hb : e.w.bad = []) (f : LForm) :
    let dd := 64 >>> f.sub.toNat
    let far (r : Reg) (l : Fin 64) : W64 :=
      if e.w.dead.getLsbD (laneXor l dd) then 0 else e.w.src (Opnd.of r f.fmt) f.imm (laneXor l dd)
    npermBody f e = e.runBoth f [Opnd.of f.dst f.fmt, Opnd.of f.src0 f.fmt] none (0, 0)
      (e.putSplit f 0 (maskOf fun i => i &&& dd == 0) (far f.src0) (far f.dst))
      (mkLanes fun l => (0, if e.w.dead.getLsbD (laneXor l dd) then flagSHDEAD else 0)) := by
  intro dd far
  simp only [npermBody, Env.movedKills_of_clean hb, Mask.zero_or_zero]
  rfl

/-- Settles O18: each writes its two registers in turn, from what its lanes held at issue. -/
theorem inPlaceInstructionsComplete : Obligations.InPlaceInstructionsComplete := by
  unfold Obligations.InPlaceInstructionsComplete
  intro f s c g w
  refine ⟨?butterflies, ?nperm⟩
  case butterflies =>
    rintro p hp hi ⟨hbad, hfault⟩ ⟨a, b, hd, hs⟩ e r hok
    have hb : e.w.bad = [] := hbad
    have hmod : e.modFault f (butterflyOs f ++ muUse f) (mkLanes fun l => (r l).1.2 || (r l).2.2) = none :=
      Env.modFault_none hb fun l hl => ⟨(hok l hl).1, fun hq => by simp [(hok l hl).2 hq]⟩
    rw [exec_butterfly p hp]
    refine hi.done ((butterflyBody_clean hb p f).trans ?_)
    rw [Env.putBoth_calm hi.calm hd hs]
    exact Env.runBoth_clean ((Warp.operandFault_append (muUse_moduli f) ..).trans hfault) hmod
  case nperm =>
    rintro hi ⟨hbad, hfault⟩ ⟨a, b, hd, hs⟩ dd far
    refine hi.done (wb := npermBody f) ((npermBody_clean hbad f).trans ?_)
    rw [Env.putSplit_calm hi.calm hd hs]
    exact Env.runBoth_clean hfault rfl

end Sys2Proof.Machine
end

section
/-!
PROOF. Stores to local memory (R147 to R151, R212): what a list of store events writes, and from it the statement.
-/
namespace Sys2Proof.Machine

open Sys2Proof.Says

/-- A store that keeps clear of a range leaves what the range holds. -/
theorem Memory.read_write_of_apart {m : Memory} (h : m.wf = true) {a b n : Nat} {bs : List Byte}
    (hd : b + bs.length ≤ a ∨ a + n ≤ b) : (m.write b bs).read a n = m.read a n := by
  induction n generalizing a with
  | zero => rfl
  | succ n ih =>
    have hg := Memory.get_write_of_outside m b a bs h (by omega)
    rw [Memory.read, Memory.read, hg, ih (by omega)]

@[simp] theorem State.storeAll_append (s : State) (who : Option AgentId) (xs ys : List (Nat × List Byte)) :
    s.storeAll who (xs ++ ys) = (s.storeAll who xs).storeAll who ys := by
  induction xs generalizing s with
  | nil => rfl
  | cons x xs ih => exact ih _

theorem State.storeAll_wf {s : State} (h : s.mem.wf = true) (who : Option AgentId) (xs : List (Nat × List Byte)) :
    (s.storeAll who xs).mem.wf = true := by
  induction xs generalizing s with
  | nil => exact h
  | cons x xs ih => exact ih (by rw [State.store_mem]; exact Memory.wf_write _ _ h)

/-- Stores leave every byte outside their places. -/
theorem State.storeAll_unchangedOutside {s : State} (h : s.mem.wf = true) (who : Option AgentId) (xs : List (Nat × List Byte)) :
    unchangedOutside s (s.storeAll who xs) (xs.map fun x => (x.1, x.2.length)) := by
  induction xs generalizing s with
  | nil => exact fun _ _ => rfl
  | cons x xs ih =>
    intro a ha
    rw [List.map_cons, List.forall_mem_cons] at ha
    have hw : (s.store who x.1 x.2).mem.wf = true := by rw [State.store_mem]; exact Memory.wf_write _ _ h
    exact (ih hw a ha.2).trans (by rw [State.store_mem]; exact Memory.get_write_of_outside _ _ _ _ h ha.1)

/-- Stores that keep clear of a range leave what it holds. -/
theorem State.storeAll_reads_apart {s : State} (h : s.mem.wf = true) (who : Option AgentId) {xs : List (Nat × List Byte)}
    {a n : Nat} (hd : ∀ x ∈ xs, x.1 + x.2.length ≤ a ∨ a + n ≤ x.1) :
    (s.storeAll who xs).mem.read a n = s.mem.read a n := by
  induction xs generalizing s with
  | nil => rfl
  | cons x xs ih =>
    rw [List.forall_mem_cons] at hd
    have hw : (s.store who x.1 x.2).mem.wf = true := by rw [State.store_mem]; exact Memory.wf_write _ _ h
    exact (ih hw hd.2).trans (by rw [State.store_mem]; exact Memory.read_write_of_apart h hd.1)

/-- Of stores in order, one that no later one meets is read back. -/
theorem State.storeAll_reads {s : State} (h : s.mem.wf = true) (who : Option AgentId) (before after : List (Nat × List Byte))
    (place n x : Nat) (hd : ∀ y ∈ after, y.1 + y.2.length ≤ place ∨ place + n ≤ y.1) :
    (s.storeAll who (before ++ (place, toBytesLE n x) :: after)).mem.read place n = toBytesLE n x := by
  have hb := State.storeAll_wf h who before
  obtain ⟨hr, -⟩ := State.store_reads hb who place n x
  have hw : ((s.storeAll who before).store who place (toBytesLE n x)).mem.wf = true := by
    rw [State.store_mem]; exact Memory.wf_write _ _ hb
  rw [State.storeAll_append]
  exact (State.storeAll_reads_apart hw who hd).trans hr

/-- A local store whose operands hold no error and whose lanes may all access their places stores in lane order. -/
theorem storeBody_local {f : MForm} {s : State} {c : Context} {g : Group} {w : Warp} {sh : Shape} {scale : Nat}
    (hc : w.spec = none) (hsp : f.space ≠ .remote) (ha : addressable g w f [Opnd.any f.data f.fmt] []) :
    let e := envOf s c g w sh
    let n := accBytes f.fmt
    (∀ l : Fin 64, e.eff.getLsbD l → ∃ place apx fill, target e f scale n .write l = .ok place apx fill) →
    storeBody f scale e = .done ((s.fillTlb (fills e f scale n .write)).storeAll (some (.warp g.uid w.id)) (storesOf e f scale)) := by
  intro e n ht
  have hm : e.memFault f [Opnd.any f.data f.fmt] [] = none := Env.memFault_of_addressable ha
  have hk : e.w.operandKills (Opnd.any f.data f.fmt :: addrOs f) e.eff = (0, 1) := Warp.operandKills_of_clean ha.1 _ _
  have hx : e.check e.eff (e.ea f scale) f.space (accBytes f.fmt) .write f.a = _ := Env.check_ok ht
  have hs : e.w.spec.isSome = false := by rw [show e.w.spec = none from hc]; rfl
  have hl : (accesses e f scale (accBytes f.fmt) .write).map (fun x => (x.2.2.1, e.storeBytes f x.1)) = storesOf e f scale := by
    rw [accesses, List.map_map]; rfl
  simp only [storeBody, hm, hk, Mask.and_not_zero, beq_eq_false_iff_ne.mpr hsp, Bool.false_eq_true, if_false, storeLocal, hx, hs, hl,
    State.killLanes_zero]
  rfl

/-- Settles O31: the checks give the lanes' places, and the stores in lane order write those alone, the last one to a place lastingly. -/
theorem storesComplete : Obligations.StoresComplete := by
  intro p hp f s c g w h hsp ha hm e n ht
  have hx : exec (p.1.toInstr f) s = issue (.m p.1 f) s (storeBody f (p.2 f)) noLeek := by
    fin_cases hp <;> rfl
  have hf : (s.fillTlb (fills e f (p.2 f) n .write)).mem.wf = true := by rwa [State.fillTlb_mem]
  refine ⟨_, hx.trans (h.done (storeBody_local h.calm hsp ha ht)), rfl, fun a hout => ?_, fun l before after hl => ?_⟩
  · rw [completed_mem, State.storeAll_unchangedOutside hf, State.fillTlb_mem]
    simpa [storesOf, List.map_map] using hout
  · intro at' hd
    rw [completed_mem, storesOf, hl, List.map_append, List.map_cons]
    refine State.storeAll_reads hf _ _ _ _ _ _ fun y hy => ?_
    obtain ⟨k, hk, rfl⟩ := List.mem_map.mp hy
    simpa using hd k hk

end Sys2Proof.Machine
end

section
/-!
PROOF. Uniform accesses (R152, R153): LDU and STU of a warp and of a Leek thread, each outcome once, and from them the statement.
-/
namespace Sys2Proof.Machine

open Sys2Proof.Says

theorem State.checkUni_ok {s : State} {v : Viewer} {f : MForm} {ea : W64} {acc : Access} {place : Nat} {apx : Bool}
    {fill : List TlbEntry} (h : s.resolve v f.space ea.toNat (accBytes f.fmt) (accBytes f.fmt) acc f.a = .ok place apx fill)
    (lanes : Mask) : s.checkUni v lanes f ea acc = .ok place apx fill := by
  simp only [State.checkUni, h]

section
variable {f : MForm} {s : State} {c : Context} {g : Group} {w : Warp} {sh : Shape} {place : Nat} {apx : Bool} {fill : List TlbEntry}

/-! ### From a warp -/

theorem lduBody_empty (he : w.eff sh = 0) : lduBody f (envOf s c g w sh) = .done s := by
  have he' : (envOf s c g w sh).eff = 0 := he
  simp only [lduBody, he', if_true]
  rfl

theorem stuBody_empty (he : w.eff sh = 0) : stuBody f (envOf s c g w sh) = .done s := by
  have he' : (envOf s c g w sh).eff = 0 := he
  simp only [stuBody, he', if_true]
  rfl

/-- An LDU whose place holds no error writes its scalar register, or nothing as a touch. -/
theorem lduBody_reads {r : Fin 64} (hb : w.bad = []) (hc : w.spec = none) (he : w.eff sh ≠ 0) (hd : f.data = .s r)
    (ht : target (envOf s c g w sh) f 1 (accBytes f.fmt) .read 0 = .ok place apx fill)
    (hm : s.marked place (accBytes f.fmt) = false) :
    lduBody f (envOf s c g w sh) = .done (if f.nw then s.fillTlb fill
      else (s.fillTlb fill).putWarp g w (w.writeS r.val f.fmt.wide (valueOfBytes (s.mem.read place (accBytes f.fmt))))) := by
  set e := envOf s c g w sh with hE
  have he' : e.eff ≠ 0 := he
  have hk : e.w.operandKills (addrOs f) e.eff = (0, 1) := Warp.operandKills_of_clean hb _ _
  have hx : e.s.checkUni e.viewer e.eff f (e.ea f 1 0) .read = .ok place apx fill := State.checkUni_ok ht _
  have hs : e.w.spec = none := hc
  have hn : (e.s.fillTlb fill).errorFor e.g.cluster place (accBytes f.fmt) apx = none :=
    State.errorFor_of_unmarked ((State.marked_fillTlb ..).trans hm) _ _
  cases hw : f.nw with
  | true =>
    simp only [lduBody, he', hk, hx, hw, if_true, if_false, ne_eq, not_true_eq_false]
    rfl
  | false =>
    simp only [lduBody, he', hk, hx, hw, hd, Warp.track, hs, State.loadError_calm hs, hn, State.loadBytes, if_false, ne_eq,
      not_true_eq_false, Bool.false_eq_true]
    rfl

theorem stuBody_stores (hb : w.bad = []) (hc : w.spec = none) (he : w.eff sh ≠ 0)
    (ht : target (envOf s c g w sh) f 1 (accBytes f.fmt) .write 0 = .ok place apx fill) :
    stuBody f (envOf s c g w sh) = .done ((s.fillTlb fill).store (some (.warp g.uid w.id)) place
      (toBytesLE (accBytes f.fmt) (w.uni f.data none f.fmt).toNat)) := by
  set e := envOf s c g w sh with hE
  have he' : e.eff ≠ 0 := he
  have hk : e.w.operandKills (Opnd.any f.data f.fmt :: addrOs f) e.eff = (0, 1) := Warp.operandKills_of_clean hb _ _
  have hx : e.s.checkUni e.viewer e.eff f (e.ea f 1 0) .write = .ok place apx fill := State.checkUni_ok ht _
  have hs : e.w.spec.isSome = false := by rw [show e.w.spec = none from hc]; rfl
  simp only [stuBody, he', hk, hx, hs, if_false, ne_eq, not_true_eq_false, Bool.false_eq_true]
  rfl

/-! ### From a Leek thread -/

variable {l : Leek}

theorem lduLeek_skips (ht : l.takes f.pneg f.pred = false) : lduLeek f (leekEnvOf s c g l) = .done s := by
  have ht' : (leekEnvOf s c g l).l.takes f.pneg f.pred = false := ht
  simp only [lduLeek, ht', Bool.not_false, if_true]
  rfl

theorem stuLeek_skips (ht : l.takes f.pneg f.pred = false) : stuLeek f (leekEnvOf s c g l) = .done s := by
  have ht' : (leekEnvOf s c g l).l.takes f.pneg f.pred = false := ht
  simp only [stuLeek, ht', Bool.not_false, if_true]
  rfl

theorem lduLeek_reads (ht : l.takes f.pneg f.pred = true)
    (hr : s.resolve (leekEnvOf s c g l).viewer f.space ((leekEnvOf s c g l).ea f).toNat (accBytes f.fmt) (accBytes f.fmt) .read f.a =
      .ok place apx fill) (hm : s.marked place (accBytes f.fmt) = false) :
    lduLeek f (leekEnvOf s c g l) = .done (if f.nw then s.fillTlb fill else (s.fillTlb fill).mapLeek g.uid fun x =>
      x.writeG f.data (valueOfBytes (s.mem.read place (accBytes f.fmt)))) := by
  set e := leekEnvOf s c g l with hE
  have ht' : e.l.takes f.pneg f.pred = true := ht
  have hx : e.s.checkUni e.viewer 1 f (e.ea f) .read = .ok place apx fill := State.checkUni_ok hr _
  have hn : (e.s.fillTlb fill).errorFor e.g.cluster place (accBytes f.fmt) apx = none :=
    State.errorFor_of_unmarked ((State.marked_fillTlb ..).trans hm) _ _
  cases hw : f.nw with
  | true =>
    simp only [lduLeek, ht', hx, hw, Bool.not_true, Bool.false_eq_true, if_true, if_false]
    rfl
  | false =>
    simp only [lduLeek, ht', hx, hw, hn, Bool.not_true, Bool.false_eq_true, if_false]
    rfl

theorem stuLeek_stores (ht : l.takes f.pneg f.pred = true)
    (hr : s.resolve (leekEnvOf s c g l).viewer f.space ((leekEnvOf s c g l).ea f).toNat (accBytes f.fmt) (accBytes f.fmt) .write f.a =
      .ok place apx fill) :
    stuLeek f (leekEnvOf s c g l) = .done ((s.fillTlb fill).store (some (.leek g.uid)) place
      (toBytesLE (accBytes f.fmt) (l.src .n64 f.data none).toNat)) := by
  set e := leekEnvOf s c g l with hE
  have ht' : e.l.takes f.pneg f.pred = true := ht
  have hx : e.s.checkUni e.viewer 1 f (e.ea f) .write = .ok place apx fill := State.checkUni_ok hr _
  simp only [stuLeek, ht', hx, Bool.not_true, Bool.false_eq_true, if_false]
  rfl

end

theorem State.leekCompleted_mem (t : State) (g : Group) (l : Leek) (sh : Shape) : (t.leekCompleted g l sh).mem = t.mem := rfl

/-- A store after translations were put in force is read back, and leaves every other byte. -/
theorem State.fillTlb_store_reads {s : State} (h : s.mem.wf = true) (fill : List TlbEntry) (who : Option AgentId) (place n x : Nat) :
    ((s.fillTlb fill).store who place (toBytesLE n x)).mem.read place n = toBytesLE n x ∧
      unchangedOutside s ((s.fillTlb fill).store who place (toBytesLE n x)) [(place, n)] :=
  State.store_reads (s := s.fillTlb fill) h who place n x

/-- Settles O32: each outcome of the two accesses is one equation of its meaning, and a store writes its own bytes. -/
theorem uniformAccessesComplete : Obligations.UniformAccessesComplete := by
  intro f s c g w l hb n at' leekAt'
  refine ⟨?skipped, ?ldu, ?stu, ?leekSkipped, ?leekLdu, ?leekStu⟩
  case skipped =>
    rw [List.forall_mem_cons, List.forall_mem_singleton]
    exact ⟨fun h he => h.done (lduBody_empty he), fun h he => h.done (stuBody_empty he)⟩
  case ldu => exact fun r place apx fill h he hd ht hm => h.done (lduBody_reads hb h.calm he hd ht hm)
  case stu =>
    intro place apx fill h he hm ht bs
    obtain ⟨hr, ho⟩ := State.fillTlb_store_reads hm fill (some (.warp g.uid w.id)) place n (w.uni f.data none f.fmt).toNat
    refine ⟨_, h.done (stuBody_stores hb h.calm he ht), rfl, ?_, fun a ha => ?_⟩
    · rw [completed_mem]; exact hr
    · rw [completed_mem]; exact ho a ha
  case leekSkipped =>
    rw [List.forall_mem_cons, List.forall_mem_singleton]
    exact ⟨fun h ht => h.done (lduLeek_skips ht), fun h ht => h.done (stuLeek_skips ht)⟩
  case leekLdu => exact fun place apx fill h ht hr hm => h.done (lduLeek_reads ht hr hm)
  case leekStu =>
    intro place apx fill h ht hr hm bs
    obtain ⟨hread, ho⟩ := State.fillTlb_store_reads hm fill (some (.leek g.uid)) place n (l.src .n64 f.data none).toNat
    exact ⟨_, h.done (stuLeek_stores ht hr), rfl, hread, ho⟩

end Sys2Proof.Machine
end

section
/-!
PROOF. Hints, ISYNC and WAITR (R164, R171, R174): what each meaning comes to, and from them the statement.
-/
namespace Sys2Proof.Machine

open Sys2Proof.Says

section
variable {f : MForm} {s : State} {c : Context} {g : Group} {w : Warp} {sh : Shape}

theorem hintBody_addressable (ha : addressable g w f [] []) : hintBody f (envOf s c g w sh) = .done s := by
  set e := envOf s c g w sh with hE
  have hm : e.memFault f [] [] = none := Env.memFault_of_addressable ha
  have hk : e.w.operandKills (addrOs f) e.eff = (0, 1) := Warp.operandKills_of_clean ha.1 _ _
  simp only [hintBody, hm, hk, State.killLanes_zero]
  rfl

/-- No remote operation of a warp is outstanding when all of its have been answered (R164). -/
theorem outRemote_any_outstanding {me : AgentId} (h : ∀ o ∈ s.outRemote, o.agent = me → o.done ≠ none) :
    (s.outRemote.any fun o => o.agent == me && o.done.isNone) = false := by
  simpa [Option.isSome_iff_ne_none] using h

variable (h : ∀ o ∈ s.outRemote, o.agent = .warp g.uid w.id → o.done ≠ none)
include h

theorem waitrBody_delivers {n : Fin 64} (hd : f.data = .s n) (he : w.eff sh ≠ 0) :
    waitrBody f (envOf s c g w sh) =
      .done (s.putWarp g w { w.writeS n.val false (w.remote.setWidth 64) with remote := 0 }) := by
  have ho : ((envOf s c g w sh).s.outRemote.any fun o => o.agent == (envOf s c g w sh).me && o.done.isNone) = false :=
    outRemote_any_outstanding h
  have he' : (envOf s c g w sh).eff ≠ 0 := he
  simp only [waitrBody, ho, hd, he', Bool.false_eq_true, if_false]
  rfl

theorem waitrBody_delivers_nothing (hd : f.data = .zero ∨ w.eff sh = 0) : waitrBody f (envOf s c g w sh) = .done s := by
  have ho : ((envOf s c g w sh).s.outRemote.any fun o => o.agent == (envOf s c g w sh).me && o.done.isNone) = false :=
    outRemote_any_outstanding h
  simp only [waitrBody, ho, Bool.false_eq_true, if_false]
  obtain hz | he := hd
  · rw [hz]
    rfl
  · have he' : (envOf s c g w sh).eff = 0 := he
    simp only [he', if_true]
    split <;> rfl

end

/-- Settles O36: each meaning is done, with no more than its own change to the warp. -/
theorem hintsAndRemoteWaitsComplete : Obligations.HintsAndRemoteWaitsComplete := by
  intro f s c g w
  refine ⟨fun h ha => h.done (hintBody_addressable ha), fun h ha => h.done (hintBody_addressable ha), fun h => h.done rfl, fun h ho => ?_⟩
  exact ⟨fun n hd he => h.done (waitrBody_delivers ho hd he), fun hd => h.done (waitrBody_delivers_nothing ho hd)⟩

end Sys2Proof.Machine
end

section
/-!
PROOF. Remote accesses (R148, R153, R160, R161, R406): what a list of requests adds to the outstanding operations, how a posted and a
waiting operation go on, and from them the statement.
-/
namespace Sys2Proof.Machine

open Sys2Proof.Says

/-! ### Requests -/

/-- The context of an issuing warp is the one under its number. -/
theorem WarpIssues.ctx {s : State} {c : Context} {g : Group} {w : Warp} {sh : Shape} (h : WarpIssues s c g w sh) :
    s.ctx? c.id = some c := by
  have hi := h.issuer
  unfold State.issuer at hi
  split at hi
  · cases hi
  · split at hi
    · cases hi
    · split at hi
      · rename_i hc _
        split at hi
        · cases hi
          have hid := List.find?_some hc
          rwa [eq_of_beq hid]
        · cases hi
      · cases hi
  · split at hi
    · cases hi
    · split at hi
      · split at hi <;> cases hi
      · cases hi

@[simp] theorem State.startSilence_outRemote (s : State) (owner : Byte) : (s.startSilence owner).outRemote = s.outRemote := by
  unfold State.startSilence
  split <;> rfl

@[simp] theorem State.startSilence_nextUid (s : State) (owner : Byte) : (s.startSilence owner).nextUid = s.nextUid := by
  unfold State.startSilence
  split <;> rfl

@[simp] theorem State.startSilence_ctxs (s : State) (owner : Byte) : (s.startSilence owner).ctxs = s.ctxs := by
  unfold State.startSilence
  split <;> rfl

theorem Context.mapPeer_id (c : Context) (owner : Byte) (f : Peer → Peer) : (c.mapPeer owner f).id = c.id := rfl

/-- An update of contexts that keeps their numbers keeps which numbers there are. -/
theorem State.mapCtx_present (s : State) (id k : Nat) (f : Context → Context) (hf : ∀ c, (f c).id = c.id)
    (h : (s.ctx? k).isSome = true) : ((s.mapCtx id f).ctx? k).isSome = true := by
  obtain ⟨c, hc, hk⟩ := List.find?_isSome.mp h
  refine List.find?_isSome.mpr ⟨_, List.mem_map_of_mem hc, ?_⟩
  split
  · rwa [hf]
  · exact hk

/-- A request of a context that exists is one more outstanding operation, under the next name. -/
theorem State.sendRequest_adds {s : State} {ctx : Nat} (h : (s.ctx? ctx).isSome = true) (agent : AgentId) (ea : W64)
    (lanes : List (Fin 64)) (op : RemoteOp) (numbered posted : Bool) :
    let t := s.sendRequest ctx agent ea lanes op numbered posted
    t.outRemote.map Outstanding.tag = s.outRemote.map Outstanding.tag ++ [s.nextUid] ∧ t.nextUid = s.nextUid + 1 ∧
      (t.ctx? ctx).isSome = true := by
  obtain ⟨c, hc⟩ := Option.isSome_iff_exists.mp h
  have hs : ((s.startSilence (ownerOf ea)).ctx? ctx).isSome = true := by rwa [State.ctx?, State.startSilence_ctxs]
  simp only [State.sendRequest, hc]
  cases numbered with
  | false => exact ⟨by simp, by simp, hs⟩
  | true => exact ⟨by simp, by simp, State.mapCtx_present _ _ _ _ (fun c => Context.mapPeer_id ..) hs⟩

/-- Requests are outstanding under consecutive names, in their order. -/
theorem State.sendAll_adds {s : State} {ctx : Nat} (h : (s.ctx? ctx).isSome = true) (agent : AgentId)
    (op : List (Fin 64) → RemoteOp) (numbered posted : Bool) (reqs : List (W64 × List (Fin 64))) :
    (s.sendAll ctx agent op numbered posted reqs).outRemote.map Outstanding.tag =
      s.outRemote.map Outstanding.tag ++ (List.range reqs.length).map fun i => s.nextUid + i := by
  induction reqs generalizing s with
  | nil => simp [State.sendAll]
  | cons x reqs ih =>
    obtain ⟨hr, hn, hc⟩ := State.sendRequest_adds h agent x.1 x.2 (op x.2) numbered posted
    rw [State.sendAll, ih hc, hr, hn, List.length_cons, List.range_succ_eq_map, List.map_cons, List.map_map]
    simp [Function.comp_def, Nat.add_comm 1, Nat.add_assoc]

/-- Requests are merged from at least one lane's. -/
theorem mergeLanes_ne_nil {m : Mask} (h : m ≠ 0) (ea : Fin 64 → W64) : mergeLanes (Mask.lanes m) ea ≠ [] := by
  obtain hl | ⟨ls, l, hl⟩ := List.eq_nil_or_concat (Mask.lanes m)
  · refine absurd (BitVec.eq_of_getLsbD_eq fun i hi => ?_) h
    have hn : ⟨i, hi⟩ ∉ Mask.lanes m := by simp [hl]
    simpa using hn
  · rw [hl, mergeLanes, List.concat_eq_append, List.foldl_append, List.foldl_cons, List.foldl_nil]
    split
    · rename_i ha
      obtain ⟨x, hx, -⟩ := List.any_eq_true.mp ha
      exact fun h0 => List.ne_nil_of_mem hx (List.map_eq_nil_iff.mp h0)
    · simp

/-! ### How a remote operation goes on -/

section
variable {f : MForm} {s : State} {c : Context} {g : Group} {w : Warp} {sh : Shape} {op : List (Fin 64) → RemoteOp} {n : Nat}
  {ea : Fin 64 → W64}

/-- What a remote operation needs to send its requests: no address fault and, for numbered ones, room toward each owner (R150, R161). -/
def Env.maySend (e : Env) (ea : Fin 64 → W64) (n : Nat) (numbered : Bool) : Prop :=
  e.checkRemote e.eff ea n = none ∧ (numbered = true → e.fullWindow (mergeLanes (Mask.lanes e.eff) ea) = none)

theorem Env.maySend_window {e : Env} {numbered : Bool} (h : e.maySend ea n numbered) :
    (if numbered then e.fullWindow (mergeLanes (Mask.lanes e.eff) ea) else none) = none := by
  cases numbered with
  | false => rfl
  | true => exact h.2 rfl

/-- A posted operation is done once its requests are sent. -/
theorem Env.post_sends {e : Env} {numbered : Bool} (h : e.maySend ea n numbered) (op : List (Fin 64) → RemoteOp) :
    e.post e.eff (0, 1) ea n op numbered =
      .done (e.s.sendAll e.c.id e.me op numbered true (mergeLanes (Mask.lanes e.eff) ea)) := by
  simp only [Env.post, h.1, Env.maySend_window h, State.killLanes_zero]

/-- An operation with a result sends its requests and waits for their answers. -/
theorem Env.await_sends {e : Env} {numbered : Bool} (h : e.maySend ea n numbered) (he : e.eff ≠ 0)
    (hw : ∀ tags, e.w.wait ≠ .remote tags) (op : List (Fin 64) → RemoteOp) (f : MForm) :
    let reqs := mergeLanes (Mask.lanes e.eff) ea
    e.await e.eff (0, 1) ea n op numbered f = .wait (e.s.sendAll e.c.id e.me op numbered false reqs)
      (.remote ((List.range reqs.length).map fun i => e.s.nextUid + i)) := by
  intro reqs
  have hr : reqs.isEmpty = false := by simpa [reqs] using mergeLanes_ne_nil he ea
  unfold Env.await
  split
  · rename_i tags ht
    exact absurd ht (hw tags)
  · simp only [h.1, Env.maySend_window h]
    rw [if_neg (by simpa using hr)]

/-- Without an executing lane it sends nothing and delivers zero. -/
theorem Env.await_empty {e : Env} (he : e.eff = 0) (hw : ∀ tags, e.w.wait ≠ .remote tags) (op : List (Fin 64) → RemoteOp)
    (numbered : Bool) (f : MForm) : e.await e.eff (0, 1) ea n op numbered f = e.deliverLoad e.s e.w f [] (0, 1) [] := by
  have hl : Mask.lanes (0 : Mask) = [] := by decide
  unfold Env.await
  split
  · rename_i tags ht
    exact absurd ht (hw tags)
  · rw [he]
    simp only [Env.checkRemote, hl, mergeLanes]
    rfl

/-- Where its requests have been answered without an error it delivers their values. -/
theorem Env.await_delivers {e : Env} {tags : List Nat} (hw : e.w.wait = .remote tags)
    (ha : ∀ l : Fin 64, e.eff.getLsbD l → (e.s.answerOf tags l).2 = none) (op : List (Fin 64) → RemoteOp) (numbered : Bool) (f : MForm) :
    e.await e.eff (0, 1) ea n op numbered f =
      e.deliverLoad { e.s with outRemote := e.s.outRemote.filter fun o => !tags.contains o.tag } e.w f
        ((Mask.lanes e.eff).map fun l => (l, (e.s.answerOf tags l).1)) (0, 1) [] := by
  have hn : (((Mask.lanes e.eff).map fun l => (l, e.s.answerOf tags l)).filterMap fun x =>
      x.2.2.map fun src => (laneMask [x.1], src, ea x.1)) = [] := by
    refine List.filterMap_eq_nil_iff.mpr fun x hx => ?_
    obtain ⟨l, hl, rfl⟩ := List.mem_map.mp hx
    simp [ha l (Mask.mem_lanes.mp hl)]
  simp only [Env.await, hw, hn, List.map_map]
  rfl

/-! ### The instructions -/

theorem storeBody_remote (hsp : f.space = .remote) (ha : addressable g w f [Opnd.any f.data f.fmt] []) :
    let e := envOf s c g w sh
    storeBody f 1 e = e.post e.eff (0, 1) (e.ea f 1) (accBytes f.fmt)
      (fun ls => .store ((ls.getLast?.map (e.storeBytes f)).getD []) f.a) true := by
  intro e
  have hm : e.memFault f [Opnd.any f.data f.fmt] [] = none := Env.memFault_of_addressable ha
  have hk : e.w.operandKills (Opnd.any f.data f.fmt :: addrOs f) e.eff = (0, 1) := Warp.operandKills_of_clean ha.1 _ _
  simp only [storeBody, hm, hk, Mask.and_not_zero, hsp]
  rfl

theorem loadBody_remote (hsp : f.space = .remote) (ha : addressable g w f [] [f.data]) :
    let e := envOf s c g w sh
    loadBody f 1 e = if f.nw then e.post e.eff (0, 1) (e.ea f 1) (accBytes f.fmt) (fun _ => .touch f.fmt f.a) false
      else e.await e.eff (0, 1) (e.ea f 1) (accBytes f.fmt) (fun _ => .load f.fmt f.a) false f := by
  intro e
  have hm : e.memFault f [] [f.data] = none := Env.memFault_of_addressable ha
  have hk : e.w.operandKills (addrOs f) e.eff = (0, 1) := Warp.operandKills_of_clean ha.1 _ _
  simp only [loadBody, hm, hk, Mask.and_not_zero, hsp]
  rfl

theorem vatomBody_remote (hsp : f.space = .remote) (hp : w.progress = none) (ha : addressable g w f (vatomOs f) []) :
    let e := envOf s c g w sh
    vatomBody f e = e.post e.eff (0, 1) (e.ea f 1) 32
      (fun ls => .vatom (atomOf f.sub) f.fmt (ls.map (e.vatomWords f)) (e.ovfOf f.fmt)) true := by
  intro e
  have hm : e.memFault f (vatomOs f) [] = none := Env.memFault_of_addressable ha
  have hk : e.w.operandKills (vatomOs f ++ addrOs f) e.eff = (0, 1) := Warp.operandKills_of_clean ha.1 _ _
  simp only [vatomBody, Env.orGoOn_none (show e.w.progress = none from hp), hm, hk, Mask.and_not_zero, hsp]
  rfl

/-- The request of a remote ATOM for some lanes. -/
def Env.atomRequest (e : Env) (f : MForm) (ls : List (Fin 64)) : RemoteOp :=
  .atom (atomOf f.sub) f.fmt (ls.map fun l => (srcAt e.w none (atomOs f) 0 l, srcAt e.w none (atomOs f) 1 l)) (e.ovfOf f.fmt)

theorem atomBody_remote (hsp : f.space = .remote) (hp : w.progress = none) (ha : addressable g w f (atomOs f) []) :
    let e := envOf s c g w sh
    atomBody f e = if f.nw then e.post e.eff (0, 1) (e.ea f 1) (accBytes f.fmt) (e.atomRequest f) true
      else e.await e.eff (0, 1) (e.ea f 1) (accBytes f.fmt) (e.atomRequest f) true f := by
  intro e
  have hm : e.memFault f (atomOs f) [] = none := Env.memFault_of_addressable ha
  have hk : e.w.operandKills (atomOs f ++ addrOs f) e.eff = (0, 1) := Warp.operandKills_of_clean ha.1 _ _
  simp only [atomBody, Env.orGoOn_none (show e.w.progress = none from hp), hm, hk, Mask.and_not_zero, hsp]
  rfl

/-- An LD or ATOM with a result is an operation that waits for its answers. -/
theorem exec_awaits {op : MOp} (ho : op = .ld ∨ op = .atom) (hsp : f.space = .remote) (hp : w.progress = none) (hn : f.nw = false)
    (ha : addressable g w f (if op = .atom then atomOs f else []) (if op = .atom then [] else [f.data])) :
    let e := envOf s c g w (.m op f)
    ∃ wb lb req numbered, exec (op.toInstr f) s = issue (.m op f) s wb lb ∧
      wb e = e.await e.eff (0, 1) (e.ea f 1) (accBytes f.fmt) req numbered f := by
  obtain rfl | rfl := ho
  · have hb := (loadBody_remote (s := s) (c := c) (sh := .m .ld f) hsp ha).trans (if_neg (ne_true_of_eq_false hn))
    exact ⟨loadBody f 1, noLeek, _, false, rfl, hb⟩
  · have hb := (atomBody_remote (s := s) (c := c) (sh := .m .atom f) hsp hp ha).trans (if_neg (ne_true_of_eq_false hn))
    exact ⟨atomBody f, noLeek, _, true, rfl, hb⟩

end

/-- Settles O34: each meaning posts its requests, or sends them and waits, and then delivers the answers. -/
theorem remoteAccessesComplete : Obligations.RemoteAccessesComplete := by
  intro op f s c g w h hsp hp sh e me sends free n reqs tags waits
  have hc : (s.ctx? c.id).isSome = true := by rw [h.ctx]; rfl
  refine ⟨?st, ?touch, ?vatom, ?posted, ?atom, ?ld, ?empty, ?answered⟩
  case st =>
    rintro rfl ha hfree
    exact h.done ((storeBody_remote hsp ha).trans (Env.post_sends hfree _))
  case touch =>
    rintro rfl hn ha hfree
    have hb := (loadBody_remote (s := s) (c := c) (sh := sh) hsp ha).trans (if_pos hn)
    exact h.done (hb.trans (Env.post_sends hfree _))
  case vatom =>
    rintro rfl ha hfree
    exact h.done ((vatomBody_remote hsp hp ha).trans (Env.post_sends hfree _))
  case posted =>
    rintro rfl hn ha hfree
    have hb := (atomBody_remote (s := s) (c := c) (sh := sh) hsp hp ha).trans (if_pos hn)
    exact h.done (hb.trans (Env.post_sends hfree _))
  case atom =>
    rintro rfl hn ha hfree he hw
    have hb := (atomBody_remote (s := s) (c := c) (sh := sh) hsp hp ha).trans (if_neg (ne_true_of_eq_false hn))
    exact ⟨h.wait (hb.trans (Env.await_sends hfree he hw _ f)), State.sendAll_adds hc _ _ _ _ _⟩
  case ld =>
    rintro rfl hn ha hfree he hw
    have hb := (loadBody_remote (s := s) (c := c) (sh := sh) hsp ha).trans (if_neg (ne_true_of_eq_false hn))
    exact ⟨h.wait (hb.trans (Env.await_sends hfree he hw _ f)), State.sendAll_adds hc _ _ _ _ _⟩
  case empty =>
    intro ho hn hd ha he hw
    obtain ⟨wb, lb, req, numbered, hx, hb⟩ := exec_awaits (s := s) (c := c) ho hsp hp hn ha
    exact hx.trans (h.done (hb.trans ((Env.await_empty he hw req numbered f).trans (deliverLoad_clean h.calm hd 1 []))))
  case answered =>
    intro ho hn hd ha tags hw _ hans
    obtain ⟨wb, lb, req, numbered, hx, hb⟩ := exec_awaits (s := s) (c := c) ho hsp hp hn ha
    exact hx.trans (h.done (hb.trans ((Env.await_delivers hw hans req numbered f).trans (deliverLoad_clean h.calm hd 1 _))))

end Sys2Proof.Machine
end

section
/-!
PROOF. Copies (R165 to R168): that a copy which passes its checks starts, and what each of its events comes to.
-/
namespace Sys2Proof.Machine

open Sys2Proof.Says

/-- An instruction that no lane executes does nothing. -/
theorem Env.once_empty {e : Env} (h : e.eff = 0) (os : List Opnd) (k : Effect) : e.once os k = .done e.s := by
  rw [Env.once, if_pos h]

/-- One that reads no error runs. -/
theorem Env.once_clean {e : Env} (h : e.eff ≠ 0) (hb : e.w.bad = []) (os : List Opnd) (k : Effect) : e.once os k = k := by
  rw [Env.once, if_neg h, Warp.operandKills_of_clean hb]
  rfl

theorem acopyRun_starts {s : State} {v : Viewer} {f : MForm} {dst src : W64} {count ctl : W32}
    (h : copyAllowed s v f dst src count.toNat ctl) (who : AgentId) (lanes : Mask) :
    acopyRun s v who f lanes dst src count ctl = .done (copyStarted s v who f dst src count.toNat ctl) := by
  obtain ⟨hctl, hdst, hsrc, hn, hwin, hread, hwrite, hkind⟩ := h
  have hw : (f.sub == 1 && count.toNat != 0 && (v.ctx.windowOf dst.toNat count.toNat).isNone) = false := by
    rw [← Bool.not_eq_true]
    simp only [Bool.and_eq_true, beq_iff_eq, bne_iff_ne, ne_eq, Option.isNone_iff_eq_none]
    rintro ⟨⟨hs, h0⟩, hnone⟩
    simpa [hnone] using hwin hs h0
  simp only [acopyRun, hctl, hdst, hsrc, hn, hw, hread, hwrite, hkind, worseAt, Bool.false_eq_true, if_false, ne_eq, not_true_eq_false]
  rfl

/-! ### The copy engine's events -/

section
variable {s : State} {u : Nat} {k : Copy} (hk : s.copies.find? (fun k => k.uid == u) = some k)
include hk

theorem exec_copySector (ho : k.over = false) : exec (.copySector u) s = .next (s.moveSector k) := by
  change execCopySector u s = _
  simp only [execCopySector, hk, ho, Bool.false_eq_true, if_false]

theorem exec_copySector_over (ho : k.over = true) : exec (.copySector u) s = .next s := by
  change execCopySector u s = _
  simp only [execCopySector, hk, ho, if_true]

theorem exec_copyComplete (ho : k.over = true) (hr : ctlEv k.ctl = true → (s.cluster k.cluster).events.length < 64) :
    exec (.copyComplete u) s = .next (
      let s := { s with copies := s.copies.filter fun x => x.uid != k.uid }
      let s := if ctlEv k.ctl then
          s.mapCluster k.cluster fun z => { z with events := z.events ++ [{ group := k.group, record := k.record }] }
        else s
      if ctlBd k.ctl then s.addBytes (.gb k.group (ctlBar k.ctl)) (-(k.written : Int)) else s) := by
  have hroom : (ctlEv k.ctl && decide (64 ≤ (s.cluster k.cluster).events.length)) = false := by
    rw [← Bool.not_eq_true]
    simp only [Bool.and_eq_true, decide_eq_true_eq, not_and, Nat.not_le]
    exact hr
  change execCopyComplete u s = _
  simp only [execCopyComplete, hk, State.completeCopy, ho, hroom, Bool.not_true, Bool.false_eq_true, if_false]

end

section
variable {s : State} {k : Copy} {c : Context} {g : Group} {p : Nat} {a : Bool} {fill : List TlbEntry}
  (hc : s.ctx? k.ctx = some c) (hg : s.group? k.group = some g)
include hc hg

theorem State.moveSector_reads (hh : k.held = none)
    (hr : s.resolveAny { ctx := c, grp := g } (if k.scratch then .scratch else .generic) ((k.src.toNat + k.done) % 2 ^ 64) .read =
      .ok p a fill) :
    s.moveSector k = if (s.errorIn p 32 a).isSome
      then (s.fillTlb fill).mapCopy k.uid fun k => { k with done := k.done + 32, status := 2 }
      else (s.fillTlb fill).mapCopy k.uid fun k => { k with held := some (s.mem.read p 32) } := by
  simp only [State.moveSector, hc, hg, hh, hr]
  rfl

theorem State.moveSector_writes {bs : List Byte} (hh : k.held = some bs)
    (hr : s.resolveAny { ctx := c, grp := g } .generic ((k.dst.toNat + k.done) % 2 ^ 64) .write = .ok p a fill) :
    s.moveSector k = ((s.fillTlb fill).copyWrite k ((k.dst.toNat + k.done) % 2 ^ 64) p bs).mapCopy k.uid fun k =>
      { k with done := k.done + 32, written := k.written + 32, held := none } := by
  simp only [State.moveSector, hc, hg, hh, hr]

end

/-- A sector's read is sound from approximate storage, or where nothing it meets is poisoned. -/
theorem State.errorIn_isSome (s : State) (p n : Nat) (a : Bool) : (s.errorIn p n a).isSome = (!a && s.poisoned p n) := by
  cases a <;> rfl

/-- Settles O38: the checks of an ACOPY start its copy, and each event of the copy engine is one equation of its meaning. -/
theorem copiesRunToCompletion : Obligations.CopiesRunToCompletion := by
  intro f s c g w l x y
  refine ⟨?skipped, ?warp, ?leek, fun u k hk => ⟨fun ho hc hg => ⟨?reads, ?writes⟩, ?moved, ?completes⟩⟩
  case skipped => exact fun h he => h.done (Env.once_empty he ..)
  case warp => exact fun h he hb ha => h.done ((Env.once_clean he hb ..).trans (acopyRun_starts ha ..))
  case leek =>
    intro h ht ha
    have hrun : acopyLeek f (leekEnvOf s c g l) = _ := (if_pos ht).trans (acopyRun_starts ha ..)
    exact h.done hrun
  case reads =>
    intro p a fp hh hr
    rw [exec_copySector hk ho, State.moveSector_reads hc hg hh hr, State.errorIn_isSome]
    refine ⟨fun hs => ?_, fun ha hp => ?_⟩
    · obtain rfl | hp := hs
      · rfl
      · simp [hp]
    · simp [ha, hp]
  case writes =>
    intro bs q b fq hh dst hr s1
    rw [exec_copySector hk ho, State.moveSector_writes hc hg hh hr]
    rfl
  case moved => exact exec_copySector_over hk
  case completes => exact exec_copyComplete hk

end Sys2Proof.Machine
end

section
/-!
PROOF. Publish windows (R169, R170): what WINSET and PUBLISH come to where a SHADOW copy still writes the window and where none does.
-/
namespace Sys2Proof.Machine

open Sys2Proof.Says

section
variable {f : MForm} {s : State} {c : Context} {g : Group} {w : Warp} {sh : Shape} (hb : w.bad = []) (he : w.eff sh ≠ 0)
include hb he

/-- An allowed WINSET waits for the first range that a SHADOW copy still writes, or else binds its window. -/
theorem winsetBody_allowed :
    let e := envOf s c g w sh
    let n := (w.uni f.data none .n32).toNat
    let base := w.uni f.base none .n64 + offOf f
    let size := (w.uni f.index none .n32).toNat
    e.winsetBad n base.toNat size = false →
    winsetBody f e = match e.shadowRange ((base.toNat, base.toNat + size) ::
        (c.windows.filter fun x => x.n == n).map fun x => (x.base.toNat, x.base.toNat + x.size)) with
      | some r => .wait s (.shadows r.1 r.2 s.nextUid)
      | none => .done (s.mapCtx c.id fun k => { k with windows :=
        let rest := k.windows.filter fun x => x.n != n
        if size = 0 then rest else { n := n, base := base, size := size } :: rest }) := by
  intro e n base size hok
  refine (Env.once_clean he hb ..).trans ((if_neg (ne_true_of_eq_false hok)).trans ?_)
  rfl

/-- Which copies a PUBLISH waits for: those issued before it first waited (R170). -/
def publishBound (s : State) (w : Warp) : Nat :=
  match w.wait with
  | .shadows _ _ b => b
  | _ => s.nextUid

omit hb he in
theorem publishBound_eq {bound : Nat}
    (h : (∀ lo hi b, w.wait ≠ .shadows lo hi b) ∧ bound = s.nextUid ∨ ∃ lo hi, w.wait = .shadows lo hi bound) :
    publishBound s w = bound := by
  obtain ⟨hw, rfl⟩ | ⟨lo, hi, hw⟩ := h
  · unfold publishBound
    split
    · rename_i b hx
      exact absurd hx (hw _ _ b)
    · rfl
  · rw [publishBound, hw]

/-- An allowed PUBLISH in a window waits for the SHADOW copies into it, or else exchanges its backings. -/
theorem publishBody_allowed {win : Window} :
    let va := w.uni f.base none .n64 + offOf f
    let ctl := lo32 (w.uni f.index none .n32)
    let hi := win.base.toNat + win.size
    ctlBad ctl g = false → c.windowOf va.toNat 1 = some win →
    publishBody f (envOf s c g w sh) = if s.shadowInto c.id win.base.toNat hi (publishBound s w)
      then .wait s (.shadows win.base.toNat hi (publishBound s w))
      else .done ((s.swapWindow c win (.warp g.uid w.id)).startCopy fun u =>
        { uid := u, ctx := c.id, group := g.uid, cluster := g.cluster, agent := .warp g.uid w.id, shadow := false, publish := true
          scratch := false, src := 0, dst := win.base, count := 0, done := 0, written := 0, ctl := ctl, status := 0
          held := none }) := by
  intro va ctl hi hctl hwin
  refine (Env.once_clean he hb ..).trans ((if_neg (ne_true_of_eq_false hctl)).trans ?_)
  have hwin' : (envOf s c g w sh).c.windowOf ((envOf s c g w sh).w.uni f.base none .n64 + offOf f).toNat 1 = some win := hwin
  simp only [hwin']
  rfl

end

/-- Settles O39: each instruction is done or waits, by whether a SHADOW copy still writes its window. -/
theorem windowInstructionsComplete : Obligations.WindowInstructionsComplete := by
  intro f s c g w hb
  refine ⟨?winset, ?publish, ?skipped⟩
  case winset =>
    intro h he e n base size hok
    have hrun := winsetBody_allowed (s := s) (c := c) (g := g) hb he hok
    refine ⟨fun hn => h.done (wb := winsetBody f) ?_, fun r hr => h.wait (wb := winsetBody f) ?_⟩
    · rw [hrun, hn]
    · rw [hrun, hr]
  case publish =>
    intro win bound h he hbound va ctl hctl hwin
    have hrun := publishBody_allowed (s := s) (c := c) (g := g) hb he hctl hwin
    rw [publishBound_eq hbound] at hrun
    exact ⟨fun hn => h.done (hrun.trans (if_neg (ne_true_of_eq_false hn))), fun hs => h.wait (hrun.trans (if_pos hs))⟩
  case skipped =>
    rw [List.forall_mem_cons, List.forall_mem_singleton]
    exact ⟨fun h he => h.done (Env.once_empty he ..), fun h he => h.done (Env.once_empty he ..)⟩

end Sys2Proof.Machine
end

section
/-!
PROOF. Bank modes and FIFOs (R172, R173, R316 to R319): BANKSET before and after its drain, the end of a drain, and pushes and pops of a
warp and of a Leek thread.
-/
namespace Sys2Proof.Machine

open Sys2Proof.Says

/-! ### BANKSET -/

section
variable {f : MForm} {s : State} {c : Context} {g : Group} {w : Warp} {sh : Shape} (hb : w.bad = []) (he : w.eff sh ≠ 0)
include hb he

/-- A BANKSET on a block that it may not set is ILLEGAL (R172). -/
theorem banksetBody_illegal :
    let n := (w.uni f.data none .n32).toNat
    (31 < n ∨ (g.block n).valid = false ∨ (g.block n).spill = true ∧ f.sub ≠ 0) →
    banksetBody f (envOf s c g w sh) = .fault .illegal 0 (w.eff sh) := by
  intro n hbad
  have hmode : f.sub ≠ 0 → f.sub.toNat ≠ 0 := fun h h0 => h (BitVec.eq_of_toNat_eq h0)
  refine (Env.once_clean he hb ..).trans (if_pos ?_)
  change (decide (31 < n) || !(g.block n).valid || ((g.block n).spill && f.sub.toNat != 0)) = true
  obtain h | h | ⟨h, hs⟩ := hbad
  · simp [h]
  · simp [h]
  · simp [h, hmode hs]

/-- Another waits for a drain of its bank, unless the block is spilled or the drain has ended, and then for accesses in flight. -/
theorem banksetBody_allowed :
    let n := (w.uni f.data none .n32).toNat
    n ≤ 31 → (g.block n).valid = true → ((g.block n).spill = true → f.sub = 0) →
    banksetBody f (envOf s c g w sh) =
      if (g.block n).spill = true ∨ w.wait = .drain (g.block n).bank.toNat ∨ w.wait = .quiet n then
        if s.blockBusy g n then .wait s (.quiet n) else .done ((s.rollBlock c g n).setBank g f.sub.toNat n)
      else .wait (s.mapCluster g.cluster fun z => { z with drains := (g.block n).bank.toNat :: z.drains })
        (.drain (g.block n).bank.toNat) := by
  intro n hn hv hs
  have hok : (decide (31 < n) || !(g.block n).valid || ((g.block n).spill && f.sub.toNat != 0)) = false := by
    cases hp : (g.block n).spill with
    | false => simp [hv, hn]
    | true => simp [hv, hn, hs hp]
  have hgo : ((g.block n).spill || w.wait == .drain (g.block n).bank.toNat || w.wait == .quiet n) = true ↔
      (g.block n).spill = true ∨ w.wait = .drain (g.block n).bank.toNat ∨ w.wait = .quiet n := by simp [or_assoc]
  refine (Env.once_clean he hb ..).trans ((if_neg (ne_true_of_eq_false hok)).trans ?_)
  exact if_congr hgo rfl rfl

end

/-! ### The end of a drain -/

section
variable {s : State} {cluster bank : Nat}

/-- Whether a group's start waits for the drain of a bank (R317). -/
def drainsFor (cluster bank : Nat) (x : Group) : Bool := x.cluster == cluster && x.draining.contains bank

theorem exec_bankDrainComplete_places (h : ∃ x ∈ s.groups, drainsFor cluster bank x = true) :
    exec (.bankDrainComplete cluster bank) s = .next { (s.zero (bankRange cluster bank).1 (bankRange cluster bank).2) with
      groups := s.groups.map fun x =>
        if drainsFor cluster bank x then { x with draining := x.draining.filter fun b => b != bank } else x } :=
  if_pos (List.any_eq_true.mpr h)

variable (h : ∀ x ∈ s.groups, drainsFor cluster bank x = false)
include h

theorem exec_bankDrainComplete_goesOn (hd : bank ∈ (s.cluster cluster).drains) (hq : s.bankBusy cluster bank = false) :
    exec (.bankDrainComplete cluster bank) s =
      .next (s.mapCluster cluster fun z => { z with drains := z.drains.filter fun b => b != bank }) :=
  (if_neg (by simpa [drainsFor] using h)).trans (if_pos (by simp [hd, hq]))

theorem exec_bankDrainComplete_busy (hq : s.bankBusy cluster bank = true) : exec (.bankDrainComplete cluster bank) s = .next s :=
  (if_neg (by simpa [drainsFor] using h)).trans (if_neg (by simp [hq]))

end

/-! ### FIFOs of a warp -/

/-- A block in FIFO mode of precise registers: a push or pop may use it (R173). -/
def fifoReady (g : Group) (n : Nat) : Prop :=
  n ≤ 31 ∧ (g.block n).valid = true ∧ (g.block n).fifo = true ∧ (g.block n).apx = false

theorem fifoFault_none {g : Group} {n : Nat} (h : fifoReady g n) : fifoFault g n = none := by
  obtain ⟨hn, hv, hf, ha⟩ := h
  simp [fifoFault, hv, hf, ha, hn]

section
variable {f : MForm} {s : State} {c : Context} {g : Group} {w : Warp} {sh : Shape} {r : Fin 256} (hb : w.bad = []) (he : w.eff sh ≠ 0)
  (hd : f.data = .v r)
include hb he hd

/-- A push appends the slots of its register, or waits for room (R173). -/
theorem fpushBody_ready :
    let n := (w.uni f.index none .n32).toNat
    let count := if f.fmt.wide then 2 else 1
    fifoReady g n → w.operandFault g.desc.apxFrom f.a [Opnd.of f.data f.fmt] [] [] = none →
    fpushBody f (envOf s c g w sh) = if (g.fifo n).length + count ≤ 128
      then .done (s.mapFifo g.uid n fun q =>
        q ++ slotOf w r.val (w.eff sh) :: if f.fmt.wide then [slotOf w (r.val + 1) (w.eff sh)] else [])
      else .wait s (.fifoRoom n count) := by
  intro n count hr ho
  set e := envOf s c g w sh with hE
  have ho' : e.w.operandFault e.g.desc.apxFrom f.a [Opnd.of f.data f.fmt] [] [] = none := ho
  have hk : e.w.operandKills [Opnd.of f.data f.fmt] e.eff = (0, 1) := Warp.operandKills_of_clean hb _ _
  have hf : fifoFault e.g (e.w.uni f.index none .n32).toNat = none := fifoFault_none hr
  have hl : (slotOf e.w r.val e.eff :: if f.fmt.wide then [slotOf e.w (r.val + 1) e.eff] else []).length = count := by
    simp only [count]
    split <;> rfl
  rw [hd] at ho' hk
  simp only [fpushBody, hd, ho', Env.once_clean (show e.eff ≠ 0 from he) hb, hk, hf, Mask.and_not_zero, State.killLanes_zero, hl]
  rfl

omit hd in
/-- A pop waits for data, or takes the oldest slots and delivers their words (R173). -/
theorem fpopBody_waits :
    let n := (w.uni f.index none .n32).toNat
    let count := if f.fmt.wide then 2 else 1
    fifoReady g n → w.operandFault g.desc.apxFrom f.a [] [] [f.data] = none → (g.fifo n).length < count →
    fpopBody f (envOf s c g w sh) = .wait s (.fifoData n count) := by
  intro n count hr ho hq
  set e := envOf s c g w sh with hE
  have ho' : e.w.operandFault e.g.desc.apxFrom f.a [] [] [f.data] = none := ho
  have hk : e.w.operandKills [Opnd.any f.index .n32] e.eff = (0, 1) := Warp.operandKills_of_clean hb _ _
  have hf : fifoFault e.g (e.w.uni f.index none .n32).toNat = none := fifoFault_none hr
  have he' : e.eff ≠ 0 := he
  have hgo : (decide (e.eff = 0) || decide ((0 : Mask) ≠ 0)) = false := by simpa using he'
  have hq' : (e.g.fifo (e.w.uni f.index none .n32).toNat).length < if f.fmt.wide then 2 else 1 := hq
  simp only [fpopBody, ho', hk, hgo, hf, hq', Bool.false_eq_true, if_false, if_true]
  rfl

theorem fpopBody_takes (hc : w.spec = none) :
    let n := (w.uni f.index none .n32).toNat
    let count := if f.fmt.wide then 2 else 1
    let lo := (g.fifo n).getD 0 { bytes := [], bad := [] }
    let hi := if f.fmt.wide then (g.fifo n).getD 1 { bytes := [], bad := [] } else { bytes := [], bad := [] }
    fifoReady g n → w.operandFault g.desc.apxFrom f.a [] [] [f.data] = none → count ≤ (g.fifo n).length → lo.bad = [] → hi.bad = [] →
    fpopBody f (envOf s c g w sh) = .done ((s.mapFifo g.uid n fun q => q.drop count).putWarp g w (loadsInto w sh f
      (laneVal ((List.finRange 64).map fun i => (i, BitVec.ofNat 64 (slotWord lo i + slotWord hi i * 2 ^ 32)))))) := by
  intro n count lo hi hr ho hq hlo hhi
  set e := envOf s c g w sh with hE
  have ho' : e.w.operandFault e.g.desc.apxFrom f.a [] [] [f.data] = none := ho
  have hk : e.w.operandKills [Opnd.any f.index .n32] e.eff = (0, 1) := Warp.operandKills_of_clean hb _ _
  have hf : fifoFault e.g (e.w.uni f.index none .n32).toNat = none := fifoFault_none hr
  have he' : e.eff ≠ 0 := he
  have hgo : (decide (e.eff = 0) || decide ((0 : Mask) ≠ 0)) = false := by simpa using he'
  have hq' : ¬ (e.g.fifo (e.w.uni f.index none .n32).toNat).length < if f.fmt.wide then 2 else 1 := Nat.not_lt.mpr hq
  have herr : lo.errs n e.eff ++ hi.errs n e.eff = [] := by simp [FifoSlot.errs, hlo, hhi]
  simp only [fpopBody, ho', hk, hgo, hf, hq', Bool.false_eq_true, if_false]
  refine Eq.trans (congrArg _ herr) (deliverLoad_clean hc ⟨r, hd⟩ 0 _)

end

/-! ### FIFOs of a Leek thread -/

section
variable {f : MForm} {s : State} {c : Context} {g : Group} {l : Leek} (ht : l.takes f.pneg f.pred = true)
  (hr : fifoReady g (lo32 (l.src .n32 f.index none)).toNat)
include ht hr

theorem fpushLeek_ready :
    let n := (lo32 (l.src .n32 f.index none)).toNat
    fpushLeek f (leekEnvOf s c g l) = if (g.fifo n).length < 128
      then .done (s.mapFifo g.uid n fun q =>
        q ++ [{ bytes := toBytesLE 8 (l.src .n64 f.data none).toNat ++ List.replicate 248 0, bad := [] }])
      else .wait s (.fifoRoom n 1) := by
  intro n
  have ht' : (leekEnvOf s c g l).l.takes f.pneg f.pred = true := ht
  have hf : fifoFault (leekEnvOf s c g l).g (lo32 ((leekEnvOf s c g l).l.src .n32 f.index none)).toNat = none := fifoFault_none hr
  simp only [fpushLeek, ht', hf, Bool.not_true, Bool.false_eq_true, if_false]
  rfl

theorem fpopLeek_waits (hq : g.fifo (lo32 (l.src .n32 f.index none)).toNat = []) :
    fpopLeek f (leekEnvOf s c g l) = .wait s (.fifoData (lo32 (l.src .n32 f.index none)).toNat 1) := by
  have ht' : (leekEnvOf s c g l).l.takes f.pneg f.pred = true := ht
  have hf : fifoFault (leekEnvOf s c g l).g (lo32 ((leekEnvOf s c g l).l.src .n32 f.index none)).toNat = none := fifoFault_none hr
  have hq' : (leekEnvOf s c g l).g.fifo (lo32 ((leekEnvOf s c g l).l.src .n32 f.index none)).toNat = [] := hq
  simp only [fpopLeek, ht', hf, hq', Bool.not_true, Bool.false_eq_true, if_false]
  rfl

theorem fpopLeek_takes {x : FifoSlot} {rest : List FifoSlot} (hq : g.fifo (lo32 (l.src .n32 f.index none)).toNat = x :: rest)
    (hx : x.bad.contains 0 = false) :
    fpopLeek f (leekEnvOf s c g l) = .done ((s.mapFifo g.uid (lo32 (l.src .n32 f.index none)).toNat List.tail).mapLeek g.uid fun l =>
      l.writeG f.data (valueOfBytes (x.bytes.take 8))) := by
  have ht' : (leekEnvOf s c g l).l.takes f.pneg f.pred = true := ht
  have hf : fifoFault (leekEnvOf s c g l).g (lo32 ((leekEnvOf s c g l).l.src .n32 f.index none)).toNat = none := fifoFault_none hr
  have hq' : (leekEnvOf s c g l).g.fifo (lo32 ((leekEnvOf s c g l).l.src .n32 f.index none)).toNat = x :: rest := hq
  simp only [fpopLeek, ht', hf, hq', hx, Bool.not_true, Bool.false_eq_true, if_false]
  rfl

end

/-- Settles O40: each outcome of BANKSET, of a drain's end, and of a push or pop is one equation of its meaning. -/
theorem banksAndFifosComplete : Obligations.BanksAndFifosComplete := by
  intro f s c g w l hb n k lk count fifoOk
  refine ⟨?bankset, ?illegal, ?drain, ?push, ?pop, ?leekPush, ?leekPop⟩
  case bankset =>
    intro h he hn hv sets
    have hrun := banksetBody_allowed (s := s) (c := c) hb he hn hv
    refine ⟨fun hs hw => ?_, fun hs hw hq => ?_, fun hs hm hq => ?_, fun hs hm hq => ?_⟩
    · have hgo := (hrun fun h => absurd h (ne_true_of_eq_false hs)).trans (if_pos (.inr hw))
      exact ⟨fun hq => h.done (hgo.trans (if_neg (ne_true_of_eq_false hq))), fun hq => h.wait (hgo.trans (if_pos hq))⟩
    · have hstop := not_or.mpr ⟨ne_true_of_eq_false hs, not_or.mpr ⟨hw, hq⟩⟩
      exact h.wait ((hrun fun h => absurd h (ne_true_of_eq_false hs)).trans (if_neg hstop))
    · exact h.done ((hrun fun _ => hm).trans ((if_pos (.inl hs)).trans (if_neg (ne_true_of_eq_false hq))))
    · exact h.wait ((hrun fun _ => hm).trans ((if_pos (.inl hs)).trans (if_pos hq)))
  case illegal => exact fun h he hn ht hbad => h.traps (cause := .illegal) hn ht (by decide) (banksetBody_illegal hb he hbad)
  case drain =>
    exact fun cluster bank => ⟨exec_bankDrainComplete_places, exec_bankDrainComplete_goesOn, exec_bankDrainComplete_busy⟩
  case push =>
    intro r h hd he hr ho m words slot
    have hrun := fpushBody_ready (s := s) (c := c) hb he hd hr ho
    exact ⟨fun hq => h.done (hrun.trans (if_pos hq)), fun hq => h.wait (hrun.trans (if_neg (Nat.not_le.mpr hq)))⟩
  case pop =>
    intro r h hd he hr ho lo hi
    exact ⟨fun hq => h.wait (fpopBody_waits hb he hr ho hq),
      fun hq hlo hhi => h.done (fpopBody_takes hb he hd h.calm hr ho hq hlo hhi)⟩
  case leekPush =>
    intro h ht hr
    have hrun := fpushLeek_ready (s := s) (c := c) ht hr
    exact ⟨fun hq => h.done (hrun.trans (if_pos hq)), fun hq => h.wait (hrun.trans (if_neg (Nat.not_lt.mpr hq)))⟩
  case leekPop =>
    exact fun h ht hr => ⟨fun hq => h.wait (fpopLeek_waits ht hr hq), fun x rest hq hx => h.done (fpopLeek_takes ht hr hq hx)⟩

end Sys2Proof.Machine
end

section
/-!
PROOF. Which address fault an instruction reports (R150): the first kind of the order that any check meets, of the lowest lane that meets
it, at that lane's lowest address; and what an instruction comes to that stops on it.
-/
namespace Sys2Proof.Machine

open Sys2Proof.Says

/-! ### The first kind -/

/-- The earlier of two kinds, the first where they are equal. -/
def earlierFault : Option AddrFault → Option AddrFault → Option AddrFault
  | a, none => a
  | none, some f => some f
  | some x, some f => if f.rank < x.rank then some f else some x

theorem worstFault_eq_foldl (rs : List (Fin 64 × W64 × Resolved)) :
    worstFault rs = rs.foldl (fun a r => earlierFault a (faultIn r.2.2)) none := by
  unfold worstFault
  refine congrArg (fun g => List.foldl g none rs) (funext fun a => funext fun r => ?_)
  cases r.2.2 <;> cases a <;> rfl

theorem AddrFault.rank_injective {f g : AddrFault} (h : f.rank = g.rank) : f = g := by
  revert h
  cases f <;> cases g <;> decide

theorem earlierFault_mem {a b : Option AddrFault} {f : AddrFault} (h : earlierFault a b = some f) : a = some f ∨ b = some f := by
  unfold earlierFault at h
  split at h
  · exact .inl h
  · exact .inr h
  · split at h
    · exact .inr h
    · exact .inl h

/-- Of two kinds the one that comes no later is the earlier. -/
theorem earlierFault_of_first {a b : Option AddrFault} {k : AddrFault} (ha : ∀ f, a = some f → k.rank ≤ f.rank)
    (hb : ∀ f, b = some f → k.rank ≤ f.rank) (hk : a = some k ∨ b = some k) : earlierFault a b = some k := by
  unfold earlierFault
  split
  · simpa using hk
  · simpa using hk
  · next x f =>
    have hx := ha x rfl
    have hf := hb f rfl
    obtain hk | hk := hk <;> cases hk
    · rw [if_neg (Nat.not_lt.mpr hf)]
    · split
      · rfl
      · exact congrArg some (AddrFault.rank_injective (by omega))

/-- A kind that nothing precedes, and that is met, is what the checks give. -/
theorem foldl_earlierFault {k : AddrFault} (rs : List (Fin 64 × W64 × Resolved)) (a : Option AddrFault)
    (ha : ∀ f, a = some f → k.rank ≤ f.rank) (hrs : ∀ r ∈ rs, ∀ f, faultIn r.2.2 = some f → k.rank ≤ f.rank)
    (hk : a = some k ∨ ∃ r ∈ rs, faultIn r.2.2 = some k) : rs.foldl (fun a r => earlierFault a (faultIn r.2.2)) a = some k := by
  induction rs generalizing a with
  | nil => simpa using hk
  | cons r rs ih =>
    rw [List.forall_mem_cons] at hrs
    obtain ⟨hr, hrs⟩ := hrs
    refine ih _ (fun f hf => (earlierFault_mem hf).elim (ha f) (hr f)) hrs ?_
    obtain hk | ⟨x, hx, hk⟩ := hk
    · exact .inl (earlierFault_of_first ha hr (.inl hk))
    · obtain rfl | hx := List.mem_cons.mp hx
      · exact .inl (earlierFault_of_first ha hr (.inr hk))
      · exact .inr ⟨x, hx, hk⟩

theorem worstFault_of_reports {rs : List (Fin 64 × W64 × Resolved)} {k : AddrFault} {l : Fin 64} {ea : W64} (h : reports rs k l ea) :
    worstFault rs = some k := by
  obtain ⟨⟨x, hx, -, -, hk⟩, hmin⟩ := h
  rw [worstFault_eq_foldl]
  refine foldl_earlierFault rs none nofun (fun r hr f hf => ?_) (.inr ⟨x, hx, hk⟩)
  obtain hlt | ⟨rfl, -⟩ := hmin r hr f hf
  · exact hlt.le
  · exact le_rfl

/-! ### The lowest lane and address -/

/-- The order of checks by lane, then by address. -/
def notAfter (x y : Fin 64 × W64 × Resolved) : Prop := x.1 < y.1 ∨ x.1 = y.1 ∧ x.2.1.toNat ≤ y.2.1.toNat

theorem notAfter_refl (x : Fin 64 × W64 × Resolved) : notAfter x x := .inr ⟨rfl, le_rfl⟩

theorem notAfter_trans {x y z : Fin 64 × W64 × Resolved} (h : notAfter x y) (h' : notAfter y z) : notAfter x z := by
  unfold notAfter at *
  omega

theorem notAfter_antisymm {x y : Fin 64 × W64 × Resolved} (h : notAfter x y) (h' : notAfter y x) : x.1 = y.1 ∧ x.2.1 = y.2.1 := by
  unfold notAfter at *
  exact ⟨by omega, BitVec.eq_of_toNat_eq (by omega)⟩

/-- The first of two results is one of them, and comes after neither. -/
theorem firstHit_spec (x y : Fin 64 × W64 × Resolved) :
    (firstHit x y = x ∨ firstHit x y = y) ∧ notAfter (firstHit x y) x ∧ notAfter (firstHit x y) y := by
  unfold firstHit
  split
  · next h =>
    simp only [Bool.or_eq_true, decide_eq_true_eq, Bool.and_eq_true, beq_iff_eq, BitVec.lt_def] at h
    exact ⟨.inr rfl, by unfold notAfter; omega, notAfter_refl y⟩
  · next h =>
    simp only [Bool.or_eq_true, decide_eq_true_eq, Bool.and_eq_true, beq_iff_eq, BitVec.lt_def] at h
    exact ⟨.inl rfl, notAfter_refl x, by unfold notAfter; omega⟩

theorem foldl_firstHit_spec (x : Fin 64 × W64 × Resolved) (rest : List (Fin 64 × W64 × Resolved)) :
    rest.foldl firstHit x ∈ x :: rest ∧ ∀ y ∈ x :: rest, notAfter (rest.foldl firstHit x) y := by
  induction rest generalizing x with
  | nil => simpa using notAfter_refl x
  | cons z rest ih =>
    obtain ⟨hm, hle⟩ := ih (firstHit x z)
    obtain ⟨he, hx, hz⟩ := firstHit_spec x z
    rw [List.forall_mem_cons] at hle
    rw [List.foldl_cons]
    refine ⟨?_, List.forall_mem_cons.mpr ⟨notAfter_trans hle.1 hx, List.forall_mem_cons.mpr ⟨notAfter_trans hle.1 hz, hle.2⟩⟩⟩
    obtain hm | hm := List.mem_cons.mp hm
    · rw [hm]
      obtain he | he := he <;> simp [he]
    · exact List.mem_cons_of_mem _ (List.mem_cons_of_mem _ hm)

/-! ### The report -/

theorem getLsbD_laneMask (ls : List (Fin 64)) (k : Fin 64) : (laneMask ls).getLsbD k = decide (k ∈ ls) := by
  simpa [laneMask] using getLsbD_foldl_laneBits (fun _ => True) ls 0 k

/-- The lanes of the checks that meet a kind. -/
theorem laneMask_meeting (rs : List (Fin 64 × W64 × Resolved)) (k : AddrFault) :
    laneMask ((rs.filter fun r => faultIn r.2.2 == some k).map Prod.fst) = meeting rs k := by
  refine BitVec.eq_of_getLsbD_eq fun i hi => ?_
  rw [getLsbD_laneMask _ ⟨i, hi⟩, meeting, maskOf, getLsbD_maskBits, Bool.eq_iff_iff]
  simp only [List.mem_map, List.mem_filter, decide_eq_true_eq, List.any_eq_true, Bool.and_eq_true, beq_iff_eq, hi, true_and,
    Fin.ext_iff]
  exact ⟨fun ⟨x, ⟨hx, hk⟩, hl⟩ => ⟨x, hx, hl, hk⟩, fun ⟨x, hx, hl, hk⟩ => ⟨x, ⟨hx, hk⟩, hl⟩⟩

/-- How an instruction stops on an address fault: with the fault's cause, or for an absent page with its wait (R150, R243). -/
def addressStop (k : AddrFault) (va : Nat) (acc : Access) (ea : W64) (lanes : Mask) : Effect :=
  if k = .absent then .absent va acc ea lanes else .fault k.cause ea lanes

theorem reportFault_of_first {rs : List (Fin 64 × W64 × Resolved)} {k : AddrFault} (hw : worstFault rs = some k)
    {x : Fin 64 × W64 × Resolved} {rest : List (Fin 64 × W64 × Resolved)}
    (hx : rs.filter (fun r => faultIn r.2.2 == some k) = x :: rest) {l : Fin 64} {ea : W64} {va : Nat}
    (hl : rest.foldl firstHit x = (l, ea, .bad k va)) (acc : Access) :
    reportFault acc rs = some (addressStop k va acc ea (meeting rs k)) := by
  unfold reportFault
  rw [hw]
  dsimp only
  rw [List.filter_congr (q := fun r => faultIn r.2.2 == some k) (fun r _ => by cases r.2.2 <;> rfl), laneMask_meeting, hx]
  dsimp only
  rw [hl]
  cases k <;> rfl

theorem faultIn_eq_some {r : Resolved} {k : AddrFault} (h : faultIn r = some k) : ∃ va, r = .bad k va := by
  cases r with
  | ok => cases h
  | bad f va =>
    cases h
    exact ⟨va, rfl⟩

/-- The fault that checks report is that of one of them. -/
theorem reportFault_of_reports {rs : List (Fin 64 × W64 × Resolved)} {k : AddrFault} {l : Fin 64} {ea : W64} (h : reports rs k l ea)
    (acc : Access) :
    ∃ va, (l, ea, Resolved.bad k va) ∈ rs ∧ reportFault acc rs = some (addressStop k va acc ea (meeting rs k)) := by
  have hw := worstFault_of_reports h
  obtain ⟨⟨z, hz, rfl, rfl, hk⟩, hmin⟩ := h
  have hmem : z ∈ rs.filter fun r => faultIn r.2.2 == some k := List.mem_filter.mpr ⟨hz, by simp [hk]⟩
  cases hx : rs.filter (fun r => faultIn r.2.2 == some k) with
  | nil => simp [hx] at hmem
  | cons x rest =>
    obtain ⟨hin, hle⟩ := foldl_firstHit_spec x rest
    rw [← hx] at hin hle
    obtain ⟨hin, hf⟩ := List.mem_filter.mp hin
    have hf' : faultIn (rest.foldl firstHit x).2.2 = some k := by simpa using hf
    have hzx : notAfter z (rest.foldl firstHit x) := by
      obtain hlt | ⟨-, hz⟩ := hmin _ hin k hf'
      · exact absurd hlt (lt_irrefl _)
      · exact hz
    obtain ⟨h1, h2⟩ := notAfter_antisymm hzx (hle z hmem)
    obtain ⟨va, hva⟩ := faultIn_eq_some hf'
    have hfirst : rest.foldl firstHit x = (z.1, z.2.1, .bad k va) := by rw [h1, h2, ← hva]
    exact ⟨va, hfirst ▸ hin, reportFault_of_first hw hx hfirst acc⟩

/-! ### What a stopped instruction comes to -/

theorem AddrFault.cause_ne_trap (k : AddrFault) : k.cause ≠ .trap := by cases k <;> decide

section
variable {s : State} {c : Context} {g : Group} {w : Warp} {sh : Shape} {wb : Env → Effect} {lb : LeekEnv → Effect} {va : Nat}
  {acc : Access} {ea : W64} {lanes : Mask}

/-- An instruction whose page is absent waits for it, with its entry in the fault ring, and has nothing left to do (R243, R392). -/
theorem WarpIssues.absent (h : WarpIssues s c g w sh) (e : wb (envOf s c g w sh) = .absent va acc ea lanes) :
    issue sh s wb lb = .next ((s.faultRing c.id va acc g.cluster).mapWarp g.uid w.id fun x =>
      { x with wait := pageWait va acc ea lanes, progress := none }) := by
  rw [h.issue_eq, e]
  simp only [State.finishWarp, h.calm]
  rfl

theorem LeekIssues.absent {l : Leek} (h : LeekIssues s c g l sh) (e : lb (leekEnvOf s c g l) = .absent va acc ea lanes) :
    issue sh s wb lb = .next ((s.faultRing c.id va acc g.cluster).setWait (.leek g.uid) (pageWait va acc ea lanes)) := by
  rw [h.issue_eq, e]
  rfl

/-- An instruction whose meaning stops on the fault that its checks report. -/
theorem stopsOn_of_body {i : Instr} {rs : List (Fin 64 × W64 × Resolved)} {lanes : AddrFault → Mask} (h : WarpIssues s c g w sh)
    (hx : exec i s = issue sh s wb lb)
    (hb : ∀ k l ea, reports rs k l ea →
      ∃ va, (l, ea, Resolved.bad k va) ∈ rs ∧ wb (envOf s c g w sh) = addressStop k va acc ea (lanes k)) :
    stopsOn i sh acc rs lanes s c g w := by
  intro k l ea hr
  obtain ⟨va, hm, hb⟩ := hb k l ea hr
  refine ⟨fun hk hn ht => ?_, fun hk => ?_⟩
  · exact hx.trans (h.traps hn ht k.cause_ne_trap (hb.trans (if_neg hk)))
  · subst hk
    exact ⟨va, hm, hx.trans (h.absent (hb.trans (if_pos rfl)))⟩

end

end Sys2Proof.Machine
end

section
/-!
PROOF. The check of one address (R148 to R150, R344) and the fault ring (R392).
-/
namespace Sys2Proof.Machine

open Sys2Proof.Says

/-! ### One address -/

section
variable {s : State} {v : Viewer} {sp : Space} {ea n off : Nat} {acc : Access} {a : Bool}

theorem State.resolve_misaligned (h : ea % n ≠ 0) : s.resolve v sp ea n n acc a = .bad .misalign ea := if_pos h

theorem State.resolve_scratch (h : ea % n = 0) : s.resolve v .scratch ea n n acc a = s.resolveScratch v ea acc a :=
  if_neg (not_not.mpr h)

/-- An aligned address of another space lies in the scratch window whole or in part, or is global (R148). -/
theorem State.resolve_global (h : ea % n = 0) (hs : sp ≠ .scratch) :
    s.resolve v sp ea n n acc a =
      if v.grp.inWindow ea then
        if v.grp.inWindow (ea + n - 1) then s.resolveScratch v (ea - v.grp.scrBase.toNat) acc a else .bad .window ea
      else s.resolveGlobal v ea acc a := by
  cases sp with
  | scratch => exact absurd rfl hs
  | generic => exact if_neg (not_not.mpr h)
  | remote => exact if_neg (not_not.mpr h)

theorem State.resolveScratch_bounds (h : v.grp.desc.scrSize ≤ off ∨ (v.grp.block (off / 2 ^ 15)).valid = false) :
    s.resolveScratch v off acc a = .bad .bounds off := by
  unfold State.resolveScratch
  obtain h | h := h
  · rw [if_pos h]
  · split
    · rfl
    · exact if_pos (by rw [h]; rfl)

theorem flowOk_eq_false : flowOk acc a apx = false ↔ a = false ∧ apx = true ∨ a = true ∧ acc = .write ∧ apx = false := by
  cases a <;> cases apx <;> cases acc <;> decide

/-- A translated address is checked by its leaf's rights, then by its attribute (R150). -/
theorem State.resolveGlobal_of_leaf {place : Nat} {leaf : W64} {fill : List TlbEntry} (h : s.translate v.ctx ea = .ok place leaf fill) :
    s.resolveGlobal v ea acc a = match pageAllows acc a leaf with
      | some k => .bad k ea
      | none => .ok place (leafApx leaf) fill := by
  simp only [State.resolveGlobal, h, pageAllows]
  cases hr : acc.allowed leaf with
  | false => rfl
  | true =>
    cases hf : flowOk acc a (leafApx leaf) with
    | false => simp [flowOk_eq_false.mp hf]
    | true =>
      have hn : ¬(a = false ∧ leafApx leaf = true ∨ a = true ∧ acc = .write ∧ leafApx leaf = false) :=
        fun hx => by simp [flowOk_eq_false.mpr hx] at hf
      simp [hn]

end

/-! ### Doublewords of memory -/

theorem Memory.write_append (m : Memory) (a : Nat) (xs ys : List Byte) :
    m.write a (xs ++ ys) = (m.write a xs).write (a + xs.length) ys := by
  induction xs generalizing m a with
  | nil => rfl
  | cons x xs ih =>
    rw [List.cons_append, Memory.write, ih, Memory.write, List.length_cons, Nat.add_assoc, Nat.add_comm 1]

@[simp] theorem bytesOf_append (xs ys : List W64) : bytesOf (xs ++ ys) = bytesOf xs ++ bytesOf ys := List.flatMap_append

@[simp] theorem bytesOf_cons (x : W64) (ys : List W64) : bytesOf (x :: ys) = toBytesLE 8 x.toNat ++ bytesOf ys := rfl

@[simp] theorem length_bytesOf (xs : List W64) : (bytesOf xs).length = 8 * xs.length := by
  induction xs with
  | nil => rfl
  | cons x xs ih => rw [bytesOf_cons, List.length_append, ih, length_toBytesLE, List.length_cons, Nat.mul_succ, Nat.add_comm]

/-- Each doubleword of a list that is written reads back. -/
theorem Memory.read64_write {m : Memory} (h : m.wf = true) (a : Nat) (before after : List W64) (x : W64) :
    (m.write a (bytesOf (before ++ x :: after))).read64 (a + 8 * before.length) = x := by
  have hb := Memory.wf_write a (bytesOf before) h
  have hx := Memory.wf_write (a + 8 * before.length) (toBytesLE 8 x.toNat) hb
  have hr := Memory.read_write (m.write a (bytesOf before)) (a + 8 * before.length) (toBytesLE 8 x.toNat) hb
  rw [length_toBytesLE] at hr
  rw [bytesOf_append, bytesOf_cons, Memory.write_append, Memory.write_append, length_bytesOf, length_toBytesLE, Memory.read64,
    Memory.read_write_of_apart hx (.inr le_rfl), hr, ofBytesLE_toBytesLE]
  exact BitVec.eq_of_toNat_eq (by simp [x.isLt])

/-- A write that keeps clear of a doubleword leaves it. -/
theorem Memory.read64_write_of_apart {m : Memory} (h : m.wf = true) {a b : Nat} {bs : List Byte}
    (hd : b + bs.length ≤ a ∨ a + 8 ≤ b) : (m.write b bs).read64 a = m.read64 a := by
  rw [Memory.read64, Memory.read_write_of_apart h hd, Memory.read64]

/-- The four doublewords of an entry read back after a write below them. -/
theorem Memory.read64_entry {m : Memory} (h : m.wf = true) {a b : Nat} {bs : List Byte} (hd : b + bs.length ≤ a) (x0 x1 x2 x3 : W64) :
    let m' := (m.write a (bytesOf [x0, x1, x2, x3])).write b bs
    m'.read64 a = x0 ∧ m'.read64 (a + 8) = x1 ∧ m'.read64 (a + 16) = x2 ∧ m'.read64 (a + 24) = x3 := by
  have he := Memory.wf_write a (bytesOf [x0, x1, x2, x3]) h
  have kept (k : Nat) (x : W64) (hx : (m.write a (bytesOf [x0, x1, x2, x3])).read64 (a + k) = x) :
      ((m.write a (bytesOf [x0, x1, x2, x3])).write b bs).read64 (a + k) = x :=
    (Memory.read64_write_of_apart he (.inl (hd.trans (Nat.le_add_right a k)))).trans hx
  exact ⟨kept 0 x0 (Memory.read64_write h a [] [x1, x2, x3] x0), kept 8 x1 (Memory.read64_write h a [x0] [x2, x3] x1),
    kept 16 x2 (Memory.read64_write h a [x0, x1] [x3] x2), kept 24 x3 (Memory.read64_write h a [x0, x1, x2] [] x3)⟩

/-! ### The fault ring -/

section
variable {s : State} {ctx va cluster : Nat} {acc : Access} {p : Partition}

@[simp] theorem State.store_faultWait (s : State) (who : Option AgentId) (place : Nat) (bs : List Byte) :
    (s.store who place bs).faultWait = s.faultWait := by
  unfold State.store State.conflict
  split <;> rfl

/-- An entry of the fault ring (R392). -/
def faultEntry (s : State) (ctx va : Nat) (acc : Access) (cluster : Nat) : List W64 :=
  [BitVec.ofNat 64 va, BitVec.ofNat 64 (ctx % 2048 + acc.code * 2 ^ 12 + cluster * 2 ^ 16), BitVec.ofNat 64 s.clock, 0]

theorem State.faultRing_answered (h : (ctx, va / 4096) ∈ s.faultWait) : s.faultRing ctx va acc cluster = s :=
  if_pos (by simpa using h)

variable (hp : s.part? (partOf ctx) = some p) (h : (ctx, va / 4096) ∉ s.faultWait)
include hp h

/-- Where the ring has room, the entry is written and then counted. -/
theorem State.faultRing_room
    (hr : (s.mem.read64 (p.ring.toNat + 8) - s.mem.read64 (p.ring.toNat + 16)).toNat + 1 ≤ (s.mem.read64 p.ring.toNat).toNat) :
    let at' := p.ring.toNat + 64 + 32 * ((s.mem.read64 (p.ring.toNat + 8)).toNat % (s.mem.read64 p.ring.toNat).toNat)
    let t := s.faultRing ctx va acc cluster
    t.mem = (s.mem.write at' (bytesOf (faultEntry s ctx va acc cluster))).write (p.ring.toNat + 8)
      (bytesOf [s.mem.read64 (p.ring.toNat + 8) + 1]) ∧ t.faultWait = (ctx, va / 4096) :: s.faultWait := by
  have hw : s.faultWait.contains (ctx, va / 4096) = false := by simpa using h
  simp only [State.faultRing, hw, hp, hr, Bool.false_eq_true, if_true, if_false, State.store_mem, State.store_faultWait, and_true]
  rfl

/-- Where it is full, the entry counts as dropped. -/
theorem State.faultRing_full
    (hr : ¬ (s.mem.read64 (p.ring.toNat + 8) - s.mem.read64 (p.ring.toNat + 16)).toNat + 1 ≤ (s.mem.read64 p.ring.toNat).toNat) :
    s.faultRing ctx va acc cluster =
      s.store none (p.ring.toNat + 24) (bytesOf [s.mem.read64 (p.ring.toNat + 24) + 1]) := by
  have hw : s.faultWait.contains (ctx, va / 4096) = false := by simpa using h
  simp only [State.faultRing, hw, hp, hr, Bool.false_eq_true, if_false]

end

/-- The statement's clauses on the fault ring: no second entry, an entry where there is room, a dropped one where there is none. -/
theorem faultRing_clauses (s : State) (ctx va cluster : Nat) (acc : Access) (p : Partition) (hp : s.part? (partOf ctx) = some p)
    (hm : s.mem.wf = true) :
    let ring := p.ring.toNat
    let cap := (s.mem.read64 ring).toNat
    let written := s.mem.read64 (ring + 8)
    let used := (written - s.mem.read64 (ring + 16)).toNat
    let at' := ring + 64 + 32 * (written.toNat % cap)
    let t := s.faultRing ctx va acc cluster
    ((ctx, va / 4096) ∉ s.faultWait → used + 1 ≤ cap →
      t.mem.read64 at' = BitVec.ofNat 64 va ∧
      t.mem.read64 (at' + 8) = BitVec.ofNat 64 (ctx % 2048 + acc.code * 2 ^ 12 + cluster * 2 ^ 16) ∧
      t.mem.read64 (at' + 16) = BitVec.ofNat 64 s.clock ∧ t.mem.read64 (at' + 24) = 0 ∧ t.mem.read64 (ring + 8) = written + 1 ∧
      t.faultWait = (ctx, va / 4096) :: s.faultWait ∧ unchangedOutside s t [(at', 32), (ring + 8, 8)]) ∧
    ((ctx, va / 4096) ∉ s.faultWait → cap < used + 1 →
      t.mem.read64 (ring + 24) = s.mem.read64 (ring + 24) + 1 ∧ t.faultWait = s.faultWait ∧
      unchangedOutside s t [(ring + 24, 8)]) := by
  intro ring cap written used at' t
  refine ⟨fun h hr => ?room, fun h hr => ?full⟩
  case room =>
    obtain ⟨hmem, hwait⟩ := State.faultRing_room (va := va) (cluster := cluster) (acc := acc) hp h hr
    have he : (s.mem.write at' (bytesOf (faultEntry s ctx va acc cluster))).wf = true := Memory.wf_write _ _ hm
    -- the count lies below every entry
    have hbelow : ring + 8 + (bytesOf [written + 1]).length ≤ at' := by
      rw [length_bytesOf]
      simp only [at', List.length_singleton]
      omega
    obtain ⟨h0, h1, h2, h3⟩ := Memory.read64_entry hm hbelow (BitVec.ofNat 64 va) (BitVec.ofNat 64 (ctx % 2048 + acc.code * 2 ^ 12 +
      cluster * 2 ^ 16)) (BitVec.ofNat 64 s.clock) 0
    rw [show t.mem = _ from hmem]
    refine ⟨h0, h1, h2, h3, Memory.read64_write he (ring + 8) [] [] _, hwait, fun a ha => ?_⟩
    have hentry := ha (at', 32) (by simp)
    have hcount := ha (ring + 8, 8) (by simp)
    rw [show t.mem = _ from hmem, Memory.get_write_of_outside _ _ _ _ he hcount, Memory.get_write_of_outside _ _ _ _ hm hentry]
  case full =>
    have ht : t = _ := State.faultRing_full hp h (Nat.not_le.mpr hr)
    rw [ht]
    refine ⟨?_, State.store_faultWait .., fun a ha => ?_⟩
    · rw [State.store_mem]
      exact Memory.read64_write hm (ring + 24) [] [] _
    · have hcount := ha (ring + 24, 8) (by simp)
      rw [State.store_mem, Memory.get_write_of_outside _ _ _ _ hm hcount]

end Sys2Proof.Machine
end

section
/-!
PROOF. Where memory instructions stop on their addresses (R148 to R150, R152, R154, R344, R392): the fault that the checks report is each
meaning's first answer once its operands raise none, and from that the statement.
-/
namespace Sys2Proof.Machine

open Sys2Proof.Says

/-! ### One access a lane -/

section
variable {e : Env} {f : MForm} {scale n : Nat} {acc : Access} {k : AddrFault} {l : Fin 64} {ea : W64}

/-- The checks of the executing lanes' accesses. -/
def laneChecks (e : Env) (f : MForm) (scale n : Nat) (acc : Access) : List (Fin 64 × W64 × Resolved) :=
  (Mask.lanes e.eff).map fun l => (l, e.ea f scale l, target e f scale n acc l)

theorem Env.check_of_reports (h : reports (laneChecks e f scale n acc) k l ea) :
    ∃ va, (l, ea, Resolved.bad k va) ∈ laneChecks e f scale n acc ∧
      e.check e.eff (e.ea f scale) f.space n acc f.a =
        .bad (addressStop k va acc ea (meeting (laneChecks e f scale n acc) k)) := by
  obtain ⟨va, hm, hr⟩ := reportFault_of_reports h acc
  have hr' : reportFault acc ((Mask.lanes e.eff).map fun l =>
      (l, e.ea f scale l, e.s.resolve e.viewer f.space (e.ea f scale l).toNat n n acc f.a)) = _ := hr
  refine ⟨va, hm, ?_⟩
  simp only [Env.check, hr']

theorem loadLocal_of_bad {kills : Mask × Nat} {x : Effect}
    (h : e.check e.eff (e.ea f scale) f.space (accBytes f.fmt) .read f.a = .bad x) : loadLocal f scale e.eff kills e = x := by
  simp only [loadLocal, h]

theorem storeLocal_of_bad {kills : Mask × Nat} {x : Effect}
    (h : e.check e.eff (e.ea f scale) f.space (accBytes f.fmt) .write f.a = .bad x) : storeLocal f scale e.eff kills e = x := by
  simp only [storeLocal, h]

theorem Env.atomLocal_of_bad {posted : Bool} {kills : Mask × Nat} {words : Option (Fin 64 → List W64)} {x : Effect}
    (h : e.check e.eff (e.ea f 1) f.space n .atomic f.a = .bad x) : e.atomLocal f posted kills n words e.eff = x := by
  simp only [Env.atomLocal, h]

end

/-- Where an instruction's operands raise no fault, the fault that its lanes' checks report is what its meaning comes to. -/
def answersChecks (x : LaneAccess) (f : MForm) (s : State) (c : Context) (g : Group) (w : Warp) : Prop :=
  let sh : Shape := .m x.op f
  let e := envOf s c g w sh
  ∃ wb lb, exec (x.op.toInstr f) s = issue sh s wb lb ∧
    ∀ r, e.check e.eff (e.ea f (x.scale f)) f.space (x.bytes f) x.acc f.a = .bad r → wb e = r

section
variable {f : MForm} {s : State} {c : Context} {g : Group} {w : Warp}

theorem loads_answerChecks (p : MOp × (MForm → Nat)) (hp : p ∈ loadOps) (hsp : f.space ≠ .remote) (ha : addressable g w f [] [f.data]) :
    answersChecks { op := p.1, acc := .read, scale := p.2, data := fun _ => [], dsts := fun f => [f.data] } f s c g w := by
  refine ⟨loadBody f (p.2 f), noLeek, ?_, fun r hr => ?_⟩
  · fin_cases hp <;> rfl
  · exact (loadBody_local hsp ha).trans (loadLocal_of_bad hr)

/-- A local store whose operands hold no error checks its lanes' addresses. -/
theorem storeBody_checks {sh : Shape} {scale : Nat} (hsp : f.space ≠ .remote) (ha : addressable g w f [Opnd.any f.data f.fmt] []) :
    let e := envOf s c g w sh
    storeBody f scale e = storeLocal f scale e.eff (0, 1) e := by
  intro e
  have hm : e.memFault f [Opnd.any f.data f.fmt] [] = none := Env.memFault_of_addressable ha
  have hk : e.w.operandKills (Opnd.any f.data f.fmt :: addrOs f) e.eff = (0, 1) := Warp.operandKills_of_clean ha.1 _ _
  simp only [storeBody, hm, hk, Mask.and_not_zero, beq_eq_false_iff_ne.mpr hsp]
  rfl

theorem stores_answerChecks (p : MOp × (MForm → Nat)) (hp : p ∈ storeOps) (hsp : f.space ≠ .remote)
    (ha : addressable g w f [Opnd.any f.data f.fmt] []) :
    answersChecks { op := p.1, acc := .write, scale := p.2, data := fun f => [Opnd.any f.data f.fmt] } f s c g w := by
  refine ⟨storeBody f (p.2 f), noLeek, ?_, fun r hr => ?_⟩
  · fin_cases hp <;> rfl
  · exact (storeBody_checks hsp ha).trans (storeLocal_of_bad hr)

theorem atom_answersChecks (hsp : f.space ≠ .remote) (hp : w.progress = none) (ha : addressable g w f (atomOs f) []) :
    answersChecks { op := .atom, acc := .atomic, scale := fun _ => 1, data := atomOs } f s c g w :=
  ⟨atomBody f, noLeek, rfl, fun _ hr => (atomBody_local hsp ha).trans ((Env.orGoOn_none hp ..).trans (Env.atomLocal_of_bad hr))⟩

theorem vatom_answersChecks (hsp : f.space ≠ .remote) (hp : w.progress = none) (ha : addressable g w f (vatomOs f) []) :
    answersChecks { op := .vatom, acc := .atomic, scale := fun _ => 1, bytes := fun _ => 32, data := vatomOs } f s c g w :=
  ⟨vatomBody f, noLeek, rfl, fun _ hr => (vatomBody_local hsp ha).trans ((Env.orGoOn_none hp ..).trans (Env.atomLocal_of_bad hr))⟩

theorem laneAccesses_answerChecks (x : LaneAccess) (hx : x ∈ laneAccesses) (hsp : f.space ≠ .remote) (hp : w.progress = none)
    (ha : addressable g w f (x.data f) (x.dsts f)) : answersChecks x f s c g w := by
  simp only [laneAccesses, loadsAndStores, List.mem_append, List.mem_map, List.mem_cons, List.not_mem_nil, or_false] at hx
  obtain (⟨p, hm, rfl⟩ | ⟨p, hm, rfl⟩) | rfl | rfl := hx
  · exact loads_answerChecks p hm hsp ha
  · exact stores_answerChecks p hm hsp ha
  · exact atom_answersChecks hsp hp ha
  · exact vatom_answersChecks hsp hp ha

end

/-! ### One access for all lanes -/

theorem reports_singleton {l0 l : Fin 64} {ea0 ea : W64} {r : Resolved} {k : AddrFault} (h : reports [(l0, ea0, r)] k l ea) :
    l = l0 ∧ ea = ea0 ∧ ∃ va, r = .bad k va := by
  obtain ⟨⟨x, hx, rfl, rfl, hk⟩, -⟩ := h
  obtain rfl := List.mem_singleton.mp hx
  exact ⟨rfl, rfl, faultIn_eq_some hk⟩

theorem State.checkUni_bad {s : State} {v : Viewer} {f : MForm} {ea : W64} {acc : Access} {k : AddrFault} {va : Nat}
    (h : s.resolve v f.space ea.toNat (accBytes f.fmt) (accBytes f.fmt) acc f.a = .bad k va) (lanes : Mask) :
    s.checkUni v lanes f ea acc = .bad (addressStop k va acc ea lanes) := by
  simp only [State.checkUni, h]
  cases k <;> rfl

section
variable {f : MForm} {s : State} {c : Context} {g : Group} {w : Warp} {sh : Shape} {k : AddrFault} {va : Nat}

theorem lduBody_stops (hb : w.bad = []) (he : w.eff sh ≠ 0) :
    let e := envOf s c g w sh
    target e f 1 (accBytes f.fmt) .read 0 = .bad k va → lduBody f e = addressStop k va .read (e.ea f 1 0) e.eff := by
  intro e ht
  have he' : e.eff ≠ 0 := he
  have hk : e.w.operandKills (addrOs f) e.eff = (0, 1) := Warp.operandKills_of_clean hb _ _
  have hx : e.s.checkUni e.viewer e.eff f (e.ea f 1 0) .read = _ := State.checkUni_bad ht _
  simp only [lduBody, he', hk, hx, if_false, ne_eq, not_true_eq_false]

theorem stuBody_stops (hb : w.bad = []) (he : w.eff sh ≠ 0) :
    let e := envOf s c g w sh
    target e f 1 (accBytes f.fmt) .write 0 = .bad k va → stuBody f e = addressStop k va .write (e.ea f 1 0) e.eff := by
  intro e ht
  have he' : e.eff ≠ 0 := he
  have hk : e.w.operandKills (Opnd.any f.data f.fmt :: addrOs f) e.eff = (0, 1) := Warp.operandKills_of_clean hb _ _
  have hx : e.s.checkUni e.viewer e.eff f (e.ea f 1 0) .write = _ := State.checkUni_bad ht _
  simp only [stuBody, he', hk, hx, if_false, ne_eq, not_true_eq_false]

variable {l : Leek} (ht : l.takes f.pneg f.pred = true)
include ht

theorem lduLeek_stops :
    let e := leekEnvOf s c g l
    s.resolve e.viewer f.space (e.ea f).toNat (accBytes f.fmt) (accBytes f.fmt) .read f.a = .bad k va →
    lduLeek f e = addressStop k va .read (e.ea f) 1 := by
  intro e hr
  have ht' : e.l.takes f.pneg f.pred = true := ht
  have hx : e.s.checkUni e.viewer 1 f (e.ea f) .read = _ := State.checkUni_bad hr _
  simp only [lduLeek, ht', hx, Bool.not_true, Bool.false_eq_true, if_false]

theorem stuLeek_stops :
    let e := leekEnvOf s c g l
    s.resolve e.viewer f.space (e.ea f).toNat (accBytes f.fmt) (accBytes f.fmt) .write f.a = .bad k va →
    stuLeek f e = addressStop k va .write (e.ea f) 1 := by
  intro e hr
  have ht' : e.l.takes f.pneg f.pred = true := ht
  have hx : e.s.checkUni e.viewer 1 f (e.ea f) .write = _ := State.checkUni_bad hr _
  simp only [stuLeek, ht', hx, Bool.not_true, Bool.false_eq_true, if_false]

end

/-- A Leek thread that stops on an address ends its context, or waits for the page (R152, R224). -/
theorem LeekIssues.stops {s : State} {c : Context} {g : Group} {l : Leek} {sh : Shape} {wb : Env → Effect} {lb : LeekEnv → Effect}
    {k : AddrFault} {va : Nat} {acc : Access} {ea : W64} (h : LeekIssues s c g l sh)
    (e : lb (leekEnvOf s c g l) = addressStop k va acc ea 1) :
    issue sh s wb lb = .next (if k = .absent then (s.faultRing c.id va acc g.cluster).setWait (.leek g.uid) (pageWait va acc ea 1)
      else s.leekFault c g l k.cause ea) := by
  by_cases hk : k = .absent
  · rw [if_pos hk]
    exact h.absent (e.trans (if_pos hk))
  · rw [if_neg hk]
    exact h.fault (e.trans (if_neg hk))

/-! ### Buffer records -/

section
variable {f : MForm} {e : Env} {load : Bool} {k : AddrFault} {l : Fin 64} {ea : W64}

theorem recBody_unnamed (hp : e.w.progress = none) (hn : e.g.desc.nbrec ≤ f.brec.toNat) :
    recBody load f e = .fault .illegal 0 (live e.w) := by
  simp only [recBody, hp, recStart, hn, if_true]
  rfl

/-- The checks of the bytes of an instruction's buffer record. -/
def recordChecks (e : Env) (f : MForm) : List (Fin 64 × W64 × Resolved) :=
  let at' := e.g.desc.brecBase + BitVec.ofNat 64 (40 * f.brec.toNat)
  (List.range 40).map fun k => (0, byteAt at' k, e.checkByte (byteAt at' k) .read f.a)

theorem recBody_recordFault (hp : e.w.progress = none) (hn : f.brec.toNat < e.g.desc.nbrec)
    (ha : addressable e.g e.w f (recData load f) (if load then [f.data] else [])) (he : e.eff ≠ 0)
    (h : reports (recordChecks e f) k l ea) :
    ∃ va, (l, ea, Resolved.bad k va) ∈ recordChecks e f ∧ recBody load f e = addressStop k va .read ea e.eff := by
  obtain ⟨va, hm, hr⟩ := reportFault_of_reports h .read
  have hb : e.recordBytes f = .error (addressStop k va .read ea e.eff) := by
    simp only [recordChecks] at hr
    simp only [Env.recordBytes, hr]
    cases k <;> rfl
  refine ⟨va, hm, ?_⟩
  simp only [recBody, hp, recStart, Nat.not_le.mpr hn, if_false, Env.memFault_of_addressable ha, he, hb]

section
variable {o : BitVec 16} {n : Nat} {record : List Byte} (hp : e.w.progress = some (clean o n (.record [] record)))
include hp

theorem recBody_illegal (hl : load = false) (hi : (BRec.ofBytes record).storeIllegal = true) :
    recBody load f e = .fault .illegal 0 e.eff := by
  have hi' : (!load && (BRec.ofBytes record).storeIllegal) = true := by rw [hl, hi]; rfl
  simp only [recBody, hp, clean, Env.recordReady]
  rw [if_pos hi']

theorem recBody_reserved (hi : ¬(load = false ∧ (BRec.ofBytes record).storeIllegal = true))
    (ht : (BRec.ofBytes record).tagBad f.fmt = true) : recBody load f e = .fault .tag 0 e.eff := by
  have hi' : ¬(!load && (BRec.ofBytes record).storeIllegal) = true := by simpa using hi
  simp only [recBody, hp, clean, Env.recordReady]
  rw [if_neg hi', if_pos ht]

theorem recBody_elementFault (hb : e.w.bad = []) (hi : ¬(load = false ∧ (BRec.ofBytes record).storeIllegal = true))
    (ht : (BRec.ofBytes record).tagBad f.fmt = false) :
    let r := BRec.ofBytes record
    let rs := e.recChecks f r load (r.elems f.fmt load e.eff (e.ea f 1)) e.eff
    let acc := if load then Access.read else .write
    reports rs k l ea →
    ∃ va, (l, ea, Resolved.bad k va) ∈ rs ∧ recBody load f e = addressStop k va acc ea (meeting rs k) := by
  intro r rs acc h
  obtain ⟨va, hm, hr⟩ := reportFault_of_reports h acc
  have hi' : ¬(!load && r.storeIllegal) = true := by simpa using hi
  have hk : e.recKills load f = (0, 1) := Warp.operandKills_of_clean hb _ _
  refine ⟨va, hm, ?_⟩
  simp only [recBody, hp, clean, Env.recordReady, hk, Mask.and_not_zero]
  rw [if_neg hi', if_neg (ne_true_of_eq_false ht)]
  rw [show reportFault _ (e.recChecks f (BRec.ofBytes record) load _ e.eff) = _ from hr]

end

end

/-- Settles O37: one address is checked in R150's order, each instruction answers the fault that its checks report, and the fault ring
takes one entry a page. -/
theorem addressFaultsStopBeforeAnyAccess : Obligations.AddressFaultsStopBeforeAnyAccess := by
  refine ⟨?address, ?lanes, ?uniform, ?record, ?ring⟩
  case address =>
    intro s v sp ea n acc a r
    refine ⟨fun h => ?_, fun h hs hin hout => ?_, fun off h hoff hbad => ?_, fun h hs hout => ?_⟩
    · simp only [r, State.resolve_misaligned h]
      rfl
    · simp only [r, State.resolve_global h hs, hin, hout, Bool.false_eq_true, if_true, if_false]
      rfl
    · obtain ⟨rfl, rfl⟩ | ⟨hs, hin, hlast, rfl⟩ := hoff
      · simp only [r, State.resolve_scratch h, State.resolveScratch_bounds hbad]
        rfl
      · simp only [r, State.resolve_global h hs, hin, hlast, if_true, State.resolveScratch_bounds hbad]
        rfl
    · have hr : r = s.resolveGlobal v ea acc a := by
        simp only [r, State.resolve_global h hs, hout, Bool.false_eq_true, if_false]
      refine ⟨fun ht => ?_, fun ht => ?_, fun place leaf fill ht => ?_⟩
      · simp only [hr, State.resolveGlobal, ht]
      · simp only [hr, State.resolveGlobal, ht]
      · rw [hr, State.resolveGlobal_of_leaf ht]
        cases pageAllows acc a leaf with
        | none => exact ⟨rfl, fun _ => rfl⟩
        | some k => exact ⟨rfl, nofun⟩
  case lanes =>
    intro x hx f s c g w sh h hsp hp ha rs
    obtain ⟨wb, lb, he, hb⟩ := laneAccesses_answerChecks (s := s) (c := c) x hx hsp hp ha
    refine stopsOn_of_body h he fun k l ea hr => ?_
    obtain ⟨va, hm, hc⟩ := Env.check_of_reports hr
    exact ⟨va, hm, hb _ hc⟩
  case uniform =>
    intro f s c g w l
    rw [List.forall_mem_cons, List.forall_mem_singleton]
    refine ⟨⟨fun h hb he => ?_, fun k va h ht hr => h.stops (lduLeek_stops ht hr)⟩,
      fun h hb he => ?_, fun k va h ht hr => h.stops (stuLeek_stops ht hr)⟩
    · refine stopsOn_of_body (wb := lduBody f) (lb := lduLeek f) h rfl fun k l ea hr => ?_
      obtain ⟨rfl, rfl, va, ht⟩ := reports_singleton hr
      exact ⟨va, List.mem_singleton.mpr (by rw [ht]), lduBody_stops hb he ht⟩
    · refine stopsOn_of_body (wb := stuBody f) (lb := stuLeek f) h rfl fun k l ea hr => ?_
      obtain ⟨rfl, rfl, va, ht⟩ := reports_singleton hr
      exact ⟨va, List.mem_singleton.mpr (by rw [ht]), stuBody_stops hb he ht⟩
  case record =>
    intro f s c g w load op sh i e traps h
    have hx : exec i s = issue sh s (recBody load f) noLeek := exec_record load f s
    refine ⟨fun hp hn ht h0 => ?_, fun ha => ⟨fun hp hn he => ?_, fun o n record hp => ⟨?_, ?_, ?_⟩⟩⟩
    · exact hx.trans (h.traps (cause := .illegal) ht h0 (by decide) (recBody_unnamed (e := e) hp hn))
    · exact stopsOn_of_body h hx fun k l ea hr => recBody_recordFault (e := e) hp hn ha he hr
    · rintro ⟨hl, hi⟩ ht h0
      exact hx.trans (h.traps (cause := .illegal) ht h0 (by decide) (recBody_illegal (e := e) hp hl hi))
    · intro hi hbad ht h0
      exact hx.trans (h.traps (cause := .tag) ht h0 (by decide) (recBody_reserved (e := e) hp hi hbad))
    · exact fun hi ht => stopsOn_of_body h hx fun k l ea hr => recBody_elementFault (e := e) hp ha.1 hi ht hr
  case ring =>
    exact fun s ctx va cluster acc p hp hm => ⟨State.faultRing_answered, faultRing_clauses s ctx va cluster acc p hp hm⟩

end Sys2Proof.Machine
end

section
/-!
PROOF. The requester of remote operations (R161 to R164, R334 to R336, R361, R407): each of its events once, and from them the statement.
-/
namespace Sys2Proof.Machine

open Sys2Proof.Says

section
variable {s : State} (hu : s.up = true)
include hu

/-! ### Packets from an owner -/

/-- An answer completes the operation that it is for. -/
theorem exec_remoteAnswer {a : RemoteAnswer} {o : Outstanding} (ha : s.arrives a.owner (.answer Config.moduleId a) = true)
    (ho : (s.hear a.owner a.part a.epoch).current? a = some o) :
    exec (.remoteAnswer a) s = .next ((s.hear a.owner a.part a.epoch).completeRemote o.tag a.status a.values a.bad) := by
  change execRemoteAnswer a s = _
  simp only [execRemoteAnswer, hu, ha, ho, Bool.not_true, Bool.or_self, Bool.false_eq_true, if_false]

/-- A refusal is noted, and counted. -/
theorem exec_remoteRefusal {a : RemoteAnswer} {o : Outstanding} (ha : s.arrives a.owner (.refusal Config.moduleId a) = true)
    (ho : (s.hear a.owner a.part a.epoch).current? a = some o) :
    let u := s.hear a.owner a.part a.epoch
    exec (.remoteRefusal a) s = .next (State.perfAdd { u with outRemote := u.outRemote.map fun (x : Outstanding) =>
      if x.tag == o.tag then { x with refusedAt := some u.clock } else x } o.request.ctx 4 1) := by
  change execRemoteRefusal a s = _
  simp only [execRemoteRefusal, hu, ha, ho, Bool.not_true, Bool.or_self, Bool.false_eq_true, if_false]

theorem exec_keepaliveAck {a : KeepAliveAck} (ha : s.arrives a.owner (.keepaliveAck Config.moduleId a) = true) :
    exec (.keepaliveAck a) s = .next ((s.hear a.owner a.part a.epoch).mapCtx a.ctx fun c =>
      if c.gen = a.gen ∧ (c.peers.any fun p => p.owner == a.owner) = true then
        c.mapPeer a.owner fun p => if ahead a.watermark p.acked then { p with acked := a.watermark } else p
      else c) := by
  change execKeepaliveAck a s = _
  simp only [execKeepaliveAck, hu, ha, Bool.not_true, Bool.or_self, Bool.false_eq_true, if_false, Bool.and_eq_true, beq_iff_eq]

/-! ### Operations that wait for an answer -/

section
variable {tag : Nat} {o : Outstanding} (ho : s.outstanding? tag = some o)
include ho

theorem exec_refusalResend {t : Nat} (hr : o.refusedAt = some t) (ht : t + 11200 ≤ s.clock) :
    exec (.refusalResend tag) s = .next (s.resend o o.tries) := by
  change execRefusalResend tag s = _
  simp only [execRefusalResend, ho, hr, hu, ht, decide_true, Bool.and_self, if_true]

theorem exec_retransmission (hr : o.refusedAt = none) (hn : o.tries < 16) (ht : o.sentAt + tryInterval o.tries ≤ s.clock) :
    exec (.retransmission tag) s = .next ((s.resend o (o.tries + 1)).perfAdd o.request.ctx 3 1) := by
  change execRetransmission tag s = _
  simp only [execRetransmission, ho, hr, hu, hn, ht, Option.isNone_none, decide_true, Bool.and_self, if_true]

theorem exec_remoteLost (hr : o.refusedAt = none) (hn : 16 ≤ o.tries) (ht : o.sentAt + 89600 ≤ s.clock) :
    exec (.remoteLost tag) s = .next (s.completeRemote tag .remoteLost [] none) := by
  change execRemoteLost tag s = _
  simp only [execRemoteLost, ho, hr, hu, hn, ht, Option.isNone_none, decide_true, Bool.and_self, if_true]

omit hu in
/-- A posted operation that completes is outstanding no longer; no other changes, though its own module may answer others of it first. -/
theorem State.completeRemote_posted (hp : o.posted = true) (st : RemoteStatus) (values : List W64) (bad : Option Nat) :
    (s.completeRemote tag st values bad).outRemote = s.outRemote.filter fun x => x.tag != tag := by
  have ho' : s.outRemote.find? (fun o => o.tag == tag && o.done.isNone) = some o := ho
  have hw : (if o.owner == Config.moduleId then s.withdraw o.request else s).outRemote = s.outRemote := by
    split
    · obtain ⟨-, -, -, -, -, -, -, h⟩ := State.SameWork.withdraw s o.request
      exact h
    · rfl
  simp only [State.completeRemote, ho', hp, if_true]
  rw [← hw]
  cases o.request.rsn <;> cases o.agent <;> rfl

end

/-! ### Silence and keepalives -/

theorem exec_ownerFailed {owner : Byte} (h : ((s.lastPkt.find? fun x => x.1 == owner).map Prod.snd).getD 0 + 280000 ≤ s.clock) :
    exec (.ownerFailed owner) s = .next (s.completeWhere (fun o => o.owner == owner) .ownerFailed) := by
  change execOwnerFailed owner s = _
  simp only [execOwnerFailed, hu, h, decide_true, Bool.and_self, if_true]

theorem exec_keepalive {owner : Byte} {c : Context} {p : Peer} (hc : s.ctx? c.id = some c)
    (hp : c.peers.find? (fun p => p.owner == owner) = some p) (ha : ahead (p.next - 1) p.acked = true) (hk : p.kept + 14000 ≤ s.clock) :
    exec (.keepalive c.id owner) s = .next (State.mapCtx { s with fabricOut := s.fabricOut ++ [.keepalive owner
      { requester := Config.moduleId, ctx := c.id, gen := c.gen, watermark := p.watermark
        ownerCtx := (s.remoteCtx c owner).getD 0 }] } c.id fun c => c.mapPeer owner fun p => { p with kept := s.clock }) := by
  change execKeepalive c.id owner s = _
  simp only [execKeepalive, hc, hp, hu, ha, hk, decide_true, Bool.and_self, if_true]

end

/-- Settles O54: each event of the requester is one equation of its meaning. -/
theorem requestersCompleteTheirOperations : Obligations.RequestersCompleteTheirOperations := by
  intro s hu
  refine ⟨fun a o => ?packets, fun tag o ho => ⟨?resend, ?retry, ?lost, ?posted, ?sent⟩, ?silent, ?keepalive, ?acked⟩
  case packets =>
    intro u ho
    exact ⟨fun ha => exec_remoteAnswer hu ha ho, fun ha => exec_remoteRefusal hu ha ho⟩
  case resend => exact fun t hr ht => exec_refusalResend hu ho hr ht
  case retry => exact fun hr hn ht => exec_retransmission hu ho hr hn ht
  case lost => exact fun hr hn ht => exec_remoteLost hu ho hr hn ht
  case posted => exact fun st values bad hp => State.completeRemote_posted ho hp st values bad
  case sent => exact fun tries => rfl
  case silent => exact fun owner h => exec_ownerFailed hu h
  case keepalive => exact fun owner c p hc hp ha hk => exec_keepalive hu hc hp ha hk
  case acked => exact fun a ha => exec_keepaliveAck hu ha

end Sys2Proof.Machine
end

section
/-!
PROOF. The owner of remote operations (R158, R161 to R163, R335, R364, R407): what the events of requests leave alone, how a numbered
request is taken, what a watermark does to a request in service, and from them the statement.
-/
namespace Sys2Proof.Machine

open Sys2Proof.Says

/-! ### What an event leaves alone -/

/-- Two states have the same requests held and in service, the same results kept, and the same packets sent. -/
def State.SameOwner (s t : State) : Prop :=
  t.serving = s.serving ∧ t.heldReqs = s.heldReqs ∧ t.cache = s.cache ∧ t.fabricOut = s.fabricOut

theorem State.SameOwner.refl (s : State) : s.SameOwner s := ⟨rfl, rfl, rfl, rfl⟩

theorem State.SameOwner.trans {s t u : State} (h : s.SameOwner t) (k : t.SameOwner u) : s.SameOwner u := by
  obtain ⟨a, b, c, d⟩ := h
  obtain ⟨a', b', c', d'⟩ := k
  exact ⟨a'.trans a, b'.trans b, c'.trans c, d'.trans d⟩

theorem State.SameOwner.store (s : State) (who : Option AgentId) (place : Nat) (bs : List Byte) :
    s.SameOwner (s.store who place bs) := by
  unfold State.store State.conflict
  split <;> exact ⟨rfl, rfl, rfl, rfl⟩

theorem State.SameOwner.atomEvent (s : State) (who : Option AgentId) (op : AtomOp) (f : Fmt) (ovft : BitVec 16) (a : AtomEvent) :
    s.SameOwner (s.atomEvent who op f ovft a).2 :=
  (State.SameOwner.store s who a.place _).trans ⟨rfl, rfl, rfl, rfl⟩

theorem State.SameOwner.ownerFill (s : State) (r : RemoteRequest) : s.SameOwner (s.ownerFill r) := by
  unfold State.ownerFill
  split <;> exact ⟨rfl, rfl, rfl, rfl⟩

/-- The events of a request in service are its own. -/
theorem State.serveEvents_spec (n : Nat) (s : State) (x : Serving) :
    (s.serveEvents x n).1.request = x.request ∧ s.SameOwner (s.serveEvents x n).2 := by
  induction n generalizing s x with
  | zero => exact ⟨rfl, .refl s⟩
  | succ n ih =>
    have hx : (s.serveEvent x).1.request = x.request ∧ s.SameOwner (s.serveEvent x).2 := by
      unfold State.serveEvent
      split
      · exact ⟨rfl, .atomEvent ..⟩
      · exact ⟨rfl, .refl s⟩
    obtain ⟨hr, hs⟩ := ih (s.serveEvent x).2 (s.serveEvent x).1
    exact ⟨hr.trans hx.1, hx.2.trans hs⟩

@[simp] theorem State.ownerFill_mem (s : State) (r : RemoteRequest) : (s.ownerFill r).mem = s.mem := by
  unfold State.ownerFill
  split <;> rfl

theorem Serving.is_own (x : Serving) : x.is x.request.requester x.request.ctx = true := by simp [Serving.is]

/-! ### Answers that are kept -/

/-- The entry that the result cache keeps of a request (R161). -/
theorem State.cached_answerNumbered (s : State) (r : RemoteRequest) (n : W32) (a : Applied) :
    ∃ e, (s.answerNumbered r n a).cached r.requester r.ctx r.gen n = some e ∧ e.status = a.status ∧ e.values = a.values := by
  refine ⟨_, List.find?_cons_of_pos (by simp), rfl, rfl⟩

/-- A numbered request that has made its events is answered by a state that differs only in what is in service and whose turn it is. -/
theorem State.settled_eq {s : State} {x : Serving} {n : W32} (hn : x.request.rsn = some n) :
    ∃ v : State, s.settled x = v.answerNumbered x.request n (x.applied v) ∧
      v.serving = s.serving.filter (fun y => !y.is x.request.requester x.request.ctx) ∧ v.mem = s.mem ∧ v.heldReqs = s.heldReqs := by
  simp only [State.settled, hn]
  split
  · exact ⟨_, rfl, rfl, rfl, rfl⟩
  · exact ⟨_, rfl, rfl, rfl, rfl⟩

/-- It leaves service, its answer is kept, and memory is as its events left it. -/
theorem State.settled_spec {s : State} {x : Serving} {n : W32} (hn : x.request.rsn = some n)
    (hs : ∀ y ∈ s.serving, y.is x.request.requester x.request.ctx = true) :
    let t := s.settled x
    t.serving = [] ∧ t.mem = s.mem ∧ t.heldReqs = s.heldReqs ∧
      ∃ e, t.cached x.request.requester x.request.ctx x.request.gen n = some e ∧ e.status = (x.applied s).status ∧
        e.values = (x.applied s).values := by
  obtain ⟨v, hv, hserving, hmem, hheld⟩ := State.settled_eq (s := s) hn
  intro t
  have ht : t = _ := hv
  rw [ht]
  refine ⟨hserving.trans (List.filter_eq_nil_iff.mpr fun y hy => by simp [hs y hy]), hmem, hheld, ?_⟩
  exact State.cached_answerNumbered v x.request n (x.applied v)

/-- Where no request is held, none comes up when one is settled. -/
theorem State.served_eq_settled {s : State} {x : Serving} {n : W32} (hn : x.request.rsn = some n) (hh : s.heldReqs = []) :
    s.served x = s.settled x := by
  obtain ⟨v, hv, -, -, hheld⟩ := State.settled_eq (s := s) hn
  have hnone : (s.settled x).heldReqs = [] := by
    rw [hv]
    exact hheld.trans hh
  rw [State.served, hnone]
  rfl

/-! ### Packets from a requester -/

theorem State.requester?_is {s : State} {m : Byte} {ctx : Nat} {q : Requester} (h : s.requester? m ctx = some q) :
    q.requester = m ∧ q.ctx = ctx := by
  simpa [Requester.is] using List.find?_some h

/-- A watermark that arrives ends the requests in service that it passes, one after another, and changes no other memory. -/
theorem State.takeWatermark_mem (s : State) (q : Requester) (w : W32) (hs : ∀ x ∈ s.serving, x.is q.requester q.ctx = false) :
    (s.takeWatermark q w).mem = s.mem := by
  have hf : (s.serving.filter fun x => x.is q.requester q.ctx && x.request.rsn.any fun n => n == w || ahead w n) = [] :=
    List.filter_eq_nil_iff.mpr fun x hx => by simp [hs x hx]
  unfold State.takeWatermark
  split
  · simp only [hf]
    rfl
  · rfl

/-- Where a requester has nothing in service, its packets change no memory as they arrive. -/
theorem State.greet_mem {s u : State} {m : Byte} {ctx : Nat} {gen : BitVec 16} {w : W32} (hg : s.greet m ctx gen w = some u)
    (hs : ∀ x ∈ s.serving, x.is m ctx = false) : u.mem = s.mem := by
  have hf : (s.serving.filter fun x => x.request.requester == m && x.request.ctx == ctx) = [] :=
    List.filter_eq_nil_iff.mpr fun x hx => ne_true_of_eq_false (hs x hx)
  unfold State.greet at hg
  split at hg
  · cases hg
    rfl
  · next q hq =>
    obtain ⟨rfl, rfl⟩ := State.requester?_is hq
    dsimp only at hg
    split at hg
    · cases hg
      exact State.takeWatermark_mem _ _ _ hs
    · split at hg
      · cases hg
        simp only [State.endServing, hf]
        rfl
      · cases hg

/-- The one request in service makes the rest of its events at a watermark that has passed it (R335, R364). -/
theorem State.greet_passes {s u : State} {m : Byte} {ctx : Nat} {w n : W32} {x : Serving} {q : Requester}
    (hq : s.requester? m ctx = some q) (hg : s.greet m ctx q.gen w = some u) (hs : s.serving = [x]) (hx : x.is m ctx = true)
    (hn : x.request.rsn = some n) (hp : n = w ∨ ahead w n = true) (hw : w = q.watermark ∨ ahead w q.watermark = true) :
    u.serving = [] ∧ u.mem = ((s.putRequester { q with last := s.clock }).serveEvents x x.todo.length).2.mem := by
  obtain ⟨rfl, rfl⟩ := State.requester?_is hq
  set v := s.putRequester { q with last := s.clock } with hv
  have hu : u = v.takeWatermark { q with last := s.clock } w := by
    simp only [State.greet, hq, sub_self] at hg
    exact (Option.some.inj hg).symm
  have hgo : (w = q.watermark || ahead w q.watermark) = true := by simpa using hw
  have hf : (v.serving.filter fun y => y.is q.requester q.ctx && y.request.rsn.any fun k => k == w || ahead w k) = [x] := by
    have hpast : (n == w || ahead w n) = true := by simpa using hp
    rw [show v.serving = [x] from hs]
    simp [hx, hn, hpast]
  obtain ⟨hr, hserving, -, -, -⟩ := State.serveEvents_spec x.todo.length v x
  have hsettled := State.settled_spec (s := (v.serveEvents x x.todo.length).2) (x := (v.serveEvents x x.todo.length).1)
    (n := n) (by rw [hr]; exact hn) (by
      rw [hserving, show v.serving = [x] from hs, hr]
      simpa using x.is_own)
  obtain ⟨hnone, hmem, -, -⟩ := hsettled
  rw [hu, State.takeWatermark, if_pos hgo]
  simp only [hf]
  exact ⟨hnone, hmem⟩

section
variable {s u : State} {r : RemoteRequest} (hu : s.up = true) (hp : s.partSilent (partOf r.ownerCtx) = false)
  (ha : s.arrives r.requester (.request Config.moduleId r) = true) (hg : s.greet r.requester r.ctx r.gen r.watermark = some u)
include hu hp ha hg

/-- One of an older epoch is answered by it, and its successors may come (R163, R407). -/
theorem exec_remoteRequest_old (ho : u.oldEpoch r = true) :
    exec (.remoteRequest r) s = .next (State.drainHeld r.requester r.ctx u.heldReqs.length (u.restarted r)) := by
  change execRemoteRequest r s = _
  simp only [execRemoteRequest, hu, hp, ha, hg, ho, Bool.not_true, Bool.or_self, Bool.false_eq_true, if_true, if_false]

theorem exec_remoteRequest_unnumbered (ho : u.oldEpoch r = false) (hn : r.rsn = none) :
    exec (.remoteRequest r) s = .next (u.serve r) := by
  change execRemoteRequest r s = _
  simp only [execRemoteRequest, hu, hp, ha, hg, ho, hn, Bool.not_true, Bool.or_self, Bool.false_eq_true, if_false]

theorem exec_remoteRequest_numbered {n : W32} (ho : u.oldEpoch r = false) (hn : r.rsn = some n) :
    exec (.remoteRequest r) s = .next (u.takeNumbered r n) := by
  change execRemoteRequest r s = _
  simp only [execRemoteRequest, hu, hp, ha, hg, ho, hn, Bool.not_true, Bool.or_self, Bool.false_eq_true, if_false]

end

/-! ### A numbered request whose result is not kept -/

section
variable {u : State} {r : RemoteRequest} {n : W32} {q : Requester} (hh : u.heldReqs = []) (hs : u.serving = [])
  (hq : u.requester? r.requester r.ctx = some q)
include hh hs hq

theorem State.takeNumbered_stale (hc : u.cached r.requester r.ctx r.gen n = none) (h : ahead q.next n = true) :
    u.takeNumbered r n = u := by
  simp only [State.takeNumbered, hc, hh, hs, hq, Option.any_some, h, List.any_nil, Bool.or_true, if_true]

/-- One in its turn, or ahead of it, is refused or held, by whether its cache slice has room (R161, R163). -/
theorem State.takeNumbered_comes (hc : u.cached r.requester r.ctx r.gen n = none) (h : ahead q.next n = false) :
    u.takeNumbered r n = if 1024 ≤ (u.cache.filter fun e => e.slice == u.requestSlice r).length then u.refuseFull r
      else State.drainHeld r.requester r.ctx 1 { u with heldReqs := [r] } := by
  simp only [State.takeNumbered, hc, hh, hs, hq, Option.any_some, h, List.any_nil, Bool.or_self, Bool.false_eq_true, if_false,
    State.sliceFill, List.filter_nil, List.length_nil, Nat.add_zero, Nat.zero_add, List.nil_append]

/-- In its turn it is taken up, or carried out (R158, R163). -/
theorem State.drainHeld_turn (hn : r.rsn = some n) (hf : (u.cache.filter fun e => e.slice == u.requestSlice r).length < 1024)
    (ht : skipTo q.skipped q.skipped.length q.next = n) :
    State.drainHeld r.requester r.ctx 1 { u with heldReqs := [r] } = match u.startServing r with
      | some x => { u.ownerFill r with serving := [x] }
      | none => (u.putRequester { q with next := n + 1 }).serveNumbered r n := by
  have hu : { u with heldReqs := [] } = u := by rw [← hh]
  have hq' : State.requester? { u with heldReqs := [r] } r.requester r.ctx = some q := hq
  have hfree : (u.serving.any fun x => x.is r.requester r.ctx) = false := by rw [hs]; rfl
  have hmine : (r.requester == r.requester && r.ctx == r.ctx && r.rsn == some n) = true := by simp [hn]
  have hroom : ¬ 1024 ≤ u.sliceFill (u.requestSlice r) := by
    simpa [State.sliceFill, hs] using hf
  simp only [State.drainHeld, hq', ht, hfree, Bool.false_eq_true, if_false, List.find?_cons, hmine, List.filter_cons,
    List.filter_nil, Bool.not_true, hu, if_neg hroom]
  cases u.startServing r with
  | none => rfl
  | some x => simp only [hs, List.nil_append]

end

/-- One that is carried out at once is answered from what its events come to, and its answer is kept (R158, R161). -/
theorem State.serveNumbered_spec (v : State) (r : RemoteRequest) (n : W32) :
    let a := v.applyRemote r
    let t := v.serveNumbered r n
    ∃ e x, t.cached r.requester r.ctx r.gen n = some e ∧ e.status = a.status ∧ e.values = a.values ∧ t.mem = a.state.mem ∧
      t.fabricOut = a.state.fabricOut ++ [.answer r.requester x] ∧ x.status = a.status ∧ x.values = a.values ∧ x.tag = r.tag := by
  obtain ⟨e, hcached, hstatus, hvalues⟩ := State.cached_answerNumbered v r n (v.applyRemote r)
  exact ⟨e, _, hcached, hstatus, hvalues, rfl, rfl, rfl, rfl, rfl⟩

/-! ### The next event of a request in service -/

/-- The event that an atomic request in service makes next (R158). -/
theorem State.serveEvent_step {s : State} {x : Serving} {e : AtomEvent} {rest : List AtomEvent} {op : AtomOp} {f : Fmt} {c : BitVec 2}
    {ws : List (List W64)} (ht : x.todo = e :: rest) (hw : stepWords x.request.op = some (op, f, c, ws)) :
    s.serveEvent x = ({ x with todo := rest, got := x.got ++ [(e.lane, e.el, (s.atomEvent none op f (ovftOf c) e).1)] },
      (s.atomEvent none op f (ovftOf c) e).2) := by
  simp only [State.serveEvent, hw, ht]

/-- The one request in service makes its next event; after its last it is settled, and no successor waits. -/
theorem State.ownerStep_only {s t : State} {x y : Serving} {n : W32} (hs : s.serving = [x]) (hh : s.heldReqs = [])
    (hn : x.request.rsn = some n) (hv : s.serveEvent x = (y, t)) :
    s.ownerStep x.request.requester x.request.ctx =
      if y.todo.isEmpty then State.settled { t with serving := [y] } y else { t with serving := [y] } := by
  have hfind : s.serving.find? (fun z => z.is x.request.requester x.request.ctx) = some x := by
    rw [hs]
    exact List.find?_cons_of_pos x.is_own
  obtain ⟨hrequest, hserving, hheld, -, -⟩ := State.serveEvents_spec 1 s x
  rw [State.serveEvents, State.serveEvents, hv] at hrequest hserving hheld
  dsimp only at hrequest hserving hheld
  have hmap : (t.serving.map fun z => if z.is x.request.requester x.request.ctx then y else z) = [y] := by
    rw [hserving, hs, List.map_singleton, if_pos x.is_own]
  simp only [State.ownerStep, hfind, hv, hmap]
  rw [State.served_eq_settled (s := { t with serving := [y] }) (hrequest ▸ hn) (hheld.trans hh)]

/-! ### A store request -/

@[simp] theorem State.sendAnswer_mem (s : State) (r : RemoteRequest) (st : RemoteStatus) (values : List W64) (bad : Option Nat) :
    (s.sendAnswer r st values bad).mem = s.mem := rfl

theorem State.serve_store {s : State} {r : RemoteRequest} {bs : List Byte} {a : Bool} {place : Nat} {apx : Bool}
    (hop : r.op = .store bs a) (hp : s.ownerPlace r = some (place, apx)) :
    s.serve r = ((s.ownerFill r).store none place bs).sendAnswer r .ok [] none := by
  simp only [State.serve, State.applyRemote, hp, hop]

/-- Settles O53: an arriving request meets its epoch, the cache, its turn and its slice in that order, and each of its outcomes is one
equation of its meaning; so are an event of a request in service, a keepalive and an expiry. -/
theorem ownersAnswerExactlyOnce : Obligations.OwnersAnswerExactlyOnce := by
  intro s hu
  refine ⟨fun r u hp ha hg => ⟨?restarted, ?unnumbered, ?kept, ?passed, ?comes⟩, ?event, ?keepalive, ?expiry, ?store⟩
  case restarted => exact fun ho => exec_remoteRequest_old hu hp ha hg ho
  case unnumbered => exact fun ho hn => exec_remoteRequest_unnumbered hu hp ha hg ho hn
  case kept =>
    intro n e ho hn hc
    refine ⟨u.sendAnswer r e.status e.values none, ?_, rfl, fun h => (State.greet_mem hg h :)⟩
    rw [exec_remoteRequest_numbered hu hp ha hg ho hn]
    simp only [State.takeNumbered, hc]
  case passed => exact fun x q n hs hx hq hgen hn hpast hw => State.greet_passes hq (hgen ▸ hg) hs hx hn hpast hw
  case comes =>
    intro n q ho hn hc hh hs hq
    have hexec := exec_remoteRequest_numbered hu hp ha hg ho hn
    refine ⟨fun h => ?_, fun h hfull => ?_, fun h hroom hturn => ?_⟩
    · rw [hexec, State.takeNumbered_stale hh hs hq hc h]
    · refine ⟨u.answerFor r .ok [] none, ?_, rfl⟩
      rw [hexec, State.takeNumbered_comes hh hs hq hc h, if_pos hfull]
      rfl
    · rw [hexec, State.takeNumbered_comes hh hs hq hc h, if_neg (Nat.not_le.mpr hroom), State.drainHeld_turn hh hs hq hn hroom hturn]
      refine ⟨fun x hx => by rw [hx], fun hx => ?_⟩
      obtain ⟨e, x, hkept⟩ := State.serveNumbered_spec (u.putRequester { q with next := n + 1 }) r n
      exact ⟨_, e, x, by rw [hx], hkept⟩
  case event =>
    intro x n e rest op f c ws r y t hs hh hn ht hw
    obtain ⟨-, -, hcache, -⟩ := State.SameOwner.atomEvent s none op f (ovftOf c) e
    have hstep : t = _ := State.ownerStep_only hs hh hn (State.serveEvent_step ht hw)
    cases rest with
    | nil =>
      have hlast : t = State.settled { (s.atomEvent none op f (ovftOf c) e).2 with serving := [y] } y := hstep
      obtain ⟨hnone, hmem, -, hkept⟩ :=
        State.settled_spec (s := { (s.atomEvent none op f (ovftOf c) e).2 with serving := [y] }) (x := y) hn (by simpa using y.is_own)
      rw [hlast]
      exact ⟨hmem, fun h => absurd rfl h, fun _ => ⟨hnone, hkept⟩⟩
    | cons e' rest' =>
      have hmore : t = { (s.atomEvent none op f (ovftOf c) e).2 with serving := [y] } := hstep
      rw [hmore]
      exact ⟨rfl, fun _ => ⟨rfl, hcache⟩, nofun⟩
  case keepalive =>
    intro k u hp ha hg
    change execKeepaliveReceive k s = _
    simp only [execKeepaliveReceive, hu, hp, ha, hg, Bool.not_true, Bool.or_self, Bool.false_eq_true, if_false]
  case expiry =>
    intro m ctx q hq h
    change execResultCacheExpiry m ctx s = _
    simp only [execResultCacheExpiry, hq, if_pos h]
  case store =>
    intro r bs a place apx hop hp hwf
    rw [State.serve_store hop hp]
    obtain ⟨-, -, -, hout⟩ := (State.SameOwner.ownerFill s r).trans (State.SameOwner.store (s.ownerFill r) none place bs)
    have hmem : ((s.ownerFill r).store none place bs).mem = s.mem.write place bs := by
      rw [State.store_mem, State.ownerFill_mem]
    refine ⟨?_, fun b hb => ?_, _, congrArg (· ++ _) hout, rfl, rfl⟩
    · rw [State.sendAnswer_mem, hmem, Memory.read_write _ _ _ hwf]
    · rw [State.sendAnswer_mem, hmem, Memory.get_write_of_outside _ _ _ _ hwf (hb _ (List.mem_singleton_self _))]

end Sys2Proof.Machine
end

section
/-!
PROOF. Uniform transfers (R180, R181): the outcomes of BRX, CALL, CALLX and RET that the branches' part has not met, on a warp and on
the Leek core, and from them the statement.
-/
namespace Sys2Proof.Machine

open Sys2Proof.Says

section
variable {s : State} {c : Context} {g : Group} {w : Warp} {l : Leek} {sh : Shape} {target : W64} {link pneg : Bool} {pred : Fin 8}
variable {os : List Opnd} {i : Instr} {wb : Env → Effect} {lb : LeekEnv → Effect}

/-! ### From a warp -/

theorem transferBody_differs (h : goes w pneg pred = none) :
    transferBody target link os pneg pred (envOf s c g w sh) = .fault .illegal 0 (takers w pneg pred) := by
  have hd : (envOf s c g w sh).direction pneg pred = none := h
  simp only [transferBody, hd]
  rfl

theorem transferBody_misaligned (h : goes w pneg pred = some true) (ht : target.toNat % 4 ≠ 0) :
    transferBody target link os pneg pred (envOf s c g w sh) = .fault .misalign target (live w) := by
  have hd : (envOf s c g w sh).direction pneg pred = some true := h
  simp only [transferBody, hd, if_pos ht]
  rfl

/-- A uniform transfer of a warp, from what its instruction and shape are. -/
theorem transfers_of_issue (h : WarpIssues s c g w sh) (hi : exec i s = issue sh s wb lb)
    (hb : wb (envOf s c g w sh) = transferBody target link os pneg pred (envOf s c g w sh)) :
    transfers i sh target link pneg pred s c g w := by
  rw [transfers, hi]
  refine ⟨fun hg ht hbad => ?goes, fun hg => h.flow (hb.trans (transferBody_stays hg)), fun hn h0 => ⟨fun hg => ?differs,
    fun hg ht => ?misaligned⟩⟩
  case goes =>
    have hk : (w.operandKills os (w.eff sh)).1 = 0 := by rw [Warp.operandKills_of_clean hbad]
    exact h.flow (hb.trans (transferBody_goes hg ht hk))
  case differs => exact h.traps (cause := .illegal) hn h0 (by decide) (hb.trans (transferBody_differs hg))
  case misaligned => exact h.traps (cause := .misalign) hn h0 (by decide) (hb.trans (transferBody_misaligned hg ht))

/-! ### From a Leek thread -/

theorem transferLeek_goes (h : l.takes pneg pred = true) (ht : target.toNat % 4 = 0) :
    transferLeek target link pneg pred (leekEnvOf s c g l) =
      .flow (if link then s.putLeek g { l with g := l.g.set 31 (l.pc + 8) } else s) target [] := by
  have h' : (leekEnvOf s c g l).l.takes pneg pred = true := h
  simp only [transferLeek, h', ht, if_true, ne_eq, not_true_eq_false, if_false]
  rfl

theorem transferLeek_stays (h : l.takes pneg pred = false) :
    transferLeek target link pneg pred (leekEnvOf s c g l) = .flow s (l.pc + 8) [] := by
  have h' : (leekEnvOf s c g l).l.takes pneg pred = false := h
  simp only [transferLeek, h', Bool.false_eq_true, if_false]
  rfl

/-- A transfer of a Leek thread, from what its instruction and shape are. -/
theorem leekTransfers_of_issue (h : LeekIssues s c g l sh) (hi : exec i s = issue sh s wb lb)
    (hb : lb (leekEnvOf s c g l) = transferLeek target link pneg pred (leekEnvOf s c g l)) :
    leekTransfers i target link pneg pred s g l := by
  rw [leekTransfers, hi]
  exact ⟨fun ht ha => h.flow (hb.trans (transferLeek_goes ht ha)), fun ht => h.flow (hb.trans (transferLeek_stays ht))⟩

end

/-- Settles O26: each instruction's meaning is the uniform transfer, each outcome of which is one equation. -/
theorem transfersAreUniform : Obligations.TransfersAreUniform := by
  intro s c g w l
  refine ⟨?brx, ?callx, ?call, ?ret, ?leekBrx, ?leekCallx, ?leekCall, ?leekRet⟩
  case brx | callx | call | ret => exact fun f h => transfers_of_issue h rfl rfl
  case leekBrx | leekCallx | leekCall | leekRet => exact fun f h => leekTransfers_of_issue h rfl rfl

end Sys2Proof.Machine
end

section
/-!
PROOF. The join stack (R182 to R185): MARK and JOIN where the stack has no room or no entry, an EXIT that ends its warp, and the
statement from each meaning's outcomes.
-/
namespace Sys2Proof.Machine

open Sys2Proof.Says

section
variable {s t : State} {c : Context} {g : Group} {w : Warp} {sh : Shape} {target : W64} {pneg : Bool} {pred : Fin 8} {n : Nat}
variable {i : Instr} {wb : Env → Effect} {lb : LeekEnv → Effect}

theorem markBody_full (hj : 32 ≤ w.join.length) : markBody n target (envOf s c g w sh) = .fault .joinovf 0 (live w) := by
  have hp : (envOf s c g w sh).w.push (.rejoin target (envOf s c g w sh).w.exec) = none := if_neg (Nat.not_lt.2 hj)
  simp only [markBody, hp]
  rfl

theorem joinBody_empty (hj : w.join = []) : joinBody (envOf s c g w sh) = .fault .joinovf 0 (live w) := by
  have hj' : (envOf s c g w sh).w.join = [] := hj
  simp only [joinBody, hj']
  rfl

/-- An EXIT that ends its warp completes at the next address, its stack bytes hashed, and then the warp ends (R185). -/
theorem WarpIssues.exits {m : List Byte} (h : WarpIssues s c g w sh) (e : wb (envOf s c g w sh) = .exits t m) :
    issue sh s wb lb = .next ((flowsTo t c g w sh (nextOf w sh) m).endWarp g w.id w.pc) := by
  rw [h.issue_eq, e]
  simp only [State.finishWarp, State.retire, h.sig, rolledBack_calm h.calm, flowsTo, nextOf, if_true]
  rfl

/-! ### Each instruction in either form, from what its instruction and shape are -/

theorem marks_of_issue (h : WarpIssues s c g w sh) (hi : exec i s = issue sh s wb lb)
    (hb : wb (envOf s c g w sh) = markBody n target (envOf s c g w sh)) (hn : nextOf w sh = w.pc + BitVec.ofNat 64 n) :
    marks i sh target s c g w := by
  rw [marks, hi, hn]
  exact ⟨fun hj => h.flow (hb.trans (markBody_pushes hj)),
    fun hj ht h0 => h.traps (cause := .joinovf) ht h0 (by decide) (hb.trans (markBody_full hj))⟩

theorem joins_of_issue (h : WarpIssues s c g w sh) (hi : exec i s = issue sh s joinBody lb) : joins i sh s c g w := by
  rw [joins, hi]
  exact ⟨fun x rest hj => h.flow (joinBody_pops hj),
    fun hj ht h0 => h.traps (cause := .joinovf) ht h0 (by decide) (joinBody_empty hj)⟩

theorem exits_of_issue (h : WarpIssues s c g w sh) (hi : exec i s = issue sh s (exitBody n pneg pred) lb)
    (hn : nextOf w sh = w.pc + BitVec.ofNat 64 n) : exits i sh pneg pred s c g w := by
  have hr : unwind w.dead (w.exec &&& ~~~(takers w pneg pred)) (nextOf w sh) (w.join.map (JoinEntry.without (takers w pneg pred))) =
    afterExit w n pneg pred := by rw [hn, afterExit]
  simp only [exits, hi, hr]
  exact ⟨fun exec' pc join' ho => h.flow (exitBody_goesOn ho), fun ho => h.exits (exitBody_ends h.calm ho)⟩

end

/-- Settles O27: each outcome of MARK, JOIN and EXIT is one equation of its meaning, the same in both forms. -/
theorem joinStackInstructionsComplete : Obligations.JoinStackInstructionsComplete := by
  intro s c g w
  refine ⟨?mark, ?markShort, ?join, ?joinShort, ?exit, ?exitShort⟩
  case mark => exact fun f h => marks_of_issue h rfl rfl rfl
  case markShort => exact fun off h => marks_of_issue h rfl rfl rfl
  case join => exact fun f h => joins_of_issue h rfl
  case joinShort => exact fun h => joins_of_issue h rfl
  case exit => exact fun f h => exits_of_issue h rfl rfl
  case exitShort => exact fun pneg pred h => exits_of_issue h rfl rfl

end Sys2Proof.Machine
end

section
/-!
PROOF. Fillers, the execution mask and rests (R187 to R191): what each meaning comes to, and the statement but for one clause; the
clause of a SETX from a k register fails where a lane reads it over the crossbar with an error.
-/
namespace Sys2Proof.Machine

open Sys2Proof.Says

section
variable {f : LForm} {s : State} {c : Context} {g : Group} {w : Warp} {sh : Shape}

/-! ### The execution mask (R188) -/

theorem getxBody_of_k {n : Fin 8} (hd : f.dst = .k n) :
    getxBody f (envOf s c g w sh) = .done (s.putWarp g w (w.writeK n (BitVec.allOnes 64) w.exec)) := by
  simp only [getxBody, hd]
  rfl

theorem getxBody_of_s {n : Fin 64} (hd : f.dst = .s n) :
    getxBody f (envOf s c g w sh) = .done (s.putWarp g w (w.writeS n.val true w.exec)) := by
  simp only [getxBody, hd]
  rfl

/-- What SETX sets EXEC to. -/
def setxMask (w : Warp) (f : LForm) : Mask :=
  match f.src0 with
  | .k n => w.kmask n
  | r => w.uni r none .n64

theorem setxMask_of_k {n : Fin 8} (hs : f.src0 = .k n) : setxMask w f = w.kmask n := by simp only [setxMask, hs]

theorem setxMask_uniform (hs : (∃ n, f.src0 = .s n) ∨ f.src0 = .zero) : setxMask w f = w.uni f.src0 none .n64 := by
  obtain ⟨n, hn⟩ | hz := hs
  · simp only [setxMask, hn]
  · simp only [setxMask, hz]

/-- The lanes that an error in the operand of SETX kills, and its source (R18, R308). -/
def setxKills (w : Warp) (f : LForm) : Mask × Nat := w.operandKills [Opnd.any f.src0 .n64] (w.eff (.l .setx f))

/-- SETX sets EXEC, and kills the lanes that read its operand with an error. -/
theorem exec_setx (h : WarpIssues s c g w (.l .setx f)) : exec (.setx f) s =
    .next (((s.putWarp g w { w with exec := setxMask w f }).killLanes c g w (setxKills w f).1 (setxKills w f).2 0).completed
      c g w (.l .setx f)) :=
  h.done rfl

theorem exec_setx_clean (h : WarpIssues s c g w (.l .setx f)) (hk : (setxKills w f).1 = 0) :
    exec (.setx f) s = .next ((s.putWarp g w { w with exec := setxMask w f }).completed c g w (.l .setx f)) := by
  rw [exec_setx h, hk, State.killLanes_zero]

theorem setxKills_of_clean (hb : w.bad = []) : (setxKills w f).1 = 0 := by rw [setxKills, Warp.operandKills_of_clean hb]

/-! ### SLEEP (R191) -/

/-- The duration of a SLEEP. -/
def sleepTime (w : Warp) (f : LForm) : Nat := (w.uni f.src0 f.imm .n32).toNat % 2 ^ 32

/-- A SLEEP of a warp without errors: nothing without executing lanes, else a yield for 0 and a rest for its duration. -/
theorem sleepBody_clean (hb : w.bad = []) : sleepBody f (envOf s c g w sh) =
    if w.eff sh = 0 then .done s
    else if sleepTime w f = 0 then .done (s.mapWarp g.uid w.id fun x => { x with yield := true })
    else .rest s (.sleep (s.clock + sleepTime w f)) := by
  have hk : (envOf s c g w sh).w.operandKills [Opnd.any f.src0 .n32] (envOf s c g w sh).eff = (0, 1) :=
    Warp.operandKills_of_clean hb _ _
  simp only [sleepBody, hk, State.killLanes_zero]
  rfl

theorem sleeps_clean (h : WarpIssues s c g w (.l .sleep f)) (hb : w.bad = []) :
    (w.eff (.l .sleep f) = 0 → exec (.sleep f) s = .next (s.completed c g w (.l .sleep f))) ∧
    (w.eff (.l .sleep f) ≠ 0 → sleepTime w f = 0 → exec (.sleep f) s =
      .next ((s.mapWarp g.uid w.id fun x => { x with yield := true }).completed c g w (.l .sleep f))) ∧
    (w.eff (.l .sleep f) ≠ 0 → sleepTime w f ≠ 0 → exec (.sleep f) s =
      .next ((s.completed c g w (.l .sleep f)).setWait (.warp g.uid w.id) (.sleep (s.clock + sleepTime w f)))) := by
  have hx := sleepBody_clean (f := f) (s := s) (c := c) (g := g) (sh := .l .sleep f) hb
  refine ⟨fun he => h.done (hx.trans (if_pos he)), fun he hd => h.done ?_, fun he hd => h.rest ?_⟩
  · rw [hx, if_neg he, if_pos hd]
  · rw [hx, if_neg he, if_neg hd]

/-- A spinning status ends when its slice cycles have passed (R190). -/
theorem exec_spinEnd {u k : Nat} (hg : s.group? u = some g) : exec (.spinEnd u k) s = .next (s.mapWarp u k fun w =>
    if w.spinUntil ≤ s.sliceCycles g.cluster w.slice then { w with spinUntil := 0 } else w) := by
  change execSpinEnd u k s = _
  simp only [execSpinEnd, hg]

end

/-! ### The statement -/

/-- O28 but for one clause: all that it says follows from what it says of a SETX from a k register that kills a lane. -/
theorem fillersMasksAndRestsComplete_of_setx
    (hset : ∀ (f : LForm) (s : State) (c : Context) (g : Group) (w : Warp) (n : Fin 8), f.src0 = .k n →
      (setxKills w f).1 ≠ 0 → WarpIssues s c g w (.l .setx f) →
      exec (.setx f) s = .next ((s.putWarp g w { w with exec := w.kmask n }).completed c g w (.l .setx f))) :
    Obligations.FillersMasksAndRestsComplete := by
  refine ⟨fun s c g w l => ⟨?nop, ?nopShort, ?blkend, ?leekNop, ?leekNopShort, ?brk⟩,
    fun f s c g w => ⟨?getxK, ?getxS, ?setxK, ?setxUniform, ?spin, ?sleep⟩, fun s u k g hg => ⟨exec_spinEnd hg, rfl⟩⟩
  case nop | blkend | brk => exact fun f h => h.done rfl
  case nopShort => exact fun h => h.done rfl
  case leekNop => exact fun f h => h.done rfl
  case leekNopShort => exact fun h => h.done rfl
  case getxK => exact fun n hd h => h.done (getxBody_of_k hd)
  case getxS => exact fun n hd h => h.done (getxBody_of_s hd)
  case setxK =>
    intro n hs h
    by_cases hk : (setxKills w f).1 = 0
    · rw [exec_setx_clean h hk, setxMask_of_k hs]
    · exact hset f s c g w n hs hk h
  case setxUniform =>
    intro hs hb h
    rw [exec_setx_clean h (setxKills_of_clean hb), setxMask_uniform hs]
  case spin => exact fun h => h.done rfl
  case sleep => exact fun h hb => sleeps_clean h hb

/-! ### An error on the crossbar

The clause of a SETX from a k register has no premise that the warp is without errors. A lane whose next operand comes over the
crossbar with an error is killed as it reads that register (R18, R401), and the clause leaves it alive. -/

/-- A warp whose lane 0 reads its next operand with an error. -/
def crossedWarp : Warp := { Warp.launch 0 0 0 with bad := [.crossbar 0] }

/-- SETX from k1. -/
def setxForm : LForm :=
  { sub := 0, pneg := false, pred := 0, src2 := .zero, src1 := .zero, src0 := .k 1, dst := .zero, fmt := .b32, nw := false, a := false
    imm := none }

def crossedGroup : Group := Group.blank 0 KDesc.plain [crossedWarp]

/-- The machine in which that warp issues. -/
def crossedState : State :=
  { State.reset with cur := some (.warp 0 0), ctxs := [Context.blank 0 0], groups := [crossedGroup] }

theorem crossed_issues : WarpIssues crossedState (Context.blank 0 0) crossedGroup crossedWarp (.l .setx setxForm) where
  issuer := rfl
  calm := rfl
  legal := rfl
  mode := rfl
  sig := rfl

/-- DEAD of every warp of a state. -/
def State.allDead (s : State) : List (List Mask) := s.groups.map fun g => g.warps.map Warp.dead

/-- The lane that reads with the error dies. -/
theorem crossed_killed_dead :
    (((crossedState.putWarp crossedGroup crossedWarp { crossedWarp with exec := setxMask crossedWarp setxForm }).killLanes
      (Context.blank 0 0) crossedGroup crossedWarp (setxKills crossedWarp setxForm).1 (setxKills crossedWarp setxForm).2 0).completed
        (Context.blank 0 0) crossedGroup crossedWarp (.l .setx setxForm)).allDead = [[1]] := by
  decide +kernel

theorem crossed_completed_dead :
    ((crossedState.putWarp crossedGroup crossedWarp { crossedWarp with exec := crossedWarp.kmask 1 }).completed
      (Context.blank 0 0) crossedGroup crossedWarp (.l .setx setxForm)).allDead = [[0]] := by
  rfl

/-- Refutes O28: a SETX from a k register kills the lane whose operand the crossbar delivers with an error, which the clause of that
SETX leaves alive. -/
theorem not_fillersMasksAndRestsComplete : ¬ Obligations.FillersMasksAndRestsComplete := by
  rintro ⟨-, h, -⟩
  obtain ⟨-, -, hset, -⟩ := h setxForm crossedState (Context.blank 0 0) crossedGroup crossedWarp
  have he := (exec_setx crossed_issues).symm.trans (hset 1 rfl crossed_issues)
  have hd := congrArg State.allDead (Host.Outcome.next.inj he)
  rw [crossed_killed_dead, crossed_completed_dead] at hd
  exact absurd hd (by decide)

end Sys2Proof.Machine
end

section
/-!
PROOF. The state of barriers (R200, R201, R203, R205, R306): what an update of one barrier leaves, which updates leave every barrier,
and when a phase completes.
-/
namespace Sys2Proof.Machine

open Sys2Proof.Says

/-! ### Groups and spans under an update -/

section
variable {s t : State}

/-- An update of groups that keeps their numbers is found under the same number. -/
theorem State.group?_mapGroup {f : Group → Group} (hf : ∀ g, (f g).uid = g.uid) (u v : Nat) :
    (s.mapGroup u f).group? v = (s.group? v).map fun g => if g.uid == u then f g else g := by
  simp only [State.group?, State.mapGroup, List.find?_map]
  congr 2
  funext g
  simp only [Function.comp_apply]
  split
  · rw [hf]
  · rfl

theorem State.span?_mapSpan {f : Span → Span} (hf : ∀ x, (f x).uid = x.uid) (u v : Nat) :
    (s.mapSpan u f).span? v = (s.span? v).map fun x => if x.uid == u then f x else x := by
  simp only [State.span?, State.mapSpan, List.find?_map]
  congr 2
  funext x
  simp only [Function.comp_apply]
  split
  · rw [hf]
  · rfl

theorem State.group?_uid {u : Nat} {g : Group} (h : s.group? u = some g) : g.uid = u := by
  simpa using List.find?_some h

theorem State.span?_uid {u : Nat} {x : Span} (h : s.span? u = some x) : x.uid = u := by
  simpa using List.find?_some h

/-! ### One barrier's update -/

theorem vmod_getD {α : Type} {m n : Nat} (v : Vector α m) (f : α → α) (d : α) (h : n < m) :
    (vmod v n f)[n]?.getD d = f (v[n]?.getD d) := by
  simp [vmod, h]

/-- An update of one barrier is what stands there. -/
theorem State.bar?_mapBar {id : BarId} (h : inRange id) (f : Barrier → Barrier) : (s.mapBar id f).bar? id = (s.bar? id).map f := by
  cases id with
  | gb u n =>
    simp only [State.mapBar, State.bar?]
    rw [State.group?_mapGroup (f := fun g => { g with bars := vmod g.bars n f }) fun _ => rfl]
    cases hg : s.group? u with
    | none => rfl
    | some g => simp [State.group?_uid hg, vmod_getD (n := n) g.bars f Barrier.init h]
  | sb u n =>
    simp only [State.mapBar, State.bar?]
    rw [State.span?_mapSpan (f := fun x => { x with bars := vmod x.bars n f }) fun _ => rfl]
    cases hx : s.span? u with
    | none => rfl
    | some x => simp [State.span?_uid hx, vmod_getD (n := n) x.bars f Barrier.init h]

/-- It leaves the members of every barrier. -/
theorem State.members_mapBar (id : BarId) (f : Barrier → Barrier) : (s.mapBar id f).members id = s.members id := by
  cases id with
  | gb u n =>
    simp only [State.mapBar, State.members]
    rw [State.group?_mapGroup (f := fun g => { g with bars := vmod g.bars n f }) fun _ => rfl]
    cases hg : s.group? u with
    | none => rfl
    | some g =>
      obtain rfl := State.group?_uid hg
      simp only [Option.map_some, BEq.rfl, if_true]
      rfl
  | sb u n =>
    simp only [State.mapBar, State.members]
    rw [State.span?_mapSpan (f := fun x => { x with bars := vmod x.bars n f }) fun _ => rfl]
    cases hx : s.span? u with
    | none => rfl
    | some x =>
      obtain rfl := State.span?_uid hx
      simp only [Option.map_some, BEq.rfl, if_true]
      rfl

@[simp] theorem State.mapBar_clock (id : BarId) (f : Barrier → Barrier) : (s.mapBar id f).clock = s.clock := by cases id <;> rfl

end

/-! ### Updates that leave every barrier -/

/-- Two states have the same barriers: those of each group, and the spans. -/
def State.SameBars (s t : State) : Prop :=
  t.groups.map (fun g => (g.uid, g.bars)) = s.groups.map (fun g => (g.uid, g.bars)) ∧ t.spans = s.spans

namespace State.SameBars

variable {s t u : State}

theorem refl (s : State) : s.SameBars s := ⟨rfl, rfl⟩

theorem trans (h : s.SameBars t) (k : t.SameBars u) : s.SameBars u := ⟨k.1.trans h.1, k.2.trans h.2⟩

theorem bar? (h : s.SameBars t) (id : BarId) : t.bar? id = s.bar? id := by
  obtain ⟨hg, hs⟩ := h
  have found (x : State) (k n : Nat) : x.bar? (.gb k n) =
      ((x.groups.map fun g => (g.uid, g.bars)).find? fun y => y.1 == k).map fun y => y.2.toArray.toList.getD n Barrier.init := by
    simp only [State.bar?, State.group?, List.find?_map, Option.map_map]
    rfl
  cases id with
  | gb k n => rw [found, found, hg]
  | sb k n => simp only [State.bar?, State.span?, hs]

theorem mapGroup {f : Group → Group} (hf : ∀ g, (f g).uid = g.uid ∧ (f g).bars = g.bars) (k : Nat) : s.SameBars (s.mapGroup k f) := by
  refine ⟨?_, rfl⟩
  simp only [State.mapGroup, List.map_map]
  refine List.map_congr_left fun g _ => ?_
  simp only [Function.comp_apply]
  split
  · rw [(hf g).1, (hf g).2]
  · rfl

theorem mapWarp (k w : Nat) (f : Warp → Warp) : s.SameBars (s.mapWarp k w f) :=
  mapGroup (f := fun g => g.mapWarp w f) (fun _ => ⟨rfl, rfl⟩) k

theorem perfAdd (ctx : Nat) (n : Fin 8) (k : Nat) : s.SameBars (s.perfAdd ctx n k) := by
  unfold State.perfAdd
  split <;> exact refl s

theorem conflict (who : Option AgentId) (sectors : List Nat) : s.SameBars (s.conflict who sectors) := by
  unfold State.conflict
  split
  · exact ⟨by simp only [List.map_map]; rfl, rfl⟩
  · exact refl s

theorem store (who : Option AgentId) (place : Nat) (bs : List Byte) : s.SameBars (s.store who place bs) :=
  .trans (t := { s with mem := _, poison := _ }) (refl s) (conflict who _)

theorem storeAll (who : Option AgentId) (stores : List (Nat × List Byte)) : s.SameBars (s.storeAll who stores) := by
  induction stores generalizing s with
  | nil => exact refl s
  | cons x rest ih => exact (store who x.1 x.2).trans ih

/-- The commits after a phase leave every barrier (R214). -/
theorem commitAll (k n : Nat) (ws : List Nat) : s.SameBars (s.commitAll k n ws) := by
  induction ws generalizing s with
  | nil => exact refl s
  | cons w rest ih =>
    unfold State.commitAll
    split
    · split
      · exact (((mapWarp k w _).trans (storeAll _ _)).trans (perfAdd _ _ _)).trans ih
      · exact ih
    · exact ih

theorem mapCluster (k : Nat) (f : Cluster → Cluster) : s.SameBars (s.mapCluster k f) := by
  unfold State.mapCluster
  split <;> exact refl s

/-- So does the ramp limiter (R396). -/
theorem limit (id : BarId) (b : Barrier) : s.SameBars (s.limit id b) := by
  have admits (xs : List (Nat × AgentId)) (t : State) :
      t.SameBars (xs.foldl (fun s x => s.mapCluster x.1 fun c => { c with waiters := x.2 :: c.waiters }) t) := by
    induction xs generalizing t with
    | nil => exact refl t
    | cons x xs ih => exact (mapCluster _ _).trans (ih _)
  unfold State.limit
  split
  · exact refl s
  · refine .trans ?_ (admits _ _)
    split <;> exact refl s

end State.SameBars

/-! ### When a phase completes (R201) -/

section
variable {s : State} {id : BarId} {b : Barrier} (hb : s.bar? id = some b) (hs : b.stopped = false)
include hb hs

/-- While a member is missing, or bytes are expected, a phase goes on. -/
theorem State.settle_waits (h : (∃ m ∈ s.members id, m.agent ∉ b.arrived) ∨ s.members id = [] ∨ 0 < b.bytes) : s.settle id = s := by
  unfold State.settle
  simp only [hb]
  split
  · rfl
  · next hall =>
    have hall' : s.members id ≠ [] ∧ ∀ m ∈ s.members id, m.agent ∈ b.arrived := by simpa [hs] using hall
    obtain ⟨m, hm, hn⟩ | hn | hpos := h
    · exact absurd (hall'.2 m hm) hn
    · exact absurd hn hall'.1
    · rw [if_neg (by omega), if_neg (by omega)]

variable (hm : s.members id ≠ []) (ha : ∀ m ∈ s.members id, m.agent ∈ b.arrived) (h0 : b.bytes = 0)
include hm ha h0

/-- What a phase does that completes: the next one begins, then its speculating warps commit, or its waiting ones are admitted. -/
theorem State.settle_of_all : s.settle id =
    let t := s.mapBar id (Barrier.next s.clock)
    match id with
    | .gb uid n => t.commitAll uid n (((s.group? uid).map fun g => g.warps.map Warp.id).getD [])
    | .sb _ _ => t.limit id b := by
  have hall : ¬(b.stopped || (s.members id).isEmpty || !((s.members id).all fun m => b.arrived.contains m.agent)) = true := by
    simpa [hs] using And.intro hm ha
  unfold State.settle
  simp only [hb, if_neg hall, if_pos h0]
  cases id <;> rfl

theorem State.bar?_settle (hr : inRange id) : (s.settle id).bar? id = some (b.next s.clock) := by
  have hnext : (s.mapBar id (Barrier.next s.clock)).bar? id = some (b.next s.clock) := by rw [State.bar?_mapBar hr, hb, Option.map_some]
  rw [State.settle_of_all hb hs hm ha h0]
  cases id with
  | gb uid n => exact ((State.SameBars.commitAll ..).bar? _).trans hnext
  | sb uid n => exact ((State.SameBars.limit ..).bar? _).trans hnext

end

/-- A change of a barrier and then the completion of its phase, where its condition holds. -/
theorem State.bar?_settle_mapBar {s : State} {id : BarId} {b b' : Barrier} {f : Barrier → Barrier} (hr : inRange id)
    (hb : s.bar? id = some b) (hf : f b = b') (hs : b'.stopped = false) :
    ((∃ m ∈ s.members id, m.agent ∉ b'.arrived) ∨ s.members id = [] ∨ 0 < b'.bytes →
      ((s.mapBar id f).settle id).bar? id = some b') ∧
    (s.members id ≠ [] → (∀ m ∈ s.members id, m.agent ∈ b'.arrived) → b'.bytes = 0 →
      ((s.mapBar id f).settle id).bar? id = some (b'.next s.clock)) := by
  have hb' : (s.mapBar id f).bar? id = some b' := by rw [State.bar?_mapBar hr, hb, Option.map_some, hf]
  have hm := State.members_mapBar (s := s) id f
  refine ⟨fun h => ?_, fun h1 h2 h3 => ?_⟩
  · rw [State.settle_waits hb' hs (hm ▸ h), hb']
  · rw [State.bar?_settle hb' hs (hm ▸ h1) (hm ▸ h2) h3 hr, State.mapBar_clock]

/-! ### Departure (R306) -/

theorem withdraw_getD {m : Nat} (v : Vector Barrier m) (a : AgentId) (n : Nat) :
    (v[n]?.map fun b => b.withdraw a).getD Barrier.init = (v[n]?.getD Barrier.init).withdraw a := by
  cases v[n]? <;> rfl

/-- A departure withdraws the agent's arrival at each barrier of its group and of its span. -/
theorem State.bar?_depart {s : State} {g : Group} {a : AgentId} {id : BarId} {k : Nat} (h : id = .gb g.uid k ∨ id = .sb g.span k) :
    (s.depart g a).bar? id = (s.bar? id).map fun b => b.withdraw a := by
  obtain rfl | rfl := h
  · change Option.map _ (State.group? (State.mapGroup s g.uid _) g.uid) = _
    rw [State.group?_mapGroup (by exact fun _ => rfl)]
    cases hg : s.group? g.uid with
    | none => simp [State.bar?, hg]
    | some x => simp [State.bar?, hg, State.group?_uid hg, withdraw_getD]
  · simp only [State.depart, State.bar?]
    rw [State.span?_mapSpan (by exact fun _ => rfl)]
    change Option.map _ (Option.map _ (s.span? g.span)) = _
    cases hx : s.span? g.span with
    | none => rfl
    | some x => simp [State.span?_uid hx, withdraw_getD]

/-- Settles O41: an arrival and a change of the count are an update of the barrier, after which its phase is looked at. -/
theorem phasesCompleteWhenAllHaveArrived : Obligations.PhasesCompleteWhenAllHaveArrived := by
  intro s id a b hr hb hs b'
  have arrives := State.bar?_settle_mapBar (s := s) (b' := b')
    (f := fun b => { b with arrived := a :: b.arrived, latest := (a, b.phase) :: b.latest.filter fun x => x.1 != a }) hr hb rfl hs
  obtain ⟨goesOn, completes⟩ := arrives
  refine ⟨goesOn, completes, ?latest, ?count, ?departs⟩
  case latest => simp [b', Barrier.latestOf]
  case count =>
    intro n hlo hhi
    have hin : ¬(decide (b.bytes + n < -2 ^ 63) || decide (2 ^ 63 ≤ b.bytes + n)) = true := by simp; omega
    have hadd : s.addBytes id n = (s.mapBar id fun b => { b with bytes := b.bytes + n }).settle id := by
      simp only [State.addBytes, hb, hs, Bool.false_eq_true, if_false, if_neg hin]
    rw [hadd]
    exact State.bar?_settle_mapBar (b' := { b with bytes := b.bytes + n }) hr hb rfl hs
  case departs =>
    intro g k h
    rw [State.bar?_depart h, hb]
    rfl

end Sys2Proof.Machine
end

section
/-!
PROOF. Barrier instructions of warps (R199, R203, R206, R209, R213): what an arrival, a wait and both come to on a barrier, for any
agent, and how a warp's instruction ends with each.
-/
namespace Sys2Proof.Machine

open Sys2Proof.Says

/-! ### Arriving and waiting, for any agent -/

section
variable {s : State} {id : BarId} {a : AgentId} {b : Barrier} (hb : s.bar? id = some b)
include hb

theorem State.barArrive_first (ha : a ∉ b.arrived) : s.barArrive id a = .done (s.arrive id a) := by
  simp [State.barArrive, hb, ha]

theorem State.barArrive_again (ha : a ∈ b.arrived) :
    s.barArrive id a = if b.stopped then .over else .wait s (.rearrive id b.phase) := by
  simp [State.barArrive, hb, ha]

/-- A wait for a phase that is over, or of an agent that never arrived, is over. -/
theorem State.barWait_over (h : ∀ n, b.latestOf a = some n → n < b.phase) : s.barWait id a = .done s := by
  cases hl : b.latestOf a with
  | none => simp only [State.barWait, hb, hl]
  | some n => simp only [State.barWait, hb, hl, if_pos (h n hl)]

theorem State.barWait_waits {n : Nat} (hl : b.latestOf a = some n) (hn : b.phase ≤ n) :
    s.barWait id a = if b.stopped then .over else .wait s (.phase id n) := by
  simp only [State.barWait, hb, hl, if_neg (Nat.not_lt.mpr hn)]

theorem State.barSync_again (ha : a ∈ b.arrived) : s.barSync id a false = s.barArrive id a := by
  rw [State.barArrive_again hb ha]
  simp only [State.barSync, Bool.false_eq_true, if_false, State.barArrive_again hb ha]
  cases b.stopped <;> rfl

/-- BARSYNC of an agent that has not arrived arrives, then waits as a BARWAIT does, but for a phase that has stopped: it meets that
when it issues again (R203, R206). -/
theorem State.barSync_first (ha : a ∉ b.arrived) {b2 : Barrier} (h2 : (s.arrive id a).bar? id = some b2) :
    (∀ n, b2.latestOf a = some n → n < b2.phase → s.barSync id a false = .done (s.arrive id a)) ∧
    (∀ n, b2.latestOf a = some n → b2.phase ≤ n → s.barSync id a false =
      .wait (s.arrive id a) (.phase id (if b2.stopped then b2.phase else n))) := by
  refine ⟨fun n hl hn => ?_, fun n hl hn => ?_⟩
  · have hover := State.barWait_over h2 fun m hm => Option.some.inj (hl.symm.trans hm) ▸ hn
    simp only [State.barSync, Bool.false_eq_true, if_false, State.barArrive_first hb ha, hover]
  · simp only [State.barSync, Bool.false_eq_true, if_false, State.barArrive_first hb ha, State.barWait_waits h2 hl hn, h2]
    cases b2.stopped <;> rfl

end

/-- Issued again after its arrival, BARSYNC is the wait alone. -/
theorem State.barSync_arrived (s : State) (id : BarId) (a : AgentId) : s.barSync id a true = s.barWait id a := rfl

/-! ### How a warp's instruction ends -/

section
variable {f : LForm} {s t : State} {c : Context} {g : Group} {w : Warp} {sh : Shape} {id : BarId} {n : Nat}

/-- A barrier instruction of a warp without errors acts on the barrier that its selector names. -/
theorem Env.withBar_names {item gbOnly : Bool} (h : names s c g w sh f item gbOnly id) (zero : Warp → Warp) (k : BarId → Effect) :
    (envOf s c g w sh).withBar f item gbOnly zero k = k id := by
  obtain ⟨hb, hn⟩ := h
  have hn' : barOf (envOf s c g w sh).g false item gbOnly ((envOf s c g w sh).bsel f) = some id := hn
  have hk : (envOf s c g w sh).w.operandKills [Opnd.any f.src0 .n32, Opnd.any f.src1 .n32] (envOf s c g w sh).eff = (0, 1) :=
    Warp.operandKills_of_clean hb _ _
  simp only [Env.withBar, hn', hk, Option.isNone_some, Bool.and_false, Bool.false_eq_true, ne_eq, not_true_eq_false, if_false]

/-- A wait stays one, where it may not speculate or its phase has stopped (R206, R209, R213). -/
theorem Env.waitEffect_stays {e : Env} (h : e.mayspec f = false ∨ (t.bar? id).any Barrier.stopped = true) :
    e.waitEffect f (.wait t (.phase id n)) = .wait t (.phase id n) := by
  cases id with
  | sb u k => rfl
  | gb u k =>
    refine if_neg ?_
    obtain h | h := h <;> simp [h]

/-- Else it goes on speculatively, from a checkpoint. -/
theorem Env.waitEffect_speculates {e : Env} {u k : Nat} (h : e.mayspec f = true) (hs : (t.bar? (.gb u k)).any Barrier.stopped = false) :
    e.waitEffect f (.wait t (.phase (.gb u k) n)) =
      .done (t.mapWarp e.g.uid e.w.id fun w => { w with spec := some (e.w.checkpoint k n) }) :=
  if_pos (by simp [h, hs])

theorem mayspec_iff : (envOf s c g w sh).mayspec f = true ↔ f.sub = 1 ∧ g.desc.spec = true ∧ w.noSpec ≠ some w.pc := by
  simp [Env.mayspec, envOf, Env.mk', and_assoc]

theorem mayspec_eq_false (h : f.sub ≠ 1 ∨ g.desc.spec = false ∨ w.noSpec = some w.pc) : (envOf s c g w sh).mayspec f = false := by
  rw [Bool.eq_false_iff, ne_eq, mayspec_iff]
  rintro ⟨h1, h2, h3⟩
  obtain h | h | h := h
  · exact h h1
  · exact absurd (h2.symm.trans h) (by decide)
  · exact h3 h

/-- An agent of a warp that meets a stopped phase takes OVERDELIVERY (R206). -/
theorem WarpIssues.overdelivers {op : LOp} {wb : Env → Effect} {lb : LeekEnv → Effect} (h : WarpIssues s c g w (.l op f))
    (hn : w.trapMode = false) (ht : c.trapBase ≠ 0)
    (e : wb (envOf s c g w (.l op f)) =
      .fault .overdelivery (zx64 ((envOf s c g w (.l op f)).bsel f)) (envOf s c g w (.l op f)).live) :
    issue (.l op f) s wb lb = .next (overdelivers s c g w op f) :=
  h.traps (cause := .overdelivery) hn ht (by decide) e

/-- How a BARARR ends, or a BARSYNC of an agent that has arrived (R203, R206). -/
theorem arrivesAgain {op : LOp} {wb : Env → Effect} {lb : LeekEnv → Effect} {b : Barrier} (h : WarpIssues s c g w (.l op f))
    (hrun : wb (envOf s c g w (.l op f)) = (envOf s c g w (.l op f)).barEffect f
      (if b.stopped then .over else .wait t (.rearrive id b.phase))) :
    (b.stopped = false → issue (.l op f) s wb lb = .next (t.setWait (.warp g.uid w.id) (.rearrive id b.phase))) ∧
    (b.stopped = true → w.trapMode = false → c.trapBase ≠ 0 → issue (.l op f) s wb lb = .next (overdelivers s c g w op f)) := by
  refine ⟨fun hs => h.wait ?_, fun hs hn ht => h.overdelivers hn ht ?_⟩
  · rw [hrun, if_neg (ne_true_of_eq_false hs)]
    rfl
  · rw [hrun, if_pos hs]
    rfl

/-- How a BARWAIT ends, or a BARSYNC that issues again: by what the barrier says of the agent's latest arrival (R203, R206, R209). -/
theorem waitEnds {op : LOp} {wb : Env → Effect} {lb : LeekEnv → Effect} {b : Barrier} (h : WarpIssues s c g w (.l op f))
    (hb : t.bar? id = some b) (hrun : wb (envOf s c g w (.l op f)) =
      (envOf s c g w (.l op f)).waitEffect f (t.barWait id (.warp g.uid w.id))) :
    ((∀ n, b.latestOf (.warp g.uid w.id) = some n → n < b.phase) →
      issue (.l op f) s wb lb = .next ((waited t g w).completed c g w (.l op f))) ∧
    (∀ n, b.latestOf (.warp g.uid w.id) = some n → b.phase ≤ n → b.stopped = false →
      (f.sub ≠ 1 ∨ g.desc.spec = false ∨ w.noSpec = some w.pc →
        issue (.l op f) s wb lb = .next (t.setWait (.warp g.uid w.id) (.phase id n))) ∧
      (∀ u k, id = .gb u k → f.sub = 1 → g.desc.spec = true → w.noSpec ≠ some w.pc →
        issue (.l op f) s wb lb = .next ((t.mapWarp g.uid w.id fun x =>
          { x with spec := some (w.checkpoint k n) }).completed c g w (.l op f)))) ∧
    (∀ n, b.latestOf (.warp g.uid w.id) = some n → b.phase ≤ n → b.stopped = true → w.trapMode = false → c.trapBase ≠ 0 →
      issue (.l op f) s wb lb = .next (overdelivers s c g w op f)) := by
  refine ⟨fun hl => h.done ?ends, fun n hl hn hs => ⟨fun hm => h.wait ?waits, fun u k hid h1 h2 h3 => h.done ?speculates⟩,
    fun n hl hn hs hm ht => h.overdelivers hm ht ?stopped⟩
  case ends =>
    rw [hrun, State.barWait_over hb hl]
    rfl
  case waits =>
    rw [hrun, State.barWait_waits hb hl hn, if_neg (ne_true_of_eq_false hs)]
    exact Env.waitEffect_stays (.inl (mayspec_eq_false hm))
  case speculates =>
    subst hid
    rw [hrun, State.barWait_waits hb hl hn, if_neg (ne_true_of_eq_false hs)]
    exact Env.waitEffect_speculates (mayspec_iff.mpr ⟨h1, h2, h3⟩) (by simp [hb, hs])
  case stopped =>
    rw [hrun, State.barWait_waits hb hl hn, if_pos hs]
    rfl

end

/-- Settles O42: an instruction acts on the barrier that it names, and ends as the arrival or the wait there does. -/
theorem barrierArrivalsAndWaits : Obligations.BarrierArrivalsAndWaits := by
  intro f s c g w id b hb me d
  refine ⟨?arrive, ?wait, ?sync, ?syncAgain⟩
  case arrive =>
    intro h hid
    have hrun : bararrBody f (envOf s c g w (.l .bararr f)) = (envOf s c g w (.l .bararr f)).barEffect f (s.barArrive id me) :=
      Env.withBar_names hid ..
    refine ⟨fun ha => h.done ?_, fun ha => (arrivesAgain h ?_).1, fun ha => (arrivesAgain (t := s) (id := id) h ?_).2⟩
    · rw [hrun, State.barArrive_first hb ha]
      rfl
    · rw [hrun, State.barArrive_again hb ha]
    · rw [hrun, State.barArrive_again hb ha]
  case wait =>
    intro b' h hid hb'
    have hrun : barwaitBody f (envOf s c g w (.l .barwait f)) = _ := Env.withBar_names hid ..
    exact waitEnds h hb' hrun
  case sync =>
    intro b' h hid hw hn hb'
    have hfirst : (w.wait.afterArrival || w.noSpec == some w.pc) = false := by simp [hw, hn]
    have hrun : barsyncBody f (envOf s c g w (.l .barsync f)) =
        (envOf s c g w (.l .barsync f)).waitEffect f (d.barSync id me false) :=
      (Env.withBar_names hid ..).trans (congrArg (fun x => (envOf s c g w (.l .barsync f)).waitEffect f (d.barSync id me x)) hfirst)
    have hagain (ha : me ∈ b'.arrived) : barsyncBody f (envOf s c g w (.l .barsync f)) =
        (envOf s c g w (.l .barsync f)).barEffect f (if b'.stopped then .over else .wait d (.rearrive id b'.phase)) := by
      rw [hrun, State.barSync_again hb' ha, State.barArrive_again hb' ha]
      cases b'.stopped <;> rfl
    refine ⟨fun ha => (arrivesAgain h (hagain ha)).1, fun ha => (arrivesAgain h (hagain ha)).2, fun ha b2 h2 n hl => ?_⟩
    obtain ⟨ends, waits⟩ := State.barSync_first hb' ha h2
    refine ⟨fun hp => h.done ?ends, fun hp hs => ⟨fun hm => h.wait ?waits, fun u k hk h1 h3 => h.done ?speculates⟩,
      fun hp hs => h.wait ?stopped⟩
    case ends =>
      rw [hrun, ends n hl hp]
      rfl
    case waits =>
      rw [hrun, waits n hl hp, if_neg (ne_true_of_eq_false hs)]
      exact Env.waitEffect_stays (.inl (mayspec_eq_false (hm.imp_right .inl)))
    case speculates =>
      subst hk
      rw [hrun, waits n hl hp, if_neg (ne_true_of_eq_false hs)]
      exact Env.waitEffect_speculates (mayspec_iff.mpr ⟨h1, h3, hn⟩) (by simp [h2, hs])
    case stopped =>
      rw [hrun, waits n hl hp, if_pos hs]
      exact Env.waitEffect_stays (.inr (by simp [h2, hs]))
  case syncAgain =>
    intro b' h hid hw hb'
    have hagain : (w.wait.afterArrival || w.noSpec == some w.pc) = true := by simpa using hw
    have hrun : barsyncBody f (envOf s c g w (.l .barsync f)) =
        (envOf s c g w (.l .barsync f)).waitEffect f (d.barSync id me true) :=
      (Env.withBar_names hid ..).trans (congrArg (fun x => (envOf s c g w (.l .barsync f)).waitEffect f (d.barSync id me x)) hagain)
    obtain ⟨ends, waits, stopped⟩ := waitEnds (lb := barsyncLeek f) h hb' hrun
    exact ⟨ends, fun n hl hp hs => (waits n hl hp hs).1, stopped⟩

end Sys2Proof.Machine
end

section
/-!
PROOF. Timed waits, a barrier's state, the Leek core's barrier instructions and the watchdog (R203 to R208, R222, R307, R309, R373).
-/
namespace Sys2Proof.Machine

open Sys2Proof.Says

/-! ### A timed wait, for any agent (R204) -/

section
variable {s : State} {id : BarId} {a : AgentId} {b : Barrier} {limit : Nat} {wt : Wait} (hb : s.bar? id = some b)
include hb

section
variable (hx : ∀ y n d x, wt ≠ .expired y n d x) (ht : ∀ y n d, wt ≠ .timed y n d)
include hx ht

/-- Before it waits, BARWAITT is as one that is ready. -/
theorem State.barTimed_fresh : s.barTimed id a limit wt = s.barTimed id a limit .ready := by
  simp only [State.barTimed, hb]

theorem State.barTimed_over (h : ∀ n, b.latestOf a = some n → n < b.phase) : s.barTimed id a limit wt = .code 0 := by
  rw [State.barTimed_fresh hb hx ht]
  cases hl : b.latestOf a with
  | none => simp only [State.barTimed, hb, hl]
  | some n => simp only [State.barTimed, hb, hl, if_pos (h n hl)]

theorem State.barTimed_waits {n : Nat} (hl : b.latestOf a = some n) (hn : b.phase ≤ n) : s.barTimed id a limit wt =
    if b.stopped then .over
    else if limit = 0 then .code (if s.someBlocked id then 3 else 1)
    else .wait (.timed id n (s.clock + limit)) := by
  rw [State.barTimed_fresh hb hx ht]
  simp only [State.barTimed, hb, hl, if_neg (Nat.not_lt.mpr hn)]

end

/-- At its limit the wait ends by whether the phase was completed by then. -/
theorem State.barTimed_expired {y : BarId} {n d : Nat} {blocked : Bool} (hw : wt = .expired y n d blocked) :
    s.barTimed id a limit wt = .code (if n < b.phase ∧ b.doneAt ≤ d then 0 else if blocked then 3 else 1) := by
  subst hw
  simp only [State.barTimed, hb, Bool.and_eq_true, decide_eq_true_eq]
  split <;> rfl

theorem State.barTimed_again {y : BarId} {n d : Nat} (hw : wt = .timed y n d) :
    (n < b.phase → s.barTimed id a limit wt = .code 0) ∧
    (b.phase ≤ n → b.stopped = false → s.barTimed id a limit wt = .wait (.timed id n d)) := by
  subst hw
  simp only [State.barTimed, hb]
  exact ⟨fun h => if_pos h, fun h hs => (if_neg (Nat.not_lt.mpr h)).trans (if_neg (ne_true_of_eq_false hs))⟩

end

/-- An agent whose limit has come (R204). -/
theorem expire_eq_expired (s : State) (x : Wait) : s.expire s.clock x = expired s x := by
  cases x <;> simp [State.expire, expired]

/-! ### BARWAITT of a warp -/

section
variable {f : LForm} {s : State} {c : Context} {g : Group} {w : Warp} {id : BarId}

/-- What a warp's timed wait comes to. -/
def Env.timedEffect (f : LForm) (e : Env) : TimedOut → Effect
  | .code n => .done (e.put (e.w.dropLatches.putCode f.dst n))
  | .wait x => .wait e.dropped x
  | .over => .fault .overdelivery (zx64 (e.bsel f)) e.live

theorem barwaittBody_names (h : names s c g w (.l .barwaitt f) f false false id) :
    barwaittBody f (envOf s c g w (.l .barwaitt f)) = (envOf s c g w (.l .barwaitt f)).timedEffect f
      (s.barTimed id (.warp g.uid w.id) (lo32 (w.uni f.src1 none .n32)).toNat w.wait) := by
  rw [barwaittBody, Env.withBar_names h]
  rfl

variable (h : WarpIssues s c g w (.l .barwaitt f)) (hid : names s c g w (.l .barwaitt f) f false false id)
include h hid

theorem barwaitt_writes {n : Nat}
    (ht : s.barTimed id (.warp g.uid w.id) (lo32 (w.uni f.src1 none .n32)).toNat w.wait = .code n) :
    exec (.barwaitt f) s = .next ((s.putWarp g w (w.dropLatches.putCode f.dst n)).completed c g w (.l .barwaitt f)) :=
  h.done ((barwaittBody_names hid).trans (by rw [ht]; rfl))

theorem barwaitt_waits {x : Wait}
    (ht : s.barTimed id (.warp g.uid w.id) (lo32 (w.uni f.src1 none .n32)).toNat w.wait = .wait x) :
    exec (.barwaitt f) s = .next ((dropped s g w).setWait (.warp g.uid w.id) x) :=
  h.wait ((barwaittBody_names hid).trans (by rw [ht]; rfl))

theorem barwaitt_overdelivers (hn : w.trapMode = false) (hc : c.trapBase ≠ 0)
    (ht : s.barTimed id (.warp g.uid w.id) (lo32 (w.uni f.src1 none .n32)).toNat w.wait = .over) :
    exec (.barwaitt f) s = .next (overdelivers s c g w .barwaitt f) :=
  h.overdelivers hn hc ((barwaittBody_names hid).trans (by rw [ht]; rfl))

end

/-! ### Barrier instructions of a Leek thread (R222) -/

section
variable {f : LForm} {s t : State} {c : Context} {g : Group} {l : Leek} {id : BarId}

/-- No span barrier is the Leek core's, be it for a byte count or not. -/
theorem LeekEnv.withBar_names {item : Bool} (h : leekNames s c g l f item id) (gbOnly : Bool) (k : BarId → Effect) :
    (leekEnvOf s c g l).withBar f item gbOnly k = k id := by
  have hg : barOf g true item gbOnly ((leekEnvOf s c g l).bsel f) = some id :=
    (show barOf g true item gbOnly _ = barOf g true item false _ by simp [barOf]).trans h
  have hn : barOf (leekEnvOf s c g l).g true item gbOnly ((leekEnvOf s c g l).bsel f) = some id := hg
  simp only [LeekEnv.withBar, hn]

/-- A Leek thread waits, or meets a stopped phase. -/
theorem LeekIssues.waitsOrStops {op : LOp} {wb : Env → Effect} {lb : LeekEnv → Effect} {stopped : Bool} {x : Wait}
    (h : LeekIssues s c g l (.l op f)) (hrun : lb (leekEnvOf s c g l) =
      (leekEnvOf s c g l).barEffect f (if stopped then .over else .wait t x)) :
    issue (.l op f) s wb lb = .next (if stopped then s.leekFault c g l .overdelivery (zx64 ((leekEnvOf s c g l).bsel f))
      else t.setWait (.leek g.uid) x) := by
  cases stopped with
  | false => exact h.wait hrun
  | true => exact h.fault hrun

/-- What a Leek thread's BARWAIT comes to. -/
theorem leekWaitEnds {op : LOp} {wb : Env → Effect} {lb : LeekEnv → Effect} {b : Barrier} (h : LeekIssues s c g l (.l op f))
    (hb : s.bar? id = some b)
    (hrun : lb (leekEnvOf s c g l) = (leekEnvOf s c g l).barEffect f (s.barWait id (.leek g.uid))) :
    ((∀ n, b.latestOf (.leek g.uid) = some n → n < b.phase) → issue (.l op f) s wb lb = .next (s.leekCompleted g l (.l op f))) ∧
    (∀ n, b.latestOf (.leek g.uid) = some n → b.phase ≤ n → issue (.l op f) s wb lb =
      .next (if b.stopped then s.leekFault c g l .overdelivery (zx64 ((leekEnvOf s c g l).bsel f))
        else s.setWait (.leek g.uid) (.phase id n))) := by
  refine ⟨fun hl => h.done (hrun.trans ?_), fun n hl hn => h.waitsOrStops (hrun.trans ?_)⟩
  · rw [State.barWait_over hb hl]
    rfl
  · rw [State.barWait_waits hb hl hn]

/-- A code in a Leek thread's destination (R204). -/
def Leek.putCode (l : Leek) (dst : Reg) (n : Nat) : Leek :=
  match dst with
  | .k k => l.writeK k (n == 0)
  | r => l.writeG r (BitVec.ofNat 64 n)

/-- What a Leek thread's timed wait comes to. -/
def LeekEnv.timedEffect (f : LForm) (e : LeekEnv) : TimedOut → Effect
  | .code n => .done (e.put (e.l.putCode f.dst n))
  | .wait x => .wait e.s x
  | .over => .fault .overdelivery (zx64 (e.bsel f)) 1

theorem barwaittLeek_names (h : leekNames s c g l f false id) :
    barwaittLeek f (leekEnvOf s c g l) = (leekEnvOf s c g l).timedEffect f
      (s.barTimed id (.leek g.uid) (lo32 (l.src .n32 f.src1 none)).toNat l.wait) := by
  rw [barwaittLeek, LeekEnv.withBar_names h]
  rfl

variable (h : LeekIssues s c g l (.l .barwaitt f)) (hid : leekNames s c g l f false id)
include h hid

theorem barwaittLeek_writes {n : Nat}
    (ht : s.barTimed id (.leek g.uid) (lo32 (l.src .n32 f.src1 none)).toNat l.wait = .code n) :
    exec (.barwaitt f) s = .next ((s.putLeek g (l.putCode f.dst n)).leekCompleted g l (.l .barwaitt f)) :=
  h.done ((barwaittLeek_names hid).trans (by rw [ht]; rfl))

theorem barwaittLeek_waits {x : Wait}
    (ht : s.barTimed id (.leek g.uid) (lo32 (l.src .n32 f.src1 none)).toNat l.wait = .wait x) :
    exec (.barwaitt f) s = .next (s.setWait (.leek g.uid) x) :=
  h.wait ((barwaittLeek_names hid).trans (by rw [ht]; rfl))

theorem barwaittLeek_overdelivers
    (ht : s.barTimed id (.leek g.uid) (lo32 (l.src .n32 f.src1 none)).toNat l.wait = .over) :
    exec (.barwaitt f) s = .next (s.leekFault c g l .overdelivery (zx64 ((leekEnvOf s c g l).bsel f))) :=
  h.fault ((barwaittLeek_names hid).trans (by rw [ht]; rfl))

end

/-! ### The watchdog (R208, R307, R309, R373) -/

section
variable {s t : State}

/-- Two states have the same work left to the part: its steps, and what it holds. -/
def State.SameTodo (s t : State) : Prop := t.todo = s.todo ∧ t.held = s.held

namespace State.SameTodo

theorem refl (s : State) : s.SameTodo s := ⟨rfl, rfl⟩

theorem trans {u : State} (h : s.SameTodo t) (k : t.SameTodo u) : s.SameTodo u := ⟨k.1.trans h.1, k.2.trans h.2⟩

theorem store (who : Option AgentId) (place : Nat) (bs : List Byte) : s.SameTodo (s.store who place bs) := by
  unfold State.store State.conflict
  split <;> exact refl s

theorem storeAll (who : Option AgentId) (xs : List (Nat × List Byte)) : s.SameTodo (s.storeAll who xs) := by
  induction xs generalizing s with
  | nil => exact refl s
  | cons x xs ih => exact (store who x.1 x.2).trans ih

theorem foldl {α : Type} {f : State → α → State} (hf : ∀ s a, State.SameTodo s (f s a)) (xs : List α) : s.SameTodo (xs.foldl f s) := by
  induction xs generalizing s with
  | nil => exact refl s
  | cons x xs ih => exact (hf s x).trans ih

theorem mapCluster (k : Nat) (f : Cluster → Cluster) : s.SameTodo (s.mapCluster k f) := by
  unfold State.mapCluster
  split <;> exact refl s

theorem finishRunning (p : Command → Bool) (st : CmdStatus) : s.SameTodo (s.finishRunning p st) := by
  have complete (t : State) (r : Running) : t.SameTodo (t.complete r.cmd st) := by
    unfold State.complete
    split <;> exact refl t
  exact foldl complete _

theorem freeSlots (k : Nat) (gone : AccSlot → Bool) : s.SameTodo (s.freeSlots k gone) := by
  unfold State.freeSlots
  dsimp only
  split
  · exact mapCluster _ _
  · exact (mapCluster _ _).trans (finishRunning _ _)

end State.SameTodo

theorem State.SameWork.storeAll (who : Option AgentId) (xs : List (Nat × List Byte)) : s.SameWork (s.storeAll who xs) := by
  induction xs generalizing s with
  | nil => exact .refl s
  | cons x xs ih => exact (State.SameWork.store s who x.1 x.2).trans ih

/-- Stores open no join and close none. -/
theorem State.openJoins_storeAll (who : Option AgentId) (xs : List (Nat × List Byte)) (ctx : Nat) :
    (s.storeAll who xs).openJoins ctx = s.openJoins ctx := by
  obtain ⟨-, -, hp, hg, -⟩ := State.SameWork.storeAll (s := s) who xs
  simp only [State.openJoins, hp, hg]

/-- A context with nothing held has no event to attempt again. -/
theorem State.retryHeld_todo {ctx : Nat} (h : ∀ x ∈ s.held, x.item.ctx ≠ ctx) : (s.retryHeld ctx).todo = s.todo := by
  have hno : ∀ x ∈ s.held, x.of ctx x.item.addr = false := by
    intro x hx
    have := h x hx
    unfold HeldItem.of
    split <;> simp [this]
  have hnil : (s.held.filter fun x => x.of ctx x.item.addr && !(s.held.any fun y => y.of ctx x.item.addr && y.page.isSome)) = [] := by
    simp only [List.filter_eq_nil_iff]
    intro x hx
    simp [hno x hx]
  unfold State.retryHeld
  simp only [hnil, List.foldl_nil]

/-- Nor does its end leave the part more to do (R309). -/
theorem State.clearCtx_todo {ctx : Nat} (h : ∀ x ∈ s.held, x.item.ctx ≠ ctx) : (s.clearCtx ctx).todo = s.todo := by
  have hfree : s.SameTodo ((s.groups.filter fun g => g.ctx == ctx).foldl
      (fun s g => s.freeSlots g.cluster fun x => x.group == g.uid) s) := .foldl (fun _ _ => .freeSlots ..) _
  obtain ⟨ht, hh⟩ := hfree
  refine (State.retryHeld_todo ?_).trans ht
  intro x hx
  obtain ⟨y, hy, hxy⟩ := List.mem_filterMap.mp hx
  have hy' := h y (hh ▸ hy)
  simp only [bne_iff_ne, ne_eq, hy', not_false_eq_true, if_true, Option.some.injEq] at hxy
  exact hxy ▸ hy'

/-- What is left to the part when a context is terminated: what it writes first, then the kills of the open pods' counters. -/
theorem State.terminate_todo {ctx : Nat} (h : ∀ x ∈ s.held, x.item.ctx ≠ ctx) (before : List Todo) :
    (s.terminate ctx before).todo = s.todo ++ before ++
      (((s.openJoins ctx).filter fun j => j.1 != 0).map fun j => .count (.kill ctx j.1 j.2)) := by
  have hc : (s.endCtx ctx .terminated).todo = s.todo := State.clearCtx_todo h
  have hm (t : State) (p : Nat) (f : PartCount → PartCount) : (t.mapCount p f).todo = t.todo := by
    unfold State.mapCount
    split <;> rfl
  simp only [State.terminate, hm, hc]

/-- A terminated context is marked so. -/
theorem State.terminate_run (s : State) (ctx : Nat) (before : List Todo) :
    ∀ x ∈ (s.terminate ctx before).ctxs, x.id = ctx → x.run = .terminated := by
  have hm (t : State) (p : Nat) (f : PartCount → PartCount) : (t.mapCount p f).ctxs = t.ctxs := by
    unfold State.mapCount
    split <;> rfl
  intro x hx hid
  simp only [State.terminate, hm, State.endCtx, State.mapCtx, List.mem_map] at hx
  obtain ⟨y, -, rfl⟩ := hx
  split at hid
  · next h => simp [h]
  · next h => exact absurd (by simpa using hid) h

/-- BARTIMEOUT at a watchdog's limit writes what lies in scratch, and terminates the context. -/
theorem exec_bartimeout {id : BarId} {b : Barrier} {g : Group} {c : Context} (hb : s.bar? id = some b) (hg : s.barGroup id = some g)
    (hc : s.ctx? g.ctx = some c) (hl : watchLimit c g.desc ≤ b.count) (hp : s.partRuns (partOf c.id) = true) :
    let ws := s.watchRecord id b g (watchLimit c g.desc)
    let r := (s.wdsetPieces c ws ++ s.diagPieces c none g.desc.watchBuf ws).partition fun x => sramAt ≤ x.1
    exec (.bartimeout id) s =
      .next ((s.storeAll none r.1).terminate c.id (.record c.id (fourEntries ws) :: r.2.map fun x => .piece c.id x.1 x.2)) := by
  intro ws r
  change execBartimeout id s = _
  have hno : (decide (b.count < watchLimit c g.desc) || !s.partRuns (partOf c.id)) = false := by simp [hp, hl]
  simp only [execBartimeout, hb, hg, hc, hno, Bool.false_eq_true, if_false]
  rfl

end

/-! ### The statement -/

/-- Settles O43: each instruction acts on the barrier that it names, and the watchdog's event is one equation of its meaning. -/
theorem timedWaitsAndBarrierStateComplete : Obligations.TimedWaitsAndBarrierStateComplete := by
  refine ⟨fun f s c g w id b hb => ?warp, fun f s c g l id b hb => ?leek, fun s id b g c hb hg hc hl hp => ?watchdog⟩
  case warp =>
    intro me limit writes'
    refine ⟨fun h hid hx ht => ⟨fun hl => ?passed, fun n hl hn hs => ⟨fun h0 => ?now, fun h0 => ?waits⟩, fun n hl hn hs hm hc => ?stopped⟩,
      fun y n d blocked h hid hw => barwaitt_writes h hid (State.barTimed_expired hb hw),
      fun y n d h hid hw => ⟨fun hn => barwaitt_writes h hid ((State.barTimed_again hb hw).1 hn),
        fun hn hs => barwaitt_waits h hid ((State.barTimed_again hb hw).2 hn hs)⟩,
      fun h hid => h.done (Env.withBar_names hid ..), fun h hid => h.done (Env.withBar_names hid ..), ?timeout⟩
    case passed => exact barwaitt_writes h hid (State.barTimed_over hb hx ht hl)
    case now =>
      exact barwaitt_writes h hid ((State.barTimed_waits hb hx ht hl hn).trans ((if_neg (ne_true_of_eq_false hs)).trans (if_pos h0)))
    case waits =>
      exact barwaitt_waits h hid ((State.barTimed_waits hb hx ht hl hn).trans ((if_neg (ne_true_of_eq_false hs)).trans (if_neg h0)))
    case stopped => exact barwaitt_overdelivers h hid hm hc ((State.barTimed_waits hb hx ht hl hn).trans (if_pos hs))
    case timeout =>
      change execBarwaittTimeout (.warp g.uid w.id) s = _
      simp only [execBarwaittTimeout, expire_eq_expired]
  case leek =>
    intro me overdelivers writes'
    refine ⟨?arrive, ?wait, ?sync, ?syncAgain, fun h hid => h.done (LeekEnv.withBar_names hid ..),
      fun h hid => h.done (LeekEnv.withBar_names hid ..), ?timed, ?timeout⟩
    case arrive =>
      intro h hid
      have hrun : bararrLeek f (leekEnvOf s c g l) = (leekEnvOf s c g l).barEffect f (s.barArrive id me) :=
        LeekEnv.withBar_names hid ..
      refine ⟨fun ha => h.done (hrun.trans ?_), fun ha hs => ?_, fun ha hs => ?_⟩
      · rw [State.barArrive_first hb ha]
        rfl
      · exact (h.waitsOrStops (hrun.trans (by rw [State.barArrive_again hb ha]))).trans (by rw [hs]; rfl)
      · exact (h.waitsOrStops (t := s) (hrun.trans (by rw [State.barArrive_again hb ha]))).trans (by rw [hs]; rfl)
    case wait => exact fun h hid => leekWaitEnds h hb (LeekEnv.withBar_names hid ..)
    case sync =>
      intro h hid hw
      have hrun : barsyncLeek f (leekEnvOf s c g l) = (leekEnvOf s c g l).barEffect f (s.barSync id me false) :=
        (LeekEnv.withBar_names hid ..).trans (congrArg (fun x => (leekEnvOf s c g l).barEffect f (s.barSync id me x)) hw)
      refine ⟨fun ha => h.waitsOrStops (hrun.trans ?_), fun ha b2 h2 n hl => ?_⟩
      · rw [State.barSync_again hb ha, State.barArrive_again hb ha]
      · obtain ⟨ends, waits⟩ := State.barSync_first hb ha h2
        refine ⟨fun hp => h.done (hrun.trans ?_), fun hp hs => h.wait (hrun.trans ?_)⟩
        · rw [ends n hl hp]
          rfl
        · rw [waits n hl hp, if_neg (ne_true_of_eq_false hs)]
          rfl
    case syncAgain =>
      intro h hid hw
      exact leekWaitEnds h hb ((LeekEnv.withBar_names hid ..).trans
        (congrArg (fun x => (leekEnvOf s c g l).barEffect f (s.barSync id me x)) hw))
    case timed =>
      intro h hid limit
      refine ⟨fun hx ht => ⟨fun hl => ?passed, fun n hl hn => ⟨fun hs => ?stopped, fun hs h0 => ?now, fun hs h0 => ?waits⟩⟩,
        fun y n d blocked hw => barwaittLeek_writes h hid (State.barTimed_expired hb hw),
        fun y n d hw => ⟨fun hn => barwaittLeek_writes h hid ((State.barTimed_again hb hw).1 hn),
          fun hn hs => barwaittLeek_waits h hid ((State.barTimed_again hb hw).2 hn hs)⟩⟩
      case passed => exact barwaittLeek_writes h hid (State.barTimed_over hb hx ht hl)
      case stopped => exact barwaittLeek_overdelivers h hid ((State.barTimed_waits hb hx ht hl hn).trans (if_pos hs))
      case now =>
        exact barwaittLeek_writes h hid
          ((State.barTimed_waits hb hx ht hl hn).trans ((if_neg (ne_true_of_eq_false hs)).trans (if_pos h0)))
      case waits =>
        exact barwaittLeek_waits h hid
          ((State.barTimed_waits hb hx ht hl hn).trans ((if_neg (ne_true_of_eq_false hs)).trans (if_neg h0)))
    case timeout =>
      change execBarwaittTimeout (.leek g.uid) s = _
      simp only [execBarwaittTimeout, expire_eq_expired]
  case watchdog =>
    intro ws r then'
    refine ⟨_, exec_bartimeout hb hg hc hl hp, rfl, fun hh => ?_, State.terminate_none _ _ _, State.terminate_run _ _ _⟩
    obtain ⟨htodo, hheld⟩ := State.SameTodo.storeAll (s := s) none r.1
    rw [State.terminate_todo (by rwa [hheld]), htodo, State.openJoins_storeAll]

end Sys2Proof.Machine
end

section

/-! PROOF. Speculation (O44) -/

namespace Sys2Proof.Machine
open Sys2Proof.Says

/-! ### A warp with more shadows than there are

The clause of an integer instruction adds up the shadows held and those that the write takes, and lets the instruction stall where
they are over 32, also where the write takes none. The meaning asks for room only where a write takes a shadow. The writes of a
speculating warp stop at 32 shadows, but the statement is about every state. -/

/-- A speculation with 33 shadows, v0's among them. -/
def overfullSpec : Spec :=
  { (Warp.launch 0 0 0).checkpoint 0 0 with shadows := List.replicate 33 (0, (Warp.launch 0 0 0).vreg 0) }

/-- A warp that speculates with them. -/
def overfullWarp : Warp := { Warp.launch 0 0 0 with spec := some overfullSpec }

/-- ADD v0, 0, 0. -/
def overfullForm : LForm :=
  { sub := 0, pneg := false, pred := 0, src2 := .zero, src1 := .zero, src0 := .zero, dst := .v 0, fmt := .s32, nw := false, a := false
    imm := none }

def overfullGroup : Group := Group.blank 0 KDesc.plain [overfullWarp]

/-- The machine in which that warp issues. -/
def overfullState : State :=
  { State.reset with cur := some (.warp 0 0), ctxs := [Context.blank 0 0], groups := [overfullGroup] }

theorem overfull_speculates :
    Speculates overfullState (Context.blank 0 0) overfullGroup overfullWarp overfullSpec (.l .add overfullForm) where
  issuer := rfl
  spec := rfl
  legal := rfl
  mode := rfl
  sig := rfl
  goes := rfl

theorem overfull_readable : readable overfullGroup overfullWarp overfullForm.a (opAdd.os overfullForm) [] [overfullForm.dst] := by
  decide

theorem overfull_hasNoShadows : ¬ hasShadows overfullSpec 0 false := by
  decide

/-- The pc of every warp of a state. -/
def State.allPcs (s : State) : List (List W64) := s.groups.map fun g => g.warps.map Warp.pc

/-- The pcs of the state that a step arrives at. -/
def pcsAfter : Host.Outcome State Fault Refusal → List (List W64)
  | .next t => t.allPcs
  | _ => []

/-- The ADD completes. -/
theorem overfull_add_pcs : pcsAfter (exec (.add overfullForm) overfullState) = [[8]] := by
  decide +kernel

theorem overfull_stalled_pcs : (stalled overfullState overfullGroup overfullWarp).allPcs = [[0]] := by
  rfl

/-- Refutes O44: an ADD to a register that is already saved completes whatever the number of shadows, where the clause of the integer
instructions lets it stall for 33 of them. -/
theorem not_speculationBuffersStallsAndRollsBack : ¬ Obligations.SpeculationBuffersStallsAndRollsBack := by
  intro h
  obtain ⟨-, -, -, -, -, -, hint, -⟩ :=
    h overfullState (Context.blank 0 0) overfullGroup overfullWarp overfullSpec rfl rfl
  have hadd : (LOp.add, opAdd) ∈ intOps := by simp [intOps]
  obtain ⟨-, hreads⟩ := hint _ hadd overfullForm overfull_speculates
  have hstalls := (hreads overfull_readable).2 0 rfl rfl overfull_hasNoShadows
  have hpcs := congrArg pcsAfter hstalls
  exact absurd (overfull_add_pcs.symm.trans (hpcs.trans overfull_stalled_pcs)) (by decide)

end Sys2Proof.Machine
end

section
/-!
PROOF. Emission and join counters (R217, R218, R408): what an EMIT whose pods are allowed does with and without room, and what a JOINDEC
does to the counter that it may access.
-/
namespace Sys2Proof.Machine

open Sys2Proof.Says

section
variable {f : LForm} {s : State} {c : Context} {g : Group} {w : Warp} {sh : Shape} (hb : w.bad = [])
include hb

/-! ### EMIT (R217) -/

/-- A pod whose counter has events that wait for a page (R408). -/
def podHeld (s : State) (c : Context) (p : Fin 64 × List Byte) : Bool :=
  (Pod.ofBytes p.2).join != 0 && s.counterHeld c.id (Pod.ofBytes p.2).join

section
variable (ha : (podOs f).all (fun o => !w.isApx g.desc.apxFrom o.reg) = true)
include ha

omit hb in
theorem emitBody_empty (he : w.eff sh = 0) : emitBody f (envOf s c g w sh) = .done s := by
  have hx : (podOs f).any (fun o => w.isApx g.desc.apxFrom o.reg) = false := by simpa using ha
  exact (if_neg (ne_true_of_eq_false hx)).trans (if_pos he)

/-- An EMIT of allowed pods waits for the events of their counters, then for room, and then emits them. -/
theorem emitBody_allowed (he : w.eff sh ≠ 0) :
    let e := envOf s c g w sh
    let qsel := lo32 (w.uni f.src1 f.imm .n32)
    let pods := e.pods f e.eff
    let needs := emitNeeds qsel pods
    let s1 := s.stopBroken c (needs.map Prod.fst)
    pods ≠ [] → e.emitFault f qsel pods e.eff = none →
    (∀ p, pods.find? (podHeld s c) = some p → emitBody f e = .wait s (.counter (Pod.ofBytes p.2).join)) ∧
    (pods.find? (podHeld s c) = none → emitBody f e =
      if needs.all fun x => x.2 ≤ s1.roomIn ((s1.ctx? c.id).getD c) x.1 then
        .done ((pods.foldl (fun t p => t.emitPod c.id qsel p.2) s1).mapWarp g.uid w.id fun x =>
          (x.putFlagK f.dst 0 false).putFlagK f.dst e.eff true)
      else if f.sub = 0 then .wait s1 (.queues needs)
      else .done (s1.mapWarp g.uid w.id fun x => x.putFlagK f.dst e.eff false)) := by
  intro e qsel pods needs s1 hp hf
  have hx : (podOs f).any (fun o => w.isApx g.desc.apxFrom o.reg) = false := by simpa using ha
  have hx' : (podOs f).any (fun o => e.w.isApx e.g.desc.apxFrom o.reg) = false := hx
  have hk (os : List Opnd) : e.w.operandKills os e.eff = (0, 1) := Warp.operandKills_of_clean hb os _
  have hf' : e.emitFault f (lo32 (e.w.uni f.src1 f.imm .n32)) (e.pods f e.eff) e.eff = none := hf
  have hp' : (e.pods f e.eff).isEmpty = false := by simpa using hp
  have hgoes : emitBody f e = _ := (if_neg (ne_true_of_eq_false hx')).trans (if_neg he)
  simp only [hk, Mask.and_not_zero, if_true, hp', hf', State.killLanes_zero, Bool.false_eq_true, if_false] at hgoes
  refine ⟨fun p hh => ?_, fun hh => ?_⟩
  · have hh' : (e.pods f e.eff).find? (fun p => (Pod.ofBytes p.2).join != 0 && e.s.counterHeld e.c.id (Pod.ofBytes p.2).join) =
      some p := hh
    rw [hgoes, hh']
    rfl
  · have hh' : (e.pods f e.eff).find? (fun p => (Pod.ofBytes p.2).join != 0 && e.s.counterHeld e.c.id (Pod.ofBytes p.2).join) =
      none := hh
    rw [hgoes, hh']
    rfl

end

/-! ### JOINDEC (R218) -/

/-- The machine after a JOINDEC of `n` at a counter with no error, by way of the translations that it filled. -/
def State.joinDecs (s : State) (c : Context) (g : Group) (w : Warp) (f : LForm) (place : Nat) (fill : List TlbEntry) : State :=
  let r := (s.fillTlb fill).joinDec (.warp g.uid w.id) c.id (w.uni f.src0 none .n64) place (lo32 (w.uni f.src1 f.imm .n32))
  r.2.mapWarp g.uid w.id fun y => y.putWord f.dst r.1

theorem joindecBody_ok {place : Nat} {apx : Bool} {fill : List TlbEntry} (he : w.eff sh ≠ 0)
    (hr : s.resolveCounter { ctx := c, grp := g } (w.uni f.src0 none .n64) = .ok place apx fill) :
    (s.counterHeld c.id (w.uni f.src0 none .n64) = true →
      joindecBody f (envOf s c g w sh) = .wait s (.counter (w.uni f.src0 none .n64))) ∧
    (s.counterHeld c.id (w.uni f.src0 none .n64) = false → s.poisoned place 8 = false →
      joindecBody f (envOf s c g w sh) = .done (s.joinDecs c g w f place fill)) := by
  set e := envOf s c g w sh with hE
  have hk : e.w.operandKills [Opnd.any f.src0 .n64, Opnd.any f.src1 .n32] e.eff = (0, 1) := Warp.operandKills_of_clean hb _ _
  have hr' : e.s.resolveCounter e.viewer (e.w.uni f.src0 none .n64) = .ok place apx fill := hr
  refine ⟨fun hh => ?_, fun hh hp => ?_⟩
  · have hh' : e.s.counterHeld e.c.id (e.w.uni f.src0 none .n64) = true := hh
    simp only [joindecBody, if_neg (show ¬e.eff = 0 from he), hk, hr', hh', ne_eq, not_true_eq_false, if_false, if_true]
    rfl
  · have hh' : e.s.counterHeld e.c.id (e.w.uni f.src0 none .n64) = false := hh
    have hn : s.errorAt place 8 = none := Option.isSome_eq_false_iff.mp hp |> Option.isNone_iff_eq_none.mp
    have hn' : (e.s.fillTlb fill).errorAt place 8 = none := hn
    simp only [joindecBody, if_neg (show ¬e.eff = 0 from he), hk, hr', hh', hn', ne_eq, not_true_eq_false, if_false,
      Bool.false_eq_true]
    rfl

end

section
variable {f : LForm} {s : State} {c : Context} {g : Group} {w : Warp} {place : Nat} {fill : List TlbEntry}

/-- A JOINDEC of more than its counter holds subtracts nothing. -/
theorem State.joinDecs_more (h : lo32 (s.mem.read64 place) < lo32 (w.uni f.src1 f.imm .n32)) :
    s.joinDecs c g w f place fill = (s.fillTlb fill).mapWarp g.uid w.id fun y => y.putWord f.dst (lo32 (s.mem.read64 place)) := by
  have hj (who : AgentId) (a : W64) : (s.fillTlb fill).joinDec who c.id a place (lo32 (w.uni f.src1 f.imm .n32)) =
    (lo32 (s.mem.read64 place), s.fillTlb fill) := if_pos h
  simp only [State.joinDecs, hj]

/-- Another subtracts, keeps the counter's other half, and releases the continuation where the count becomes 0. -/
theorem State.joinDecs_within (h : lo32 (w.uni f.src1 f.imm .n32) ≤ lo32 (s.mem.read64 place)) :
    let x := s.mem.read64 place
    let a := w.uni f.src0 none .n64
    let n := lo32 (w.uni f.src1 f.imm .n32)
    let t := (s.fillTlb fill).store (some (.warp g.uid w.id)) place (toBytesLE 8 (pair64 (lo32 x - n) (hi32 x)).toNat)
    s.joinDecs c g w f place fill = (if lo32 x = n && n ≠ 0 && !x.getLsbD 63 then t.releaseRead c.id a else t).mapWarp
      g.uid w.id fun y => y.putWord f.dst (lo32 x) := by
  intro x a n t
  have hj : (s.fillTlb fill).joinDec (.warp g.uid w.id) c.id a place n =
    (lo32 x, if lo32 x = n && n ≠ 0 && !x.getLsbD 63 then t.releaseRead c.id a else t) := if_neg (BitVec.not_lt.mpr h)
  rw [State.joinDecs, hj]

end

/-- Settles O45: each outcome of an EMIT and of a JOINDEC is one equation of its meaning. -/
theorem emissionAndJoinsComplete : Obligations.EmissionAndJoinsComplete := by
  intro f s c g w hb
  refine ⟨?emit, fun h he => h.done (if_pos he), ?joindec⟩
  case emit =>
    intro h ha e qsel pods needs s1 room
    refine ⟨fun he => h.done (emitBody_empty ha he), ?_⟩
    intro he hp hf held
    obtain ⟨waits, goes⟩ := emitBody_allowed (s := s) (c := c) hb ha he hp hf
    refine ⟨fun p hh => h.wait (waits p hh), fun hh => ⟨fun hr => ?_, fun hr hs => ?_, fun hr hs => ?_⟩⟩
    · exact h.done ((goes hh).trans (if_pos hr))
    · exact h.done (((goes hh).trans (if_neg (ne_true_of_eq_false hr))).trans (if_neg hs))
    · exact h.wait (((goes hh).trans (if_neg (ne_true_of_eq_false hr))).trans (if_pos hs))
  case joindec =>
    intro place apx fill h he a n hr
    obtain ⟨waits, goes⟩ := joindecBody_ok hb he hr
    refine ⟨fun hh => h.wait (waits hh), ?_⟩
    intro hh hp x s1 puts
    have hrun : exec (.joindec f) s = _ := h.done (goes hh hp)
    exact ⟨fun hlt => hrun.trans (by rw [State.joinDecs_more hlt]), fun hle => hrun.trans (by rw [State.joinDecs_within hle])⟩

end Sys2Proof.Machine
end

section
/-!
PROOF. Event records, the clock and the fill of queues (R219, R220): what each meaning comes to for a warp without errors and for a
Leek thread.
-/
namespace Sys2Proof.Machine

open Sys2Proof.Says

section
variable {f : LForm} {s : State} {c : Context} {g : Group} {w : Warp} {l : Leek} {sh : Shape}

/-! ### EVPOP (R219) -/

/-- The machine after the oldest record of a group, or zero, is in four s registers of a warp. -/
def State.popsInto (s : State) (g : Group) (w : Warp) (n : Fin 64) : State :=
  let r := s.popRecord g
  r.2.mapWarp g.uid w.id fun x => (x.writeS n.val true (BitVec.ofNat 64 (r.1.toNat % 2 ^ 64))).writeS (n.val + 2) true
    (BitVec.ofNat 64 (r.1.toNat / 2 ^ 64))

theorem evpopBody_pops {n : Fin 64} (he : w.eff sh ≠ 0) (hd : f.dst = .s n) :
    evpopBody f (envOf s c g w sh) = .done (s.popsInto g w n) := by
  have he' : (envOf s c g w sh).eff ≠ 0 := he
  simp only [evpopBody, if_neg he', hd]
  rfl

/-! ### EVWAIT (R219) -/

/-- A wait for a count of records that is allowed is over once so many wait. -/
theorem evwaitEffect_allowed {m : Nat} (h1 : 1 ≤ m) (h64 : m ≤ 64) (lanes : Mask) :
    evwaitEffect s g m lanes = if m ≤ (s.recordsOf g).length then .done s else .wait s (.records m) :=
  if_neg (by simp; omega)

/-! ### QSTAT (R220) -/

/-- QSTAT of a queue whose descriptor can be read and holds no error writes its fill. -/
theorem qstatBody_clean {x : W64} {place : Nat} {apx : Bool} (hs : w.spec = none) (hb : w.bad = []) (he : w.eff sh ≠ 0) :
    let qsel := lo32 (w.uni f.src0 f.imm .n32)
    qselValid qsel c.nEdge = true →
    (envOf s c g w sh).queueFill (c.queueAddr (qselQueue qsel g.prio)) = some (x, place, apx) →
    s.errorFor g.cluster place 64 apx = none →
    qstatBody f (envOf s c g w sh) = .done (s.putWarp g w (w.putPair f.dst x)) := by
  intro qsel hv hq hn
  set e := envOf s c g w sh with hE
  have hk : e.w.operandKills [Opnd.any f.src0 .n32] e.eff = (0, 1) := Warp.operandKills_of_clean hb _ _
  have hv' : qselValid (lo32 (e.w.uni f.src0 f.imm .n32)) e.c.nEdge = true := hv
  have hq' : e.queueFill (e.c.queueAddr (qselQueue (lo32 (e.w.uni f.src0 f.imm .n32)) e.g.prio)) = some (x, place, apx) := hq
  have ht : e.w.track (sectorsOf place 64) = some w := (show w.track _ = _ by rw [Warp.track, hs])
  have hn' : e.s.loadError e.g.cluster e.w place 64 apx = none := (State.loadError_calm hs ..).trans hn
  simp only [qstatBody, if_neg (show ¬e.eff = 0 from he), hk, hv', hq', ht, hn', ne_eq, not_true_eq_false, if_false, Bool.not_true,
    Bool.false_eq_true]
  rfl

end

/-- Settles O46: each instruction is done, but for an EVWAIT that waits for its count of records. -/
theorem eventAndClockInstructionsComplete : Obligations.EventAndClockInstructionsComplete := by
  intro f s c g w l r lo hi
  refine ⟨?pop, ?leekPop, ?wait, ?leekWait, fun h => h.done rfl, fun h => h.done rfl, ?qstat⟩
  case pop => exact fun n h he hd => h.done (evpopBody_pops he hd)
  case leekPop =>
    intro h ht
    have hrun : evpopLeek f (leekEnvOf s c g l) = _ := if_neg (by simpa [leekEnvOf] using ht)
    exact h.done hrun
  case wait =>
    intro h he hb m h1 h64
    have hrun : evwaitBody f (envOf s c g w (.l .evwait f)) = _ := (Env.once_clean he hb ..).trans (evwaitEffect_allowed h1 h64 _)
    exact ⟨fun hm => h.done (hrun.trans (if_pos hm)), fun hm => h.wait (hrun.trans (if_neg (Nat.not_le.mpr hm)))⟩
  case leekWait =>
    intro h ht m h1 h64
    have hrun : evwaitLeek f (leekEnvOf s c g l) = _ := (if_pos ht).trans (evwaitEffect_allowed h1 h64 _)
    exact ⟨fun hm => h.done (hrun.trans (if_pos hm)), fun hm => h.wait (hrun.trans (if_neg (Nat.not_le.mpr hm)))⟩
  case qstat => exact fun x place apx h he hb hv hq hn => h.done (qstatBody_clean h.calm hb he hv hq hn)

end Sys2Proof.Machine
end

section
/-!
PROOF. The matrix instructions (R225, R226, R229 to R231, R233 to R240): the operands and the queue as they issue, what each meaning
comes to where its checks pass, the slot that a name takes, and from them the statement.
-/
namespace Sys2Proof.Machine

open Sys2Proof.Says

section
variable {f : LForm} {s t : State} {c : Context} {g : Group} {l : Leek} {x : Nat}

@[simp] theorem State.mapCluster_nextUid {k : Nat} {h : Cluster → Cluster} : (s.mapCluster k h).nextUid = s.nextUid := by
  unfold State.mapCluster; split <;> rfl

@[simp] theorem State.mapCluster_groups {k : Nat} {h : Cluster → Cluster} : (s.mapCluster k h).groups = s.groups := by
  unfold State.mapCluster; split <;> rfl

/-! ### Operands, slots and the queue -/

@[simp] theorem leekEnvOf_s : (leekEnvOf s c g l).s = s := rfl
@[simp] theorem leekEnvOf_g : (leekEnvOf s c g l).g = g := rfl
@[simp] theorem leekEnvOf_l : (leekEnvOf s c g l).l = l := rfl

/-- The word operand of a matrix instruction (R228). -/
theorem LeekEnv.offset_eq (r : Reg) (imm : Option W32) (dflt : Nat) :
    (leekEnvOf s c g l).offset r imm dflt = offsetOf l r imm dflt := by
  by_cases hr : r = .zero
  · subst hr
    rfl
  · simp [LeekEnv.offset, offsetOf, hr, leekEnvOf]

/-- A range of scratch without a fault is no obstacle. -/
theorem LeekEnv.withRange_ok {acc : Access} {offs : List Nat} {k : Effect}
    (h : s.scratchFault { ctx := c, grp := g } acc offs = none) : (leekEnvOf s c g l).withRange acc offs k = k := by
  have h' : (leekEnvOf s c g l).s.scratchFault (leekEnvOf s c g l).viewer acc offs = none := h
  rw [LeekEnv.withRange, h']

/-- A name that is bound is its slot (R26). -/
theorem LeekEnv.withSlot_bound {n : Fin 16} {k : Nat → State → Effect} (h : g.names[n] = some x) :
    (leekEnvOf s c g l).withSlot n k = k x s := by
  simp only [LeekEnv.withSlot, leekEnvOf_s, leekEnvOf_g, Group.slotOf, h]

/-- With a free place in its thread's queue an operation is queued (R225). -/
theorem LeekEnv.enqueue_free {kind : MatKind} {name : Option (Fin 16)} {k : Nat → State → Effect} (hp : l.pending < 8)
    (hu : t.nextUid = s.nextUid) :
    (leekEnvOf s c g l).enqueue t kind name k = k s.nextUid (queues t s c g l kind name) := by
  rw [queues, ← hu]
  exact if_neg (Nat.not_le.mpr hp)

/-- So it is, and its thread goes on at once (R226). -/
theorem LeekEnv.queued_free {kind : MatKind} {name : Option (Fin 16)} (hp : l.pending < 8) (hu : t.nextUid = s.nextUid) :
    (leekEnvOf s c g l).queued t kind name = .done (queues t s c g l kind name) :=
  LeekEnv.enqueue_free hp hu

end

/-! ### Instructions that do nothing, and tags -/

section
variable {f : LForm} {e : LeekEnv}

/-- Where a matrix instruction finds a tag or type that is not its format's (R231, R236). -/
def LeekEnv.tagFails (e : LeekEnv) (op : LOp) (f : LForm) : Prop :=
  (op = .mma ∨ op = .mmas) ∧ e.matTag f = true ∨ op = .acdrn ∧ e.typeOf (accOf f.src0) = .s32 ∧ f.fmt ≠ .f32

/-- The meanings of the matrix instructions. -/
def matMeaning : LOp → LForm → LeekEnv → Effect
  | .tld => tldLeek
  | .agath => agathLeek
  | .mma => mmaLeek
  | .mmas => mmasLeek
  | .acz => aczLeek
  | .acdrn => acdrnLeek
  | .acrel => acrelLeek
  | _ => fun _ => noLeek

theorem exec_matOps {op : LOp} (h : op ∈ matOps) (f : LForm) (s : State) :
    exec (op.toInstr f) s = issue (.l op f) s noWarp (matMeaning op f) := by
  simp only [matOps, List.mem_cons, List.not_mem_nil, or_false] at h
  rcases h with rfl | rfl | rfl | rfl | rfl | rfl | rfl <;> rfl

/-- MMA, MMAS and ACDRN meet a wrong tag whatever their predicate is (R231, R236). -/
theorem matMeaning_tag {op : LOp} (h : e.tagFails op f) : matMeaning op f e = .fault .tag 0 1 := by
  rcases h with ⟨rfl | rfl, h⟩ | ⟨rfl, ht, hf⟩
  · exact if_pos h
  · exact if_pos h
  · exact if_pos (by simp [ht, hf])

/-- A matrix instruction whose predicate does not hold does nothing else. -/
theorem matMeaning_skips {op : LOp} (h : op ∈ matOps) (hn : ¬e.tagFails op f) (ht : e.l.takes f.pneg f.pred = false) :
    matMeaning op f e = .done e.s := by
  have hp : (!e.l.takes f.pneg f.pred) = true := by simp [ht]
  simp only [matOps, List.mem_cons, List.not_mem_nil, or_false] at h
  rcases h with rfl | rfl | rfl | rfl | rfl | rfl | rfl
  · exact if_pos hp
  · exact if_pos (by simp [ht])
  · exact (if_neg fun hm => hn (.inl ⟨.inl rfl, hm⟩)).trans (if_pos hp)
  · exact (if_neg fun hm => hn (.inl ⟨.inr rfl, hm⟩)).trans (if_pos hp)
  · exact if_pos hp
  · exact (if_neg fun hm => hn (.inr ⟨rfl, by simpa using hm⟩)).trans (if_pos hp)
  · exact if_pos hp

end

/-! ### Each instruction whose checks pass -/

/-- TLD's tile takes its tag at issue (R229). -/
def Leek.tagTile (f : LForm) (l : Leek) : Leek :=
  { l with tiles := l.tiles.set (tileOf f.dst) { (l.tiles[tileOf f.dst]) with tag := f.fmt } }

section
variable {f : LForm} {s : State} {c : Context} {g : Group} {l : Leek} {x : Nat}
variable (ht : l.takes f.pneg f.pred = true) (hp : l.pending < 8)

theorem agathLeek_gathered (hw : l.wait = .gathered) : agathLeek f (leekEnvOf s c g l) = .done s :=
  if_pos (by simp [leekEnvOf, hw])

theorem acrelLeek_unbound (hn : g.names[accOf f.dst] = none) : acrelLeek f (leekEnvOf s c g l) = .done s := by
  simp only [acrelLeek, leekEnvOf_g, Group.slotOf, hn]
  exact ite_self _

include ht hp

theorem tldLeek_queues (ha : offsetOf l f.src0 f.imm 0 % 64 = 0) (hpitch : offsetOf l f.src1 f.imm 64 % 64 = 0)
    (h0 : offsetOf l f.src1 f.imm 64 ≠ 0) (hr : s.scratchFault { ctx := c, grp := g } .read
      (pieces (offsetOf l f.src0 f.imm 0) (offsetOf l f.src1 f.imm 64) 128 64) = none) :
    tldLeek f (leekEnvOf s c g l) = .done (queues (s.mapLeek g.uid (Leek.tagTile f)) s c g l
      (.tld (tileOf f.dst) (offsetOf l f.src0 f.imm 0) (offsetOf l f.src1 f.imm 64)) none) := by
  simp only [tldLeek, LeekEnv.offset_eq, LeekEnv.withRange_ok hr, leekEnvOf_l, ht, ha, hpitch, h0]
  exact LeekEnv.queued_free hp rfl

theorem agathLeek_queues (hw : l.wait = .ready) (hi : offsetOf l f.src0 f.imm 0 % 64 = 0)
    (hb : offsetOf l f.src1 f.imm 0 % 64 = 0) (hpitch : offsetOf l f.src2 f.imm 0 % 64 = 0)
    (hr : s.scratchFault { ctx := c, grp := g } .read (pieces (offsetOf l f.src0 f.imm 0) 0 1 256) = none) :
    agathLeek f (leekEnvOf s c g l) = .wait (queues s s c g l (.agath (laOf f) (offsetOf l f.src0 f.imm 0)
      (offsetOf l f.src1 f.imm 0) (offsetOf l f.src2 f.imm 0)) none) (.gather s.nextUid) := by
  have hw' : (l.wait == .gathered) = false := by simp [hw]
  simp only [agathLeek, LeekEnv.offset_eq, LeekEnv.withRange_ok hr, leekEnvOf_l, ht, hw', hi, hb, hpitch]
  exact LeekEnv.enqueue_free (k := fun u s => .wait s (.gather u)) hp rfl

theorem mmaLeek_queues (hm : (leekEnvOf s c g l).matTag f = false) (hn : g.names[accOf f.dst] = some x) :
    mmaLeek f (leekEnvOf s c g l) = .done (queues (s.mapSlot g.cluster x fun a => { a with type := slotTypeOf f.fmt }) s c g l
      (.mma f.fmt (latchFmt f) (laOf f) (tileOf f.src0) x) (some (accOf f.dst))) := by
  simp only [mmaLeek, hm, leekEnvOf_l, ht, LeekEnv.withSlot_bound hn]
  exact LeekEnv.queued_free hp State.mapCluster_nextUid

theorem mmasLeek_queues (hm : (leekEnvOf s c g l).matTag f = false) (hn : g.names[accOf f.dst] = some x)
    (ha : offsetOf l f.src1 f.imm 0 % 64 = 0)
    (hr : s.scratchFault { ctx := c, grp := g } .read (pieces (offsetOf l f.src1 f.imm 0) 0 1 512) = none) :
    mmasLeek f (leekEnvOf s c g l) = .done (queues (s.mapSlot g.cluster x fun a => { a with type := slotTypeOf f.fmt }) s c g l
      (.mmas f.fmt (latchFmt f) (laOf f) (tileOf f.src0) x (offsetOf l f.src1 f.imm 0)
        (BitVec.ofNat 32 (offsetOf l f.src2 f.imm 0))) (some (accOf f.dst))) := by
  simp only [mmasLeek, hm, leekEnvOf_l, ht, LeekEnv.offset_eq, ha, LeekEnv.withRange_ok hr, LeekEnv.withSlot_bound hn]
  exact LeekEnv.queued_free hp State.mapCluster_nextUid

theorem aczLeek_queues (hn : g.names[accOf f.dst] = some x) :
    aczLeek f (leekEnvOf s c g l) = .done (queues (s.mapSlot g.cluster x fun a => { a with type := .none' }) s c g l (.acz x)
      (some (accOf f.dst))) := by
  simp only [aczLeek, leekEnvOf_l, ht, LeekEnv.withSlot_bound hn]
  exact LeekEnv.queued_free hp State.mapCluster_nextUid

theorem acdrnLeek_queues (hn : g.names[accOf f.src0] = some x)
    (hm : (leekEnvOf s c g l).typeOf (accOf f.src0) = .s32 → f.fmt = .f32) (hrow : acdrnRow f.fmt ≤ offsetOf l f.src2 f.imm 0)
    (ha : offsetOf l f.src1 f.imm 0 % 32 = 0) (hpitch : offsetOf l f.src2 f.imm 0 % 32 = 0)
    (hr : s.scratchFault { ctx := c, grp := g } .write
      (pieces (offsetOf l f.src1 f.imm 0) (offsetOf l f.src2 f.imm 0) 128 (acdrnRow f.fmt)) = none) :
    acdrnLeek f (leekEnvOf s c g l) = .done (queues s s c g l (.acdrn f.fmt ((leekEnvOf s c g l).typeOf (accOf f.src0)) x
      (offsetOf l f.src1 f.imm 0) (offsetOf l f.src2 f.imm 0)) (some (accOf f.src0))) := by
  have hm' : ((leekEnvOf s c g l).typeOf (accOf f.src0) == .s32 && f.fmt != .f32) = false := by simpa using hm
  simp only [acdrnLeek, LeekEnv.offset_eq, hm', leekEnvOf_l, leekEnvOf_g, Group.slotOf, ht, hn, Nat.not_lt.mpr hrow, ha, hpitch,
    LeekEnv.withRange_ok hr]
  exact LeekEnv.queued_free hp rfl

theorem acrelLeek_queues (hn : g.names[accOf f.dst] = some x) :
    acrelLeek f (leekEnvOf s c g l) = .done (queues ((s.mapSlot g.cluster x fun a => { a with release := true }).mapGroup g.uid
      fun k => { k with names := k.names.set (accOf f.dst) none }) s c g l (.acrel x) (some (accOf f.dst))) := by
  simp only [acrelLeek, leekEnvOf_l, leekEnvOf_g, Group.slotOf, ht, hn]
  exact LeekEnv.queued_free hp State.mapCluster_nextUid

end

/-! ### A name that takes a slot (R26, R234) -/

section
variable {f : LForm} {s : State} {c : Context} {g : Group} {l : Leek} {x : Nat}

/-- The machine once a name of a group has taken a free slot of its cluster. -/
def State.bindsSlot (s : State) (g : Group) (n : Fin 16) (x : Nat) : State :=
  (((s.mapCluster g.cluster fun c => { c with
      slots := { n := x, group := g.uid, data := [], type := .none', release := false } :: c.slots
      slotWait := c.slotWait.filter fun u => u != g.uid }).mapGroup g.uid fun g => { g with names := g.names.set n (some x) }).mapLeek
    g.uid fun l => { l with bad := l.bad.filter fun b => match b.place with
      | .slot m => m.val != x
      | _ => true })

theorem LeekEnv.withSlot_takes {n : Fin 16} {k : Nat → State → Effect} {rest : List Nat} (hn : g.names[n] = none)
    (hf : s.accFull g = false) (hl : s.freeSlotList g.cluster = x :: rest) (ht : s.slotTurn g = true) :
    (leekEnvOf s c g l).withSlot n k = k x (s.bindsSlot g n x) := by
  simp only [LeekEnv.withSlot, leekEnvOf_s, leekEnvOf_g, Group.slotOf, hn, hf, hl, ht]
  rfl

theorem aczLeek_binds {rest : List Nat} (ht : l.takes f.pneg f.pred = true) (hn : g.names[accOf f.dst] = none)
    (hf : s.accFull g = false) (hl : s.freeSlotList g.cluster = x :: rest) (hs : s.slotTurn g = true) (hp : l.pending < 8) :
    aczLeek f (leekEnvOf s c g l) = .done (queues ((s.bindsSlot g (accOf f.dst) x).mapSlot g.cluster x fun a =>
      { a with type := .none' }) s c g l (.acz x) (some (accOf f.dst))) := by
  simp only [aczLeek, leekEnvOf_l, ht, LeekEnv.withSlot_takes hn hf hl hs]
  exact LeekEnv.queued_free hp (State.mapCluster_nextUid.trans State.mapCluster_nextUid)

/-- In every group with a number, a name is bound to a slot. -/
def State.Binds (s : State) (u : Nat) (n : Fin 16) (x : Nat) : Prop := ∀ k ∈ s.groups, k.uid = u → k.names[n] = some x

theorem State.Binds.mapLeek {u k : Nat} {n : Fin 16} (hb : s.Binds u n x) (h : Leek → Leek) : (s.mapLeek k h).Binds u n x := by
  simp only [State.Binds, State.mapLeek, State.mapGroup, List.mem_map]
  rintro _ ⟨y, hy, rfl⟩ hu
  by_cases hk : (y.uid == k) = true
  · rw [if_pos hk] at hu ⊢
    exact hb y hy hu
  · rw [if_neg hk] at hu ⊢
    exact hb y hy hu

theorem State.Binds.mapSlot {u k m : Nat} {n : Fin 16} (hb : s.Binds u n x) (h : AccSlot → AccSlot) :
    (s.mapSlot k m h).Binds u n x := by
  have hg : (s.mapSlot k m h).groups = s.groups := State.mapCluster_groups
  rwa [State.Binds, hg]

theorem State.bindsSlot_binds (n : Fin 16) : (s.bindsSlot g n x).Binds g.uid n x := by
  refine State.Binds.mapLeek ?_ _
  simp only [State.Binds, State.mapGroup, List.mem_map]
  rintro _ ⟨y, -, rfl⟩ hu
  by_cases hk : (y.uid == g.uid) = true
  · rw [if_pos hk]
    exact Vector.getElem_set_self ..
  · rw [if_neg hk] at hu
    exact absurd hu (by simpa using hk)

/-- The slot that a name has taken is held by the group, at zero (R234). -/
theorem State.bindsSlot_slot (n : Fin 16) :
    { n := x, group := g.uid, data := [], type := .none', release := false } ∈ ((s.bindsSlot g n x).cluster g.cluster).slots := by
  show _ ∈ ((s.mapCluster g.cluster _).cluster g.cluster).slots
  rw [State.cluster_mapCluster]
  · exact List.mem_cons_self
  · exact fun _ => rfl

/-- An updated slot is what the cluster holds after the update. -/
theorem State.mem_slots_mapSlot {k : Nat} {a : AccSlot} (ha : a ∈ (s.cluster k).slots) (h : AccSlot → AccSlot) :
    h a ∈ ((s.mapSlot k a.n h).cluster k).slots := by
  rw [State.mapSlot, State.cluster_mapCluster]
  · exact List.mem_map.mpr ⟨a, ha, if_pos (beq_self_eq_true _)⟩
  · exact fun _ => rfl

end

/-- Settles O49: each instruction is the equation of its meaning above; the name and the slot that an ACZ binds are read off the state
that it leaves. -/
theorem matrixInstructionsQueueTheirOperation : Obligations.MatrixInstructionsQueueTheirOperation := by
  refine ⟨?queue, ?complete⟩
  case queue =>
    intro f s c g l v free
    refine ⟨?skips, ?tld, ?agath, ?mma, ?mmas, ?acz, ?acdrn, ?acrel⟩
    case skips =>
      intro op hop h tag
      rw [exec_matOps hop]
      exact ⟨fun hm => h.fault (matMeaning_tag hm), fun hm ht => h.done (matMeaning_skips hop hm ht)⟩
    case tld =>
      rintro ⟨h, ht, hp⟩ a pitch ha hpitch h0 hr tagged
      exact h.done (tldLeek_queues ht hp ha hpitch h0 hr)
    case agath =>
      rintro ⟨h, ht, hp⟩ idx base pitch
      exact ⟨fun hw => h.done (agathLeek_gathered hw),
        fun hw hi hb hpitch hr => h.wait (agathLeek_queues ht hp hw hi hb hpitch hr)⟩
    case mma =>
      rintro x ⟨h, ht, hp⟩ hm hn
      exact h.done (mmaLeek_queues ht hp hm hn)
    case mmas =>
      rintro x ⟨h, ht, hp⟩ hm hn scales ha hr
      exact h.done (mmasLeek_queues ht hp hm hn ha hr)
    case acz =>
      rintro x ⟨h, ht, hp⟩ hn
      exact h.done (aczLeek_queues ht hp hn)
    case acdrn =>
      rintro x ⟨h, ht, hp⟩ hn type a pitch hm hrow ha hpitch hr
      exact h.done (acdrnLeek_queues ht hp hn hm hrow ha hpitch hr)
    case acrel =>
      rintro ⟨h, ht, hp⟩
      exact ⟨fun x hn => h.done (acrelLeek_queues ht hp hn), fun hn => h.done (acrelLeek_unbound hn)⟩
  case complete =>
    intro f s c g l
    refine ⟨fun h => h.done rfl, ?waited, ?waits, ?ends, ?goesOn, ?binds⟩
    case waited =>
      intro h hq
      have hrun : mmwaitLeek f (leekEnvOf s c g l) = .done s := if_neg (by rcases hq with hq | hq <;> simp [leekEnvOf, hq])
      exact h.done hrun
    case waits =>
      intro h ht hq
      have hrun : mmwaitLeek f (leekEnvOf s c g l) = .wait s .matrix := if_pos (by simp [leekEnvOf, ht, hq])
      exact h.wait hrun
    case ends =>
      intro h ht
      have hrun : lkexitLeek f (leekEnvOf s c g l) = .gone (s.endLeek g l.pc) := if_pos ht
      exact h.gone hrun
    case goesOn =>
      intro h ht
      have hrun : lkexitLeek f (leekEnvOf s c g l) = .done s := if_neg (by simp [leekEnvOf, ht])
      exact h.done hrun
    case binds =>
      intro x rest h ht hn hf hl hs hp
      refine ⟨_, h.done (aczLeek_binds ht hn hf hl hs hp), ?_,
        _, State.mem_slots_mapSlot (State.bindsSlot_slot _) _, rfl, rfl, rfl, rfl, rfl⟩
      exact (((State.bindsSlot_binds _).mapSlot _).mapLeek _).mapLeek _

end Sys2Proof.Machine
end

section
/-!
PROOF. Containment (R234, R383, R388, R397 to R400): the commands SLOT_RETIRE, ATTEST and LINK_CTL, the states of a fabric port, the
partitions that fail with a die, and from them the statement.
-/
namespace Sys2Proof.Machine

variable {s t : State} {c : Command} {p : Nat}

/-! ### Commands -/

/-- An event for which a command may begin carries it out. -/
theorem State.command_runs {fits : Command → Bool} {run : Command → State → State} {u : State} (h : s.begin fits = (some c, t))
    (hr : run c t = u) : (.next (s.command fits run) : Host.Outcome State Fault Refusal) = .next u := by
  rw [State.command, h]
  exact congrArg _ hr

section
variable {k n : Nat} (hk : bitsOf c.arg1.toNat 0 8 = k) (hn : bitsOf c.arg1.toNat 8 4 = n) (ha : c.arg1.toNat < 2 ^ 12)
variable (hr : n ∉ (t.cluster k).retired)
include hk hn ha hr

theorem State.slotRetire_free (hs : ∀ x ∈ (t.cluster k).slots, x.n ≠ n) :
    t.slotRetire c = (t.mapCluster k fun k => { k with retired := n :: k.retired }).complete c .ok := by
  subst hk hn
  have hd : ¬c.arg1.toNat / 2 ^ 12 ≠ 0 := by omega
  exact (if_neg hd).trans ((if_neg (by simpa using hr)).trans (if_neg (by simpa using hs)))

theorem State.slotRetire_held (hs : ∃ x ∈ (t.cluster k).slots, x.n = n) :
    t.slotRetire c = (t.mapCluster k fun k =>
      { k with retiring := if n ∈ k.retiring then k.retiring else n :: k.retiring }).runOn c 0 := by
  subst hk hn
  have hd : ¬c.arg1.toNat / 2 ^ 12 ≠ 0 := by omega
  refine (if_neg hd).trans ((if_neg (by simpa using hr)).trans ((if_pos (by simpa using hs)).trans ?_))
  simp only [List.contains_eq_mem, decide_eq_true_eq]

end

theorem State.linkFence_of_port (hp : linkPort c = some p) (h0 : c.arg2 = 0) :
    t.linkFence c = (t.fencePort p).complete c .ok := by
  simp only [State.linkFence, hp, h0, if_true]

theorem State.linkRetrain_of_port (hp : linkPort c = some p) :
    t.linkRetrain c = (t.setPort p false false true).runOn c (t.clock + 14000000) := by
  simp only [State.linkRetrain, hp]
  rfl

/-! ### A port (R397, R399) -/

theorem getLsbD_putBit (b : Byte) (hp : p < 8) (v : Bool) : (putBit b p v).getLsbD p = v := by
  rw [putBit, getLsbD_maskBits, if_pos rfl, decide_eq_true hp, Bool.true_and]

@[simp] theorem State.telemetry_hw : s.telemetry.hw = s.hw := by
  unfold State.telemetry
  split <;> rfl

@[simp] theorem State.telemetry_parts : s.telemetry.parts = s.parts := by
  unfold State.telemetry
  split <;> rfl

@[simp] theorem State.setPort_hw (fenced up training : Bool) :
    (s.setPort p fenced up training).hw = s.hw.port p fenced up training := by
  unfold State.setPort
  dsimp only
  split
  · exact State.telemetry_hw
  · rfl

/-- A fenced port is FENCED and not UP. -/
theorem State.fencePort_bits (hp : p < 8) :
    (s.fencePort p).hw.fenced.getLsbD p = true ∧ (s.fencePort p).hw.up.getLsbD p = false := by
  have hf : (s.fencePort p).hw.fenced = (s.setPort p true false false).hw.fenced := rfl
  have hu : (s.fencePort p).hw.up = (s.setPort p true false false).hw.up := rfl
  rw [hf, hu, State.setPort_hw]
  exact ⟨getLsbD_putBit _ hp _, getLsbD_putBit _ hp _⟩

/-- A fenced port keeps no loan but those lent over it, whose end is set (R404). -/
theorem State.fencePort_loans : ∀ l ∈ (s.fencePort p).loans, l.port = p → l.side = .lender ∧ l.fenced.isSome := by
  intro l hl hp
  obtain ⟨x, hx, rfl⟩ := List.mem_map.mp hl
  have hport : x.port = p := by
    split at hp <;> exact hp
  have hside : x.side = .lender := by
    have hn := (List.mem_filter.mp hx).2
    cases hs : x.side with
    | lender => rfl
    | borrower => simp [hport, hs] at hn
  cases hf : x.fenced with
  | none => simp [hport, hside]
  | some n => simp [hside, hf]

theorem exec_retrainDeadline {r : Running} (hr : s.running.find? (fun r => retrains p r.cmd) = some r) (hd : r.deadline ≤ s.clock)
    (ht : s.hw.training.getLsbD p = true) :
    exec (.retrainDeadline p) s = .next ((s.fencePort p).finishRunning (retrains p) .deadline) := by
  show execRetrainDeadline p s = _
  simp only [execRetrainDeadline, hr]
  exact if_pos (by simp [hd, ht])

/-! ### A failed die (R397, R398) -/

/-- Two states have the same registers and partitions. -/
def State.SameParts (s t : State) : Prop := t.hw = s.hw ∧ t.parts = s.parts

namespace State.SameParts

variable {u : State}

theorem refl (s : State) : s.SameParts s := ⟨rfl, rfl⟩

theorem trans (h : s.SameParts t) (k : t.SameParts u) : s.SameParts u := ⟨k.1.trans h.1, k.2.trans h.2⟩

theorem foldl {α : Type} {f : State → α → State} (hf : ∀ s a, State.SameParts s (f s a)) (xs : List α) :
    s.SameParts (xs.foldl f s) := by
  induction xs generalizing s with
  | nil => exact refl s
  | cons x xs ih => exact (hf s x).trans ih

theorem store (who : Option AgentId) (place : Nat) (bs : List Byte) : s.SameParts (s.store who place bs) := by
  unfold State.store State.conflict
  split <;> exact refl s

theorem serveEvent (x : Serving) : s.SameParts (s.serveEvent x).2 := by
  unfold State.serveEvent
  split
  · exact store _ _ _
  · exact refl s

theorem serveEvents (n : Nat) (x : Serving) : s.SameParts (s.serveEvents x n).2 := by
  induction n generalizing s x with
  | zero => exact refl s
  | succ n ih => exact (serveEvent x).trans (ih _)

/-- The events of requests in service that end change no register and no partition. -/
theorem endServing (q : RemoteRequest → Bool) : s.SameParts (s.endServing q) := foldl (fun _ x => serveEvents _ x) _

theorem finishRunning (q : Command → Bool) (st : CmdStatus) : s.SameParts (s.finishRunning q st) := by
  have complete (t : State) (r : Running) : t.SameParts (t.complete r.cmd st) := by
    unfold State.complete
    split <;> exact refl t
  exact foldl complete _

end State.SameParts

/-- A partition that fails is marked, and changes no other partition and no register. -/
theorem State.failPart_spec (id : Nat) :
    (s.failPart id).hw = s.hw ∧
      (s.failPart id).parts = s.parts.map fun x => if x.id == id then { x with failed := true } else x := by
  obtain ⟨hh, hp⟩ := State.SameParts.endServing (s := s) fun r => partOf r.ownerCtx == id
  exact ⟨(State.SameParts.finishRunning _ _).1.trans hh, (State.SameParts.finishRunning _ _).2.trans (congrArg (List.map _) hp)⟩

/-- The module once several partitions have failed, one after another. -/
def State.failParts (s : State) (ids : List Nat) : State := ids.foldl (fun s p => s.failPart p) s

theorem State.failParts_spec (ids : List Nat) :
    (s.failParts ids).hw = s.hw ∧
      (s.failParts ids).parts = s.parts.map fun x => if x.id ∈ ids then { x with failed := true } else x := by
  induction ids generalizing s with
  | nil => simp [State.failParts]
  | cons id ids ih =>
    obtain ⟨hh, hp⟩ := ih (s := s.failPart id)
    obtain ⟨hh', hp'⟩ := State.failPart_spec (s := s) id
    refine ⟨hh.trans hh', hp.trans ?_⟩
    rw [hp', List.map_map]
    refine List.map_congr_left fun x _ => ?_
    by_cases h : x.id = id <;> simp [h]

/-- The partitions that have a quarter on a die. -/
def State.partsOn (s : State) (die : Nat) : List Nat :=
  (s.parts.filter fun x => (List.range 4).any fun q => x.quarters.getLsbD (4 * die + q)).map Partition.id

/-- The module with a die marked as failed. -/
def State.dieFails (s : State) (die : Nat) : State := { s with hw := { s.hw with dieFailed := putBit s.hw.dieFailed die true } }

theorem exec_dieFailure (hu : s.up = true) (hp : p < 8) (hf : s.hw.dieFailed.getLsbD p = false) :
    exec (.dieFailure p) s = .next ((s.dieFails p).failParts (s.partsOn p)).telemetry :=
  if_pos (by simp only [hu, hp, hf]; rfl)

/-- Every partition with a quarter on a die fails with it. -/
theorem State.failed_of_quarter : ∀ x ∈ ((s.dieFails p).failParts (s.partsOn p)).parts,
    (∃ q < 4, x.quarters.getLsbD (4 * p + q) = true) → x.failed = true := by
  rw [(State.failParts_spec _).2]
  rintro x hx ⟨q, hq, hb⟩
  obtain ⟨y, hy, rfl⟩ := List.mem_map.mp hx
  have hquarter : y.quarters.getLsbD (4 * p + q) = true := by
    split at hb <;> exact hb
  have hmem : y.id ∈ s.partsOn p :=
    List.mem_map_of_mem (List.mem_filter.mpr ⟨hy, List.any_eq_true.mpr ⟨q, List.mem_range.mpr hq, hquarter⟩⟩)
  rw [if_pos hmem]

/-! ### The statement -/

/-- Settles O58: each command and event is one equation of its meaning; what a fence and a failed die leave is read off the state. -/
theorem containmentEventsComplete : Obligations.ContainmentEventsComplete := by
  intro s t c p k n
  refine ⟨?retire, ?attest, ?fence, ?retrain, ?passes, ?late, ?link, ?die, rfl⟩
  case retire =>
    intro h ha hr
    exact ⟨fun hs => State.command_runs h (State.slotRetire_free rfl rfl ha hr hs),
      fun hs => State.command_runs h (State.slotRetire_held rfl rfl ha hr hs)⟩
  case attest => exact fun h => State.command_runs h rfl
  case fence => exact fun h hp h0 => State.command_runs h (State.linkFence_of_port hp h0)
  case retrain => exact fun h hp => State.command_runs h (State.linkRetrain_of_port hp)
  case passes => exact fun hu hp ht => if_pos (by simp [hu, hp, ht])
  case late => exact fun r hr hd ht => exec_retrainDeadline hr hd ht
  case link =>
    intro hu hp hup
    obtain ⟨hf, hn⟩ := State.fencePort_bits (s := s) hp
    exact ⟨_, if_pos (by simp [hu, hp, hup]), rfl, hf, hn, State.fencePort_loans⟩
  case die =>
    intro hu hp hf
    refine ⟨_, exec_dieFailure hu hp hf, ?_, ?_⟩
    · rw [State.telemetry_hw, (State.failParts_spec _).1]
      exact getLsbD_putBit _ hp _
    · rw [State.telemetry_parts]
      exact State.failed_of_quarter

end Sys2Proof.Machine
end

section
/-!
PROOF. Faults that find no handler, TRAP, HALT, TRET and the system instructions (R243, R247 to R257, R309): how a context ends, what each
meaning comes to, and from them the statements.
-/
namespace Sys2Proof.Machine

open Sys2Proof.Says

/-! ### A context that is terminated (R309) -/

@[simp] theorem State.mapCount_pods (s : State) (p : Nat) (f : PartCount → PartCount) : (s.mapCount p f).pods = s.pods := by
  unfold State.mapCount
  split <;> rfl

@[simp] theorem State.mapCount_copies (s : State) (p : Nat) (f : PartCount → PartCount) : (s.mapCount p f).copies = s.copies := by
  unfold State.mapCount
  split <;> rfl

@[simp] theorem State.terminate_pods (s : State) (ctx : Nat) (before : List Todo) :
    (s.terminate ctx before).pods = (s.clearCtx ctx).pods := by
  simp only [State.terminate, State.mapCount_pods]
  rfl

@[simp] theorem State.terminate_copies (s : State) (ctx : Nat) (before : List Todo) :
    (s.terminate ctx before).copies = (s.clearCtx ctx).copies := by
  simp only [State.terminate, State.mapCount_copies]
  rfl

section
variable {s : State} {c : Context} {g : Group} {w : Warp} {sh : Shape} {wb : Env → Effect} {lb : LeekEnv → Effect}

/-- A fault that finds no handler, in trap mode or with TRAPBASE 0, terminates the context after its record (R243). -/
theorem State.takeFault_terminates (h : w.trapMode = true ∨ c.trapBase = 0) (p : Stop) :
    s.takeFault c g w p = (s.putRec c.id (w.record g (if w.trapMode then 0x05 else 0x01) p.cause.code p.addr p.lanes
      (pair64 0 (p.tsw w.trapMode)))).terminate c.id := by
  unfold State.takeFault
  cases hm : w.trapMode with
  | true => rfl
  | false =>
    have hb : c.trapBase = 0 := h.resolve_left (by simp [hm])
    simp only [hb, Bool.false_eq_true, if_false, if_true]

/-- So does an instruction with such a fault. -/
theorem WarpIssues.terminates {cause : Cause} {addr : W64} {lanes : Mask} (h : WarpIssues s c g w sh)
    (hn : w.trapMode = true ∨ c.trapBase = 0) (e : wb (envOf s c g w sh) = .fault cause addr lanes) :
    ∃ t, issue sh s wb lb = .next t ∧ (∀ x ∈ t.groups, x.ctx ≠ c.id) ∧
      ∀ x ∈ t.ctxs, x.id = c.id → x.run = .terminated := by
  refine ⟨_, h.fault e, ?_⟩
  rw [State.takeFault_terminates hn]
  exact ⟨State.terminate_none _ _ _, State.terminate_run _ _ _⟩

end

/-- Settles O8: such a fault is a record and then the end of the context, of which nothing is left. -/
theorem faultWithoutHandlerTerminates : Obligations.FaultWithoutHandlerTerminates := by
  intro s c g w p h kind t
  have ht : t = _ := State.takeFault_terminates h p
  obtain ⟨-, -, hpods, -, hcopies, -⟩ := (s.putRec c.id (w.record g kind p.cause.code p.addr p.lanes
    (pair64 0 (p.tsw w.trapMode)))).clearCtx_none c.id
  refine ⟨ht, ?_⟩
  rw [ht, State.terminate_pods, State.terminate_copies]
  exact ⟨State.terminate_none _ _ _, hpods, hcopies, State.terminate_run _ _ _⟩

/-! ### TRAP and HALT (R247, R249) -/

/-- Settles O9: TRAP is done or faults by whether a lane executes; HALT is its record and the end of the context. -/
theorem trapAndHaltActAsTheirRulesSay : Obligations.TrapAndHaltActAsTheirRulesSay := by
  refine ⟨fun f s c g w h => ⟨fun h0 => h.done (if_pos h0), fun h0 hn hb => ?trap, fun h0 hn => h.terminates hn (if_neg h0)⟩,
    fun f s c g w h => h.gone rfl⟩
  case trap =>
    refine (h.fault (if_neg h0)).trans ?_
    rw [State.takeFault_enters hn hb, if_pos rfl]
    rfl

/-! ### TRET (R248) -/

section
variable {s : State} {c : Context} {g : Group} {w : Warp} {sh : Shape}

@[simp] theorem envOf_w : (envOf s c g w sh).w = w := rfl

/-- A frame that TRET refuses: a reserved field of TSW is set, or TSW names an iteration that the unit at TPC does not have. -/
theorem tretBody_ends (h : bitsOf w.tsw.toNat 24 7 ≠ 0 ∨ bitsOf w.tsw.toNat 8 6 ≠ 0 ∨ (bitsOf w.tsw.toNat 14 6 ≠ 0 ∧
      ((envOf s c g w sh).unitAt w.tpc = .other ∨
        ∃ n, (envOf s c g w sh).unitAt w.tpc = .repeat' n ∧ n ≤ bitsOf w.tsw.toNat 14 6))) :
    tretBody (envOf s c g w sh) = (envOf s c g w sh).tretEnds := by
  by_cases hr : bitsOf w.tsw.toNat 24 7 ≠ 0 ∨ bitsOf w.tsw.toNat 8 6 ≠ 0
  · exact if_pos (by rw [envOf_w]; simpa using hr)
  · obtain ⟨hi, hu⟩ := (or_assoc.mpr h).resolve_left hr
    refine (if_neg (by rw [envOf_w]; simpa using hr)).trans ((if_neg hi).trans ?_)
    rcases hu with hu | ⟨n, hu, hn⟩
    · rw [envOf_w, hu]
    · rw [envOf_w, hu]
      exact if_pos hn

variable (h24 : bitsOf w.tsw.toNat 24 7 = 0) (h8 : bitsOf w.tsw.toNat 8 6 = 0)
include h24 h8

/-- Outside a repeat unit a frame is only left. -/
theorem tretBody_plain (hi : bitsOf w.tsw.toNat 14 6 = 0) :
    tretBody (envOf s c g w sh) = (envOf s c g w sh).tretLeaves .ready :=
  (if_neg (by simp [h24, h8])).trans (if_pos hi)

variable (hi : bitsOf w.tsw.toNat 14 6 ≠ 0)
include hi

/-- Inside one it is left where its unit has the iteration, or the fetch of the unit is refused. -/
theorem tretBody_resumes (hu : (∃ k, (envOf s c g w sh).unitAt w.tpc = .repeat' k ∧ bitsOf w.tsw.toNat 14 6 < k) ∨
      (envOf s c g w sh).unitAt w.tpc = .refused) :
    tretBody (envOf s c g w sh) = (envOf s c g w sh).tretLeaves .ready := by
  refine (if_neg (by simp [h24, h8])).trans ((if_neg hi).trans ?_)
  rcases hu with ⟨k, hu, hk⟩ | hu
  · rw [envOf_w, hu]
    exact if_neg (Nat.not_le.mpr hk)
  · rw [envOf_w, hu]

/-- So it is where the unit's page is away, for which the warp then waits. -/
theorem tretBody_waits {va : Nat} (hu : (envOf s c g w sh).unitAt w.tpc = .absent va) :
    tretBody (envOf s c g w sh) = .gone (((s.putWarp g w { w.trapReturn with
      wait := .page (BitVec.ofNat 64 (va / 4096)) 2 (BitVec.ofNat 64 va) (live w) }).perfAdd c.id 0 1).faultRing c.id va .fetch
        g.cluster) := by
  refine (if_neg (by simp [h24, h8])).trans ((if_neg hi).trans ?_)
  rw [envOf_w, hu]
  rfl

end

/-- A warp that TRET resumes inside a repeat unit. -/
theorem Warp.trapReturn_rep {w : Warp} (hi : bitsOf w.tsw.toNat 14 6 ≠ 0) : w.trapReturn = { w with
    tsw := w.tsw &&& 0x7FFFFFFF, pc := w.tpc, latches := Vector.replicate 4 none
    rep := some { iter := bitsOf w.tsw.toNat 14 6, masks := none }, wait := .ready } := by
  simp only [Warp.trapReturn, Warp.dropLatches, if_neg hi]

/-- A warp that TRET resumes outside one. -/
theorem Warp.trapReturn_plain {w : Warp} (hi : bitsOf w.tsw.toNat 14 6 = 0) : w.trapReturn = { w with
    tsw := w.tsw &&& 0x7FFFFFFF, pc := w.tpc, latches := Vector.replicate 4 none, rep := none, wait := .ready } := by
  simp only [Warp.trapReturn, Warp.dropLatches, if_pos hi]

/-- Settles O10: TRET leaves trap mode, waits for the page of its unit, or ends the context, by TSW and the unit at TPC. -/
theorem tretResumesOrRefusesItsFrame : Obligations.TretResumesOrRefusesItsFrame := by
  refine ⟨?plain, ?inside, fun f s c g w h hr => h.gone (tretBody_ends hr)⟩
  case plain =>
    intro f s c g w h h24 h8 hi
    refine h.gone ((tretBody_plain h24 h8 hi).trans ?_)
    rw [Env.tretLeaves, envOf_w, Warp.trapReturn_plain hi]
    rfl
  case inside =>
    intro f s c g w h h24 h8 n resumed hi
    have leaves : (envOf s c g w (.l .tret f)).tretLeaves .ready = .gone (resumed .ready) := by
      rw [Env.tretLeaves, envOf_w, Warp.trapReturn_rep hi]
      rfl
    refine ⟨fun k hu hk => h.gone ((tretBody_resumes h24 h8 hi (.inl ⟨k, hu, hk⟩)).trans leaves),
      fun hu => h.gone ((tretBody_resumes h24 h8 hi (.inr hu)).trans leaves),
      fun va hu => h.gone ((tretBody_waits h24 h8 hi hu).trans ?_)⟩
    rw [Warp.trapReturn_rep hi]

/-- An ILLEGAL value enters the handler at the instruction's own address. -/
theorem WarpIssues.illegalValue {s : State} {c : Context} {g : Group} {w : Warp} {sh : Shape} {wb : Env → Effect}
    {lb : LeekEnv → Effect} {lanes : Mask} (h : WarpIssues s c g w sh) (hn : w.trapMode = false) (hb : c.trapBase ≠ 0)
    (e : wb (envOf s c g w sh) = .fault .illegal 0 lanes) : issue sh s wb lb = .next (trapsWith s c g w sh 0x01 0 lanes w.pc) :=
  h.traps (cause := .illegal) hn hb (by decide) e

/-! ### System instructions in a warp without errors (R251 to R257) -/

/-- The limit that a WDSET names: its immediate, or its register (R256). -/
def watchValueOf (f : LForm) (w : Warp) : Nat :=
  match f.imm with
  | some y => y.toNat
  | none => (w.uni f.src0 none .n64).toNat

section
variable {s : State} {c : Context} {g : Group} {w : Warp} {sh : Shape} {f : LForm} (hb : w.bad = [])
include hb

/-- No operand kills a lane (R18). -/
theorem envOf_noKills (os : List Opnd) : ¬((envOf s c g w sh).w.operandKills os (envOf s c g w sh).eff).1 ≠ 0 :=
  not_not.mpr (congrArg Prod.fst (Warp.operandKills_of_clean hb _ _))

/-- What an instruction does whatever EXEC holds, it does (R242). -/
theorem Env.anyway_clean (os : List Opnd) (k : Effect) : (envOf s c g w sh).anyway os k = k := if_neg (envOf_noKills hb os)

theorem movsrBody_writes (h0 : w.eff sh ≠ 0) {w' : Warp}
    (hw : w.writeSpecial (f.imm.getD 0).toNat (w.uni f.src0 none (if f.fmt.wide then .n64 else .n32)) = some w') :
    movsrBody f (envOf s c g w sh) = .done (s.putWarp g w w') := by
  refine (if_neg h0).trans ((if_neg (envOf_noKills hb _)).trans ?_)
  rw [envOf_w, hw]
  rfl

theorem movsrBody_illegal (h0 : w.eff sh ≠ 0)
    (hw : w.writeSpecial (f.imm.getD 0).toNat (w.uni f.src0 none (if f.fmt.wide then .n64 else .n32)) = none) :
    movsrBody f (envOf s c g w sh) = .fault .illegal 0 (w.eff sh) := by
  refine (if_neg h0).trans ((if_neg (envOf_noKills hb _)).trans ?_)
  rw [envOf_w, hw]
  rfl

theorem sigseedBody_seeds (hx : (lo32 (w.uni f.src0 f.imm .n32)).toNat ≤ 65535) : sigseedBody f (envOf s c g w sh) =
    .gone ((s.putWarp g w { w with
      seed := (lo32 (w.uni f.src0 f.imm .n32)).setWidth 16, sigw := (lo32 (w.uni f.src0 f.imm .n32)).setWidth 16
      pc := w.pc + BitVec.ofNat 64 (if f.imm.isSome then 12 else 8), wait := .ready, rep := none }).perfAdd c.id 0 1) :=
  (if_neg (envOf_noKills hb _)).trans (if_neg (Nat.not_lt.mpr hx))

theorem sigseedBody_illegal (hx : 65535 < (lo32 (w.uni f.src0 f.imm .n32)).toNat) :
    sigseedBody f (envOf s c g w sh) = .fault .illegal 0 (live w) :=
  (if_neg (envOf_noKills hb _)).trans (if_pos hx)

/-- PERFRD is its test of the value alone, where a lane executes. -/
theorem perfrdBody_clean (h0 : w.eff sh ≠ 0) : perfrdBody f (envOf s c g w sh) =
    if h : (lo32 (w.uni f.src0 f.imm .n32)).toNat < 8 then
      .done (s.putWarp g w (w.putPair f.dst c.perf[(lo32 (w.uni f.src0 f.imm .n32)).toNat]))
    else .fault .illegal 0 (w.eff sh) :=
  (if_neg h0).trans (if_neg (envOf_noKills hb _))

/-- TLBINV drops all the context's entries in force, or those that cover its address. -/
theorem tlbinvBody_clean : tlbinvBody f (envOf s c g w sh) = .done { s with tlb := s.tlb.filter fun t =>
    !(t.ctx == c.id && (f.sub == 1 || t.page * 4096 / 2 ^ t.size == (w.uni f.src0 none .n64).toNat / 2 ^ t.size)) } := by
  refine (Env.anyway_clean hb _ _).trans ?_
  show Effect.done (s.dropTlb c.id _) = _
  by_cases hf : f.sub = 1
  · simp only [hf, if_true, State.dropTlb, beq_self_eq_true, Bool.true_or, Bool.and_true]
  · simp only [hf, if_false, State.dropTlb, TlbEntry.covers, beq_eq_false_iff_ne.mpr hf, Bool.false_or]
    rfl

/-- Without a buffer, WDSET sets the limit alone. -/
theorem wdsetBody_limit (hz : f.src1 = .zero) : wdsetBody f (envOf s c g w sh) =
    .done (s.mapCtx c.id fun k => { k with wdLimit := k.watchLimit (watchValueOf f w) }) := by
  refine (Env.anyway_clean hb _ _).trans ?_
  simp only [hz]
  rfl

/-- With a buffer that passes its checks, WDSET sets both. -/
theorem wdsetBody_buffer {n : Fin 64} (hs : f.src1 = .s n) (hd : (envOf s c g w sh).diagFault (w.uni f.src1 none .n64) = none) :
    wdsetBody f (envOf s c g w sh) = .done (s.mapCtx c.id fun k => { k with
      wdLimit := k.watchLimit (watchValueOf f w), diag := w.uni f.src1 none .n64
      diagGroup := if g.inWindow (w.uni f.src1 none .n64).toNat then some g.uid else none }) := by
  refine (Env.anyway_clean hb _ _).trans ?_
  rw [hs] at hd ⊢
  simp only [envOf_w, hd]
  rfl

end

/-- Settles O47: each meaning, in a warp without errors, by its value and the mode that allows it. -/
theorem systemInstructionsComplete : Obligations.SystemInstructionsComplete := by
  intro f s c g w hb x
  refine ⟨fun w' h h0 hw => h.done (movsrBody_writes hb h0 hw), fun h hx => h.done ((Env.anyway_clean hb _ _).trans (if_pos hx)),
    ?railset, ?sigseed, fun h => h.done (tlbinvBody_clean hb), ?wdset, ?illegal, ?ovfld, ?perfrd⟩
  case railset =>
    intro h hx
    have hrun := Env.anyway_clean (s := s) (c := c) (g := g) (sh := .l .railset f) hb [Opnd.any f.src0 .n32]
    exact ⟨fun hl => h.done ((hrun _).trans ((if_neg (Nat.not_lt.mpr hx)).trans (if_neg (Nat.not_lt.mpr hl)))),
      fun hl => h.wait ((hrun _).trans ((if_neg (Nat.not_lt.mpr hx)).trans (if_pos hl)))⟩
  case sigseed => exact fun h hx => h.gone (sigseedBody_seeds hb hx)
  case wdset =>
    intro h v
    exact ⟨fun hz => h.done (wdsetBody_limit hb hz), fun n hs hd => h.done (wdsetBody_buffer hb hs hd)⟩
  case illegal =>
    intro hn ht refuses
    exact ⟨fun h h0 hw => h.illegalValue hn ht (movsrBody_illegal hb h0 hw),
      fun h hx => h.illegalValue hn ht ((Env.anyway_clean hb _ _).trans (if_pos hx)),
      fun h hx => h.illegalValue hn ht (sigseedBody_illegal hb hx),
      fun h h0 hx => h.illegalValue hn ht ((perfrdBody_clean hb h0).trans (dif_neg (Nat.not_lt.mpr hx)))⟩
  case ovfld => exact fun h hx => h.terminates (.inl h.mode) ((Env.anyway_clean hb _ _).trans (if_neg (ne_true_of_eq_false hx)))
  case perfrd => exact fun hx h h0 => h.done ((perfrdBody_clean hb h0).trans (dif_pos hx))

end Sys2Proof.Machine
end

section
/-!
PROOF. The die scheduler (R283, R294, R297, R298, R300 to R302, R306, R308): each event, where its conditions hold, as one equation of its
meaning.
-/
namespace Sys2Proof.Machine

variable {s t : State} {c : Context} {p : Partition} {id : Nat} (hc : s.ctx? id = some c)

/-! ### The gatherer (R294, R300) -/

section
variable {q : QueueRef} {h : Head} {g : Gather} (hp : s.places c = true) (hh : s.head c q = .pod h) (hk : h.pod.kind = 1)
variable (hr : h.pod.refusal = none)
include hc hp hh hk hr

/-- A thread pod that is well formed goes into the open group of its key. -/
theorem exec_gatherTake_open (ho : (s.gathers.find? fun g =>
      g.ctx == id && g.queue == q && !g.offered && g.pod.entry == h.pod.entry && g.pod.shape == h.pod.shape) = some g) :
    exec (.gatherTake id q) s = .next (((s.fillLane c g h).takeHead c q h.index).freeSlot id q) := by
  show execGatherTake id q s = _
  simp only [execGatherTake, hc, hp, hh, hk, hr, ho, Bool.not_true, Bool.false_eq_true, if_false, ne_eq, not_true]

/-- Where there is none, it opens one. -/
theorem exec_gatherTake_opens (ho : (s.gathers.find? fun g =>
      g.ctx == id && g.queue == q && !g.offered && g.pod.entry == h.pod.entry && g.pod.shape == h.pod.shape) = none)
    (ht : s.openGather c q h = some (g, t)) :
    exec (.gatherTake id q) s = .next (((t.fillLane c g h).takeHead c q h.index).freeSlot id q) := by
  show execGatherTake id q s = _
  simp only [execGatherTake, hc, hp, hh, hk, hr, ho, ht, Bool.not_true, Bool.false_eq_true, if_false, ne_eq, not_true]

end

theorem exec_gatherOffer (u : Nat) : exec (.gatherOffer u) s = .next { s with gathers := s.gathers.map fun g =>
    if g.uid = u ∧ g.offered = false ∧ g.since + 5600 ≤ s.clock then { g with offered := true, since := s.clock } else g } := by
  show execGatherOffer u s = _
  simp only [execGatherOffer, Bool.and_eq_true, beq_iff_eq, Bool.not_eq_true', decide_eq_true_eq, and_assoc]

theorem exec_spanWaitLimit (u : Nat) : exec (.spanWaitLimit u) s = .next { s with
    pods := s.pods.map fun w =>
      if w.uid = u ∧ w.next < w.pod.spans ∧ w.since + 1400000 ≤ s.clock then { w with limit := true } else w
    gathers := s.gathers.map fun g =>
      if g.uid = u ∧ g.offered = true ∧ g.since + 1400000 ≤ s.clock then { g with limit := true } else g } := by
  show execSpanWaitLimit u s = _
  simp only [execSpanWaitLimit, Bool.and_eq_true, beq_iff_eq, decide_eq_true_eq, and_assoc]

/-! ### Placement (R283, R301, R302) -/

/-- A source whose turn has come is placed where it fits. -/
theorem State.tryPlace_turn {src : PlaceSource} {x : Cand × State}
    (hx : (s.candidates p.id).find? (fun x => x.1.src == src) = some x) (hy : s.yields p x.1 = false) :
    s.tryPlace p c src = (s.placed p c src).getD s := by
  simp only [State.tryPlace, hx, hy, Bool.false_eq_true, if_false]

section
variable (hp : s.part? (partOf id) = some p) {d : KDesc} {x : Cand × State}
include hc hp

/-- A restart group waits while a span that has waited 1 ms holds it back. -/
theorem exec_restartGroup_waits {u : Nat} {r : Restart} (hu : s.restarts.find? (fun r => r.uid == u) = some r) (ho : r.orig.ctx = id)
    (hb : s.heldBack p r.orig.prio = true) : exec (.restartGroup u) s = .next s := by
  subst ho
  show execRestartGroup u s = _
  simp only [execRestartGroup, hu, hc, hp, hb, Bool.or_true, if_true]

variable (hi : c.id = id) (hr : s.places c = true)
include hi hr

theorem exec_groupPlace_queue {q : QueueRef} {w : PodWork} (hw : s.current id q = some w)
    (hd : s.readDesc c w.pod (w.addr + 24) = .ok d)
    (hx : (s.candidates p.id).find? (fun x => x.1.src == .queue id q) = some x) (hy : s.yields p x.1 = false)
    (ht : s.placeSpan p w d (64 * d.gwarps) = some t) :
    exec (.groupPlace (.queue id q)) s = .next (t.mapPod w.uid fun w =>
      { w with next := w.next + 1, open' := w.open' + 1, since := t.clock, limit := false }) := by
  subst hi
  show execGroupPlace (.queue c.id q) s = _
  simp only [execGroupPlace, hc, hp, hr, hw, hd, State.tryPlace_turn hx hy, State.placed, ht, Option.isSome_some, Bool.not_true,
    Bool.false_eq_true, if_false, if_true, Option.map_some, Option.getD_some]

theorem exec_groupPlace_gathered {u : Nat} {g : Gather} (hg : s.gathers.find? (fun g => g.uid == u) = some g) (hgc : g.ctx = id)
    (ho : g.offered = true) (hm : s.mustWait g = false) (hd : s.readDesc c g.pod (g.base + 24) = .ok d)
    (hx : (s.candidates p.id).find? (fun x => x.1.src == .gathered u) = some x) (hy : s.yields p x.1 = false)
    (ht : s.placed p c (.gathered u) = some t) : exec (.groupPlace (.gathered u)) s = .next t := by
  subst hgc
  show execGroupPlace (.gathered u) s = _
  simp only [execGroupPlace, hg, hc, hp, hr, ho, hm, hd, State.tryPlace_turn hx hy, ht, Bool.not_true, Bool.or_false,
    Bool.false_eq_true, if_false, Option.getD_some]

/-! ### Restart groups (R283, R308) -/

theorem exec_restartGroup_places {u : Nat} {r : Restart} (hu : s.restarts.find? (fun r => r.uid == u) = some r) (ho : r.orig.ctx = id)
    (hb : s.heldBack p r.orig.prio = false) (hd : s.readDesc c r.pod (r.orig.podAddr + 24) = .ok d)
    (ht : s.placeRestart p c r d = some t) : exec (.restartGroup u) s = .next t := by
  subst ho
  show execRestartGroup u s = _
  simp only [execRestartGroup, hu, hc, hp, hr, hb, hd, ht, Bool.not_true, Bool.or_false, Bool.false_eq_true, if_false,
    Option.getD_some]

end

/-! ### The end of a group (R297, R306) -/

/-- A group that is no restart group and is over is freed; with the last one of its span the span ends, and the pod's work is settled. -/
theorem exec_groupEnd {u : Nat} {g : Group} (hg : s.group? u = some g) (ho : s.groupOver g = true) (hr : g.restart = none) :
    let t := (s.freeGroup g).mapPod g.pod fun w => { w with fault := w.fault || g.fault, lost := w.lost ++ g.lost }
    exec (.groupEnd u) s = if (t.groups.filter fun x => x.span == g.span).all fun x => x.ended then
      .next ((State.mapPod { t with
        groups := t.groups.filter fun x => x.span != g.span
        spans := t.spans.filter fun x => x.uid != g.span } g.pod fun w => { w with open' := w.open' - 1 }).settleWork g.pod)
    else .next t := by
  intro t
  show execGroupEnd u s = _
  simp only [execGroupEnd, hg, ho, hr, Option.isSome_none, Bool.not_true, Bool.false_eq_true, if_false, Bool.not_eq_true']
  by_cases hl : ((t.groups.filter fun x => x.span == g.span).all fun x => x.ended) = true
  · rw [if_pos hl]
    exact if_neg (by rw [hl]; decide)
  · rw [if_neg hl]
    exact if_pos (Bool.not_eq_true _ ▸ hl)

include hc in
theorem exec_continuationEnqueue {u : Nat} {page : Option W64} {q : QueueRef} {bs : List Byte}
    (hh : s.held.find? (fun h => h.uid == u) = some { uid := u, item := .enqueue id q bs, page := page }) (hr : 1 ≤ s.roomIn c q) :
    exec (.continuationEnqueue u) s = .next (State.enqueue { s with held := s.held.filter fun h => h.uid != u } c q bs) := by
  show execContinuationEnqueue u s = _
  simp only [execContinuationEnqueue, hh, hc, hr, if_true]

/-- Settles O51: each event is one equation of its meaning. -/
theorem podsAreGatheredPlacedAndEnded : Obligations.PodsAreGatheredPlacedAndEnded := by
  intro s c p id hc hp hi
  refine ⟨?gather, exec_gatherOffer, exec_spanWaitLimit, ?queue, ?gathered, ?restart, ?groupEnd,
    fun u page q bs hh hr => exec_continuationEnqueue hc hh hr⟩
  case gather =>
    exact fun q h hr hh hk hn => ⟨fun g ho => exec_gatherTake_open hc hr hh hk hn ho,
      fun g t ho ht => exec_gatherTake_opens hc hr hh hk hn ho ht⟩
  case queue => exact fun q w d x t hr hw hd hx hy ht => exec_groupPlace_queue hc hp hi hr hw hd hx hy ht
  case gathered => exact fun u g d x t hg hgc hr ho hm hd hx hy ht => exec_groupPlace_gathered hc hp hi hr hg hgc ho hm hd hx hy ht
  case restart =>
    exact fun u r hu ho hr => ⟨fun d t hb hd ht => exec_restartGroup_places hc hp hi hr hu ho hb hd ht,
      fun hb => exec_restartGroup_waits hc hp hu ho hb⟩
  case groupEnd =>
    exact fun u g hg ho hr => ⟨fun hl => (exec_groupEnd hg ho hr).trans (if_neg (ne_true_of_eq_false hl)),
      fun hl => (exec_groupEnd hg ho hr).trans (if_pos hl)⟩

end Sys2Proof.Machine
end

section
/-!
PROOF. The host port (R337, R377 to R382, R386, R387, R396, R400, R404): what reset leaves, how the port makes the events of its requests,
bring-up, and registers, doorbells and accesses of HW-B one after another.
-/
namespace Sys2Proof.Machine

open Sys2Proof.Says

/-! ### Reset (R377, R378) -/

/-- Settles O5: each register but STATUS, which is 0, reads as zero before READY. -/
theorem resetReadsAsZero : Obligations.ResetReadsAsZero := by
  refine ⟨⟨rfl, rfl⟩, fun offset => ?_, fun a => rfl, rfl, rfl, rfl⟩
  by_cases h : offset = 0
  · exact if_pos h
  · exact (if_neg h).trans (if_pos rfl)

variable {s : State}

/-- A reset leaves nothing of the module, and host memory as it was. -/
theorem State.resetModule_spec : s.resetModule.mem = [] ∧ s.resetModule.ctxs = [] ∧ s.resetModule.parts = [] ∧
    s.resetModule.groups = [] ∧ s.resetModule.hostMem = s.hostMem := by
  rw [State.resetModule, State.foldl_newEpoch]
  exact ⟨rfl, rfl, rfl, rfl, rfl⟩

/-- STATUS after a failure: its detail and code, and STAGE 7 without READY (R379). -/
theorem State.failed_status (code : Byte) (detail : BitVec 16) :
    (s.failed code.toNat detail.toNat).hw.status.toNat = detail.toNat * 2 ^ 16 + code.toNat * 2 ^ 8 + 7 * 2 := by
  have hc := code.isLt
  have hd := detail.isLt
  have h7 : (7 : BitVec 3).toNat = 7 := rfl
  simp only [State.failed, HwA.status, BitVec.ofNat_toNat, BitVec.setWidth_eq, BitVec.toNat_ofNat, h7, Bool.false_eq_true, if_false]
  omega

/-! ### The requests of the port (R337) -/

/-- A state is its own with the port that it has. -/
theorem State.with_port {l : List PortRequest} (h : s.port = l) : { s with port := l } = s := by
  subst h
  rfl

section
variable {r : PortRequest} (ha : s.alive = true) (hp : s.power = true)
include ha hp

/-- An idle port makes the first event of a request at once. -/
theorem State.takes_idle (hi : s.port = []) : s.takes r = State.portStep { s with port := [r] } := by
  simp only [State.takes, State.accepts, ha, hp, hi]
  rfl

/-- So a request with one event, which is no matter of the port, is over with it. -/
theorem State.takes_event {act : State → State} {t : State} (hi : s.port = [])
    (hr : State.portStep { s with port := [r] } = { act { s with port := [r] } with port := [] })
    (hact : act { s with port := [r] } = { t with port := [r] }) (ht : t.port = []) : s.takes r = t :=
  (State.takes_idle ha hp hi).trans (hr.trans ((congrArg (fun u : State => { u with port := [] }) hact).trans (State.with_port ht)))

/-- A busy port takes a request behind the others. -/
theorem State.takes_busy (hi : s.port ≠ []) : s.takes r = { s with port := s.port ++ [r] } := by
  simp only [State.takes, State.accepts, ha, hp, Bool.and_self, if_true, List.isEmpty_iff, hi, if_false]

end

/-! ### FWGO (R378, R381, R382) -/

theorem State.fwgo_unreadable {x : FwgoWrite} (h3 : s.hw.stage = 3) (hx : x.readable = false ∨ s.hw.fwAddr.toNat % 4096 ≠ 0 ∨
    s.hw.fwSize.toNat < 4096 ∨ 2 ^ 26 < s.hw.fwSize.toNat) : s.fwgo x = s.failed 5 0 := by
  refine (if_pos (by rw [h3]; rfl)).trans (if_pos ?_)
  simpa only [Bool.or_eq_true, Bool.not_eq_true', decide_eq_true_eq, or_assoc] using hx

theorem State.fwgo_readable {x : FwgoWrite} (h3 : s.hw.stage = 3) (hx : x.readable = true) (h0 : s.hw.fwAddr.toNat % 4096 = 0)
    (hl : 4096 ≤ s.hw.fwSize.toNat) (hm : s.hw.fwSize.toNat ≤ 2 ^ 26) :
    s.fwgo x = s.bringUp (s.hostMem.read s.hw.fwAddr.toNat s.hw.fwSize.toNat) := by
  refine (if_pos (by rw [h3]; rfl)).trans (if_neg ?_)
  simp only [Bool.or_eq_true, Bool.not_eq_true', decide_eq_true_eq, hx, h0, ne_eq, not_true, or_false, false_or, not_or, not_lt,
    Bool.true_eq_false]
  exact ⟨hl, hm⟩

/-- Bring-up is no matter of the port. -/
theorem State.bringUp_port (image : List Byte) (l : List PortRequest) :
    State.bringUp { s with port := l } image = { s.bringUp image with port := l } := by
  unfold State.bringUp
  dsimp only
  split
  · rfl
  · split <;> rfl

theorem State.bringUp_verifies {image : List Byte} (hv : verifyBad image (image.take 128) = none)
    (hc : configBad ((image.drop (128 + fieldAt (image.take 128) 64 8)).take 64) = none) :
    s.bringUp image = s.start (image.take 128) ((image.drop (128 + fieldAt (image.take 128) 64 8)).take 64) := by
  simp only [State.bringUp, hv, hc]

theorem State.bringUp_configBad {image : List Byte} {x : Nat × Nat} (hv : verifyBad image (image.take 128) = none)
    (hc : configBad ((image.drop (128 + fieldAt (image.take 128) 64 8)).take 64) = some x) :
    s.bringUp image = s.failed x.1 x.2 := by
  simp only [State.bringUp, hv, hc]

theorem State.bringUp_verifyBad {image : List Byte} {code : Nat} (hv : verifyBad image (image.take 128) = some code) :
    s.bringUp image = s.failed code 0 := by
  simp only [State.bringUp, hv]

/-- A configuration without a bad field grants at most 1,000 tokens. -/
theorem grant_le_of_configBad {cfg : List Byte} (h : configBad cfg = none) : fieldAt cfg 8 2 ≤ 1000 := by
  by_contra hg
  have hg' : 1000 < fieldAt cfg 8 2 := Nat.lt_of_not_le hg
  unfold configBad at h
  split_ifs at h with h1 h2 h3 h4 h5
  exact h5 (by simp [hg'])

/-! ### Registers (R379, R396) -/

section
variable {off : Nat} {v : W64} (hs : s.hw.stage ≠ 7) (hr : s.hw.ready = true)
include hs hr

theorem State.writeRegister_plain (ho : off ≠ 0x48) : s.writeRegister off v = { s with hw := s.hw.write off v } :=
  (if_pos (by simp only [bne_iff_ne.mpr hs, hr, Bool.true_or, Bool.and_self])).trans (if_neg ho)

theorem State.writeRegister_ramp (ho : off = 0x48) : s.writeRegister off v = State.newRamp { s with hw := s.hw.write off v } :=
  (if_pos (by simp only [bne_iff_ne.mpr hs, hr, Bool.true_or, Bool.and_self])).trans (if_pos ho)

end

/-! ### Doorbells (R387) -/

/-- A doorbell that its queue has room for moves TAIL and takes its pods from FREE. -/
theorem State.doorbell_takes {c : Context} {ctx off : Nat} {q : QueueRef} {d : QDesc} {tail : W64} (hc : s.ctx? ctx = some c)
    (hq : doorbellQueue off = some q) (hr : c.run ≠ .terminated) (hh : c.hasQueue q = true) (hs : q ∉ c.stopped)
    (hd : s.queue? c q = some d) (ho : d.ok = true) (hn : (tail - BitVec.ofNat 64 d.tail).toNat ≤ d.free) :
    s.doorbell ctx off tail = ((s.setQueueWord c q 3 tail.toNat).setQueueWord c q 4
      (d.free - (tail - BitVec.ofNat 64 d.tail).toNat)).noteArrivals ctx q
        ((List.range (tail - BitVec.ofNat 64 d.tail).toNat).map fun i => (d.tail + i) % 2 ^ 64) := by
  have hrun : (c.run == .terminated) = false := beq_eq_false_iff_ne.mpr hr
  have hstop : c.stopped.contains q = false := by simpa using hs
  simp only [State.doorbell, hc, hq, hrun, hh, hstop, hd, ho, Bool.not_true, Bool.false_eq_true, if_false, Nat.not_lt.mpr hn]

/-! ### Apertures (R380) -/

theorem State.aperture_eq {a o : Nat} (ha : a < 64) (ho : o < 2 ^ 30) : s.aperture (2 ^ 30 * a + o) =
    let aper := s.hw.aper.toArray.toList.getD a (0, 0)
    if s.hw.ready = true ∧ aper.1.getLsbD 11 = true then
      (s.ctx? (aper.1.toNat % 2048)).map fun c => (c, aper.2.toNat + o) else none := by
  have hdiv : (2 ^ 30 * a + o) / 2 ^ 30 = a := by omega
  have hmod : (2 ^ 30 * a + o) % 2 ^ 30 = o := by omega
  have hlt : ¬2 ^ 36 ≤ 2 ^ 30 * a + o := by omega
  simp only [State.aperture, hdiv, hmod, hlt, decide_false, Bool.or_false, Bool.not_eq_true']
  cases s.hw.ready with
  | false => simp
  | true => cases h : (s.hw.aper.toArray.toList.getD a (0, 0)).1.getLsbD 11 <;> simp

/-! ### The sectors of an access (R337, R386) -/

/-- Bytes within one sector are one piece. -/
theorem piecesOf_sector {off : Nat} {bs : List Byte} (h0 : bs ≠ []) (hl : off % 32 + bs.length ≤ 32) :
    piecesOf 32 bs.length off bs = [(off, bs)] := by
  cases bs with
  | nil => exact absurd rfl h0
  | cons b bs =>
    have hn : (b :: bs).length ≤ 32 - off % 32 := by omega
    have hrest (k o : Nat) : piecesOf 32 k o [] = [] := by cases k <;> rfl
    rw [List.length_cons, piecesOf]
    simp only [List.isEmpty_cons, Bool.false_eq_true, if_false, List.take_of_length_le hn, List.drop_eq_nil_of_le hn, hrest]

theorem readOf_sector {off n : Nat} (h0 : 0 < n) (hl : off % 32 + n ≤ 32) : readOf off n = .read off [(off, n)] [] := by
  have hp := piecesOf_sector (off := off) (bs := List.replicate n 0) (by simpa using Nat.ne_of_gt h0) (by simpa using hl)
  rw [List.length_replicate] at hp
  rw [readOf, hp, List.map_singleton, List.length_replicate]

section
variable {off place va : Nat} {apx : Bool} {fill : List TlbEntry} {bs : List Byte} {c : Context} {rest : List PortRequest}

/-- Every write of a sector ends one event of the port. -/
theorem State.portStep_write {todo left : List (Nat × List Byte)} {t : State} (h : s.port = .write ((off, bs) :: todo) :: rest)
    (hw : s.writeSector off bs todo = (t, left)) :
    s.portStep = { t with port := if left = [] then rest else .write left :: rest } := by
  simp only [State.portStep, h, hw, List.isEmpty_iff]

/-- Where the aperture is not valid the write is discarded. -/
theorem State.portStep_write_closed {todo : List (Nat × List Byte)} (h : s.port = .write ((off, bs) :: todo) :: rest)
    (ha : s.aperture off = none) : s.portStep = { s with port := if todo = [] then rest else .write todo :: rest } :=
  State.portStep_write h (by rw [State.writeSector, ha])

/-- Where its page takes the write, the bytes stand at their place, and no other byte has changed. -/
theorem State.portStep_write_place {todo : List (Nat × List Byte)} (h : s.port = .write ((off, bs) :: todo) :: rest)
    (hw : s.mem.wf = true) (ha : s.aperture off = some (c, va)) (hp : s.hostPlace c va = some (place, apx, fill)) :
    unchangedOutside s s.portStep [(place, bs.length)] ∧ s.portStep.mem.read place bs.length = bs ∧
      s.portStep.port = if todo = [] then rest else .write todo :: rest := by
  have hs : s.portStep = { (s.fillTlb fill).store none place bs with port := if todo = [] then rest else .write todo :: rest } :=
    State.portStep_write h (by rw [State.writeSector, ha]; simp only [hp])
  have hm : s.portStep.mem = s.mem.write place bs := by rw [hs]; exact State.store_mem _ _ _ _
  refine ⟨fun a hout => ?_, ?_, by rw [hs]⟩
  · rw [hm]
    exact Memory.get_write_of_outside _ _ _ _ hw (hout (place, bs.length) List.mem_cons_self)
  · rw [hm]
    exact Memory.read_write _ _ _ hw

/-- Where its page refuses the write, it is discarded with a record. -/
theorem State.portStep_write_refused (h : s.port = [.write [(off, bs)]]) (ha : s.aperture off = some (c, va))
    (hp : s.hostPlace c va = none) : s.portStep = { s.badHost c va with port := [] } :=
  State.portStep_write (left := []) h (by rw [State.writeSector, ha]; simp only [hp]; rfl)

/-- The last read of a sector ends its request. -/
theorem State.portStep_read {n : Nat} {t : State} (h : s.port = [.read off [(off, n)] []])
    (hr : s.readSector off n [] = (bs, t, [])) :
    s.portStep = { t with port := [], hostReads := t.hostReads ++ [(.hwB off, bs)] } := by
  simp only [State.portStep, h, hr, List.isEmpty_nil, if_true, List.nil_append]

theorem State.readSector_closed {n : Nat} (ha : s.aperture off = none) :
    s.readSector off n [] = (List.replicate n 0xFF, s, []) := by
  simp only [State.readSector, ha]

theorem State.readSector_place {n : Nat} (ha : s.aperture off = some (c, va)) (hp : s.hostPlace c va = some (place, apx, fill))
    (he : (s.errorIn place n apx).isSome = false) :
    s.readSector off n [] = (s.mem.read place n, s.fillTlb fill, []) := by
  have hb : (s.fillTlb fill).hostBytes place n apx = (s.mem.read place n, s.fillTlb fill) := if_neg (ne_true_of_eq_false he)
  simp only [State.readSector, ha, hp, hb]

theorem State.readSector_refused {n : Nat} (ha : s.aperture off = some (c, va)) (hp : s.hostPlace c va = none) :
    s.readSector off n [] = (List.replicate n 0xFF, s.badHost c va, []) := by
  simp only [State.readSector, ha, hp]
  exact congrArg (·, _) (List.append_nil _)

end

/-! ### PTRADE (R404) -/

/-- A pass over the loans that is no matter of the port leaves it. -/
theorem State.foldl_loans_port {f : State → Loan → State} {l : List PortRequest}
    (hf : ∀ (s : State) x, f { s with port := l } x = { f s x with port := l }) (xs : List Loan) :
    xs.foldl f { s with port := l } = { xs.foldl f s with port := l } := by
  induction xs generalizing s with
  | nil => rfl
  | cons x xs ih => rw [List.foldl_cons, hf, ih]; rfl

theorem State.stopTrading_port (l : List PortRequest) : State.stopTrading { s with port := l } = { s.stopTrading with port := l } := by
  unfold State.stopTrading
  dsimp only
  rw [State.foldl_loans_port]
  · rfl
  · intro s x
    cases x.side with
    | borrower => rfl
    | lender => dsimp only; split <;> rfl

section
variable {v : W64} (hu : s.up = true) (hv : v.toNat < 2 ^ 11)
include hu hv

theorem State.writeTrade_eq : s.writeTrade v =
    if v.getLsbD 10 then { s with hw := { s.hw with pTrade := BitVec.ofNat 11 v.toNat } }
    else State.stopTrading { s with hw := { s.hw with pTrade := BitVec.ofNat 11 v.toNat } } := by
  have ht : (BitVec.ofNat 11 v.toNat).getLsbD 10 = v.getLsbD 10 := by
    rw [BitVec.getLsbD, BitVec.toNat_ofNat, Nat.mod_eq_of_lt hv]
    rfl
  rw [← ht]
  exact if_pos (by simp only [hu, hv, decide_true, Bool.and_self])

theorem State.writeTrade_port (l : List PortRequest) :
    State.writeTrade { s with port := l } v = { s.writeTrade v with port := l } := by
  rw [State.writeTrade_eq hu hv]
  refine (State.writeTrade_eq (s := { s with port := l }) hu hv).trans ?_
  cases v.getLsbD 10 with
  | true => rfl
  | false => exact State.stopTrading_port (s := { s with hw := { s.hw with pTrade := BitVec.ofNat 11 v.toNat } }) l

end

/-! ### Events at an idle port -/

section
variable (ha : s.alive = true) (hp : s.power = true) (hi : s.port = [])
include ha hp hi

theorem exec_fwgo {x : FwgoWrite} {t : State}
    (hact : State.fwgo { s with port := [.fwgo x] } x = { t with port := [.fwgo x] }) (ht : t.port = []) :
    exec (.fwgo x) s = .next t :=
  congrArg Host.Outcome.next (State.takes_event (act := fun u => u.fwgo x) ha hp hi rfl hact ht)

theorem exec_registerWrite {off : Nat} {v : W64} {t : State}
    (hact : State.writeRegister { s with port := [.register off v] } off v = { t with port := [.register off v] }) (ht : t.port = []) :
    exec (.registerWrite off v) s = .next t :=
  congrArg Host.Outcome.next (State.takes_event (act := fun u => u.writeRegister off v) ha hp hi rfl hact ht)

theorem exec_hostRead_register (off n : Nat) : exec (.hostRead (.hwA off) n) s = .next { s with
    hostReads := s.hostReads ++ [(.hwA off, toBytesLE 8 (s.readRegister off).toNat)] } :=
  congrArg Host.Outcome.next (State.takes_event (act := fun u => { u with
    hostReads := u.hostReads ++ [(.hwA off, toBytesLE 8 (u.readRegister off).toNat)] }) ha hp hi rfl rfl hi)

theorem exec_hostWrite_sector {off : Nat} {bs : List Byte} (h0 : bs ≠ []) (hl : off % 32 + bs.length ≤ 32) :
    exec (.hostWrite off bs) s = .next (State.portStep { s with port := [.write [(off, bs)]] }) := by
  show Host.Outcome.next (s.takes (writeOf off bs)) = _
  rw [State.takes_idle ha hp hi, writeOf, piecesOf_sector h0 hl]

section
variable {off n : Nat} (h0 : 0 < n) (hl : off % 32 + n ≤ 32) {bs : List Byte} {t : State}
include h0 hl

theorem exec_hostRead_sector (hr : State.readSector { s with port := [.read off [(off, n)] []] } off n [] = (bs, t, [])) :
    exec (.hostRead (.hwB off) n) s = .next { t with port := [], hostReads := t.hostReads ++ [(.hwB off, bs)] } := by
  show Host.Outcome.next (s.takes (readOf off n)) = _
  rw [State.takes_idle ha hp hi, readOf_sector h0 hl, State.portStep_read (s := { s with port := [.read off [(off, n)] []] }) rfl hr]

/-- A read that is no matter of the port is noted, and nothing else is left of it. -/
theorem exec_hostRead_noted (hr : State.readSector { s with port := [.read off [(off, n)] []] } off n [] =
      (bs, { t with port := [.read off [(off, n)] []] }, [])) (ht : t.port = []) :
    exec (.hostRead (.hwB off) n) s = .next { t with hostReads := t.hostReads ++ [(.hwB off, bs)] } :=
  (exec_hostRead_sector ha hp hi h0 hl hr).trans
    (congrArg Host.Outcome.next (State.with_port (s := { t with hostReads := t.hostReads ++ [(.hwB off, bs)] }) ht))

end

end

/-! ### The statement -/

/-- Settles O55: reset and bring-up, the order of the port's requests, and each request's event by what it finds. -/
theorem hostPortEventsComplete : Obligations.HostPortEventsComplete := by
  intro s
  refine ⟨?reset, ?resetFails, ?fwgoFails, ?fwgo, ?register, ?busy, ?doorbell, ?hostWrite, ?hostRead, ?sector,
    fun a o ha ho => State.aperture_eq ha ho, ?trade⟩
  case reset =>
    obtain ⟨hm, hc, hp, hg, hh⟩ := State.resetModule_spec (s := s)
    exact ⟨_, rfl, rfl, hm, hc, hp, hg, hh⟩
  case resetFails =>
    intro f hf
    obtain ⟨hm, hc, -⟩ := State.resetModule_spec (s := s)
    exact ⟨_, if_pos hf, hm, hc, State.failed_status _ _⟩
  case fwgoFails =>
    intro x ha hp hi h3 hx
    exact exec_fwgo (t := s.failed 5 0) ha hp hi (State.fwgo_unreadable (s := { s with port := [.fwgo x] }) h3 hx) hi
  case fwgo =>
    intro v ha hp hi h3 h0 hl hm image header cfg
    have hport : (s.bringUp image).port = [] := by
      rw [← State.with_port hi, State.bringUp_port]
    have hact := State.fwgo_readable (s := { s with port := [.fwgo ⟨v, true⟩] }) (x := ⟨v, true⟩) h3 rfl h0 hl hm
    have hrun := exec_fwgo ha hp hi (hact.trans (State.bringUp_port image _)) hport
    refine ⟨_, hrun, fun hv hc => ?_, fun code detail hv hc => State.bringUp_configBad hv hc,
      fun code hv => State.bringUp_verifyBad hv⟩
    have hg : fieldAt cfg 8 2 ≤ 1000 := grant_le_of_configBad hc
    rw [State.bringUp_verifies hv hc]
    exact ⟨rfl, rfl, rfl, Nat.mod_eq_of_lt (Nat.lt_of_le_of_lt hg (by decide))⟩
  case register =>
    intro ha hp hi hs hr off v t
    have ramp (ho : off = 0x48) : State.writeRegister { s with port := [.register off v] } off v =
        State.newRamp { t with port := [.register off v] } := State.writeRegister_ramp hs hr ho
    exact ⟨fun ho => exec_registerWrite ha hp hi (State.writeRegister_plain hs hr ho) hi,
      fun ho h0 => exec_registerWrite ha hp hi ((ramp ho).trans (if_pos h0)) hi,
      fun ho h0 => exec_registerWrite ha hp hi ((ramp ho).trans (if_neg h0)) hi⟩
  case busy =>
    intro ha hp
    refine ⟨fun off n hi => exec_hostRead_register ha hp hi off n, fun hi => ?_, fun off v rest h ho hs hr => ?_,
      fun off rest h => by simp only [State.portStep, h]⟩
    · have queued (r : PortRequest) : (.next (s.takes r) : Host.Outcome State Fault Refusal) =
          .next { s with port := s.port ++ [r] } := congrArg _ (State.takes_busy ha hp hi)
      exact ⟨fun o v => queued _, fun o n => queued _, fun o n => queued _, fun o d => queued _, fun x => queued _, fun v => queued _,
        fun c o v => queued _⟩
    · simp only [State.portStep, h, State.writeRegister_plain hs hr ho]
  case doorbell =>
    intro ha hp hi c off q d tail hc hq hr hh hs hd ho n u hn
    refine congrArg _ ((State.takes_idle ha hp hi).trans ?_)
    exact congrArg (fun t : State => { t with port := [] }) (State.doorbell_takes (s := u) hc hq hr hh hs hd ho hn)
  case hostWrite =>
    intro ha hp hi hw off data c va h0 hl hap
    have refused (hn : s.hostPlace c va = none) :=
      State.portStep_write_refused (s := { s with port := [.write [(off, data)]] }) rfl hap hn
    have placed {place apx fill} (hpl : s.hostPlace c va = some (place, apx, fill)) :=
      State.portStep_write_place (s := { s with port := [.write [(off, data)]] }) rfl hw hap hpl
    refine ⟨_, exec_hostWrite_sector ha hp hi h0 hl, ?_, fun place apx fill hpl => ?_, refused⟩
    · cases hpl : s.hostPlace c va with
      | none => rw [refused hpl]
      | some x => exact (placed hpl).2.2
    · obtain ⟨hout, hread, -⟩ := placed hpl
      exact ⟨hread, hout⟩
  case hostRead =>
    intro ha hp hi off n h0 hl
    exact ⟨fun c va hap => ⟨fun place apx fill hpl he =>
        exec_hostRead_noted (t := s.fillTlb fill) ha hp hi h0 hl (State.readSector_place hap hpl he) hi,
      fun hpl => exec_hostRead_sector ha hp hi h0 hl (State.readSector_refused hap hpl)⟩,
      fun hap => exec_hostRead_noted (t := s) ha hp hi h0 hl (State.readSector_closed hap) hi⟩
  case sector =>
    intro off bs todo rest h left
    exact ⟨fun c va place apx fill hw ha hp => State.portStep_write_place h hw ha hp, fun ha => State.portStep_write_closed h ha⟩
  case trade =>
    intro hu hi v hv t
    obtain ⟨⟨-, ha⟩, hp⟩ : (s.hw.ready = true ∧ s.alive = true) ∧ s.power = true := by simpa [State.up] using hu
    have hport : (s.writeTrade v).port = [] := by
      rw [← State.with_port hi, State.writeTrade_port hu hv]
    exact congrArg Host.Outcome.next ((State.takes_event (act := fun u => u.writeTrade v) ha hp hi rfl
      (State.writeTrade_port hu hv _) hport).trans (State.writeTrade_eq hu hv))

end Sys2Proof.Machine
end

section
/-!
PROOF. The commands of partitions and contexts and the events that end them (R385, R388 to R391, R393 to R395, R398, R408): each, where
its arguments are legal, as one equation of its meaning.
-/
namespace Sys2Proof.Machine

variable {s t : State} {c : Command} {p : Partition} {x : Context}

/-! ### Commands on what exists (R388, R398) -/

theorem State.onPart_live {k : Partition → State} (hp : t.part? c.part = some p) (hf : p.failed = false) : t.onPart c k = k p := by
  simp only [State.onPart, hp, hf, Bool.false_eq_true, if_false]

theorem State.onCtx_live {k : Context → State} (hx : t.ctx? c.ctx = some x)
    (hf : ∀ p, t.part? (partOf c.ctx) = some p → p.failed = false) : t.onCtx c k = k x := by
  have hn : ((t.part? (partOf c.ctx)).any fun p => p.failed) = false := by
    cases hp : t.part? (partOf c.ctx) with
    | none => rfl
    | some p => exact hf p hp
  simp only [State.onCtx, hx, hn, Bool.false_eq_true, if_false]

/-! ### Partitions (R386, R388 to R390) -/

theorem State.partCreate_creates (hn : c.part ≤ 31) (h1 : c.arg1.toNat < 2 ^ 32) (hm : BitVec.ofNat 32 c.arg1.toNat ≠ 0)
    (hs : shareOk c.arg2.toNat c.arg3.toNat = true) (h4 : 1 ≤ c.arg4.toNat)
    (hr : c.arg4.toNat + (t.parts.map Partition.credits).sum ≤ 20) (h5 : c.arg5.toNat ≤ 7) (hp : t.part? c.part = none)
    (hq : BitVec.ofNat 32 c.arg1.toNat &&& t.takenQuarters 32 = 0)
    (hd : ∀ x ∈ t.parts, shareMeets c.arg2.toNat c.arg3.toNat x = false) :
    t.partCreate c = State.complete { t with
      parts := t.parts ++ [{ id := c.part, quarters := BitVec.ofNat 32 c.arg1.toNat, leaving := 0, prepared := false
                             t2Base := c.arg2.toNat, t2Units := c.arg3.toNat, credits := c.arg4.toNat
                             apxst := BitVec.ofNat 3 c.arg5.toNat, ring := c.arg6, failed := false }]
      counts := t.counts.filter fun x => x.1 != c.part } c .ok := by
  have hdiv : c.arg1.toNat / 2 ^ 32 = 0 := Nat.div_eq_of_lt h1
  have hmeets : (t.parts.any fun p => shareMeets c.arg2.toNat c.arg3.toNat p) = false := by simpa using hd
  refine (if_neg ?_).trans ((if_neg ?_).trans ((if_neg ?_).trans rfl))
  · have h0 : ¬c.arg4.toNat = 0 := by omega
    have h20 : ¬20 < c.arg4.toNat := by omega
    simp only [Nat.not_lt.mpr hn, hdiv, hm, hs, h0, h20, Nat.not_lt.mpr h5]
    decide
  · simp only [hp, hq]
    decide
  · simp only [hmeets, Bool.false_or, decide_eq_true_eq]
    omega

section
variable (hp : t.part? c.part = some p) (hf : p.failed = false)
include hp hf

theorem State.resizePrepare_runs (h1 : c.arg1.toNat < 2 ^ 32) (hm : BitVec.ofNat 32 c.arg1.toNat ≠ 0) (h2 : c.arg2 = 0) :
    t.resizePrepare c = (t.mapPart p.id fun x =>
      { x with leaving := x.quarters &&& ~~~BitVec.ofNat 32 c.arg1.toNat, prepared := false }).runOn c
        (t.clock + 1400 * c.arg3.toNat) :=
  (State.onPart_live hp hf).trans (if_neg (by simp only [Nat.div_eq_of_lt h1, hm, h2]; decide))

theorem State.resizeCommit_commits (h1 : c.arg1.toNat < 2 ^ 32) (hm : BitVec.ofNat 32 c.arg1.toNat ≠ 0) (hr : p.prepared = true)
    (hl : p.quarters &&& ~~~BitVec.ofNat 32 c.arg1.toNat &&& ~~~p.leaving = 0)
    (hq : BitVec.ofNat 32 c.arg1.toNat &&& ~~~p.quarters &&& t.takenQuarters p.id = 0) :
    t.resizeCommit c = (((t.finishAll fun r => partOf r.ownerCtx == p.id).zeroQuarters
      (p.quarters &&& ~~~BitVec.ofNat 32 c.arg1.toNat)).mapPart p.id fun x =>
        { x with quarters := BitVec.ofNat 32 c.arg1.toNat, leaving := 0, prepared := false }).complete c .ok := by
  refine (State.onPart_live hp hf).trans ((if_neg ?_).trans ((if_neg ?_).trans rfl))
  · simp only [Nat.div_eq_of_lt h1, hm]
    decide
  · simp only [hr, hl, hq]
    decide

theorem State.setApx_sets (h1 : c.arg1.toNat ≤ 7) (hg : ∀ g ∈ t.groups, g.ended = true ∨ partOf g.ctx ≠ p.id) :
    t.setApx c = (t.mapPart p.id fun x => { x with apxst := BitVec.ofNat 3 c.arg1.toNat }).complete c .ok := by
  have hidle : (t.groups.any fun g => !g.ended && partOf g.ctx == p.id) = false := by
    rw [List.any_eq_false]
    intro g hg'
    rcases hg g hg' with h | h <;> simp [h]
  exact (State.onPart_live hp hf).trans ((if_neg (Nat.not_lt.mpr h1)).trans (if_neg (ne_true_of_eq_false hidle)))

end

section
variable {n : Nat} {r : Running} {x : Partition} (hr : s.preparing n = some r) (hx : s.part? n = some x)
include hr hx

theorem exec_prepareComplete (hl : s.residentOn x.leaving n = []) : exec (.prepareComplete n) s = .next
    ((s.mapPart n fun p => { p with prepared := true }).finishRunning (fun c => c.op == 2 && c.part == n) .ok) := by
  show execPrepareComplete n s = _
  simp only [execPrepareComplete, hr, hx, hl, List.isEmpty_nil, if_true]

theorem exec_resizeDeadline (hl : s.residentOn x.leaving n ≠ []) (hd : r.deadline ≤ s.clock) : exec (.resizeDeadline n) s = .next
    (((((s.residentOn x.leaving n).map Group.ctx).eraseDups.foldl (fun s c => s.resetCtx c (s.runOf c)) s).mapPart n fun p =>
      { p with prepared := true }).finishRunning (fun c => c.op == 2 && c.part == n) .deadline) := by
  have hne : ((s.residentOn x.leaving n).map Group.ctx).eraseDups.isEmpty = false := by
    cases h : s.residentOn x.leaving n with
    | nil => exact absurd h hl
    | cons g gs => rw [List.map_cons, List.eraseDups_cons]; rfl
  show execResizeDeadline n s = _
  simp only [execResizeDeadline, hr, hx, hne, hd, decide_true, Bool.not_false, Bool.and_self, if_true]

end

/-- Settles O56: each command and event is one equation of its meaning. -/
theorem partitionCommandsComplete : Obligations.PartitionCommandsComplete := by
  intro s t c p mask live runs
  refine ⟨fun hn h1 hm hs h4 hr h5 hp hq hd h => State.command_runs h (State.partCreate_creates hn h1 hm hs h4 hr h5 hp hq hd),
    fun ⟨hp, hf, _⟩ h1 hm h2 h => State.command_runs h (State.resizePrepare_runs hp hf h1 hm h2),
    fun ⟨hp, hf, _⟩ h1 hm hr hl hq h => State.command_runs h (State.resizeCommit_commits hp hf h1 hm hr hl hq),
    fun ⟨hp, hf, _⟩ h => State.command_runs h (State.onPart_live hp hf), ?destroy,
    fun ⟨hp, hf, _⟩ h1 hg h => State.command_runs h (State.setApx_sets hp hf h1 hg),
    fun n r x hr hx => ⟨exec_prepareComplete hr hx, exec_resizeDeadline hr hx⟩⟩
  case destroy =>
    intro hp h
    refine State.command_runs h ?_
    simp only [State.partDestroy, hp]

/-! ### Contexts (R388, R391, R393, R394, R408) -/

theorem State.ctxCreate_creates (hp : t.part? (partOf c.ctx) = some p) (hf : p.failed = false) (hn : c.ctx ≤ 2047)
    (h64 : c.arg1.toNat % 64 = 0) (hl : c.arg1.toNat < 2 ^ 39) (ho : p.owns c.arg1.toNat 128 = true) (hx : t.ctx? c.ctx = none)
    {w : Nat → W64} (hw : (fun i => t.mem.read64 (c.arg1.toNat + 8 * i)) = w) (hd : ctxDescOk w p.id c.part = true) :
    t.ctxCreate c = (State.nextGen { t with ctxs := t.ctxs ++ [Context.ofWords c.ctx w] } c.ctx).complete c .ok := by
  subst hw
  simp only [State.ctxCreate, hp, hf, Bool.false_eq_true, if_false]
  refine (if_neg ?_).trans (if_neg ?_)
  · simp only [Nat.not_lt.mpr hn, h64, Nat.not_le.mpr hl, ho, hd]
    decide
  · simp [hx]

section
variable (hx : t.ctx? c.ctx = some x) (hf : ∀ p, t.part? (partOf c.ctx) = some p → p.failed = false)
include hx hf

section
variable (hr : x.run ≠ .terminated)
include hr

theorem State.ctxDrain_runs (hi : t.idle x.id = false) : t.ctxDrain c = (t.mapCtx x.id fun k => { k with
    run := .draining (c.time + 1400 * (if c.arg1 = 0 then x.deadline else c.arg1.toNat)) }).runOn c
      (c.time + 1400 * (if c.arg1 = 0 then x.deadline else c.arg1.toNat)) :=
  (State.onCtx_live hx hf).trans ((if_neg (by simpa using hr)).trans (if_neg (ne_true_of_eq_false hi)))

theorem State.ctxDrain_idle (hi : t.idle x.id = true) : t.ctxDrain c =
    ((t.saveRequester x).mapCtx x.id fun k => { k with run := .drained true }).complete c .ok :=
  (State.onCtx_live hx hf).trans ((if_neg (by simpa using hr)).trans (if_pos hi))

end

theorem State.ctxResume_saved (hr : x.run = .drained true) : t.ctxResume c =
    (t.mapCtx x.id fun k => { t.reload k with run := .running }).complete c .ok :=
  (State.onCtx_live hx hf).trans (by simp only [hr])

theorem State.ctxResume_reset (hr : x.run = .drained false) : t.ctxResume c =
    (t.mapCtx x.id fun k => { k with run := .running }).complete c .ok :=
  (State.onCtx_live hx hf).trans (by simp only [hr])

theorem State.ctxTlbinv_drops (h2 : c.arg2.toNat ≤ 1) : t.ctxTlbinv c =
    (t.dropTlb x.id (if c.arg2 = 1 then none else some c.arg1.toNat)).complete c .ok :=
  (State.onCtx_live hx hf).trans (if_neg (Nat.not_lt.mpr h2))

/-! ### Debugging (R395) -/

section
variable {u wid : Nat} {g : Group} {w : Warp} (hb : x.debug = true) (h1 : c.arg1.toNat < 2 ^ 16) (h16 : c.arg1.toNat % 16 = 0)
variable (h2 : c.arg2.toNat ≤ 127) (ha : t.debugAgent c = some (.warp u wid))
include hb h1 h16 h2 ha

theorem State.onAgent_warp {k : Context → AgentId → State} : t.onAgent c k = k x (.warp u wid) := by
  refine (State.onCtx_live hx hf).trans ((if_neg ?_).trans (by simp only [ha]))
  have hlow : bitsOf c.arg1.toNat 0 4 = 0 := by simpa [bitsOf] using h16
  simp only [hb, Nat.div_eq_of_lt h1, hlow, Nat.not_lt.mpr h2]
  decide

variable (hg : t.group? u = some g) (hw : g.warp? wid = some w) (hh : w.halted = true) {bs : List Byte}
include hg hw hh

theorem State.debugRead_warp (hs : debugWarp g w c.arg5.toNat = some bs) :
    t.debugRead c = (t.writeBuffer x c.arg4.toNat bs).complete c .ok := by
  refine (State.onAgent_warp hx hf hb h1 h16 h2 ha).trans ?_
  simp only [hg, hw, hh, hs, Option.bind_some, Option.map_some, Bool.not_true, Bool.false_eq_true, if_false]

theorem State.debugWrite_warp {w1 : Warp} (hr : t.partRead x c.arg4.toNat (debugSize c.arg5.toNat) = .ok bs)
    (hs : debugSet w c.arg5.toNat bs = some w1) : t.debugWrite c = (t.mapWarp u wid fun _ => w1).complete c .ok := by
  refine (State.onAgent_warp hx hf hb h1 h16 h2 ha).trans ?_
  simp only [hg, hw, hh, hr, hs, Option.bind_some, Bool.not_true, Bool.false_eq_true, if_false]

end

end

/-! ### The end of a drain (R310, R394) -/

section
variable {d : Nat} (hx : s.ctx? x.id = some x) (hr : x.run = .draining d)
include hx hr

theorem exec_drainComplete (hi : s.idle x.id = true) : exec (.drainComplete x.id) s = .next
    (((s.saveRequester x).mapCtx x.id fun k => { k with run := .drained true }).finishRunning
      (fun k => k.op == 0x11 && k.ctx == x.id) .ok) := by
  show execDrainComplete x.id s = _
  simp only [execDrainComplete, hx, hr, hi, if_true]
  rfl

theorem exec_drainDeadline (hi : s.idle x.id = false) (hd : d ≤ s.clock) : exec (.drainDeadline x.id) s = .next
    ((s.resetCtx x.id (.drained false)).finishRunning (fun k => k.op == 0x11 && k.ctx == x.id) .deadline) := by
  show execDrainDeadline x.id s = _
  simp only [execDrainDeadline, hx, hr, hi, hd, decide_true, Bool.not_false, Bool.and_self, if_true]

end

/-- Settles O57: each command and event is one equation of its meaning. -/
theorem contextCommandsComplete : Obligations.ContextCommandsComplete := by
  intro s t c x runs live drains
  refine ⟨?create, ?drain, ?resume, ?reset, ?destroy, fun ⟨hx, hf, _⟩ h2 h => State.command_runs h (State.ctxTlbinv_drops hx hf h2),
    ?page, ?debug, fun d hx hr => ⟨exec_drainComplete hx hr, exec_drainDeadline hx hr⟩⟩
  case create =>
    intro p hp hf hn h64 hl ho hx w hd h
    exact State.command_runs h (State.ctxCreate_creates hp hf hn h64 hl ho hx rfl hd)
  case drain =>
    rintro ⟨hx, hf, -⟩ hr d
    exact ⟨fun hi h => State.command_runs h (State.ctxDrain_runs hx hf hr hi),
      fun hi h => State.command_runs h (State.ctxDrain_idle hx hf hr hi)⟩
  case resume =>
    rintro ⟨hx, hf, -⟩
    exact ⟨fun hr h => State.command_runs h (State.ctxResume_saved hx hf hr),
      fun hr h => State.command_runs h (State.ctxResume_reset hx hf hr)⟩
  case reset =>
    rintro ⟨hx, hf, hi⟩ h
    refine State.command_runs h ((State.onCtx_live hx hf).trans ?_)
    rw [State.overtakeDrain, hi]
  case destroy =>
    rintro ⟨hx, hf, hi⟩ h
    refine State.command_runs h ((State.onCtx_live hx hf).trans ?_)
    rw [State.overtakeDrain, hi]
  case page =>
    rintro ⟨hx, hf, -⟩ page mine items freed
    exact ⟨fun h => State.command_runs h (State.onCtx_live hx hf), fun h => State.command_runs h (State.onCtx_live hx hf)⟩
  case debug =>
    rintro u wid g w ⟨hx, hf, -⟩ hb h1 h16 h2 ha hg hw
    have agent {k : Context → AgentId → State} : t.onAgent c k = k x (.warp u wid) := State.onAgent_warp hx hf hb h1 h16 h2 ha
    exact ⟨fun h3 h => State.command_runs h ((if_neg (by omega)).trans agent), fun h => State.command_runs h agent,
      fun bs hh hs h => State.command_runs h (State.debugRead_warp hx hf hb h1 h16 h2 ha hg hw hh hs),
      fun bs w1 hh hr hs h => State.command_runs h (State.debugWrite_warp hx hf hb h1 h16 h2 ha hg hw hh hr hs)⟩

end Sys2Proof.Machine
end
